-- ==== Sys2Proof/Word.lean ====
section
/-! DEFINITION. The word types of the part: registers, accumulator rows, lane masks and stream descriptors (03 R78). -/
namespace Sys2Proof

/-- One byte of any memory. -/
abbrev Byte := BitVec 8

/-- A scalar register, CSR or 64-bit field. -/
abbrev Word := BitVec 64

/-- An accumulator row of 512 bytes, byte 0 in bits 7:0 (R78, R113). -/
abbrev Row := BitVec 4096

/-- A lane mask, or one bit for each byte of a row (R78). -/
abbrev Mask := BitVec 512

/-- A stream descriptor or an engine's 64-byte block, byte 0 in bits 7:0 (R128, R194). -/
abbrev Desc := BitVec 512

end Sys2Proof
end

