-- ==== Sys2Proof/Syntax.lean ====
section
/-! DEFINITION. Syntax: the operand forms of every slot (R27, R34-R38, R46, R89, R136) and the ONE inductive `Instr`,
with one constructor for each row of spec/opcode_table.json.  The rows that no opcode names are steps of the part:
their operands say which core, command, message or line the step is about. -/

namespace Sys2Proof

/-- Predicate register and negate bit of a control form (R27, R46). -/
structure Pred where
  reg : BitVec 4
  neg : Bool
  deriving DecidableEq, Repr

/-- Second operand of the S layout: a register, or a literal entry when the literal flag is set (R30, R89). -/
inductive Src where
  | reg (r : BitVec 5)
  | lit (i : BitVec 3)
  deriving DecidableEq, Repr

/-- The S layout (R89): 23:19 sd, 18:14 sa, 13:9 sb or literal, 7:4 predicate, 3 negate, 2:0 modifier. -/
structure SOps where
  sd : BitVec 5
  sa : BitVec 5
  src : Src
  p : Pred
  mod : BitVec 3
  deriving DecidableEq, Repr

/-- Operands of PAND, POR and PXOR (R46, R55). -/
structure PredOps where
  pd : BitVec 4
  pa : BitVec 4
  pb : BitVec 4
  na : Bool
  nb : Bool
  deriving DecidableEq, Repr

/-- Destination, kind and context of TLTEST (R46, R57). -/
structure TlTest where
  pd : BitVec 4
  out : Bool
  c : BitVec 3
  deriving DecidableEq, Repr

/-- The L-slot fields (R34): row, stream, address mode, scalar, offset, lane mask, modifier. -/
structure LOps where
  row : BitVec 11
  stream : BitVec 4
  mode : Bool
  scalar : BitVec 5
  off : BitVec 24
  mask : BitVec 4
  mod : BitVec 7
  deriving DecidableEq, Repr

/-- The vector-slot fields (R35). -/
structure VOps where
  vd : BitVec 11
  va : BitVec 11
  vb : BitVec 11
  vc : BitVec 11
  mask : BitVec 4
  view : BitVec 3
  rnd : BitVec 2
  sat : Bool
  lit : Bool
  deriving DecidableEq, Repr

/-- The M-slot fields (R36): tile, stream A, stream B, K, mode, bits 23:0. -/
structure MOps where
  tile : BitVec 4
  sa : BitVec 4
  sb : BitVec 4
  k : BitVec 16
  mode : BitVec 4
  low : BitVec 24
  deriving DecidableEq, Repr

/-- The E-slot fields (R37): timeline context, start offset, descriptor address register, bits 23:0. -/
structure EOps where
  ctx : BitVec 3
  start : BitVec 24
  sd : BitVec 5
  low : BitVec 24
  deriving DecidableEq, Repr

/-- The X-slot fields (R38): sd, sa, bits 13:0. -/
structure XOps where
  sd : BitVec 5
  sa : BitVec 5
  low : BitVec 14
  deriving DecidableEq, Repr

/-- A freeze request (R74): the bind entry, the cause and detail it records, and whether it waits for the next cut line (R268, R271). -/
structure FreezeReq where
  bind : Nat
  cause : BitVec 8
  detail : BitVec 8
  atCut : Bool
  deriving DecidableEq, Repr

/-- A PGATE request on its way to the cluster's power controller (R234): who asks, for which core, WAKE and FORCE,
and the register, slot, bundle address and issue cycle of its status write. -/
structure GateReq where
  issuer : Nat
  target : Nat
  wake : Bool
  force : Bool
  sd : BitVec 5
  issued : Nat
  deriving DecidableEq, Repr

/-- Where a launch word came from (R305): the host, with the link sequence number to answer, or a core's store. -/
inductive WordSource where
  | host (seq : BitVec 32)
  | core (n : Nat)
  deriving DecidableEq, Repr

/-- A message of the Niulo link from the host (R338): sequence number, TYPE, FLAGS, ARG and payload.  `tagOk` says whether the GCM tag checks (R342); the check itself is outside the model. -/
structure HostMsg where
  seq : BitVec 32
  typ : BitVec 8
  flags : BitVec 8
  arg : Word
  payload : List Byte
  tagOk : Bool
  len : BitVec 16
  deriving DecidableEq, Repr

/-- A monitor: number m of the package, or of one cluster (R352). -/
inductive MonId where
  | pkg (m : Nat)
  | cluster (c m : Nat)
  deriving DecidableEq, Repr

/-- A place that the host, a controller or Vesper writes: a management-space offset (R343), written or (for the log that R243 marks as read)
read by a controller, or a table in Vesper's own space
(R355's chapter, R356, R368, R375, R387, R389). -/
inductive MgmtReg where
  | mgmt (off : Nat)
  | mgmtRead (off : Nat)
  | winBase (core n : Nat)
  | winPeer (core n : Nat)
  | winAllow (core n : Nat)
  | livePeers
  | podGroup (g : Nat)
  | addrGroup (a off : Nat)
  | path (i : Nat)
  | partnerPkg
  | home
  | podTime (cycles : Nat)
  | lineReport
  | hostLink
  | thermalLimits (stack : Nat)
  | stackCurrent (stack : Nat)
  | hostMem (addr : Nat)
  | bitFlip (word bit : Nat)
  | parityError (core group : Nat) (write retryFails : Bool)
  | hbmError (stack addr : Nat) (uncorrectable : Bool)
  deriving DecidableEq, Repr

/-- A fabric cell (R364); FEC is kept apart as `fecOk` of its arrival. -/
structure Cell where
  kind : BitVec 8
  flags : BitVec 8
  src : BitVec 16
  dst : BitVec 16
  seq : BitVec 32
  ack : BitVec 32
  slotNo : BitVec 16
  addr : BitVec 32
  op : BitVec 8
  fmt : BitVec 8
  cmd : BitVec 32
  step : BitVec 16
  egress : Word
  rfseq : BitVec 32
  payload : List Byte
  deriving DecidableEq, Repr

/-- A cell arriving on a port and lane (R365, R380): whether the FEC corrects it. -/
structure CellArrival where
  port : Nat
  lane : Nat
  fecOk : Bool
  cell : Cell
  deriving DecidableEq, Repr

/-- A repair patch (R381). -/
structure Patch where
  kind : BitVec 8
  port : BitVec 8
  line : BitVec 8
  sender : BitVec 8
  relay : BitVec 8
  dest : BitVec 8
  home : BitVec 8
  patchSlot : Word
  version : BitVec 32
  deriving DecidableEq, Repr

/-- A line fault as it is reported to the home's Vesper (R381, R384): who reports, port, line, and whether the line has relocked. -/
structure LineReport where
  sender : Nat
  port : Nat
  line : Nat
  relocked : Bool
  deriving DecidableEq, Repr

/-- What the outside presents with an event that it causes (inventory, Host interface): a link message, a cell, a patch, a line report,
a register named by a controller or by Vesper, a monitor, and numbers: `unit` is the controller, stack, port or package of the event,
`index` its line, region, frequency step or second package, `value` its value. -/
structure Stim where
  msg : HostMsg
  cell : CellArrival
  patch : Patch
  report : LineReport
  reg : MgmtReg
  mon : MonId
  unit : Nat
  index : Nat
  value : Word
  deriving DecidableEq, Repr

/-- The instructions of the slots and the steps of the part, one constructor for each row of spec/opcode_table.json.
The steps (95_what_each_step_holds.md) that the outside causes have no operands: what comes with them stands in `State.stim`.
Constructors without operands come last (Lean numbers those with operands up to 244). -/
inductive Instr where
  | b (p : Pred) (off : BitVec 19)  -- B, R49
  | call (p : Pred) (off : BitVec 19)  -- CALL, R49
  | calli (p : Pred) (sa : BitVec 5)  -- CALLI, R49
  | ret (p : Pred) (sa : BitVec 5)  -- RET, R49
  | loop (sa : BitVec 5) (e : BitVec 13)  -- LOOP, R50
  | loopLit (l : BitVec 3) (e : BitVec 13)  -- LOOP_LITERAL, R50
  | brkl (p : Pred) (n : BitVec 3) (off : BitVec 16)  -- BRKL, R52
  | lidx (p : Pred) (sd : BitVec 5) (d : BitVec 3)  -- LIDX, R53
  | region (kind : BitVec 2) (b nr : BitVec 3)  -- REGION, R63
  | phase (g : BitVec 8) (l : BitVec 3) (w : BitVec 2) (j : BitVec 3)  -- PHASE, R69
  | resync (g : BitVec 8) (w : BitVec 2) (j : BitVec 3)  -- RESYNC, R68
  | trigger (p : Pred)  -- TRIGGER, R60
  | trap (p : Pred) (code : BitVec 8)  -- TRAP, R58
  | sys (p : Pred) (code : BitVec 8)  -- SYS, R59
  | replay (l : BitVec 8) (st d : BitVec 3)  -- REPLAY, R67
  | pand (p : Pred) (o : PredOps)  -- PAND, R55
  | por (p : Pred) (o : PredOps)  -- POR, R55
  | pxor (p : Pred) (o : PredOps)  -- PXOR, R55
  | pget (p : Pred) (sd : BitVec 5) (h : Bool)  -- PGET, R56
  | pset (p : Pred) (sa : BitVec 5) (h : Bool)  -- PSET, R56
  | tltest (p : Pred) (t : TlTest) (r : BitVec 5)  -- TLTEST, R57
  | tltestLit (p : Pred) (t : TlTest) (l : BitVec 3)  -- TLTEST_LITERAL, R57
  | add (o : SOps)  -- ADD, R91
  | sub (o : SOps)  -- SUB, R91
  | mul (o : SOps)  -- MUL, R91
  | mulh (o : SOps)  -- MULH, R91
  | mulhu (o : SOps)  -- MULHU, R91
  | div (o : SOps)  -- DIV, R92
  | divu (o : SOps)  -- DIVU, R92
  | rem (o : SOps)  -- REM, R92
  | remu (o : SOps)  -- REMU, R92
  | and (o : SOps)  -- AND, R91
  | or (o : SOps)  -- OR, R91
  | xor (o : SOps)  -- XOR, R91
  | andn (o : SOps)  -- ANDN, R91
  | shl (o : SOps)  -- SHL, R91
  | shr (o : SOps)  -- SHR, R91
  | sar (o : SOps)  -- SAR, R91
  | rot (o : SOps)  -- ROT, R91
  | min (o : SOps)  -- MIN, R91
  | max (o : SOps)  -- MAX, R91
  | minu (o : SOps)  -- MINU, R91
  | maxu (o : SOps)  -- MAXU, R91
  | cmp (o : SOps)  -- CMP, R93
  | cmpu (o : SOps)  -- CMPU, R93
  | sel (o : SOps)  -- SEL, R94
  | mov (o : SOps)  -- MOV, R94
  | lit (o : SOps)  -- LIT, R94
  | clz (o : SOps)  -- CLZ, R95
  | popc (o : SOps)  -- POPC, R95
  | bfx (o : SOps)  -- BFX, R95
  | bfi (o : SOps)  -- BFI, R95
  | sext (o : SOps)  -- SEXT, R95
  | zext (o : SOps)  -- ZEXT, R95
  | fadd (o : SOps)  -- FADD, R97
  | fsub (o : SOps)  -- FSUB, R97
  | fmul (o : SOps)  -- FMUL, R97
  | ffma (o : SOps)  -- FFMA, R97
  | fmin (o : SOps)  -- FMIN, R97
  | fmax (o : SOps)  -- FMAX, R97
  | fminp (o : SOps)  -- FMINP, R97
  | fmaxp (o : SOps)  -- FMAXP, R97
  | fcmp (o : SOps)  -- FCMP, R98
  | fsgn (o : SOps)  -- FSGN, R99
  | fcvt (o : SOps)  -- FCVT, R100
  | fdiv (o : SOps)  -- FDIV, R97
  | fsqrt (o : SOps)  -- FSQRT, R97
  | sld (o : SOps)  -- SLD, R101
  | slds (o : SOps)  -- SLDS, R101
  | sst (o : SOps)  -- SST, R101
  | gset (g f : BitVec 4) (l : BitVec 3)  -- GSET, R137
  | gsets (g f : BitVec 4) (sa : BitVec 5)  -- GSETS, R137
  | gld (g : BitVec 4) (sa : BitVec 5) (off : BitVec 11)  -- GLD, R138
  | gst (g : BitVec 4) (sa : BitVec 5) (off : BitVec 11)  -- GST, R138
  | gadv (g : BitVec 4) (carry : Bool) (l : BitVec 2) (n : BitVec 16)  -- GADV, R139
  | grst (g : BitVec 4)  -- GRST, R139
  | gpos (g : BitVec 4) (l : BitVec 2) (v : BitVec 16)  -- GPOS, R139
  | gmap (g : BitVec 4) (l : BitVec 2) (b : BitVec 3)  -- GMAP, R139
  | vld (o : LOps)  -- VLD, R150
  | vst (o : LOps)  -- VST, R150
  | vlda (o : LOps)  -- VLDA, R151
  | vsta (o : LOps)  -- VSTA, R151
  | vgth (o : LOps)  -- VGTH, R152
  | vsct (o : LOps)  -- VSCT, R152
  | vldb (o : LOps)  -- VLDB, R150
  | bufset (o : LOps)  -- BUFSET, R153
  | bufq (o : LOps)  -- BUFQ, R153
  | atom (o : LOps)  -- ATOM, R154
  | rlsend (o : LOps)  -- RLSEND, R231
  | rlrecv (o : LOps)  -- RLRECV, R231
  | rlfree (o : LOps)  -- RLFREE, R231
  | vadd (o : VOps)  -- VADD, R159
  | vsub (o : VOps)  -- VSUB, R159
  | vmul (o : VOps)  -- VMUL, R159
  | vfma (o : VOps)  -- VFMA, R159
  | vfms (o : VOps)  -- VFMS, R159
  | vfnma (o : VOps)  -- VFNMA, R159
  | vmin (o : VOps)  -- VMIN, R159
  | vmax (o : VOps)  -- VMAX, R159
  | vminp (o : VOps)  -- VMINP, R159
  | vmaxp (o : VOps)  -- VMAXP, R159
  | vabs (o : VOps)  -- VABS, R159
  | vneg (o : VOps)  -- VNEG, R159
  | vcmp (o : VOps)  -- VCMP, R160
  | vsel (o : VOps)  -- VSEL, R161
  | vand (o : VOps)  -- VAND, R162
  | vor (o : VOps)  -- VOR, R162
  | vxor (o : VOps)  -- VXOR, R162
  | vnot (o : VOps)  -- VNOT, R162
  | vshl (o : VOps)  -- VSHL, R162
  | vshr (o : VOps)  -- VSHR, R162
  | vsar (o : VOps)  -- VSAR, R162
  | vmov (o : VOps)  -- VMOV, R163
  | vfill (o : VOps)  -- VFILL, R163
  | viota (o : VOps)  -- VIOTA, R163
  | vext (o : VOps)  -- VEXT, R163
  | vins (o : VOps)  -- VINS, R163
  | vcvt (o : VOps)  -- VCVT, R164
  | vcvts (o : VOps)  -- VCVTS, R165
  | vqnt (o : VOps)  -- VQNT, R166
  | vfold (o : VOps)  -- VFOLD, R167
  | vsplit (o : VOps)  -- VSPLIT, R167
  | vexp2 (o : VOps)  -- VEXP2, R168
  | vlog2 (o : VOps)  -- VLOG2, R168
  | vrcp (o : VOps)  -- VRCP, R168
  | vrsq (o : VOps)  -- VRSQ, R168
  | vsqrt (o : VOps)  -- VSQRT, R168
  | vtanh (o : VOps)  -- VTANH, R169
  | vsigm (o : VOps)  -- VSIGM, R169
  | vgelu (o : VOps)  -- VGELU, R169
  | vrsum (o : VOps)  -- VRSUM, R170
  | vrmax (o : VOps)  -- VRMAX, R170
  | vrmin (o : VOps)  -- VRMIN, R170
  | vramax (o : VOps)  -- VRAMAX, R170
  | vscan (o : VOps)  -- VSCAN, R171
  | vperm (o : VOps)  -- VPERM, R172
  | vrot (o : VOps)  -- VROT, R172
  | vbcl (o : VOps)  -- VBCL, R172
  | vzip (o : VOps)  -- VZIP, R172
  | vunzp (o : VOps)  -- VUNZP, R172
  | vrng (o : VOps)  -- VRNG, R173
  | kand (o : VOps)  -- KAND, R174
  | kor (o : VOps)  -- KOR, R174
  | kxor (o : VOps)  -- KXOR, R174
  | knot (o : VOps)  -- KNOT, R174
  | kpop (o : VOps)  -- KPOP, R174
  | kset (o : VOps)  -- KSET, R174
  | ksetImm (o : VOps)  -- KSET_IMMEDIATE, R174
  | mma (o : MOps)  -- MMA, R179
  | mzero (o : MOps)  -- MZERO, R190
  | mfold (o : MOps)  -- MFOLD, R190
  | msave (o : MOps)  -- MSAVE, R190
  | mload (o : MOps)  -- MLOAD, R190
  | mpre (o : MOps)  -- MPRE, R187
  | mtrn (o : MOps)  -- MTRN, R190
  | cpyt (o : EOps)  -- CPYT, R200
  | cpyu (o : EOps)  -- CPYU, R204
  | cpym (o : EOps)  -- CPYM, R202
  | cfill (o : EOps)  -- CFILL, R203
  | cseal (o : EOps)  -- CSEAL, R205
  | amo (o : EOps)  -- AMO, R215
  | amof (o : EOps)  -- AMOF, R215
  | rtopk (o : EOps)  -- RTOPK, R213
  | rcap (o : EOps)  -- RCAP, R214
  | rdisp (o : EOps)  -- RDISP, R214
  | tlife (o : EOps)  -- TLIFE, R217
  | tdrop (o : EOps)  -- TDROP, R217
  | fsend (o : EOps)  -- FSEND, R374
  | frdc (o : EOps)  -- FRDC, R377
  | fag (o : EOps)  -- FAG, R378
  | fa2a (o : EOps)  -- FA2A, R378
  | jrnl (o : EOps)  -- JRNL, R392
  | emit (o : EOps)  -- EMIT, R395
  | jtrunc (o : EOps)  -- JTRUNC, R397
  | hflush (o : EOps)  -- HFLUSH, R297
  | hnote (o : EOps)  -- HNOTE, R297
  | xlat (o : XOps)  -- XLAT, R209
  | xvalid (o : XOps)  -- XVALID, R211
  | csrr (o : XOps)  -- CSRR, R82
  | csrw (o : XOps)  -- CSRW, R82
  | csrs (o : XOps)  -- CSRS, R82
  | csrc (o : XOps)  -- CSRC, R82
  | flgr (o : XOps)  -- FLGR, R218
  | flgc (o : XOps)  -- FLGC, R218
  | tcr (o : XOps)  -- TCR, R83
  | pgate (o : XOps)  -- PGATE, R234
  | pgq (o : XOps)  -- PGQ, R235
  | moncap (o : XOps)  -- MONCAP, R219
  | tlrd (o : XOps)  -- TLRD, R208
  | bundleIssue (core : Nat)  -- BUNDLE_ISSUE, R16
  | sealedRegionTimeout (core : Nat)  -- SEALED_REGION_TIMEOUT, R64
  | rendezvousRelease (group : Nat)  -- RENDEZVOUS_RELEASE, R69
  | freeze (req : FreezeReq)  -- FREEZE, R74
  | restart (bind : Nat)  -- RESTART, R75
  | domainStop (bind : Nat)  -- DOMAIN_STOP, R76
  | retryWindowExpiry (core group : Nat)  -- RETRY_WINDOW_EXPIRY, R239
  | scrub (word : Nat)  -- SCRUB, R238
  | mmaOperandClaim (core op step : Nat) (isB : Bool)  -- MMA_OPERAND_CLAIM, R185
  | matrixWriteComplete (core op : Nat)  -- MATRIX_WRITE_COMPLETE, R188
  | msaveRowClaim (core op row : Nat)  -- MSAVE_ROW_CLAIM, R190
  | blockCapture (core cmd : Nat)  -- BLOCK_CAPTURE, R194
  | timedCommandStart (core cmd : Nat)  -- TIMED_COMMAND_START, R193
  | copyBeat (core cmd beat : Nat) (dst : Bool)  -- COPY_BEAT, R200
  | timedCopyEnd (core cmd : Nat)  -- TIMED_COPY_END, R201
  | untimedComplete (op : Nat)  -- UNTIMED_COMPLETE, R206
  | xlatResult (core x : Nat)  -- XLAT_RESULT, R209
  | routingComplete (core cmd : Nat)  -- ROUTING_COMPLETE, R214
  | atomicApply (op : Nat)  -- ATOMIC_APPLY, R216
  | hbmGroup (core cmd item : Nat)  -- HBM_GROUP, R290
  | hbmRefresh (stack pc bank : Nat)  -- HBM_REFRESH, R289
  | rillEntryReady (pair : Nat) (up : Bool)  -- RILL_ENTRY_READY, R231
  | rillSlotFreed (pair : Nat) (up : Bool)  -- RILL_SLOT_FREED, R231
  | powerGateDecision (req : GateReq)  -- POWER_GATE_DECISION, R234
  | gatingComplete (core : Nat)  -- GATING_COMPLETE, R233
  | wakeComplete (core : Nat)  -- WAKE_COMPLETE, R233
  | realignmentComplete (stack : Nat)  -- REALIGNMENT_COMPLETE, R267
  | migrationMove (move : Nat)  -- MIGRATION_MOVE, R284
  | launchWord (q : Nat) (w : Word) (src : WordSource)  -- LAUNCH_WORD, R305
  | queueAgeing (q : Nat)  -- QUEUE_AGEING, R306
  | preemption (bind : Nat)  -- PREEMPTION, R320
  | dispatch (bind : Nat)  -- DISPATCH, R311
  | launchStart (bind : Nat)  -- LAUNCH_START, R311
  | launchComplete (bind : Nat)  -- LAUNCH_COMPLETE, R317
  | resume (bind : Nat)  -- RESUME, R323
  | variantRebind (bind : Nat)  -- VARIANT_REBIND, R325
  | imageLoad (slot addr len : Nat)  -- IMAGE_LOAD, R299
  | watchdogExpiry (ctl : Nat)  -- WATCHDOG_EXPIRY, R349
  | handoverRecordWrite (ctl : Nat)  -- HANDOVER_RECORD_WRITE, R347
  | monitorClear (mon : MonId)  -- MONITOR_CLEAR, R353
  | monitorCapture (mon : MonId)  -- MONITOR_CAPTURE, R353
  | retransmit (dest : Nat)  -- RETRANSMIT, R365
  | collectiveCell (op : Nat)  -- COLLECTIVE_CELL, R377
  | patchAckDeadline (patch : Patch)  -- PATCH_ACK_DEADLINE, R381
  | patchSwitch (patch : Patch)  -- PATCH_SWITCH, R384
  | journalAck (end_ : Nat)  -- JOURNAL_ACK, R394
  | emissionRelease (op : Nat)  -- EMISSION_RELEASE, R396
  | reset (laneTest : Bool)  -- RESET, R240
  | doubledRefresh (stack need : Nat)  -- DOUBLED_REFRESH, R289
  | endTask  -- END, R61
  | writeVisible  -- WRITE_VISIBLE, R18
  | bankAccess  -- BANK_ACCESS, R141
  | meshHop  -- MESH_HOP, R261
  | droopStretch  -- DROOP_STRETCH, R266
  | clockCrossingSlip  -- CLOCK_CROSSING_SLIP, R267
  | frequencyStepDown  -- FREQUENCY_STEP_DOWN, R268
  | frequencyStepUp  -- FREQUENCY_STEP_UP, R271
  | thermalFreeze  -- THERMAL_FREEZE, R271
  | powerFreeze  -- POWER_FREEZE, R271
  | freezeRelease  -- FREEZE_RELEASE, R324
  | hotnessInterval  -- HOTNESS_INTERVAL, R285
  | updateRecord  -- UPDATE_RECORD, R276
  | faultRecord  -- FAULT_RECORD, R281
  | faultRetry  -- FAULT_RETRY, R281
  | faultUnresolvable  -- FAULT_UNRESOLVABLE, R281
  | windowSample  -- WINDOW_SAMPLE, R295
  | bindDecision  -- BIND_DECISION, R307
  | wwrite  -- WWRITE, R339
  | wread  -- WREAD, R339
  | mgmtw  -- MGMTW, R339
  | mgmtr  -- MGMTR, R339
  | memw  -- MEMW, R339
  | memr  -- MEMR, R339
  | inval  -- INVAL, R298
  | resend  -- RESEND, R340
  | sysdone  -- SYSDONE, R351
  | hack  -- HACK, R339
  | keyExchange  -- KEY_EXCHANGE, R342
  | stage  -- STAGE, R349
  | commit  -- COMMIT, R349
  | abort  -- ABORT, R349
  | takeover  -- TAKEOVER, R349
  | heartbeat  -- HEARTBEAT, R349
  | monitorSample  -- MONITOR_SAMPLE, R352
  | rptreq  -- RPTREQ, R354
  | reportWritten  -- REPORT_WRITTEN, R354
  | securityAlarm  -- SECURITY_ALARM, R354
  | registerWrite  -- REGISTER_WRITE, R343
  | cellSend  -- CELL_SEND, R367
  | cellReceive  -- CELL_RECEIVE, R365
  | peerLeft  -- PEER_LEFT, R417
  | lineDrift  -- LINE_DRIFT, R380
  | lineFailure  -- LINE_FAILURE, R380
  | lineRelock  -- LINE_RELOCK, R380
  | repairPatch  -- REPAIR_PATCH, R381
  | patchReceive  -- PATCH_RECEIVE, R381
  | journalRecord  -- JOURNAL_RECORD, R394
  | partnerLost  -- PARTNER_LOST, R398
  | partnerRestore  -- PARTNER_RESTORE, R399
  | replayExtract  -- REPLAY_EXTRACT, R400
  deriving DecidableEq, Repr

end Sys2Proof
end

