-- ==== Sys2Proof/WellFormed.lean ====
section
/-! DEFINITION. Well-formed instructions: the static legality of R29, R41 and of each instruction's own encoding rule.
A slot word that is not well formed is an illegal instruction (0x02).  For the steps of the part, the operands lie in
the ranges that the part has. -/

namespace Sys2Proof

/-- The second operand is a literal (R89). -/
def Src.isLit : Src → Bool
  | .reg _ => false
  | .lit _ => true

/-- Bits 13:9 of the S layout (R89): sb, or zero bits and the literal index. -/
def Src.field : Src → BitVec 5
  | .reg r => r
  | .lit i => 0#2 ++ i

/-- An instruction with no second operand has sb 0 and the literal flag 0 (R89). -/
def SOps.noSrc (o : SOps) : Bool := o.src == .reg 0

/-- The operation codes of R154: 0-14, and W64 only with AND, OR, XOR, SWP and CAS (8-12). -/
def atomCodeOk (code : BitVec 4) (w64 : Bool) : Bool :=
  code.toNat ≤ 14 && (!w64 || (8 ≤ code.toNat && code.toNat ≤ 12))

/-- The address mode's unused field is zero (R148): the scalar in mode 0, the stream in mode 1. -/
def LOps.base (o : LOps) : Bool := if o.mode then o.stream == 0 else o.scalar == 0

/-- The view code of modifier bits 2:0 is one of those allowed (R148). -/
def LOps.viewOk (o : LOps) (views : List Nat) : Bool := views.contains (o.mod.extractLsb' 0 3).toNat

/-- Lane count of a view code (R113). -/
def viewLanes (view : Nat) : Nat :=
  match view with
  | 0 => 64
  | 1 | 2 => 128
  | 3 | 4 | 5 => 256
  | _ => 512

/-- The shared fields of a vector instruction (R157, R158): legal view, rounding and saturation only in the views named,
and with the literal bit the upper bits of vb zero (R30). -/
def VOps.common (o : VOps) (views rnd sat : List Nat) (lit : Bool) : Bool :=
  views.contains o.view.toNat && (o.rnd == 0 || rnd.contains o.view.toNat) &&
    (!o.sat || sat.contains o.view.toNat) && (!o.lit || (lit && o.vb.extractLsb' 3 8 == 0))

/-- The integer views (R158). -/
def VOps.intView (o : VOps) : Bool := o.view == 2 || o.view == 5 || o.view == 6

/-- Unsigned ordering, vc bit 0, only in the I views (R158). -/
def VOps.unsignedOk (o : VOps) : Bool := o.vc == 0 || (o.vc == 1 && o.intView)

/-- The condition codes of VCMP that the view allows (R160). -/
def VOps.condOk (o : VOps) : Bool :=
  o.vc.toNat ≤ 5 || ((o.vc == 6 || o.vc == 7) && !o.intView) || (8 ≤ o.vc.toNat && o.vc.toNat ≤ 11 && o.intView)

/-- A lane index in vc bits 8:0 below the view's lane count (R163, R172). -/
def VOps.laneOk (o : VOps) : Bool := o.vc.toNat < viewLanes o.view.toNat

/-- Source view and part of a conversion (R164). -/
def VOps.cvtOk (o : VOps) : Bool :=
  let src := (o.vc.extractLsb' 0 3).toNat
  let h := (o.vc.extractLsb' 3 3).toNat
  let ld := viewLanes o.view.toNat
  let ls := viewLanes src
  src ≠ 7 && o.vc.extractLsb' 6 5 == 0 && h < Nat.max ld ls / Nat.min ld ls

/-- The part of VFOLD and VSPLIT (R167): below 2 for f32 and below 4 for bf16. -/
def VOps.partOk (o : VOps) : Bool := o.vc.toNat < (if o.view == 1 then 2 else 4)

/-- Mode bits of the M slot (R179): INT, TB, CP and ZI. -/
def MOps.int (o : MOps) : Bool := o.mode.getLsbD 3
def MOps.tb (o : MOps) : Bool := o.mode.getLsbD 2
def MOps.cp (o : MOps) : Bool := o.mode.getLsbD 1
def MOps.zi (o : MOps) : Bool := o.mode.getLsbD 0
/-- Low fields of an MMA (R179): TI, IT and RB. -/
def MOps.ti (o : MOps) : BitVec 4 := o.low.extractLsb' 20 4
def MOps.it (o : MOps) : Bool := o.low.getLsbD 19
def MOps.rb (o : MOps) : Bool := o.low.getLsbD 18

/-- The field rules of an MMA that need no stream (R179, R180). -/
def MOps.mmaOk (o : MOps) : Bool :=
  o.k != 0 && !(o.cp && o.tile.getLsbD 0) && !(o.cp && o.it && o.ti.getLsbD 0) &&
    !(o.zi && o.it) && (o.it || o.ti == 0) && !(o.int && o.cp) &&
    (!o.rb || (o.sb == 0 && !o.tb)) && o.low.extractLsb' 0 18 == 0

/-- The CSR number of R82. -/
def XOps.csr (o : XOps) : Nat := (o.low.extractLsb' 4 10).toNat

/-- The assigned CSR numbers of R80. -/
def csrAssigned (n : Nat) : Bool :=
  n ≤ 0xC || (0x40 ≤ n && n ≤ 0x47) || (0x101 ≤ n && n ≤ 0x1FE) || (0x201 ≤ n && n ≤ 0x2FE) || (0x301 ≤ n && n ≤ 0x3FE)

def XOps.csrOk (o : XOps) : Bool := o.low.extractLsb' 0 4 == 0 && csrAssigned o.csr

/-- A monitor that exists (R352). -/
def monExists : MonId → Bool
  | .pkg m => decide (m < 7)
  | .cluster c m => decide (c < 48) && decide (2 ≤ m) && decide (m < 6)

/-- Well-formed instructions (R41).  DESIGN CHOICE (log 46): the literal base of a PHASE or RESYNC that waits for nothing may be any number (R46).  For a step of the part, the numbers that the part has (R1, R2). -/
def wfInstr (i : Instr) : Bool :=
  match i with
  | .b _ _ => true
  | .call _ _ => true
  | .calli _ _ => true
  | .ret _ _ => true
  | .loop _ _ => true
  | .loopLit _ _ => true
  | .brkl _ n _ => n != 0 && n != 7
  | .lidx _ _ d => d != 6
  | .region kind _ nr => kind != 3 && nr.toNat ≤ 4
  | .phase _ _ _ _ => true
  | .resync _ _ _ => true
  | .trigger _ => true
  | .trap _ _ => true
  | .sys _ _ => true
  | .replay l st d => l != 0 && st != 0 && d != 7
  | .pand _ _ => true
  | .por _ _ => true
  | .pxor _ _ => true
  | .pget _ _ _ => true
  | .pset _ _ _ => true
  | .tltest _ _ _ => true
  | .tltestLit _ _ _ => true
  | .add o => o.mod == 0
  | .sub o => o.mod == 0
  | .mul o => o.mod == 0
  | .mulh o => o.mod == 0
  | .mulhu o => o.mod == 0
  | .div o => o.mod == 0
  | .divu o => o.mod == 0
  | .rem o => o.mod == 0
  | .remu o => o.mod == 0
  | .and o => o.mod == 0
  | .or o => o.mod == 0
  | .xor o => o.mod == 0
  | .andn o => o.mod == 0
  | .shl o => o.mod == 0
  | .shr o => o.mod == 0
  | .sar o => o.mod == 0
  | .rot o => o.mod == 0
  | .min o => o.mod == 0
  | .max o => o.mod == 0
  | .minu o => o.mod == 0
  | .maxu o => o.mod == 0
  | .cmp o => !(o.sd.getLsbD 4) && o.mod.toNat ≤ 5
  | .cmpu o => !(o.sd.getLsbD 4) && o.mod.toNat ≤ 5
  | .sel _ => true
  | .mov o => o.sa == 0 && o.mod == 0
  | .lit o => o.src.isLit && o.sa == 0 && o.mod.toNat ≤ 3
  | .clz o => o.noSrc && o.mod == 0
  | .popc o => o.noSrc && o.mod == 0
  | .bfx o => o.mod.toNat ≤ 1
  | .bfi o => o.mod == 0
  | .sext o => o.noSrc && o.mod.toNat ≤ 2
  | .zext o => o.noSrc && o.mod.toNat ≤ 2
  | .fadd _ => true
  | .fsub _ => true
  | .fmul _ => true
  | .ffma _ => true
  | .fmin o => o.mod.toNat ≤ 1
  | .fmax o => o.mod.toNat ≤ 1
  | .fminp o => o.mod.toNat ≤ 1
  | .fmaxp o => o.mod.toNat ≤ 1
  | .fcmp _ => true
  | .fsgn o => o.mod.toNat ≤ 5
  | .fcvt o => !o.src.isLit && o.src.field.toNat ≤ 11 && !(o.mod.getLsbD 0)
  | .fdiv _ => true
  | .fsqrt o => o.noSrc
  | .sld o => o.mod.toNat ≤ 3
  | .slds o => o.mod.toNat ≤ 3
  | .sst o => o.mod.toNat ≤ 3
  | .gset _ _ _ => true
  | .gsets _ _ _ => true
  | .gld _ _ _ => true
  | .gst _ _ _ => true
  | .gadv _ _ _ _ => true
  | .grst _ => true
  | .gpos _ _ _ => true
  | .gmap _ _ b => b != 6
  | .vld o => o.base && o.viewOk [0, 1, 2, 3, 4, 5, 6] && o.mod.extractLsb' 3 4 == 0
  | .vst o => o.base && o.viewOk [0, 1, 2, 3, 4, 5, 6] && o.mod.extractLsb' 3 4 == 0
  | .vlda o => !o.mode && o.base && o.viewOk [0, 1, 2, 3, 4, 5, 6] && o.mod.extractLsb' 5 2 == 0
  | .vsta o => !o.mode && o.base && o.viewOk [0, 1, 2, 3, 4, 5, 6] && o.mod.extractLsb' 5 2 == 0
  | .vgth o => o.base && o.viewOk [0, 1, 2] && o.mod.extractLsb' 3 4 == 0
  | .vsct o => o.base && o.viewOk [0, 1, 2] && o.mod.extractLsb' 3 4 == 0
  | .vldb o => o.base && o.viewOk [0, 1, 2, 3, 4, 5, 6] && o.mod.extractLsb' 3 4 == 0
  | .bufset o => o.row == 0 && o.stream == 0 && !o.mode && o.scalar == 0 && o.mask == 0 && o.off.extractLsb' 6 18 == 0 && o.mod.toNat ≤ 3
  | .bufq o => o.row == 0 && o.stream == 0 && !o.mode && o.mask == 0 && o.off.extractLsb' 6 18 == 0 && o.mod == 0
  | .atom o => o.base && o.mask == 0 && atomCodeOk (o.mod.extractLsb' 0 4) (o.mod.getLsbD 4) && o.mod.extractLsb' 5 2 == 0
  | .rlsend o => o.stream == 0 && !o.mode && o.scalar == 0 && o.off == 0 && o.mask == 0 && o.mod == 0
  | .rlrecv o => o.stream == 0 && !o.mode && o.scalar == 0 && o.off == 0 && o.mod.toNat ≤ 6
  | .rlfree o => o.row == 0 && o.stream == 0 && !o.mode && o.off == 0 && o.mask == 0 && o.mod.toNat ≤ 1
  | .vadd o => o.common [0, 1, 3, 4, 2, 5, 6] [1, 3, 4] [2, 5, 6] true && o.vc == 0
  | .vsub o => o.common [0, 1, 3, 4, 2, 5, 6] [1, 3, 4] [2, 5, 6] true && o.vc == 0
  | .vmul o => o.common [1, 3, 4, 2, 5, 6] [1, 3, 4] [2, 5, 6] true && o.vc == 0
  | .vfma o => o.common [1, 3, 4, 2, 5, 6] [1, 3, 4] [2, 5, 6] true
  | .vfms o => o.common [1, 3, 4, 2, 5, 6] [1, 3, 4] [2, 5, 6] true
  | .vfnma o => o.common [1, 3, 4, 2, 5, 6] [1, 3, 4] [2, 5, 6] true
  | .vmin o => o.common [0, 1, 3, 4, 2, 5, 6] [] [] true && o.unsignedOk
  | .vmax o => o.common [0, 1, 3, 4, 2, 5, 6] [] [] true && o.unsignedOk
  | .vminp o => o.common [0, 1, 3, 4] [] [] true && o.vc == 0
  | .vmaxp o => o.common [0, 1, 3, 4] [] [] true && o.vc == 0
  | .vabs o => o.common [0, 1, 3, 4, 2, 5, 6] [] [2, 5, 6] false && o.vb == 0 && o.vc == 0
  | .vneg o => o.common [0, 1, 3, 4, 2, 5, 6] [] [2, 5, 6] false && o.vb == 0 && o.vc == 0
  | .vcmp o => o.common [0, 1, 3, 4, 2, 5, 6] [] [] true && o.vd.toNat < 16 && o.condOk
  | .vsel o => o.common [0, 1, 2, 3, 4, 5, 6] [] [] true && o.vc.toNat < 16
  | .vand o => o.common [0, 1, 2, 3, 4, 5, 6] [] [] true && o.vc == 0
  | .vor o => o.common [0, 1, 2, 3, 4, 5, 6] [] [] true && o.vc == 0
  | .vxor o => o.common [0, 1, 2, 3, 4, 5, 6] [] [] true && o.vc == 0
  | .vnot o => o.common [0, 1, 2, 3, 4, 5, 6] [] [] false && o.vb == 0 && o.vc == 0
  | .vshl o => o.common [2, 5, 6] [] [] true && o.vc == 0
  | .vshr o => o.common [2, 5, 6] [] [] true && o.vc == 0
  | .vsar o => o.common [2, 5, 6] [] [] true && o.vc == 0
  | .vmov o => o.common [0, 1, 2, 3, 4, 5, 6] [] [] false && o.vb == 0 && o.vc == 0
  | .vfill o => o.common [0, 1, 2, 3, 4, 5, 6] [] [] true && (if o.lit then o.va == 0 else o.va.toNat < 32 && o.vb == 0) && o.vc == 0
  | .viota o => o.common [1, 3, 4, 2, 5, 6] [1, 3, 4] [2, 5, 6] true && o.va == 0 && (o.lit || o.vb == 0) && o.vc == 0
  | .vext o => o.common [0, 1, 2, 3, 4, 5, 6] [] [] false && o.vd.toNat < 32 && o.mask == 0 && o.vb == 0 && o.laneOk
  | .vins o => o.common [0, 1, 2, 3, 4, 5, 6] [] [] false && o.va.toNat < 32 && o.mask == 0 && o.vb == 0 && o.laneOk
  | .vcvt o => o.common [0, 1, 2, 3, 4, 5, 6] [0, 1, 2, 3, 4, 5, 6] [0, 1, 2, 3, 4, 5, 6] false && o.vb == 0 && o.cvtOk
  | .vcvts o => o.common [1, 2, 3, 4, 5, 6] [] [0, 1, 2, 3, 4, 5, 6] false && o.vb.toNat < 32 && o.cvtOk
  | .vqnt o => o.common [1, 3, 4] [1, 3, 4] [] false && o.mask == 0 && 3 ≤ o.vc.toNat && o.vc.toNat ≤ 19 && (18 ≤ o.vc.toNat || o.vb == 0)
  | .vfold o => o.common [1, 3] [1, 3] [] false && o.vb == 0 && o.partOk
  | .vsplit o => o.common [1, 3] [] [] false && o.vb == 0 && o.partOk
  | .vexp2 o => o.common [1, 3, 4] [] [] false && o.vb == 0 && o.vc == 0
  | .vlog2 o => o.common [1, 3, 4] [] [] false && o.vb == 0 && o.vc == 0
  | .vrcp o => o.common [1, 3, 4] [] [] false && o.vb == 0 && o.vc == 0
  | .vrsq o => o.common [1, 3, 4] [] [] false && o.vb == 0 && o.vc == 0
  | .vsqrt o => o.common [1, 3, 4] [] [] false && o.vb == 0 && o.vc == 0
  | .vtanh o => o.common [1, 3, 4] [] [] false && o.vb == 0 && o.vc == 0
  | .vsigm o => o.common [1, 3, 4] [] [] false && o.vb == 0 && o.vc == 0
  | .vgelu o => o.common [1, 3, 4] [] [] false && o.vb == 0 && o.vc == 0
  | .vrsum o => o.common [0, 1, 3, 4, 2, 5, 6] [1, 3, 4] [2, 5, 6] false && o.vb == 0 && o.vc == 0
  | .vrmax o => o.common [0, 1, 3, 4, 2, 5, 6] [] [] false && o.vb == 0 && o.unsignedOk
  | .vrmin o => o.common [0, 1, 3, 4, 2, 5, 6] [] [] false && o.vb == 0 && o.unsignedOk
  | .vramax o => o.common [1, 3, 4, 2, 5, 6] [] [] false && o.vb == 0 && o.vc == 0
  | .vscan o => o.common [0, 1, 2] [1] [2] false && o.vb == 0 && o.vc.toNat ≤ 1
  | .vperm o => o.common [0, 1, 2, 3, 4, 5, 6] [] [] false && o.vc == 0
  | .vrot o => o.common [0, 1, 2, 3, 4, 5, 6] [] [] false && o.vb == 0 && o.laneOk
  | .vbcl o => o.common [0, 1, 2, 3, 4, 5, 6] [] [] false && o.vb == 0 && o.laneOk
  | .vzip o => o.common [0, 1, 2, 3, 4, 5, 6] [] [] false && o.vc.toNat ≤ 1
  | .vunzp o => o.common [0, 1, 2, 3, 4, 5, 6] [] [] false && o.vc.toNat ≤ 1
  | .vrng o => o.common [1, 3, 4, 2, 5, 6] [] [] false && o.va.toNat < 32 && o.vb == 0 && o.vc == 0
  | .kand o => o.common [0] [] [] false && o.mask == 0 && o.vd.toNat < 16 && o.va.toNat < 16 && o.vb.toNat < 16 && o.vc == 0
  | .kor o => o.common [0] [] [] false && o.mask == 0 && o.vd.toNat < 16 && o.va.toNat < 16 && o.vb.toNat < 16 && o.vc == 0
  | .kxor o => o.common [0] [] [] false && o.mask == 0 && o.vd.toNat < 16 && o.va.toNat < 16 && o.vb.toNat < 16 && o.vc == 0
  | .knot o => o.common [0] [] [] false && o.mask == 0 && o.vd.toNat < 16 && o.va.toNat < 16 && o.vb == 0 && o.vc == 0
  | .kpop o => o.common [0, 1, 2, 3, 4, 5, 6] [] [] false && o.mask == 0 && o.va.toNat < 16 && o.vb == 0 && o.vc == 0
  | .kset o => o.common [0, 1, 2, 3, 4, 5, 6] [] [] false && o.mask == 0 && o.vd.toNat < 16 && o.vb == 0 && o.vc == 0
  | .ksetImm o => o.common [0] [] [] true && o.lit && o.mask == 0 && o.vd.toNat < 16 && o.va == 0 && o.vc == 0
  | .mma o => o.mmaOk
  | .mzero o => o.sa == 0 && o.sb == 0 && o.k == 0 && o.low == 0 && !o.int && !o.tb && !o.zi && (!o.cp || !o.tile.getLsbD 0)
  | .mfold o => o.sa == 0 && o.sb == 0 && o.k == 0 && o.mode == 0 && o.low.extractLsb' 0 19 == 0 && !o.low.getLsbD 20
  | .msave o => o.sb == 0 && o.k == 0 && o.mode == 0
  | .mload o => o.sb == 0 && o.k == 0 && o.mode == 0
  | .mpre o => o.tile == 0 && o.sa == 0 && o.k != 0 && !o.int && !o.cp && !o.zi && o.low == 0
  | .mtrn o => o.sa == 0 && o.sb == 0 && o.k == 0 && !o.int && !o.tb && !o.zi && o.low.extractLsb' 0 20 == 0 && (!o.cp || (!o.tile.getLsbD 0 && !o.low.getLsbD 20))
  | .cpyt o => o.ctx.toNat ≤ 3 && o.low == 0
  | .cpyu o => o.ctx.toNat ≤ 3 && o.low == 0
  | .cpym o => o.ctx.toNat ≤ 3 && o.low.extractLsb' 0 16 == 0
  | .cfill o => o.ctx.toNat ≤ 3 && o.low.toNat ≤ 1
  | .cseal o => o.start == 0 && o.sd == 0 && o.low == 0
  | .amo o => o.ctx == 7 && atomCodeOk (o.low.extractLsb' 20 4) (o.low.getLsbD 19) && o.low.extractLsb' 0 18 == 0
  | .amof o => o.ctx == 7 && atomCodeOk (o.low.extractLsb' 20 4) (o.low.getLsbD 19) && o.low.extractLsb' 0 18 == 0
  | .rtopk o => o.ctx == 4 && o.low.toNat ≤ 1
  | .rcap o => o.ctx == 4 && o.low == 0
  | .rdisp o => o.ctx == 4 && o.low == 0
  | .tlife o => o.ctx == 7 && o.low == 0
  | .tdrop o => o.ctx == 7 && o.low == 0
  | .fsend o => o.ctx == 5 && o.low == 0
  | .frdc o => o.ctx == 5 && o.low.extractLsb' 0 16 == 0 && (o.low.extractLsb' 16 8).toNat < 64
  | .fag o => o.ctx == 5 && o.low.extractLsb' 0 16 == 0 && (o.low.extractLsb' 16 8).toNat < 64
  | .fa2a o => o.ctx == 5 && o.low.extractLsb' 0 16 == 0 && (o.low.extractLsb' 16 8).toNat < 64
  | .jrnl o => o.ctx == 6 && o.low == 0
  | .emit o => o.ctx == 6 && o.low == 0
  | .jtrunc o => o.ctx == 6 && o.low == 0
  | .hflush o => o.ctx == 7 && o.low == 0
  | .hnote o => o.ctx == 7 && o.low == 0
  | .xlat o => o.sd.toNat < 8 && o.low.extractLsb' 0 12 == 0 && o.low.extractLsb' 12 2 != 0
  | .xvalid o => o.sd.toNat < 16 && o.sa.toNat < 8 && o.low.toNat ≤ 1
  | .csrr o => o.sa == 0 && o.csrOk
  | .csrw o => o.sd == 0 && o.csrOk
  | .csrs o => o.sd == 0 && o.csrOk
  | .csrc o => o.sd == 0 && o.csrOk
  | .flgr o => o.sa == 0 && o.low.extractLsb' 0 5 == 0
  | .flgc o => o.sa == 0 && o.low.extractLsb' 0 5 == 0
  | .tcr o => o.sa == 0 && o.low.extractLsb' 0 12 == 0 && o.low.extractLsb' 12 2 != 3
  | .pgate o => o.low.toNat ≤ 2
  | .pgq o => o.low == 0
  | .moncap o => o.sd == 0 && o.sa == 0 && o.low.extractLsb' 0 12 == 0 && (o.low.extractLsb' 12 2).toNat ≤ 1
  | .tlrd o => o.low.extractLsb' 0 11 == 0
  | .bundleIssue core => core < 768
  | .sealedRegionTimeout core => core < 768
  | .rendezvousRelease group => group < 256
  | .freeze req => req.bind < 64
  | .restart bind => bind < 64
  | .domainStop bind => bind < 64
  | .retryWindowExpiry core group => core < 768 && group < 34
  | .scrub word => word < 0x20000000 && word / 2 ^ 19 % 256 < 192
  | .mmaOperandClaim core _ _ _ => core < 768
  | .matrixWriteComplete core _ => core < 768
  | .msaveRowClaim core _ row => core < 768 && row < 128
  | .blockCapture core _ => core < 768
  | .timedCommandStart core _ => core < 768
  | .copyBeat core _ _ _ => core < 768
  | .timedCopyEnd core _ => core < 768
  | .untimedComplete _ => true
  | .xlatResult core x => core < 768 && x < 8
  | .routingComplete core _ => core < 768
  | .atomicApply _ => true
  | .hbmGroup core _ _ => core < 768
  | .hbmRefresh stack pc bank => stack < 8 && pc < 64 && bank < 16
  | .rillEntryReady pair _ => pair < 384
  | .rillSlotFreed pair _ => pair < 384
  | .powerGateDecision req => req.issuer < 768 && req.target < 1024
  | .gatingComplete core => core < 768
  | .wakeComplete core => core < 768
  | .realignmentComplete stack => stack < 2
  | .migrationMove _ => true
  | .launchWord q _ _ => q < 64
  | .queueAgeing q => q < 64
  | .preemption bind => bind < 64
  | .dispatch bind => bind < 64
  | .launchStart bind => bind < 64
  | .launchComplete bind => bind < 64
  | .resume bind => bind < 64
  | .variantRebind bind => bind < 64
  | .imageLoad slot _ _ => slot < 256
  | .watchdogExpiry ctl => ctl < 4
  | .handoverRecordWrite ctl => ctl < 4
  | .monitorClear mon => monExists mon
  | .monitorCapture mon => monExists mon
  | .retransmit dest => dest < 4096
  | .collectiveCell _ => true
  | .patchAckDeadline _ => true
  | .patchSwitch _ => true
  | .journalAck _ => true
  | .emissionRelease _ => true
  | .reset _ => true
  | .doubledRefresh stack need => stack < 8 && need < 3
  | .endTask => true
  | .writeVisible => true
  | .bankAccess => true
  | .meshHop => true
  | .droopStretch => true
  | .clockCrossingSlip => true
  | .frequencyStepDown => true
  | .frequencyStepUp => true
  | .thermalFreeze => true
  | .powerFreeze => true
  | .freezeRelease => true
  | .hotnessInterval => true
  | .updateRecord => true
  | .faultRecord => true
  | .faultRetry => true
  | .faultUnresolvable => true
  | .windowSample => true
  | .bindDecision => true
  | .wwrite => true
  | .wread => true
  | .mgmtw => true
  | .mgmtr => true
  | .memw => true
  | .memr => true
  | .inval => true
  | .resend => true
  | .sysdone => true
  | .hack => true
  | .keyExchange => true
  | .stage => true
  | .commit => true
  | .abort => true
  | .takeover => true
  | .heartbeat => true
  | .monitorSample => true
  | .rptreq => true
  | .reportWritten => true
  | .securityAlarm => true
  | .registerWrite => true
  | .cellSend => true
  | .cellReceive => true
  | .peerLeft => true
  | .lineDrift => true
  | .lineFailure => true
  | .lineRelock => true
  | .repairPatch => true
  | .patchReceive => true
  | .journalRecord => true
  | .partnerLost => true
  | .partnerRestore => true
  | .replayExtract => true

/-- An instruction that R41 allows. -/
def WellFormed (i : Instr) : Prop := wfInstr i = true

end Sys2Proof
end

