-- ==== Sys2Proof/Decode.lean ====
section
/-! DEFINITION. Decoding of slot words and bundles (R21-R42, R46), and after it the encoder, from the same encoding
tables.  A word is legal in its slot when its opcode is assigned there, every reserved bit is zero and its fields hold
no forbidden value (R41); everything else is rejected by name. -/

namespace Sys2Proof

/-! Encoding -/

/-- A control form (R46): opcode 31:24, predicate 23:20, negate 19, low bits 18:0. -/
def encC (op : BitVec 8) (p : Pred) (low : BitVec 19) : BitVec 32 := op ++ p.reg ++ BitVec.ofBool p.neg ++ low

/-- The S layout (R89). -/
def encS (op : BitVec 8) (o : SOps) : BitVec 32 :=
  op ++ o.sd ++ o.sa ++ o.src.field ++ BitVec.ofBool o.src.isLit ++ o.p.reg ++ BitVec.ofBool o.p.neg ++ o.mod

/-- A 64-bit slot, low word first (R6, R22). -/
def words64 (w : BitVec 64) : List (BitVec 32) := [w.extractLsb' 0 32, w.extractLsb' 32 32]

/-- The L slot (R34). -/
def encLBits (op : BitVec 8) (o : LOps) : BitVec 64 :=
  op ++ o.row ++ o.stream ++ BitVec.ofBool o.mode ++ o.scalar ++ o.off ++ o.mask ++ o.mod

/-- The vector slots (R35); bit 0 is reserved. -/
def encVBits (op : BitVec 8) (o : VOps) : BitVec 64 :=
  op ++ o.vd ++ o.va ++ o.vb ++ o.vc ++ o.mask ++ o.view ++ o.rnd ++ BitVec.ofBool o.sat ++ BitVec.ofBool o.lit ++ 0#1

/-- The M slot (R36). -/
def encMBits (op : BitVec 8) (o : MOps) : BitVec 64 := op ++ o.tile ++ o.sa ++ o.sb ++ o.k ++ o.mode ++ o.low

/-- The E slot (R37). -/
def encEBits (op : BitVec 8) (o : EOps) : BitVec 64 := op ++ o.ctx ++ o.start ++ o.sd ++ o.low

/-- The X slot (R38). -/
def encX (op : BitVec 8) (o : XOps) : BitVec 32 := op ++ o.sd ++ o.sa ++ o.low

def encL (op : BitVec 8) (o : LOps) : List (BitVec 32) := words64 (encLBits op o)
def encV (op : BitVec 8) (o : VOps) : List (BitVec 32) := words64 (encVBits op o)
def encM (op : BitVec 8) (o : MOps) : List (BitVec 32) := words64 (encMBits op o)
def encE (op : BitVec 8) (o : EOps) : List (BitVec 32) := words64 (encEBits op o)

/-- Bits 18:0 of PAND, POR and PXOR (R46). -/
def predBits (o : PredOps) : BitVec 19 := o.pd ++ o.pa ++ o.pb ++ BitVec.ofBool o.na ++ BitVec.ofBool o.nb ++ 0#5

/-- The words of an instruction: one for the C, S, A and X slots, two for the others, low word first (R22).  A step of
the part has none. -/
def encode (i : Instr) : List (BitVec 32) :=
  match i with
  | .b p off => [encC 0x01 p (off)]
  | .call p off => [encC 0x02 p (off)]
  | .calli p sa => [encC 0x03 p (sa ++ 0#14)]
  | .ret p sa => [encC 0x04 p (sa ++ 0#14)]
  | .loop sa e => [encC 0x05 ⟨0, false⟩ (0#1 ++ sa ++ e)]
  | .loopLit l e => [encC 0x05 ⟨0, false⟩ (1#1 ++ l ++ 0#2 ++ e)]
  | .brkl p n off => [encC 0x06 p (n ++ off)]
  | .lidx p sd d => [encC 0x07 p (sd ++ d ++ 0#11)]
  | .region kind b nr => [encC 0x08 ⟨0, false⟩ (kind ++ b ++ nr ++ 0#11)]
  | .phase g l w j => [encC 0x09 ⟨0, false⟩ (g ++ l ++ w ++ j ++ 0#3)]
  | .resync g w j => [encC 0x0A ⟨0, false⟩ (g ++ 0#3 ++ w ++ j ++ 0#3)]
  | .trigger p => [encC 0x0B p (0#19)]
  | .trap p code => [encC 0x0D p (code ++ 0#11)]
  | .sys p code => [encC 0x0E p (code ++ 0#11)]
  | .replay l st d => [encC 0x0F ⟨0, false⟩ (l ++ st ++ d ++ 0#5)]
  | .pand p o => [encC 0x10 p (predBits o)]
  | .por p o => [encC 0x11 p (predBits o)]
  | .pxor p o => [encC 0x12 p (predBits o)]
  | .pget p sd h => [encC 0x13 p (sd ++ BitVec.ofBool h ++ 0#13)]
  | .pset p sa h => [encC 0x14 p (sa ++ BitVec.ofBool h ++ 0#13)]
  | .tltest p t r => [encC 0x15 p (t.pd ++ BitVec.ofBool t.out ++ t.c ++ 0#1 ++ r ++ 0#5)]
  | .tltestLit p t l => [encC 0x15 p (t.pd ++ BitVec.ofBool t.out ++ t.c ++ 1#1 ++ l ++ 0#7)]
  | .add o => [encS 0x40 o]
  | .sub o => [encS 0x41 o]
  | .mul o => [encS 0x42 o]
  | .mulh o => [encS 0x43 o]
  | .mulhu o => [encS 0x44 o]
  | .div o => [encS 0x45 o]
  | .divu o => [encS 0x46 o]
  | .rem o => [encS 0x47 o]
  | .remu o => [encS 0x48 o]
  | .and o => [encS 0x49 o]
  | .or o => [encS 0x4A o]
  | .xor o => [encS 0x4B o]
  | .andn o => [encS 0x4C o]
  | .shl o => [encS 0x4D o]
  | .shr o => [encS 0x4E o]
  | .sar o => [encS 0x4F o]
  | .rot o => [encS 0x50 o]
  | .min o => [encS 0x51 o]
  | .max o => [encS 0x52 o]
  | .minu o => [encS 0x53 o]
  | .maxu o => [encS 0x54 o]
  | .cmp o => [encS 0x55 o]
  | .cmpu o => [encS 0x56 o]
  | .sel o => [encS 0x57 o]
  | .mov o => [encS 0x58 o]
  | .lit o => [encS 0x59 o]
  | .clz o => [encS 0x5A o]
  | .popc o => [encS 0x5B o]
  | .bfx o => [encS 0x5C o]
  | .bfi o => [encS 0x5D o]
  | .sext o => [encS 0x5E o]
  | .zext o => [encS 0x5F o]
  | .fadd o => [encS 0x60 o]
  | .fsub o => [encS 0x61 o]
  | .fmul o => [encS 0x62 o]
  | .ffma o => [encS 0x63 o]
  | .fmin o => [encS 0x64 o]
  | .fmax o => [encS 0x65 o]
  | .fminp o => [encS 0x66 o]
  | .fmaxp o => [encS 0x67 o]
  | .fcmp o => [encS 0x68 o]
  | .fsgn o => [encS 0x69 o]
  | .fcvt o => [encS 0x6A o]
  | .fdiv o => [encS 0x6B o]
  | .fsqrt o => [encS 0x6C o]
  | .sld o => [encS 0xA0 o]
  | .slds o => [encS 0xA1 o]
  | .sst o => [encS 0xA2 o]
  | .gset g f l => [(0x01#8 ++ (g ++ f ++ 0#13 ++ l) : BitVec 32)]
  | .gsets g f sa => [(0x02#8 ++ (g ++ f ++ 0#11 ++ sa) : BitVec 32)]
  | .gld g sa off => [(0x03#8 ++ (g ++ 0#4 ++ sa ++ off) : BitVec 32)]
  | .gst g sa off => [(0x04#8 ++ (g ++ 0#4 ++ sa ++ off) : BitVec 32)]
  | .gadv g carry l n => [(0x05#8 ++ (g ++ 0#1 ++ BitVec.ofBool carry ++ l ++ n) : BitVec 32)]
  | .grst g => [(0x06#8 ++ (g ++ 0#20) : BitVec 32)]
  | .gpos g l v => [(0x07#8 ++ (g ++ 0#2 ++ l ++ v) : BitVec 32)]
  | .gmap g l b => [(0x08#8 ++ (g ++ 0#2 ++ l ++ 0#13 ++ b) : BitVec 32)]
  | .vld o => encL 0x01 o
  | .vst o => encL 0x02 o
  | .vlda o => encL 0x03 o
  | .vsta o => encL 0x04 o
  | .vgth o => encL 0x05 o
  | .vsct o => encL 0x06 o
  | .vldb o => encL 0x07 o
  | .bufset o => encL 0x08 o
  | .bufq o => encL 0x09 o
  | .atom o => encL 0x10 o
  | .rlsend o => encL 0x20 o
  | .rlrecv o => encL 0x21 o
  | .rlfree o => encL 0x22 o
  | .vadd o => encV 0x01 o
  | .vsub o => encV 0x02 o
  | .vmul o => encV 0x03 o
  | .vfma o => encV 0x04 o
  | .vfms o => encV 0x05 o
  | .vfnma o => encV 0x06 o
  | .vmin o => encV 0x07 o
  | .vmax o => encV 0x08 o
  | .vminp o => encV 0x09 o
  | .vmaxp o => encV 0x0A o
  | .vabs o => encV 0x0B o
  | .vneg o => encV 0x0C o
  | .vcmp o => encV 0x0D o
  | .vsel o => encV 0x0E o
  | .vand o => encV 0x10 o
  | .vor o => encV 0x11 o
  | .vxor o => encV 0x12 o
  | .vnot o => encV 0x13 o
  | .vshl o => encV 0x14 o
  | .vshr o => encV 0x15 o
  | .vsar o => encV 0x16 o
  | .vmov o => encV 0x18 o
  | .vfill o => encV 0x19 o
  | .viota o => encV 0x1A o
  | .vext o => encV 0x1B o
  | .vins o => encV 0x1C o
  | .vcvt o => encV 0x20 o
  | .vcvts o => encV 0x21 o
  | .vqnt o => encV 0x22 o
  | .vfold o => encV 0x24 o
  | .vsplit o => encV 0x25 o
  | .vexp2 o => encV 0x28 o
  | .vlog2 o => encV 0x29 o
  | .vrcp o => encV 0x2A o
  | .vrsq o => encV 0x2B o
  | .vsqrt o => encV 0x2C o
  | .vtanh o => encV 0x2D o
  | .vsigm o => encV 0x2E o
  | .vgelu o => encV 0x2F o
  | .vrsum o => encV 0x30 o
  | .vrmax o => encV 0x31 o
  | .vrmin o => encV 0x32 o
  | .vramax o => encV 0x33 o
  | .vscan o => encV 0x34 o
  | .vperm o => encV 0x38 o
  | .vrot o => encV 0x39 o
  | .vbcl o => encV 0x3A o
  | .vzip o => encV 0x3B o
  | .vunzp o => encV 0x3C o
  | .vrng o => encV 0x40 o
  | .kand o => encV 0x48 o
  | .kor o => encV 0x49 o
  | .kxor o => encV 0x4A o
  | .knot o => encV 0x4B o
  | .kpop o => encV 0x4C o
  | .kset o => encV 0x4D o
  | .ksetImm o => encV 0x4D o
  | .mma o => encM 0x01 o
  | .mzero o => encM 0x02 o
  | .mfold o => encM 0x03 o
  | .msave o => encM 0x04 o
  | .mload o => encM 0x05 o
  | .mpre o => encM 0x06 o
  | .mtrn o => encM 0x07 o
  | .cpyt o => encE 0x01 o
  | .cpyu o => encE 0x02 o
  | .cpym o => encE 0x03 o
  | .cfill o => encE 0x04 o
  | .cseal o => encE 0x05 o
  | .amo o => encE 0x08 o
  | .amof o => encE 0x09 o
  | .rtopk o => encE 0x10 o
  | .rcap o => encE 0x11 o
  | .rdisp o => encE 0x12 o
  | .tlife o => encE 0x18 o
  | .tdrop o => encE 0x19 o
  | .fsend o => encE 0x20 o
  | .frdc o => encE 0x21 o
  | .fag o => encE 0x22 o
  | .fa2a o => encE 0x23 o
  | .jrnl o => encE 0x28 o
  | .emit o => encE 0x29 o
  | .jtrunc o => encE 0x2A o
  | .hflush o => encE 0x30 o
  | .hnote o => encE 0x31 o
  | .xlat o => [encX 0x01 o]
  | .xvalid o => [encX 0x02 o]
  | .csrr o => [encX 0x03 o]
  | .csrw o => [encX 0x04 o]
  | .csrs o => [encX 0x05 o]
  | .csrc o => [encX 0x06 o]
  | .flgr o => [encX 0x07 o]
  | .flgc o => [encX 0x08 o]
  | .tcr o => [encX 0x09 o]
  | .pgate o => [encX 0x0A o]
  | .pgq o => [encX 0x0B o]
  | .moncap o => [encX 0x0C o]
  | .tlrd o => [encX 0x0D o]
  | .bundleIssue _ => []
  | .sealedRegionTimeout _ => []
  | .rendezvousRelease _ => []
  | .freeze _ => []
  | .restart _ => []
  | .domainStop _ => []
  | .retryWindowExpiry _ _ => []
  | .scrub _ => []
  | .mmaOperandClaim _ _ _ _ => []
  | .matrixWriteComplete _ _ => []
  | .msaveRowClaim _ _ _ => []
  | .blockCapture _ _ => []
  | .timedCommandStart _ _ => []
  | .copyBeat _ _ _ _ => []
  | .timedCopyEnd _ _ => []
  | .untimedComplete _ => []
  | .xlatResult _ _ => []
  | .routingComplete _ _ => []
  | .atomicApply _ => []
  | .hbmGroup _ _ _ => []
  | .hbmRefresh _ _ _ => []
  | .rillEntryReady _ _ => []
  | .rillSlotFreed _ _ => []
  | .powerGateDecision _ => []
  | .gatingComplete _ => []
  | .wakeComplete _ => []
  | .realignmentComplete _ => []
  | .migrationMove _ => []
  | .launchWord _ _ _ => []
  | .queueAgeing _ => []
  | .preemption _ => []
  | .dispatch _ => []
  | .launchStart _ => []
  | .launchComplete _ => []
  | .resume _ => []
  | .variantRebind _ => []
  | .imageLoad _ _ _ => []
  | .watchdogExpiry _ => []
  | .handoverRecordWrite _ => []
  | .monitorClear _ => []
  | .monitorCapture _ => []
  | .retransmit _ => []
  | .collectiveCell _ => []
  | .patchAckDeadline _ => []
  | .patchSwitch _ => []
  | .journalAck _ => []
  | .emissionRelease _ => []
  | .reset _ => []
  | .doubledRefresh _ _ => []
  | .endTask => [encC 0x0C ⟨0, false⟩ (0#19)]
  | .writeVisible => []
  | .bankAccess => []
  | .meshHop => []
  | .droopStretch => []
  | .clockCrossingSlip => []
  | .frequencyStepDown => []
  | .frequencyStepUp => []
  | .thermalFreeze => []
  | .powerFreeze => []
  | .freezeRelease => []
  | .hotnessInterval => []
  | .updateRecord => []
  | .faultRecord => []
  | .faultRetry => []
  | .faultUnresolvable => []
  | .windowSample => []
  | .bindDecision => []
  | .wwrite => []
  | .wread => []
  | .mgmtw => []
  | .mgmtr => []
  | .memw => []
  | .memr => []
  | .inval => []
  | .resend => []
  | .sysdone => []
  | .hack => []
  | .keyExchange => []
  | .stage => []
  | .commit => []
  | .abort => []
  | .takeover => []
  | .heartbeat => []
  | .monitorSample => []
  | .rptreq => []
  | .reportWritten => []
  | .securityAlarm => []
  | .registerWrite => []
  | .cellSend => []
  | .cellReceive => []
  | .peerLeft => []
  | .lineDrift => []
  | .lineFailure => []
  | .lineRelock => []
  | .repairPatch => []
  | .patchReceive => []
  | .journalRecord => []
  | .partnerLost => []
  | .partnerRestore => []
  | .replayExtract => []

/-! Fields of a slot word -/

def predOf (w : BitVec 32) : Pred := ⟨w.extractLsb' 20 4, w.getLsbD 19⟩

def sOpsOf (w : BitVec 32) : SOps :=
  { sd := w.extractLsb' 19 5, sa := w.extractLsb' 14 5,
    src := if w.getLsbD 8 then .lit (w.extractLsb' 9 3) else .reg (w.extractLsb' 9 5),
    p := ⟨w.extractLsb' 4 4, w.getLsbD 3⟩, mod := w.extractLsb' 0 3 }

def lOpsOf (w : BitVec 64) : LOps :=
  { row := w.extractLsb' 45 11, stream := w.extractLsb' 41 4, mode := w.getLsbD 40, scalar := w.extractLsb' 35 5,
    off := w.extractLsb' 11 24, mask := w.extractLsb' 7 4, mod := w.extractLsb' 0 7 }

def vOpsOf (w : BitVec 64) : VOps :=
  { vd := w.extractLsb' 45 11, va := w.extractLsb' 34 11, vb := w.extractLsb' 23 11, vc := w.extractLsb' 12 11,
    mask := w.extractLsb' 8 4, view := w.extractLsb' 5 3, rnd := w.extractLsb' 3 2, sat := w.getLsbD 2, lit := w.getLsbD 1 }

def mOpsOf (w : BitVec 64) : MOps :=
  { tile := w.extractLsb' 52 4, sa := w.extractLsb' 48 4, sb := w.extractLsb' 44 4, k := w.extractLsb' 28 16,
    mode := w.extractLsb' 24 4, low := w.extractLsb' 0 24 }

def eOpsOf (w : BitVec 64) : EOps :=
  { ctx := w.extractLsb' 53 3, start := w.extractLsb' 29 24, sd := w.extractLsb' 24 5, low := w.extractLsb' 0 24 }

def xOpsOf (w : BitVec 32) : XOps := { sd := w.extractLsb' 19 5, sa := w.extractLsb' 14 5, low := w.extractLsb' 0 14 }

def predOpsOf (w : BitVec 32) : PredOps :=
  { pd := w.extractLsb' 15 4, pa := w.extractLsb' 11 4, pb := w.extractLsb' 7 4, na := w.getLsbD 6, nb := w.getLsbD 5 }

def tlTestOf (w : BitVec 32) : TlTest := { pd := w.extractLsb' 15 4, out := w.getLsbD 14, c := w.extractLsb' 11 3 }

/-! Opcode maps (R31-R38): the instruction a word names by its opcode, before the legality check -/

/-- The scalar ALU and FP instructions, 0x40-0x6C, of the S and C slots (R28, R32). -/
def nameAlu (w : BitVec 32) : Option Instr :=
  let o := sOpsOf w
  match (w.extractLsb' 24 8).toNat with
  | 0x40 => some (.add o)
  | 0x41 => some (.sub o)
  | 0x42 => some (.mul o)
  | 0x43 => some (.mulh o)
  | 0x44 => some (.mulhu o)
  | 0x45 => some (.div o)
  | 0x46 => some (.divu o)
  | 0x47 => some (.rem o)
  | 0x48 => some (.remu o)
  | 0x49 => some (.and o)
  | 0x4A => some (.or o)
  | 0x4B => some (.xor o)
  | 0x4C => some (.andn o)
  | 0x4D => some (.shl o)
  | 0x4E => some (.shr o)
  | 0x4F => some (.sar o)
  | 0x50 => some (.rot o)
  | 0x51 => some (.min o)
  | 0x52 => some (.max o)
  | 0x53 => some (.minu o)
  | 0x54 => some (.maxu o)
  | 0x55 => some (.cmp o)
  | 0x56 => some (.cmpu o)
  | 0x57 => some (.sel o)
  | 0x58 => some (.mov o)
  | 0x59 => some (.lit o)
  | 0x5A => some (.clz o)
  | 0x5B => some (.popc o)
  | 0x5C => some (.bfx o)
  | 0x5D => some (.bfi o)
  | 0x5E => some (.sext o)
  | 0x5F => some (.zext o)
  | 0x60 => some (.fadd o)
  | 0x61 => some (.fsub o)
  | 0x62 => some (.fmul o)
  | 0x63 => some (.ffma o)
  | 0x64 => some (.fmin o)
  | 0x65 => some (.fmax o)
  | 0x66 => some (.fminp o)
  | 0x67 => some (.fmaxp o)
  | 0x68 => some (.fcmp o)
  | 0x69 => some (.fsgn o)
  | 0x6A => some (.fcvt o)
  | 0x6B => some (.fdiv o)
  | 0x6C => some (.fsqrt o)
  | _ => none

/-- The C slot (R31). -/
def nameC (w : BitVec 32) : Option Instr :=
  let p := predOf w
  match (w.extractLsb' 24 8).toNat with
  | 0x01 => some (.b p (w.extractLsb' 0 19))
  | 0x02 => some (.call p (w.extractLsb' 0 19))
  | 0x03 => some (.calli p (w.extractLsb' 14 5))
  | 0x04 => some (.ret p (w.extractLsb' 14 5))
  | 0x05 => some (if w.getLsbD 18 then .loopLit (w.extractLsb' 15 3) (w.extractLsb' 0 13) else .loop (w.extractLsb' 13 5) (w.extractLsb' 0 13))
  | 0x06 => some (.brkl p (w.extractLsb' 16 3) (w.extractLsb' 0 16))
  | 0x07 => some (.lidx p (w.extractLsb' 14 5) (w.extractLsb' 11 3))
  | 0x08 => some (.region (w.extractLsb' 17 2) (w.extractLsb' 14 3) (w.extractLsb' 11 3))
  | 0x09 => some (.phase (w.extractLsb' 11 8) (w.extractLsb' 8 3) (w.extractLsb' 6 2) (w.extractLsb' 3 3))
  | 0x0A => some (.resync (w.extractLsb' 11 8) (w.extractLsb' 6 2) (w.extractLsb' 3 3))
  | 0x0B => some (.trigger p)
  | 0x0C => some .endTask
  | 0x0D => some (.trap p (w.extractLsb' 11 8))
  | 0x0E => some (.sys p (w.extractLsb' 11 8))
  | 0x0F => some (.replay (w.extractLsb' 11 8) (w.extractLsb' 8 3) (w.extractLsb' 5 3))
  | 0x10 => some (.pand p (predOpsOf w))
  | 0x11 => some (.por p (predOpsOf w))
  | 0x12 => some (.pxor p (predOpsOf w))
  | 0x13 => some (.pget p (w.extractLsb' 14 5) (w.getLsbD 13))
  | 0x14 => some (.pset p (w.extractLsb' 14 5) (w.getLsbD 13))
  | 0x15 => some (if w.getLsbD 10 then .tltestLit p (tlTestOf w) (w.extractLsb' 7 3) else .tltest p (tlTestOf w) (w.extractLsb' 5 5))
  | _ => nameAlu w

/-- The S slot (R32). -/
def nameS (w : BitVec 32) : Option Instr :=
  match (w.extractLsb' 24 8).toNat with
  | 0xA0 => some (.sld (sOpsOf w))
  | 0xA1 => some (.slds (sOpsOf w))
  | 0xA2 => some (.sst (sOpsOf w))
  | _ => nameAlu w

/-- The A slot (R33). -/
def nameA (w : BitVec 32) : Option Instr :=
  match (w.extractLsb' 24 8).toNat with
  | 0x01 => some (.gset (w.extractLsb' 20 4) (w.extractLsb' 16 4) (w.extractLsb' 0 3))
  | 0x02 => some (.gsets (w.extractLsb' 20 4) (w.extractLsb' 16 4) (w.extractLsb' 0 5))
  | 0x03 => some (.gld (w.extractLsb' 20 4) (w.extractLsb' 11 5) (w.extractLsb' 0 11))
  | 0x04 => some (.gst (w.extractLsb' 20 4) (w.extractLsb' 11 5) (w.extractLsb' 0 11))
  | 0x05 => some (.gadv (w.extractLsb' 20 4) (w.getLsbD 18) (w.extractLsb' 16 2) (w.extractLsb' 0 16))
  | 0x06 => some (.grst (w.extractLsb' 20 4))
  | 0x07 => some (.gpos (w.extractLsb' 20 4) (w.extractLsb' 16 2) (w.extractLsb' 0 16))
  | 0x08 => some (.gmap (w.extractLsb' 20 4) (w.extractLsb' 16 2) (w.extractLsb' 0 3))
  | _ => none

/-- The L slot (R34). -/
def nameL (w : BitVec 64) : Option Instr :=
  let o := lOpsOf w
  match (w.extractLsb' 56 8).toNat with
  | 0x01 => some (.vld o)
  | 0x02 => some (.vst o)
  | 0x03 => some (.vlda o)
  | 0x04 => some (.vsta o)
  | 0x05 => some (.vgth o)
  | 0x06 => some (.vsct o)
  | 0x07 => some (.vldb o)
  | 0x08 => some (.bufset o)
  | 0x09 => some (.bufq o)
  | 0x10 => some (.atom o)
  | 0x20 => some (.rlsend o)
  | 0x21 => some (.rlrecv o)
  | 0x22 => some (.rlfree o)
  | _ => none

/-- The vector slots (R35). -/
def nameV (w : BitVec 64) : Option Instr :=
  let o := vOpsOf w
  match (w.extractLsb' 56 8).toNat with
  | 0x01 => some (.vadd o)
  | 0x02 => some (.vsub o)
  | 0x03 => some (.vmul o)
  | 0x04 => some (.vfma o)
  | 0x05 => some (.vfms o)
  | 0x06 => some (.vfnma o)
  | 0x07 => some (.vmin o)
  | 0x08 => some (.vmax o)
  | 0x09 => some (.vminp o)
  | 0x0A => some (.vmaxp o)
  | 0x0B => some (.vabs o)
  | 0x0C => some (.vneg o)
  | 0x0D => some (.vcmp o)
  | 0x0E => some (.vsel o)
  | 0x10 => some (.vand o)
  | 0x11 => some (.vor o)
  | 0x12 => some (.vxor o)
  | 0x13 => some (.vnot o)
  | 0x14 => some (.vshl o)
  | 0x15 => some (.vshr o)
  | 0x16 => some (.vsar o)
  | 0x18 => some (.vmov o)
  | 0x19 => some (.vfill o)
  | 0x1A => some (.viota o)
  | 0x1B => some (.vext o)
  | 0x1C => some (.vins o)
  | 0x20 => some (.vcvt o)
  | 0x21 => some (.vcvts o)
  | 0x22 => some (.vqnt o)
  | 0x24 => some (.vfold o)
  | 0x25 => some (.vsplit o)
  | 0x28 => some (.vexp2 o)
  | 0x29 => some (.vlog2 o)
  | 0x2A => some (.vrcp o)
  | 0x2B => some (.vrsq o)
  | 0x2C => some (.vsqrt o)
  | 0x2D => some (.vtanh o)
  | 0x2E => some (.vsigm o)
  | 0x2F => some (.vgelu o)
  | 0x30 => some (.vrsum o)
  | 0x31 => some (.vrmax o)
  | 0x32 => some (.vrmin o)
  | 0x33 => some (.vramax o)
  | 0x34 => some (.vscan o)
  | 0x38 => some (.vperm o)
  | 0x39 => some (.vrot o)
  | 0x3A => some (.vbcl o)
  | 0x3B => some (.vzip o)
  | 0x3C => some (.vunzp o)
  | 0x40 => some (.vrng o)
  | 0x48 => some (.kand o)
  | 0x49 => some (.kor o)
  | 0x4A => some (.kxor o)
  | 0x4B => some (.knot o)
  | 0x4C => some (.kpop o)
  | 0x4D => some (if o.lit then .ksetImm o else .kset o)
  | _ => none

/-- The M slot (R36). -/
def nameM (w : BitVec 64) : Option Instr :=
  let o := mOpsOf w
  match (w.extractLsb' 56 8).toNat with
  | 0x01 => some (.mma o)
  | 0x02 => some (.mzero o)
  | 0x03 => some (.mfold o)
  | 0x04 => some (.msave o)
  | 0x05 => some (.mload o)
  | 0x06 => some (.mpre o)
  | 0x07 => some (.mtrn o)
  | _ => none

/-- The E slot (R37). -/
def nameE (w : BitVec 64) : Option Instr :=
  let o := eOpsOf w
  match (w.extractLsb' 56 8).toNat with
  | 0x01 => some (.cpyt o)
  | 0x02 => some (.cpyu o)
  | 0x03 => some (.cpym o)
  | 0x04 => some (.cfill o)
  | 0x05 => some (.cseal o)
  | 0x08 => some (.amo o)
  | 0x09 => some (.amof o)
  | 0x10 => some (.rtopk o)
  | 0x11 => some (.rcap o)
  | 0x12 => some (.rdisp o)
  | 0x18 => some (.tlife o)
  | 0x19 => some (.tdrop o)
  | 0x20 => some (.fsend o)
  | 0x21 => some (.frdc o)
  | 0x22 => some (.fag o)
  | 0x23 => some (.fa2a o)
  | 0x28 => some (.jrnl o)
  | 0x29 => some (.emit o)
  | 0x2A => some (.jtrunc o)
  | 0x30 => some (.hflush o)
  | 0x31 => some (.hnote o)
  | _ => none

/-- The X slot (R38). -/
def nameX (w : BitVec 32) : Option Instr :=
  let o := xOpsOf w
  match (w.extractLsb' 24 8).toNat with
  | 0x01 => some (.xlat o)
  | 0x02 => some (.xvalid o)
  | 0x03 => some (.csrr o)
  | 0x04 => some (.csrw o)
  | 0x05 => some (.csrs o)
  | 0x06 => some (.csrc o)
  | 0x07 => some (.flgr o)
  | 0x08 => some (.flgc o)
  | 0x09 => some (.tcr o)
  | 0x0A => some (.pgate o)
  | 0x0B => some (.pgq o)
  | 0x0C => some (.moncap o)
  | 0x0D => some (.tlrd o)
  | _ => none

/-- The legality of R41: the named instruction is well formed and encodes to exactly this word, so that every reserved
bit is zero. -/
def legal32 (w : BitVec 32) (i : Option Instr) : Option Instr :=
  i.filter fun i => wfInstr i && encode i == [w]

def legal64 (w : BitVec 64) (i : Option Instr) : Option Instr :=
  i.filter fun i => wfInstr i && encode i == words64 w

def decodeC (w : BitVec 32) : Option Instr := legal32 w (nameC w)
def decodeS (w : BitVec 32) : Option Instr := legal32 w (nameS w)
def decodeA (w : BitVec 32) : Option Instr := legal32 w (nameA w)
def decodeX (w : BitVec 32) : Option Instr := legal32 w (nameX w)
def decodeL (w : BitVec 64) : Option Instr := legal64 w (nameL w)
def decodeV (w : BitVec 64) : Option Instr := legal64 w (nameV w)
def decodeM (w : BitVec 64) : Option Instr := legal64 w (nameM w)
def decodeE (w : BitVec 64) : Option Instr := legal64 w (nameE w)

/-! Bundles -/

/-- The slots of R19, whose indices are the bits of SM. -/
inductive SlotFmt where
  | c | s | a | l | v | m | e | x
  deriving DecidableEq, Repr

/-- The format of each slot index, in body order (R22). -/
def slotFmt (slot : Nat) : SlotFmt :=
  match slot with
  | 0 => .c
  | 1 => .s
  | 2 => .a
  | 3 => .l
  | 4 | 5 | 6 | 7 => .v
  | 8 => .m
  | 9 => .e
  | _ => .x

/-- A slot holds one word or two (R22). -/
def SlotFmt.wide (f : SlotFmt) : Bool := f == .l || f == .v || f == .m || f == .e

def nameSlot (f : SlotFmt) (w : BitVec 64) : Option Instr :=
  match f with
  | .c => nameC (w.extractLsb' 0 32)
  | .s => nameS (w.extractLsb' 0 32)
  | .a => nameA (w.extractLsb' 0 32)
  | .l => nameL w
  | .v => nameV w
  | .m => nameM w
  | .e => nameE w
  | .x => nameX (w.extractLsb' 0 32)

def decodeSlot (f : SlotFmt) (w : BitVec 64) : Option Instr :=
  match f with
  | .c => decodeC (w.extractLsb' 0 32)
  | .s => decodeS (w.extractLsb' 0 32)
  | .a => decodeA (w.extractLsb' 0 32)
  | .l => decodeL w
  | .v => decodeV w
  | .m => decodeM w
  | .e => decodeE w
  | .x => decodeX (w.extractLsb' 0 32)

/-- The literal entries a second operand names (R23, R30). -/
def Src.refs (s : Src) (pair : Bool) : List Nat :=
  match s with
  | .reg _ => []
  | .lit i => if pair then [i.toNat, i.toNat + 1] else [i.toNat]

def SOps.litRefs (o : SOps) : List Nat := o.src.refs false

/-- A broadcast literal is a pair in the f32x2 view (R30). -/
def VOps.litRefs (o : VOps) : List Nat :=
  let i := (o.vb.extractLsb' 0 3).toNat
  if !o.lit then [] else if o.view == 0 then [i, i + 1] else [i]

/-- Wait entries are literal pairs from entry j (R68). -/
def waitRefs (w : BitVec 2) (j : BitVec 3) : List Nat := (List.range (2 * w.toNat)).map (j.toNat + ·)

/-- Every literal entry that an instruction names (R23).  DESIGN CHOICE (log 46): an instruction that takes no literal and yet has its literal flag set (VNOT
with bit 1, CLZ with bit 8) names one all the same, so an index beyond the literals makes its bundle illegal (0x01) and not only the instruction (0x02); and so does a REPLAY with D = 7,
whose last delta would lie in entry 7, beyond any LC (R67). -/
def litRefs (i : Instr) : List Nat :=
  match i with
  | .loopLit l _ => [l.toNat]
  | .tltestLit _ _ l => [l.toNat]
  | .region _ b nr => (List.range (3 + nr.toNat)).map (b.toNat + ·)
  | .phase _ l w j => l.toNat :: waitRefs w j
  | .resync _ w j => waitRefs w j
  | .replay _ _ d => List.range (1 + d.toNat)
  | .gset _ f l => if f == 2 then [l.toNat, l.toNat + 1] else [l.toNat]
  | .add o => o.litRefs
  | .sub o => o.litRefs
  | .mul o => o.litRefs
  | .mulh o => o.litRefs
  | .mulhu o => o.litRefs
  | .div o => o.litRefs
  | .divu o => o.litRefs
  | .rem o => o.litRefs
  | .remu o => o.litRefs
  | .and o => o.litRefs
  | .or o => o.litRefs
  | .xor o => o.litRefs
  | .andn o => o.litRefs
  | .shl o => o.litRefs
  | .shr o => o.litRefs
  | .sar o => o.litRefs
  | .rot o => o.litRefs
  | .min o => o.litRefs
  | .max o => o.litRefs
  | .minu o => o.litRefs
  | .maxu o => o.litRefs
  | .cmp o => o.litRefs
  | .cmpu o => o.litRefs
  | .sel o => o.litRefs
  | .mov o => o.litRefs
  | .lit o => o.src.refs (o.mod == 2)
  | .clz o => o.litRefs
  | .popc o => o.litRefs
  | .bfx o => o.litRefs
  | .bfi o => o.litRefs
  | .sext o => o.litRefs
  | .zext o => o.litRefs
  | .fadd o => o.litRefs
  | .fsub o => o.litRefs
  | .fmul o => o.litRefs
  | .ffma o => o.litRefs
  | .fmin o => o.litRefs
  | .fmax o => o.litRefs
  | .fminp o => o.litRefs
  | .fmaxp o => o.litRefs
  | .fcmp o => o.litRefs
  | .fsgn o => o.litRefs
  | .fcvt o => o.litRefs
  | .fdiv o => o.litRefs
  | .fsqrt o => o.litRefs
  | .sld o => o.litRefs
  | .slds o => o.litRefs
  | .sst o => o.litRefs
  | .vadd o => o.litRefs
  | .vsub o => o.litRefs
  | .vmul o => o.litRefs
  | .vfma o => o.litRefs
  | .vfms o => o.litRefs
  | .vfnma o => o.litRefs
  | .vmin o => o.litRefs
  | .vmax o => o.litRefs
  | .vminp o => o.litRefs
  | .vmaxp o => o.litRefs
  | .vabs o => o.litRefs
  | .vneg o => o.litRefs
  | .vcmp o => o.litRefs
  | .vsel o => o.litRefs
  | .vand o => o.litRefs
  | .vor o => o.litRefs
  | .vxor o => o.litRefs
  | .vnot o => o.litRefs
  | .vshl o => o.litRefs
  | .vshr o => o.litRefs
  | .vsar o => o.litRefs
  | .vmov o => o.litRefs
  | .vfill o => o.litRefs
  | .viota o => o.litRefs
  | .vext o => o.litRefs
  | .vins o => o.litRefs
  | .vcvt o => o.litRefs
  | .vcvts o => o.litRefs
  | .vqnt o => o.litRefs
  | .vfold o => o.litRefs
  | .vsplit o => o.litRefs
  | .vexp2 o => o.litRefs
  | .vlog2 o => o.litRefs
  | .vrcp o => o.litRefs
  | .vrsq o => o.litRefs
  | .vsqrt o => o.litRefs
  | .vtanh o => o.litRefs
  | .vsigm o => o.litRefs
  | .vgelu o => o.litRefs
  | .vrsum o => o.litRefs
  | .vrmax o => o.litRefs
  | .vrmin o => o.litRefs
  | .vramax o => o.litRefs
  | .vscan o => o.litRefs
  | .vperm o => o.litRefs
  | .vrot o => o.litRefs
  | .vbcl o => o.litRefs
  | .vzip o => o.litRefs
  | .vunzp o => o.litRefs
  | .vrng o => o.litRefs
  | .kand o => o.litRefs
  | .kor o => o.litRefs
  | .kxor o => o.litRefs
  | .knot o => o.litRefs
  | .kpop o => o.litRefs
  | .kset o => o.litRefs
  | .ksetImm o => if o.lit then [(o.vb.extractLsb' 0 3).toNat] else []
  | .b _ _ => []
  | .call _ _ => []
  | .calli _ _ => []
  | .ret _ _ => []
  | .loop _ _ => []
  | .brkl _ _ _ => []
  | .lidx _ _ _ => []
  | .trigger _ => []
  | .trap _ _ => []
  | .sys _ _ => []
  | .pand _ _ => []
  | .por _ _ => []
  | .pxor _ _ => []
  | .pget _ _ _ => []
  | .pset _ _ _ => []
  | .tltest _ _ _ => []
  | .gsets _ _ _ => []
  | .gld _ _ _ => []
  | .gst _ _ _ => []
  | .gadv _ _ _ _ => []
  | .grst _ => []
  | .gpos _ _ _ => []
  | .gmap _ _ _ => []
  | .vld _ => []
  | .vst _ => []
  | .vlda _ => []
  | .vsta _ => []
  | .vgth _ => []
  | .vsct _ => []
  | .vldb _ => []
  | .bufset _ => []
  | .bufq _ => []
  | .atom _ => []
  | .rlsend _ => []
  | .rlrecv _ => []
  | .rlfree _ => []
  | .mma _ => []
  | .mzero _ => []
  | .mfold _ => []
  | .msave _ => []
  | .mload _ => []
  | .mpre _ => []
  | .mtrn _ => []
  | .cpyt _ => []
  | .cpyu _ => []
  | .cpym _ => []
  | .cfill _ => []
  | .cseal _ => []
  | .amo _ => []
  | .amof _ => []
  | .rtopk _ => []
  | .rcap _ => []
  | .rdisp _ => []
  | .tlife _ => []
  | .tdrop _ => []
  | .fsend _ => []
  | .frdc _ => []
  | .fag _ => []
  | .fa2a _ => []
  | .jrnl _ => []
  | .emit _ => []
  | .jtrunc _ => []
  | .hflush _ => []
  | .hnote _ => []
  | .xlat _ => []
  | .xvalid _ => []
  | .csrr _ => []
  | .csrw _ => []
  | .csrs _ => []
  | .csrc _ => []
  | .flgr _ => []
  | .flgc _ => []
  | .tcr _ => []
  | .pgate _ => []
  | .pgq _ => []
  | .moncap _ => []
  | .tlrd _ => []
  | .bundleIssue _ => []
  | .sealedRegionTimeout _ => []
  | .rendezvousRelease _ => []
  | .freeze _ => []
  | .restart _ => []
  | .domainStop _ => []
  | .retryWindowExpiry _ _ => []
  | .scrub _ => []
  | .mmaOperandClaim _ _ _ _ => []
  | .matrixWriteComplete _ _ => []
  | .msaveRowClaim _ _ _ => []
  | .blockCapture _ _ => []
  | .timedCommandStart _ _ => []
  | .copyBeat _ _ _ _ => []
  | .timedCopyEnd _ _ => []
  | .untimedComplete _ => []
  | .xlatResult _ _ => []
  | .routingComplete _ _ => []
  | .atomicApply _ => []
  | .hbmGroup _ _ _ => []
  | .hbmRefresh _ _ _ => []
  | .rillEntryReady _ _ => []
  | .rillSlotFreed _ _ => []
  | .powerGateDecision _ => []
  | .gatingComplete _ => []
  | .wakeComplete _ => []
  | .realignmentComplete _ => []
  | .migrationMove _ => []
  | .launchWord _ _ _ => []
  | .queueAgeing _ => []
  | .preemption _ => []
  | .dispatch _ => []
  | .launchStart _ => []
  | .launchComplete _ => []
  | .resume _ => []
  | .variantRebind _ => []
  | .imageLoad _ _ _ => []
  | .watchdogExpiry _ => []
  | .handoverRecordWrite _ => []
  | .monitorClear _ => []
  | .monitorCapture _ => []
  | .retransmit _ => []
  | .collectiveCell _ => []
  | .patchAckDeadline _ => []
  | .patchSwitch _ => []
  | .journalAck _ => []
  | .emissionRelease _ => []
  | .reset _ => []
  | .doubledRefresh _ _ => []
  | .endTask => []
  | .writeVisible => []
  | .bankAccess => []
  | .meshHop => []
  | .droopStretch => []
  | .clockCrossingSlip => []
  | .frequencyStepDown => []
  | .frequencyStepUp => []
  | .thermalFreeze => []
  | .powerFreeze => []
  | .freezeRelease => []
  | .hotnessInterval => []
  | .updateRecord => []
  | .faultRecord => []
  | .faultRetry => []
  | .faultUnresolvable => []
  | .windowSample => []
  | .bindDecision => []
  | .wwrite => []
  | .wread => []
  | .mgmtw => []
  | .mgmtr => []
  | .memw => []
  | .memr => []
  | .inval => []
  | .resend => []
  | .sysdone => []
  | .hack => []
  | .keyExchange => []
  | .stage => []
  | .commit => []
  | .abort => []
  | .takeover => []
  | .heartbeat => []
  | .monitorSample => []
  | .rptreq => []
  | .reportWritten => []
  | .securityAlarm => []
  | .registerWrite => []
  | .cellSend => []
  | .cellReceive => []
  | .peerLeft => []
  | .lineDrift => []
  | .lineFailure => []
  | .lineRelock => []
  | .repairPatch => []
  | .patchReceive => []
  | .journalRecord => []
  | .partnerLost => []
  | .partnerRestore => []
  | .replayExtract => []

/-- A decoded bundle (R21, R22). -/
structure Bundle where
  len : Nat
  idle : Nat
  replay : Bool
  lits : List (BitVec 32)
  slots : List (Nat × Instr)
  deriving DecidableEq, Repr

/-- Why a bundle is rejected (R40, R41): the causes 0x01 and 0x02; for the second the lowest illegal slot, and the bundle with its legal
slots, whose own causes may come before it (R42). -/
inductive Reject where
  | illegalBundle
  | illegalInstruction (slot : Nat) (rest : Bundle)
  deriving DecidableEq, Repr

/-- The code store's size (R14). -/
def codeBytes : Nat := 262144

/-- Bundle length (R22) of a slot mask and literal count. -/
def bundleLen (sm : BitVec 11) (lc : Nat) : Nat :=
  (List.range 11).foldl (fun n k => if sm.getLsbD k then n + (if (slotFmt k).wide then 8 else 4) else n) (4 + 4 * lc)

/-- The slot words of a body whose bytes start at address a: each present slot's index and word. -/
def slotWords (fetch : Nat → BitVec 32) (sm : BitVec 11) : List Nat → Nat → List (Nat × BitVec 64)
  | [], _ => []
  | k :: ks, a =>
    if !sm.getLsbD k then slotWords fetch sm ks a
    else if (slotFmt k).wide then (k, fetch (a + 4) ++ fetch a) :: slotWords fetch sm ks (a + 8)
    else (k, 0#32 ++ fetch a) :: slotWords fetch sm ks (a + 4)

/-- The first slot that is illegal, in slot order (R42). -/
def firstIllegal : List (Nat × BitVec 64) → Option Nat
  | [] => none
  | (k, w) :: r => if (decodeSlot (slotFmt k) w).isNone then some k else firstIllegal r

def Instr.isReplay (i : Instr) : Bool :=
  match i with
  | .replay _ _ _ => true
  | _ => false

/-- Decode the bundle whose header lies at address pc, from the words that `fetch` reads from the code store (R21-R26, R40-R42). -/
def decodeBundle (fetch : Nat → BitVec 32) (pc : Nat) : Except Reject Bundle :=
  if pc + 4 > codeBytes then .error .illegalBundle
  else
    let hd := fetch pc
    let sm := hd.extractLsb' 0 11
    let lc := (hd.extractLsb' 11 3).toNat
    let bk := (hd.extractLsb' 14 2).toNat
    let len := bundleLen sm lc
    let ws := slotWords fetch sm (List.range 11) (pc + 4)
    let named := ws.filterMap fun (k, w) => nameSlot (slotFmt k) w
    if bk ≥ 2 || pc + len > codeBytes || (bk == 1 && (sm != 1 || !named.any Instr.isReplay)) then .error .illegalBundle
    else if named.any fun i => (litRefs i).any (lc ≤ ·) then .error .illegalBundle
    else
      let b : Bundle :=
        { len := len, idle := (hd.extractLsb' 16 16).toNat, replay := bk == 1,
          lits := (List.range lc).map fun i => fetch (pc + len - 4 * lc + 4 * i),
          slots := (ws.filterMap fun (k, w) => (decodeSlot (slotFmt k) w).map (k, ·)).filter fun x => bk == 1 || !x.2.isReplay }
      match if bk == 0 && named.any Instr.isReplay then some 0 else firstIllegal ws with
      | some k => .error (.illegalInstruction k b)
      | none => .ok b

/-- The header of a bundle (R21). -/
def encHeader (idle : BitVec 16) (bk : BitVec 2) (lc : BitVec 3) (sm : BitVec 11) : BitVec 32 := idle ++ bk ++ lc ++ sm

/-- The slots in which decodeTableWord looks for a row's word, in turn: the table numbers a slot's own bits, and one 32-bit
word can be legal in several slots (R39). -/
def decodeTableWord (nbits w : Nat) : Option Instr :=
  if nbits ≤ 32 then
    let w := BitVec.ofNat 32 w
    (decodeC w).orElse fun _ => (decodeS w).orElse fun _ => (decodeA w).orElse fun _ => decodeX w
  else
    let w := BitVec.ofNat 64 w
    (decodeL w).orElse fun _ => (decodeV w).orElse fun _ => (decodeM w).orElse fun _ => decodeE w

/-- The slot index in which an instruction is placed: the first slot of its class (R9). -/
def homeSlot (i : Instr) : Nat :=
  match encode i with
  | [w] => if (decodeC w) == some i then 0 else if (decodeS w) == some i then 1 else if (decodeA w) == some i then 2 else 10
  | [lo, hi] =>
    let w := hi ++ lo
    if decodeL w == some i then 3 else if decodeV w == some i then 4 else if decodeM w == some i then 8 else 9
  | _ => 0

end Sys2Proof
end

