-- ==== Sys2Proof/Config.lean ====
section
/-! DEFINITION. What the spec leaves open: free values, as constants without a body (log 11), so that no proof can use a number of
theirs; and the functions that stay uninterpreted: cryptography (log 7), layouts that the spec does not give (log 14). -/

namespace Sys2Proof.Config

/-- Free numbers: the n-th value that the spec leaves open. -/
opaque freeNat : Nat → Nat

/-- The row of a band scale when RPITCH is 0 (R134 divides by it), by displacement. -/
opaque zeroPitchRow : Int → Int

/-- The element stored under a band scale that is NaN, infinite or zero, by format, band scale code and source (R119). -/
opaque openElem : Nat → Nat → Nat → Nat

/-- The signature of an image or firmware image checks (R299, R345). -/
opaque signatureOk : List Byte → Bool

/-- SHA3 digests (R300, R347, R354): 512 and 256 bits, as bytes. -/
opaque sha3_512 : List Byte → List Byte
opaque sha3_256 : List Byte → List Byte

/-- A signature that Dawn makes over a report (R354). -/
opaque sign : List Byte → List Byte

/-- The buffers that a scratchpad plan gives a core, in order: slice offset and bytes (R144, R301). -/
opaque planOf : List Byte → Nat → List (Nat × Nat)

/-- The length of the parameter block of a start vector, from the template section (R301, R305). -/
opaque paramLength : List Byte → Nat → Nat

/-- Where a core's 16 initial descriptors begin in the stream section (R301). -/
opaque streamPlace : List Byte → Nat → Nat

/-- The half-width code block and cut map of a core of a start vector, from the variant section, if there is one (R325): TCYC, full-width
and half-width marker address. -/
opaque variantOf : List Byte → Nat → Nat → Option (List Byte × List (Nat × Nat × Nat))

/-- The size of the parameter arena (R305). -/
opaque arenaBytes : Nat

/-- What Noon chooses for a launch (R308), by its LID: address space, mask of HBM stacks, and the far-tier pages of its extent tables, its
context area, its parameter copy and its page vectors. -/
opaque asidOf : Nat → Nat
opaque hbmMask : Nat → Nat
opaque tablePage : Nat → Nat
opaque areaPage : Nat → Nat
opaque copyPage : Nat → Nat
opaque vectorPage : Nat → Nat

/-- What a stretch does to the occupancy of a crossing (R266), by stack, crossing and cycles since the stretch: 0 nothing, 1 one more, else one less. -/
opaque droopMoves : Nat → Nat → Nat → Nat

/-- How many cells a virtual channel holds (R388). -/
opaque channelCells : Nat

/-- A controller's fused floor of VERSION, whether its image of manufacture reads a record schema, and that image (R345, R354). -/
opaque versionFloor : Nat → Nat
opaque factoryReads : Nat → Nat → Bool
opaque factoryImage : Nat → List Byte

end Sys2Proof.Config
end

