-- ==== Sys2Proof/Machine/Maps.lean ====
section
/-! DEFINITION. Sparse maps in one canonical form: a list of (key, value) pairs with strictly rising keys and no entry equal to
what an unlisted key reads as. Memory, rows, cores and tables are such maps, so that equal contents are equal data. -/

namespace Sys2Proof.Machine

/-- A sparse map from Nat, in canonical form. -/
abbrev SMap (α : Type) := List (Nat × α)

/-- The value at key n; d is what an unlisted key reads as. -/
def SMap.get {α : Type} (d : α) (m : SMap α) (n : Nat) : α :=
  match m with
  | [] => d
  | (k, v) :: r => if n = k then v else if n < k then d else SMap.get d r n

/-- Write the value at key n: the entry goes when the value is d. -/
def SMap.put {α : Type} [DecidableEq α] (d : α) (m : SMap α) (n : Nat) (v : α) : SMap α :=
  match m with
  | [] => if v = d then [] else [(n, v)]
  | (k, w) :: r =>
    if n < k then (if v = d then (k, w) :: r else (n, v) :: (k, w) :: r)
    else if n = k then (if v = d then r else (n, v) :: r)
    else (k, w) :: SMap.put d r n v

/-- Every key is above lo, keys rise strictly, and no entry holds d. -/
def SMap.wfFrom {α : Type} [DecidableEq α] (d : α) (lo : Nat) (m : SMap α) : Bool :=
  match m with
  | [] => true
  | (k, v) :: r => decide (lo ≤ k) && decide (v ≠ d) && SMap.wfFrom d (k + 1) r

/-- The canonical form. -/
def SMap.wf {α : Type} [DecidableEq α] (d : α) (m : SMap α) : Bool := SMap.wfFrom d 0 m

/-- Write a list of (key, value) pairs, in order. -/
def SMap.putAll {α : Type} [DecidableEq α] (d : α) (m : SMap α) (l : List (Nat × α)) : SMap α :=
  l.foldl (fun m kv => SMap.put d m kv.1 kv.2) m

/-- The entries whose key and value satisfy f. -/
def SMap.keep {α : Type} (f : Nat → α → Bool) (m : SMap α) : SMap α := m.filter fun kv => f kv.1 kv.2

end Sys2Proof.Machine
end

