-- ==== Sys2Proof/Machine/State.lean ====
section
/-! DEFINITION. The state of the package, as plain data (inventory, State), the reasons a step can stop, and the state at reset. -/

namespace Sys2Proof.Machine

/-- All memories of the package in one canonical map (Ops gives the regions): address and byte, rising, no entry 0. -/
abbrev Memory := List Host.Cell

/-! The sequencer -/

/-- The replay data of a loop level (R67): count N, stage count, deltas (stream, signed 28 bits) and the block's end. -/
structure Replay where
  count : BitVec 32
  stages : Nat
  deltas : List (BitVec 4 × BitVec 28)
  blockEnd : Nat
  deriving DecidableEq, Repr

/-- One live loop level (R13). -/
structure LoopLevel where
  count : BitVec 32
  index : BitVec 32
  start : BitVec 18
  last : BitVec 18
  replay : Option Replay
  deriving DecidableEq, Repr

/-- What a core's sequencer is doing: no task, waiting for START (R311), issuing, held at a rendezvous (R69), frozen (R74),
stopped by a fault (R12, R76), ended (R61). -/
inductive Run where
  | off | waiting | running | held | frozen | stopped | ended
  deriving DecidableEq, Repr

/-- Region kinds of R63. -/
inductive RegionKind where
  | normal | sealed | cut
  deriving DecidableEq, Repr

/-- The open region (R62, R64): kind, clock cycle and address of its marker, and the closing mark. -/
structure Region where
  kind : RegionKind
  since : Nat
  addr : Nat
  closing : Bool
  deriving DecidableEq, Repr

/-- One wait entry of PHASE or RESYNC (R68). -/
structure Wait where
  out : Bool
  ctx : Nat
  value : Nat
  deriving DecidableEq, Repr

/-- A core's arrival at a rendezvous (R69-R72), at clock cycle `since`. `begun`: the hold has begun, TCYC having reached the arrival value.
`addr`: the bundle's address; `void`: the rendezvous has been forgotten (R419), the core stays held. -/
structure Hold where
  group : Nat
  resync : Bool
  n : BitVec 32
  arrival : Nat
  waits : List Wait
  since : Nat
  begun : Bool
  addr : Nat
  void : Bool
  deriving DecidableEq, Repr

/-- Changes of a stream register that become visible together (R133): a GLD, an A-slot change, a loop or replay change. -/
inductive GChange where
  | load (d : Desc)
  | field (f : BitVec 4) (v : Word)
  | adv (l : Nat) (n : Int) (carry : Bool)
  | rst
  | pos (l v : Nat)
  | map (l : Nat) (b : BitVec 3)
  | push (level : Nat)
  | advance (level : Nat)
  | delta (d : BitVec 28)
  deriving DecidableEq, Repr

/-- What a write in flight changes (R18, R19): a scalar, a predicate, the bits of a lane mask and the bytes of a row that a mask marks, a stream;
`gateCounts` is a PGQ word whose FIFO counts, those of a pair, are taken at the end of its cycle (R248); `later` a scalar whose value is not known yet
(a window load before its sample, R295; a PGATE status before the decision, R234); `none` carries flags only. -/
inductive RegWrite where
  | s (r : BitVec 5) (v : Word)
  | p (r : BitVec 4) (v : Bool)
  | k (r : BitVec 4) (v m : Mask)
  | row (r : BitVec 11) (v : Row) (bytes : Mask)
  | g (r : BitVec 4) (c : GChange)
  | gateCounts (r : BitVec 5) (pair : Nat) (w : Word)
  | later (r : BitVec 5)
  | none
  deriving DecidableEq, Repr

/-- A write in flight: cycle at which it becomes visible, issue cycle, slot, bundle address and TCYC of its instruction, the
flags it raises (R127), and the access whose failure cancels it (0: none). -/
structure PendWrite where
  due : Nat
  issued : Nat
  slot : Nat
  addr : Nat
  stamp : Nat
  w : RegWrite
  flags : BitVec 6
  acc : Nat
  deriving DecidableEq, Repr

/-- A fault found after issue, waiting for the core's next bundle boundary (R419); `done`: an ended core has recorded it. -/
structure LateFault where
  arose : Nat
  issued : Nat
  slot : Nat
  cause : BitVec 8
  detail : BitVec 8
  addr : Nat
  done : Bool
  deriving DecidableEq, Repr

/-- A translate result (R209): value, valid bit, the virtual address it translates, and the cycle, access and address of the pending
XLAT. -/
structure XReg where
  val : Word
  valid : Bool
  va : Word
  pend : Option (Nat × BitVec 2 × Word)
  deriving DecidableEq, Repr

/-- Buffer states of R145. -/
inductive BufState where
  | empty | filling | full | draining
  deriving DecidableEq, Repr

/-- A buffer-descriptor entry (R145); sizes in 64-byte units. -/
structure Buf where
  offset : Nat
  size : Nat
  st : BufState
  decl : Bool
  filler : Nat
  fkind : BitVec 4
  held : Bool
  deriving DecidableEq, Repr

/-- The operations of one batch (R205, R208): how many joined, how many have not completed, whether one writes device memory
(R334), the record so far, and the JRNL tokens it holds (R395: SEQID, STEP, TOKEN, CLASS). -/
structure Batch where
  members : Nat
  pending : Nat
  writing : Nat
  status : BitVec 8
  detail : BitVec 8
  value : BitVec 32
  deriving DecidableEq, Repr

/-- A timeline context (R205, R206, R208): number of the last closed batch, the open batch, the closed batches by number,
TLCNT, the record of the last timed command, and the highest batch whose record had expired when a rewind took later batches away (R416). -/
structure Ctx where
  closed : Nat
  cur : Batch
  batches : SMap Batch
  cnt : Nat
  timed : Word
  expired : Nat
  deriving DecidableEq, Repr

/-- The held B panel (R187): the MPRE's stream and layout, its depth, and the bytes it read in each of its steps. -/
structure Panel where
  op : Nat
  k : Nat
  kmajor : Bool
  desc : Desc
  bytes : SMap (SMap Byte)
  deriving DecidableEq, Repr

/-- Where a matrix instruction takes a tile from (R178): rows as they stood, or the result of one still in flight. -/
inductive TileIn where
  | rows (l : List Row)
  | pending (op : Nat)
  deriving DecidableEq, Repr

/-- An M-slot instruction in flight (R178, R185-R190): the tiles it writes, the tiles it takes as input, operand streams as read at
issue, bytes captured by step and operand, claim base s, completion cycle, whether a vector write met its rows, and whether it writes
nothing (R141, R186). -/
structure MOp where
  id : Nat
  instr : Instr
  addr : Nat
  stamp : Nat
  issued : Nat
  done : Nat
  base : Nat
  tiles : List Nat
  input : List (Nat × TileIn)
  descA : Desc
  descB : Desc
  capA : SMap (SMap Byte)
  capB : SMap (SMap Byte)
  panel : Option Panel
  hit : Bool
  dead : Bool
  deriving DecidableEq, Repr

/-- Lane-group state of a vertical bus (R236-R241). `count` holds each group's retry count and first-failure clock; `swapped` the
groups moved to spares; `marked` the groups waiting for a cut line. -/
structure Bus where
  health : BitVec 34
  wstate : Nat
  ack : Bool
  swapped : List (Nat × Nat)
  marked : List Nat
  count : SMap (Nat × Nat)
  degraded : Bool
  deriving DecidableEq, Repr

/-- A parity error that the outside injects on the next beat (R237): group, direction write, retry fails as well. -/
structure ParityErr where
  core : Nat
  group : Nat
  write : Bool
  retryFails : Bool
  deriving DecidableEq, Repr

/-- Power gate of a core (R233). -/
inductive Gate where
  | on | gating | gated | waking
  deriving DecidableEq, Repr

/-- A checkpoint (R73), or the entry state of task start when `entry` (R65); `opens` holds the open batch of each context (R416), `awaits` the named scalars
whose last write has no value yet: register, issue cycle and slot of that write. -/
structure Checkpoint where
  entry : Bool
  taken : Nat
  addr : Nat
  loops : List LoopLevel
  tcyc : Nat
  phaseno : BitVec 32
  flagsA : Word
  flagsB : Word
  fevrec : Word
  s : Vector Word 32
  p : BitVec 16
  g : Vector Desc 16
  rows : List (Nat × Nat)
  tiles : BitVec 16
  bufs : SMap Buf
  closed : List Nat
  opens : List Batch
  mapPhase : Nat
  awaits : List (Nat × Nat × Nat)
  deriving DecidableEq, Repr

/-- A window's registers (R368): WIN_BASE, WIN_PEER, WIN_ALLOW without OUTST, and OUTST. -/
structure Window where
  base : Word
  peer : Word
  allow : Word
  outst : Nat
  deriving DecidableEq, Repr

/-- A core: sequencer, registers, CSRs, streams, buffers, engines' issue side, bus and gate; `blank`: it has been gated and holds the reset state of R15 until
a launch is bound to it (R233). -/
structure Core where
  run : Run
  pc : BitVec 32
  loops : List LoopLevel
  tcyc : Nat
  nextIssue : Nat
  hold : Option Hold
  region : Region
  ckpt : Option Checkpoint
  cutTcyc : Nat
  endedAtCut : Bool
  triggered : Bool
  s : Vector Word 32
  p : BitVec 16
  k : Vector Mask 16
  rows : SMap Row
  g : Vector Desc 16
  x : Vector XReg 8
  sWr : Vector Nat 32
  pWr : Vector Nat 16
  gWr : Vector Nat 16
  pend : List PendWrite
  mops : List MOp
  mBusyUntil : Nat
  panel : Option Panel
  late : Option LateFault
  slim : Word
  flagsA : Word
  flagsB : Word
  fevrec : Word
  frec : Word
  oorrec : Word
  gkey : Word
  phaseno : BitVec 32
  win : SMap Window
  clk : Nat
  bufs : SMap Buf
  mapPhase : Nat
  ctx : Vector Ctx 8
  chan : SMap Nat
  bus : Bus
  gate : Gate
  lent : Nat
  bind : Option Nat
  reserve : Nat
  reserveUsed : Bool
  sysCount : BitVec 16
  blank : Bool
  deriving DecidableEq, Repr

/-! Accesses in flight -/

/-- Who makes an access (R141, R236): a core, a copy beat, a matrix operand, a matrix row, the routing engine, a block capture. -/
inductive AccKind where
  | core | copy | matrix | mrow | routing | block
  deriving DecidableEq, Repr

/-- A link of a mesh, a die crossing or a bridge row (R259, R262): kind as in DETAIL, and a number. -/
structure Link where
  kind : Nat
  num : Nat
  deriving DecidableEq, Repr

/-- A timed access to a slice (R141, R236, R260-R264): issuer, slot and bundle for FREC, issue cycle and stamp, bank cycle, target
slice, banks claimed, bus units, direction, links still to cross with their cycles, its bytes (package scratchpad addresses; those of
a remote access are checked against the buffers at the bank cycle), and whether it is a scratchpad atomic (R154, R155). `op` groups the accesses that fail together; `after`: the cycles by which
this beat follows the access's bank cycle (R236, R253); `unit`: the bus unit fixed at its claim, for the two rows of an MSAVE or MLOAD (R252). -/
structure Acc where
  op : Nat
  kind : AccKind
  core : Nat
  slot : Nat
  addr : Nat
  issued : Nat
  stamp : Nat
  cycle : Nat
  target : Nat
  banks : List Nat
  units : Nat
  write : Bool
  hops : List (Nat × Link)
  remote : Bool
  bytes : List Nat
  atom : Bool
  after : Nat := 0
  unit : Option Nat := none
  deriving DecidableEq, Repr

/-- A memory write that is not yet visible (R326, R327): visibility cycle, bank cycle (its place in the write order), operation, the core whose store it is
(768: none), bytes. -/
structure MemPend where
  vis : Nat
  bank : Nat
  op : Nat
  store : Nat
  data : List (Nat × Byte)
  deriving DecidableEq, Repr

/-- A change of a buffer's state that governs instructions issued from `due` (R147); engines apply last. -/
structure BufPend where
  due : Nat
  engine : Bool
  core : Nat
  buf : Nat
  st : BufState
  fkind : BitVec 4
  filler : Nat
  held : Bool
  deriving DecidableEq, Repr

/-- A Rill FIFO (R229-R231): rows with their ready cycles, oldest first; how many are ready; the producer's free-slot counter; the
cycles at which slots given up come back to it. -/
structure Rill where
  rows : List (Nat × Row)
  ready : Nat
  free : Nat
  freed : List Nat
  deriving DecidableEq, Repr

/-- A pair's FIFOs and its DISCARD count (R229, R243). -/
structure Pair where
  down : Rill
  up : Rill
  discard : Nat
  deriving DecidableEq, Repr

/-- A cluster's register block (R243, R244): retry limit and window, the vertical-bus log with its head and lost count, and which of
its records a management read has returned. -/
structure Cluster where
  rlim : Nat
  rwin : Nat
  vbhead : Nat
  vblost : Nat
  vblog : SMap Word
  vbread : List Nat
  deriving DecidableEq, Repr

/-- A stack's array ECC log (R245), crossings and clock (R266, R267, R271): log, head, lost count; the occupancy of each
crossing (its number x 8 + its kind, the DETAIL of R267) as its pointers stand, and the cycle of the last stretch, which moves it for a few cycles; the
cycle at which a realignment ends; the causes that hold the stack (0x30, 0x31); Dusk's temperature limits for a step down and for a freeze, in 1/16 °C;
the clusters (48: the stack's current) above the limit, with the wall time (plus 1) from which they are; those not yet 5 °C below it, and the wall time from
which none is; the cycle at which the crossings were last realigned; and Dusk's limit for the stack's current (0: none set). -/
structure Stack where
  ecc : SMap Word
  eccHead : Nat
  eccLost : Nat
  occ : SMap Nat
  droop : Option Nat
  realign : Option Nat
  critical : List (BitVec 8)
  limit : Nat
  crit : Nat
  above : SMap Nat
  warm : List Nat
  cool : Nat
  aligned : Nat
  amps : Nat
  deriving DecidableEq, Repr

/-! Images and launches (14) -/

/-- A core entry of a start vector (R302). -/
structure CoreEntry where
  core : Nat
  entry : Nat
  stack : Nat
  limit : Nat
  reserve : Nat
  gp : Nat
  param : Nat
  lend : Nat
  deriving DecidableEq, Repr

/-- A task record (R302), with the group's members. -/
structure Task where
  phase : Nat
  group : Nat
  members : List Nat
  nrange : Nat
  ranges : Nat
  deriving DecidableEq, Repr

/-- A pinned page (R279): the task's index and phase, virtual and physical address, size in bytes, access as MODE, and the part of it that the range
declares: first physical byte and length. -/
structure Pin where
  task : Nat
  phase : Nat
  va : Nat
  pa : Nat
  size : Nat
  mode : Nat
  lo : Nat
  len : Nat
  deriving DecidableEq, Repr

/-- What a completion report will say of a launch that has ended early (R318). -/
structure Ending where
  status : Nat
  frec : Word
  core : Nat
  fseq : Nat
  tcyc : Nat
  deriving DecidableEq, Repr

/-- Why a domain stops: a rewind that restarts by itself, a stop in place until a release, pre-emption, the half-width variant (R74,
R320, R324, R325). -/
inductive StopKind where
  | rewind | inPlace | preempt | variant
  deriving DecidableEq, Repr

/-- A stop of the domain under way (R74): cause and detail to record, kind, whether it waits for the next cut line, whether it has taken
effect, the slot from which the domain may restart (0: any; R405), the core that raised the cause with its TCYC then (0xFFFF: none), and the cycle
of the request, then of the stop. -/
structure Stop where
  cause : BitVec 8
  detail : BitVec 8
  kind : StopKind
  atCut : Bool
  stopped : Bool
  from_ : Nat
  core : Nat
  tcyc : Nat
  at_ : Nat
  deriving DecidableEq, Repr

/-- A launch that holds a bind entry (R308-R317): the entry's fields, the tasks of its start vector and what the launch has
reached.  `st` is STATE; `waiting`: dispatch has not prepared it yet; `plen` the length of the parameter copy; `committed` counts the phases
that have committed (phase progress + 1, R312); `level` the level at which it was bound;
`pins` its pinned pages; `stop` and `ending` how it stops; `saved` the cores of a pre-empted domain; `uncorr` the words read
uncorrectable; `pwfail` the posted writes that failed; `due` the wall time by which its first bundle is promised (R355). -/
structure Launch where
  bind : Nat
  st : Nat
  lid : Nat
  image : Nat
  svec : Nat
  queue : Nat
  asid : Nat
  half : Bool
  resume : Bool
  hbm : Nat
  start : Nat
  extab : Nat
  ctxa : Nat
  pcopy : Nat
  plen : Nat
  cores : List Nat
  tasks : List Task
  strict : Bool
  determ : Bool
  batchInv : Bool
  committed : Nat
  triggered : Bool
  level : Nat
  pins : List Pin
  stop : Option Stop
  ending : Option Ending
  saved : SMap Core
  uncorr : List Nat
  pwfail : Nat
  waiting : Bool
  due : Option Nat
  deriving DecidableEq, Repr

/-- An image slot (R299-R301): the image's bytes. -/
structure Image where
  bytes : List Byte
  deriving DecidableEq, Repr

/-- A launch word in a queue (R305): LID, image, start vector, its parameter copy, the graph replay it starts, the bind entry of a
pre-empted launch that has returned to its queue, the wall time of its acceptance, and whether Noon has pre-empted for it (R355). -/
structure QWord where
  lid : Nat
  image : Nat
  svec : Nat
  pcopy : List Byte
  graph : Option Nat
  resume : Option Nat
  since : Nat
  preempt : Bool
  deriving DecidableEq, Repr

/-- A launch queue (R304, R306): QCFG, words, LASTCODE, LASTLID, when its head became head (MCYC, and in wall time), and whether the launch bound last from it
has neither fired its trigger nor ended (its LID; 0: none). -/
structure Queue where
  cfg : Word
  words : List QWord
  lastCode : Nat
  lastLid : Nat
  headSince : Nat
  headWall : Nat
  level : Nat
  blockedBy : Nat
  deriving DecidableEq, Repr

/-- A graph replay (R316): queue, image, graph entry, and for each node its LID and whether it has been bound, has fired its trigger and has
completed. -/
structure Graph where
  queue : Nat
  image : Nat
  entry : Nat
  lids : List Nat
  bound : List Nat
  fired : List Nat
  done : List Nat
  deriving DecidableEq, Repr

/-! Package memory (13) -/

/-- A device fault (R281): its ring SEQ once written, the record's fields, and the command that waits on it (0: the dispatch of `bind`, or
nothing). -/
structure DevFault where
  seq : Option Nat
  source : Nat
  reason : Nat
  asid : Nat
  access : Nat
  va : Nat
  core : Nat
  ctx : Nat
  bind : Nat
  cmd : Nat
  deriving DecidableEq, Repr

/-- The memory-management block (R273): ASID registers; BASE and SIZE of the update ring, fault ring and migration log; counters; MIGEN
and HOTMIN. -/
structure Mmb where
  asids : SMap Word
  upd : Word
  fault : Word
  mig : Word
  uqTail : Nat
  uqDone : Nat
  frHead : Nat
  frTail : Nat
  mlHead : Nat
  mlTail : Nat
  cfg : Word
  deriving DecidableEq, Repr

/-- Access count of a block of 64 KiB, and its intervals without access in a row (R285). -/
structure Heat where
  count : Nat
  zeros : Nat
  deriving DecidableEq, Repr

/-- What asks for a move (R279, R285, R286): access counts, dispatch, an entry of the lifetime table. -/
inductive MoveFor where
  | heat
  | dispatch
  | tensor (id : Nat)
  deriving DecidableEq, Repr

def MoveFor.isTensor : MoveFor → Bool
  | .tensor _ => true
  | .heat | .dispatch => false

/-- A move of a block (R283, R284): ASID, VA, old and new frame, new tier, the places and values of the PTEs it read (none while it has not
started), what asks for it, and the wall time that a promise gives dispatch (R355). -/
structure Move where
  id : Nat
  asid : Nat
  va : Nat
  old : Nat
  new : Nat
  tier : Nat
  ptes : List (Nat × Word)
  why : MoveFor
  due : Option Nat
  deriving DecidableEq, Repr

/-- An entry of the tensor lifetime table (R217, R286). -/
structure Tensor where
  id : Nat
  asid : Nat
  va : Nat
  len : Nat
  first : Nat
  last : Nat
  bind : Nat
  near : Bool
  deriving DecidableEq, Repr

/-- An HBM stack (R289, R294): its log, and its refresh need: 0 single, 1 doubled, 2 more. -/
structure HbmStack where
  log : SMap Word
  head : Nat
  need : Nat
  deriving DecidableEq, Repr

/-- A timed HBM group that has been accepted (R290, R292): command, stack, pseudo-channel, bank, cycles of ACT and first column, columns. -/
structure HbmGroup where
  core : Nat
  cmd : Nat
  stack : Nat
  pc : Nat
  bank : Nat
  act : Nat
  col : Nat
  n : Nat
  deriving DecidableEq, Repr

/-! The host link and the management complex (16) -/

/-- A device message (R338-R342): number, type, FLAGS, ARG, payload, KEY of its list entry, STATE, and the IV that it is encrypted under. -/
structure SentMsg where
  seq : Nat
  typ : Nat
  flags : Nat
  arg : Nat
  payload : List Byte
  key : Nat
  st : Nat
  iv : BitVec 96
  deriving DecidableEq, Repr

/-- An entry of the received list (R341), with the FLAGS of the recorded answer (R338, R340). -/
structure Received where
  seq : Nat
  typ : Nat
  outcome : Nat
  key : Nat
  flags : Nat
  deriving DecidableEq, Repr

/-- The Niulo link (R340-R342): counters, messages sent under the key of this epoch, whether a session key stands, the two lists (the sent list holds the last 256 messages in full),
messages that wait for a key, the messages that the last RESEND repeated, bytes of MEMW that no INVAL has made readable yet, and whether
the link fails, so that no host memory can be reached (R281). -/
structure Niulo where
  lastRx : Nat
  lastTx : Nat
  invSeq : Nat
  hostAck : Nat
  epoch : Nat
  used : Nat
  keyed : Bool
  received : SMap Received
  sent : SMap SentMsg
  waiting : List SentMsg
  again : List SentMsg
  hostWrites : List (Nat × Byte)
  down : Bool
  deriving DecidableEq, Repr

/-- A controller (R346-R350): its registers, the watchdog's deadline, the standby hart's memory as staged and how far it has been staged, the active
image and the one that a rollback brings back (empty: the image of manufacture), the two records with the GEN last written, and whether a takeover
window is open. -/
structure Ctl where
  st : Nat
  active : Bool
  wdog : Nat
  beat : Word
  rollbacks : Nat
  lastRb : Nat
  page : Nat
  deadline : Option Nat
  staged : SMap Byte
  stagedLen : Nat
  image : List Byte
  old : List Byte
  record0 : List Byte
  record1 : List Byte
  gen : Nat
  window : Bool
  deriving DecidableEq, Repr

/-- A monitor (R352, R353); `cap` holds the captured copy, 32 words of 8 bytes. -/
structure Monitor where
  cfg : Word
  min : Nat
  max : Nat
  count : Nat
  gaps : Nat
  bins : SMap Nat
  cap : SMap Word
  deriving DecidableEq, Repr

/-- The security block (R354): registers, the identity key, the log of the alarms: MCYC, trigger, level; and the clusters whose temperature stands outside
its bounds. -/
structure Sec where
  nonce : SMap Word
  rptAddr : Nat
  done : Bool
  badAddr : Bool
  rptLen : Nat
  alarmCfg : Nat
  digest : List Byte
  idKey : Bool
  alarms : List (Nat × Nat × Nat)
  outside : List Nat
  deriving DecidableEq, Repr

/-! Engine commands (08) -/

/-- Where an untimed operation counts (R205, R416): nowhere, in the open batch, in a closed batch, or detached by a rewind. -/
inductive BatchRef where
  | none
  | opn
  | num (n : Nat)
  | detached
  deriving DecidableEq, Repr

/-- What an engine command is doing: issued, captured, started (or running), waiting on a copy fault, waiting outside (host, fabric,
journal). -/
inductive CmdStage where
  | issued | captured | running | faulted | away
  deriving DecidableEq, Repr

/-- An engine command or service request in flight (R192-R220): who issued it and when, the instruction, its context and batch, T_S
and start cycle, duration, the names of its accesses (`span` of them from `base`) and those of them that failed, the captured block,
what it has read or counted so far, its record, the batch it joined at issue with its place in it (R373), the first beat that an untimed copy has not
written (R207), and the elements whose bytes or scales HBM could not read, as run, first element and number (R293). -/
structure Cmd where
  id : Nat
  core : Nat
  bind : Option Nat
  slot : Nat
  addr : Nat
  stamp : Nat
  issued : Nat
  instr : Instr
  ctx : Nat
  timed : Bool
  batch : BatchRef
  tS : Nat
  start : Nat
  dur : Nat
  base : Nat
  span : Nat
  lost : List Nat
  block : Desc
  stage : CmdStage
  writing : Bool
  args : List Word
  data : SMap (SMap Byte)
  flags : BitVec 6
  status : BitVec 8
  detail : BitVec 8
  value : BitVec 32
  bno : Nat
  pos : Nat
  dead : Bool
  beat : Nat
  bad : List (Nat × Nat × Nat)
  deriving DecidableEq, Repr

/-- An access to the coherent window on its way (R295): cycle at which it reaches the window, issuer, offset, length, data, and for a load
its destination and sign extension. -/
structure WinAcc where
  cycle : Nat
  op : Nat
  core : Nat
  slot : Nat
  addr : Nat
  issued : Nat
  stamp : Nat
  off : Nat
  len : Nat
  write : Bool
  data : Nat
  sd : BitVec 5
  sext : Bool
  deriving DecidableEq, Repr

/-! The fabric (17) -/

/-- A cell that waits in the queue of its destination (R367): entry cycle, issuing core and slot; destination pod x 64 + package; what
R364 carries; the window it counts in (0: none), the command it belongs to (0: none), the issuer's bind entry, and the first PSLOT in which it may be sent. -/
structure OutCell where
  entry : Nat
  core : Nat
  slot : Nat
  dest : Nat
  kind : BitVec 8
  addr : Nat
  data : List Byte
  op : BitVec 8
  fmt : BitVec 8
  cmd : BitVec 32
  step : Nat
  last : Bool
  win : Nat
  cmdId : Nat
  bind : Option Nat
  ready : Nat
  deriving DecidableEq, Repr

/-- A cell that has been sent and not acknowledged (R365): SEQ, the slots of its first and of its last sending, the clock cycle at which the first began
(R352); `via`: the line on which it left last, as port x 128 + line + 1 (0: none of a plane); `lost`: that line left its window in that slot (R404). -/
structure Unacked where
  seq : Nat
  first : Nat
  slot : Nat
  cell : OutCell
  since : Nat
  via : Nat
  lost : Bool
  deriving DecidableEq, Repr

/-- The sending side of a pair (R365, R380): next SEQ, unacknowledged cells, SEQ from which it sends again, whether the queue is held, and the cells
that are acknowledged while the pair still has refusals to return (R370). -/
structure Dest where
  next : Nat
  unacked : List Unacked
  again : Option Nat
  held : Bool
  undecided : List Unacked
  deriving DecidableEq, Repr

/-- The receiving side of a pair (R365, R370): next expected SEQ, cells held for reordering, the refused SEQs still to return. -/
structure Source where
  next : Nat
  held : SMap Cell
  refused : List Nat
  deriving DecidableEq, Repr

/-- An address group (R375). -/
structure AddrGroup where
  members : Word
  valid : Bool
  out : SMap Nat
  stage : SMap Nat
  deriving DecidableEq, Repr

/-- A repair patch (R381) at its home, and at a package that it changes: the packages whose acknowledgement is missing, those that have missed an
earlier issue of it, whether it waits for its slot here, whether it has switched here, whether the home has cancelled it and not planned it again. -/
structure PatchState where
  patch : Patch
  atHome : Bool
  missing : List Nat
  missed : List Nat
  pending : Bool
  applied : Bool
  cancelled : Bool
  deriving DecidableEq, Repr

/-- A fabric command that runs (R373-R379): its command and key, the re-issued commands that complete with it, the cells it still waits for
and how many were refused or failed; for a collective: group, members that announced, cells formed and not yet queued, bytes of its output
written, the first elements of the pieces that are final at this member; flags; whether it is done; how many cells it has formed. -/
structure FabCmd where
  cmd : Nat
  key : Nat
  alias_ : List Nat
  waiting : Nat
  refused : Nat
  group : Nat
  heard : List Nat
  todo : List OutCell
  got : Nat
  final : List Nat
  flags : BitVec 6
  done : Bool
  formed : Nat
  deriving DecidableEq, Repr

/-- The fabric unit (R356-R388): own numbers, LIVEPEERS, the queue of cells not yet sent; PSLOT and the clock cycle on which it last rose; pairs by destination and by source (pod x
64 + package); slot entries and shadow entries that differ from the default pattern, by (port x 8 + lane) x 64 + slot, with bit 32 set;
lane versions; failed lines (port, line); fault log; address groups, pod group map, path table; home; patches; cells held for a relay
slot; virtual channels; running commands.  `remote` holds arrivals of other packages (Machine.Fabric gives its keys), `out` the cell each
lane sent in its last slot, by port x 8 + lane; `slip` says that cells of this superstep were held or sent again (R384), `slipDue` that the slip of a
superstep that has ended is still to be logged (R408); `failed`: the faulty lines that have failed and not drifted (R384); `phase` is how far the slot
has come (Machine.Fabric gives its unit), `lanes` how many lanes have sent in it, in the order of R367; `reports` the lines of other packages that the home
has been told of (R381): package, port, line. -/
structure Fabric where
  pkg : Nat
  pod : Nat
  livePeers : Word
  queue : List OutCell
  pslot : Nat
  slotAt : Nat
  dests : SMap Dest
  srcs : SMap Source
  slots : SMap Word
  shadow : SMap Word
  versions : SMap Nat
  faulty : List (Nat × Nat)
  log : SMap Word
  logHead : Nat
  groups : SMap AddrGroup
  podMap : SMap Nat
  path : SMap Word
  home : Nat
  patches : List PatchState
  relay : List Cell
  chans : SMap (List Cell)
  running : List FabCmd
  remote : SMap (Nat × Nat × Nat)
  out : SMap Cell
  slip : Bool
  phase : Nat
  lanes : Nat
  reports : List (Nat × Nat × Nat)
  slipDue : Bool
  failed : List (Nat × Nat)
  deriving DecidableEq, Repr

/-- A journal ring that this package holds for another (R390): base, PRCUR, PTCUR, and the other's INST as it last told (R400). -/
structure Ring where
  base : Nat
  prcur : Nat
  ptcur : Nat
  inst : Nat
  deriving DecidableEq, Repr

/-- A record's place in the journal (R393, R394): its cursor value, RECLEN, KIND, the fields that commands compare, EMSEQ, the JRNL
command that waits for it, and the launch that issued it (LID). -/
structure Rec where
  at_ : Nat
  len : Nat
  kind : Nat
  recno : Nat
  seqid : Nat
  step : Nat
  token : Nat
  cls : Nat
  emseq : Nat
  core : Nat
  batch : Nat
  cmd : Nat
  lid : Nat
  deriving DecidableEq, Repr

/-- The journal unit (R389-R402): JPARTNER, cursors, next RECNO, base of the shadow ring, records from TCUR on, the discarded records before
TCUR whose launch still holds a bind entry (R395), JRNL commands captured and waiting, emissions held, rings held for others, replay extracts (address and length, by package), and the package that receives a copy of the
journal with the cursor value that the copy reaches (R399). -/
structure Journal where
  partner : Nat
  valid : Bool
  lostPartner : Bool
  inst : Nat
  wcur : Nat
  acur : Nat
  tcur : Nat
  recno : Nat
  shadow : Nat
  recs : List Rec
  passed : List Rec
  jrnls : List Nat
  emits : List Nat
  rings : SMap Ring
  extracts : SMap (Nat × Nat)
  copying : Option (Nat × Nat)
  deriving DecidableEq, Repr

/-! The step's own bookkeeping -/

/-- The bundle being issued: core, address, length, idle count, literals, slot, the control transfer made in it (R48), the
address the next bundle comes from, and the record of its first out-of-range access (R82, R143). -/
structure Ix where
  core : Nat
  addr : Nat
  len : Nat
  idle : Nat
  lits : List (BitVec 32)
  slot : Nat
  transfer : Bool
  next : Nat
  oor : Option Word
  deriving DecidableEq, Repr

/-- An event that the spec puts on an exact later cycle, with its place in that cycle. -/
structure Agenda where
  at_ : Nat
  prio : Nat
  ev : Instr
  deriving DecidableEq, Repr

/-- An event of the outside: cycle, event and what comes with it. -/
structure Input where
  at_ : Nat
  ev : Instr
  stim : Stim
  deriving DecidableEq, Repr

/-- Where the current cycle stands: its events, the cores still to issue, and what follows the issues. -/
inductive Stage where
  | events
  | issue (q : List Nat)
  | after
  deriving DecidableEq, Repr

/-- The package.  `wall` is the wall time since reset, in the unit of `Fabric.phase`; `near` holds, for each 64 KiB frame of the near tier in use, the ASID plus 1 and the VA of its block. -/
structure State where
  mem : Memory
  clock : Nat
  wall : Nat
  stage : Stage
  ix : Ix
  stim : Stim
  agenda : List Agenda
  inputs : List Input
  freeCount : Nat
  nextId : Nat
  cores : SMap Core
  accs : List Acc
  memPend : List MemPend
  memRecent : SMap Nat
  bufPend : List BufPend
  pairs : SMap Pair
  binds : SMap Launch
  winAcc : List WinAcc
  fab : Fabric
  cmds : List Cmd
  groups : SMap (Nat × List Nat)
  sysWait : List Nat
  sysOut : List Nat
  images : SMap Image
  queues : SMap Queue
  graphs : SMap Graph
  nextLid : Nat
  lastBound : SMap Nat
  paramBase : Nat
  mmb : Mmb
  devFaults : List DevFault
  heat : SMap Heat
  moves : List Move
  tensors : List Tensor
  near : SMap (Nat × Nat)
  hbm : SMap HbmStack
  hbmGroups : List HbmGroup
  badWords : List Nat
  link : Niulo
  ctls : SMap Ctl
  mons : SMap Monitor
  sec : Sec
  jrn : Journal
  freq : Nat
  clusters : SMap Cluster
  dieStacks : SMap Stack
  parity : List ParityErr
  flips : SMap Nat
  deriving DecidableEq, Repr

/-- Why the machine stops with a fault. -/
inductive Fault where
  /-- A step of the part names a core, context, stack or other unit that the part does not have (R1, R2).  Raised by the steps that
  take such a number.  Safe: the part has no such event. -/
  | noSuchUnit
  deriving DecidableEq, Repr

/-- Why an instruction is refused. -/
inductive Refusal where
  /-- The instruction has no meaning in the model yet.  Raised by Dispatch's arm only.  Safe: nothing is claimed of it. -/
  | notModelled (mnemonic : String)
  deriving DecidableEq, Repr

/-! Reset -/

def Buf.undeclared : Buf := ⟨0, 0, .empty, false, 0, 0, false⟩

def Batch.empty : Batch := ⟨0, 0, 0, 0, 0, 0⟩

def Ctx.init : Ctx := ⟨0, .empty, [], 0, 0, 0⟩

def Bus.init : Bus := ⟨BitVec.allOnes 34, 0, false, [], [], [], false⟩

def Window.init : Window := ⟨0, 0, 0, 0⟩

/-- A core after reset (R13, R15, R79, R80, R235): no task, every register at its reset value. -/
def Core.init : Core :=
  { run := .off, pc := 0, loops := [], tcyc := 0, nextIssue := 0, hold := none,
    region := ⟨.normal, 0, 0, false⟩, ckpt := none, cutTcyc := 0, endedAtCut := false, triggered := false,
    s := .replicate 32 0, p := 1, k := (Vector.replicate 16 (0 : Mask)).set 0 (BitVec.allOnes 512), rows := [],
    g := .replicate 16 0, x := .replicate 8 ⟨0, false, 0, none⟩,
    sWr := .replicate 32 0, pWr := .replicate 16 0, gWr := .replicate 16 0,
    pend := [], mops := [], mBusyUntil := 0, panel := none, late := none,
    slim := 0, flagsA := 0, flagsB := 0, fevrec := 0, frec := 0, oorrec := 0, gkey := 0, phaseno := 0,
    win := [], clk := 0, bufs := [], mapPhase := 0, ctx := .replicate 8 .init, chan := [],
    bus := .init, gate := .on, lent := 0, bind := none, reserve := 0, reserveUsed := false, sysCount := 0, blank := false }

def Launch.free : Launch :=
  { bind := 0, st := 0, lid := 0, image := 0, svec := 0, queue := 0, asid := 0, half := false, resume := false, hbm := 0,
    start := 0, extab := 0, ctxa := 0, pcopy := 0, plen := 0, cores := [], tasks := [], strict := false, determ := false, batchInv := false,
    committed := 0, triggered := false, level := 0, pins := [], stop := none, ending := none, saved := [], uncorr := [],
    pwfail := 0, waiting := false, due := none }

def Cluster.init : Cluster := ⟨4, 850000, 0, 0, [], []⟩

def Stack.init : Stack := ⟨[], 0, 0, [], none, none, [], 1520, 1760, [], [], 0, 0, 0⟩

def Rill.init : Rill := ⟨[], 0, 16, []⟩

def Pair.init : Pair := ⟨.init, .init, 0⟩

def Dest.init : Dest := ⟨1, [], none, false, []⟩

def Source.init : Source := ⟨1, [], []⟩

def Fabric.init : Fabric :=
  { pkg := 0, pod := 0, livePeers := 1, queue := [], pslot := 0, slotAt := 0, dests := [], srcs := [], slots := [], shadow := [], versions := [],
    faulty := [], log := [], logHead := 0, groups := [], podMap := [], path := [], home := 0, patches := [], relay := [], chans := [],
    running := [], remote := [], out := [], slip := false, phase := 0, lanes := 0, reports := [],
    slipDue := false, failed := [] }

def AddrGroup.init : AddrGroup := ⟨0, false, [], []⟩

def Ring.init : Ring := ⟨0, 0, 0, 0⟩

def Journal.init : Journal :=
  { partner := 0, valid := false, lostPartner := false, inst := 0, wcur := 0, acur := 0, tcur := 0, recno := 0, shadow := 0, recs := [], passed := [],
    jrnls := [], emits := [], rings := [], extracts := [], copying := none }

def Queue.init : Queue := ⟨7, [], 0, 0, 0, 0, 7, 0⟩

def Mmb.init : Mmb := ⟨[], 0, 0, 0, 0, 0, 0, 0, 0, 0, 0x4001⟩

def HbmStack.init : HbmStack := ⟨[], 0, 0⟩

def SentMsg.none : SentMsg := ⟨0, 0, 0, 0, [], 0, 0, 0⟩

def Received.none : Received := ⟨0, 0, 0, 0, 0⟩

def Niulo.init : Niulo := ⟨0, 0, 0, 0, 0, 0, true, [], [], [], [], [], false⟩

def Ctl.init : Ctl := ⟨0, false, 42500000, 0, 0, 0, 0, none, [], 0, [], [], [], [], 0, false⟩

def Monitor.init : Monitor := ⟨0, 0xFFFFFFFF, 0, 0, 0, [], []⟩

def Sec.init : Sec := ⟨[], 0, false, false, 0, 0x2B, [], true, [], []⟩

def noMsg : HostMsg := ⟨0, 0, 0, 0, [], true, 0⟩

def noCell : Cell := ⟨0, 0, 0, 0, 0, 0, 0, 0, 0, 0, 0, 0, 0, 0, []⟩

/-- Nothing presented by the outside: no message, no port (ports are 0 to 15). -/
def noStim : Stim :=
  { msg := noMsg, cell := ⟨0, 0, true, noCell⟩, patch := ⟨0, 0, 0, 0, 0, 0, 0, 0, 0⟩, report := ⟨0, 0, 0, false⟩,
    reg := .mgmt 0, mon := .pkg 0, unit := 16, index := 0, value := 0 }

/-- The package right after reset. -/
def State.reset : State :=
  { mem := [], clock := 0, wall := 0, stage := .events, ix := ⟨0, 0, 0, 0, [], 0, false, 0, none⟩, stim := noStim,
    agenda := [⟨850000, 150, .hotnessInterval⟩], inputs := [], freeCount := 0, nextId := 1,
    cores := [], accs := [], memPend := [], memRecent := [], bufPend := [], pairs := [], binds := [], winAcc := [], fab := .init, cmds := [], groups := [],
    sysWait := [], sysOut := [], images := [], queues := [], graphs := [], nextLid := 1, lastBound := [], paramBase := 0, mmb := .init,
    devFaults := [], heat := [], moves := [], tensors := [], near := [], hbm := [], hbmGroups := [], badWords := [], link := .init, ctls := [],
    mons := [], sec := .init, jrn := .init, freq := 16,
    clusters := [], dieStacks := [], parity := [], flips := [] }

end Sys2Proof.Machine
end

