-- ==== Sys2Proof/Machine/Ops.lean ====
section
/-! DEFINITION. The operations that the meanings share: places of the part, memory, writes in flight, accesses to slices with
their checks, scheduling, and taking an exception (R12, R76) with the return from it (R75 is `Sys2Proof.Machine.execRestart`). -/

namespace Sys2Proof.Machine

/-! Numbers of the part (R1, R2, R228, R258) -/

def coreCount : Nat := 768
def coreStack (n : Nat) : Nat := n / 384
def coreDie (n : Nat) : Nat := n / 192 % 2
def coreX (n : Nat) : Nat := n % 192 % 24
def coreY (n : Nat) : Nat := n % 192 / 24
def coreUpper (n : Nat) : Bool := coreDie n == 1
/-- The cluster's number in the package: stack x 24 + R2's number within the stack. -/
def coreCluster (n : Nat) : Nat := coreStack n * 24 + coreY n / 2 * 6 + coreX n / 4
/-- The cluster-local number of R228. -/
def coreLocal (n : Nat) : Nat := coreDie n * 8 + coreY n % 2 * 4 + coreX n % 4
/-- The other core of the pair (R228). -/
def corePartner (n : Nat) : Nat := if coreUpper n then n - 192 else n + 192
/-- The pair's number: the lower core's position in the package. -/
def corePair (n : Nat) : Nat := coreStack n * 192 + n % 192
/-- The lower core of a pair. -/
def pairLower (p : Nat) : Nat := p / 192 * 384 + p % 192
/-- The slice's first package scratchpad address (R140). -/
def sliceBase (n : Nat) : Nat := coreStack n * 2 ^ 31 + coreDie n * 2 ^ 30 + n % 192 * 2 ^ 22
/-- The core whose slice holds package scratchpad address a (bits 31:0), when CORE is below 192 (R142, R258). -/
def coreOfAddr (a : Nat) : Option Nat :=
  let i := a / 2 ^ 22 % 256
  if i < 192 then some (a / 2 ^ 31 % 2 * 384 + a / 2 ^ 30 % 2 * 192 + i) else none

/-! The regions of the model's one memory: far tier and host at their physical addresses (R277), the SRAM array at the near
tier's addresses (R270), the coherent window (R295) and the code stores (R14) at addresses beyond the 52 physical bits. -/

def nearBase : Nat := 0x8_0000_0000_0000
def windowBase : Nat := 2 ^ 52
def codeBase (n : Nat) : Nat := 2 ^ 53 + n * 2 ^ 18

/-- What an unlisted byte reads as. -/
def memDefault : Byte := 0

/-- The canonical form of memory. -/
abbrev Memory.wf (m : Memory) : Bool := SMap.wf memDefault m

def memByte (m : Memory) (a : Nat) : Byte := SMap.get memDefault m a
def memWriteByte (m : Memory) (a : Nat) (b : Byte) : Memory := SMap.put memDefault m a b
def memWriteAll (m : Memory) (l : List (Nat × Byte)) : Memory := SMap.putAll memDefault m l

/-- Little-endian value of a list of bytes (R6). -/
def leNat : List Byte → Nat
  | [] => 0
  | b :: r => b.toNat + 256 * leNat r

/-- n bytes of a value, least significant first (R6). -/
def leBytes : Nat → Nat → List Byte
  | 0, _ => []
  | n + 1, v => BitVec.ofNat 8 v :: leBytes n (v / 256)

def memBytes (m : Memory) (a n : Nat) : List Byte := (List.range n).map fun i => memByte m (a + i)
def memNat (m : Memory) (a n : Nat) : Nat := leNat (memBytes m a n)

/-- Bits lo to lo + n - 1 of a natural number. -/
def bitsOf (v lo n : Nat) : Nat := v / 2 ^ lo % 2 ^ n

/-! Signed readings -/

def signed (w v : Nat) : Int := if v % 2 ^ w < 2 ^ (w - 1) then (v % 2 ^ w : Nat) else (v % 2 ^ w : Nat) - (2 ^ w : Nat)
def unsignedOf (w : Nat) (v : Int) : Nat := (v % (2 ^ w : Nat)).toNat
def ceilDiv (a b : Nat) : Nat := (a + b - 1) / b
def alignDown (a n : Nat) : Nat := a / n * n

/-! Cores of the state -/

def State.core (s : State) (n : Nat) : Core := SMap.get Core.init s.cores n
def State.setCore (s : State) (n : Nat) (c : Core) : State := { s with cores := SMap.put Core.init s.cores n c }
def State.modCore (s : State) (n : Nat) (f : Core → Core) : State := s.setCore n (f (s.core n))
/-- The core of the bundle being issued. -/
def State.cur (s : State) : Core := s.core s.ix.core
def State.modCur (s : State) (f : Core → Core) : State := s.modCore s.ix.core f
def State.pair (s : State) (n : Nat) : Pair := SMap.get Pair.init s.pairs n
def State.setPair (s : State) (n : Nat) (p : Pair) : State := { s with pairs := SMap.put Pair.init s.pairs n p }

def State.launch (s : State) (b : Nat) : Launch := SMap.get Launch.free s.binds b
def State.setLaunch (s : State) (b : Nat) (l : Launch) : State := { s with binds := SMap.put Launch.free s.binds b l }
def State.modLaunch (s : State) (b : Nat) (f : Launch -> Launch) : State := s.setLaunch b (f (s.launch b))
/-- The launch bound to core n. -/
def State.launchOf (s : State) (n : Nat) : Option Launch := (s.core n).bind.map s.launch

def State.cluster (s : State) (n : Nat) : Cluster := SMap.get Cluster.init s.clusters n
def State.setCluster (s : State) (n : Nat) (c : Cluster) : State := { s with clusters := SMap.put Cluster.init s.clusters n c }
def State.stackAt (s : State) (n : Nat) : Stack := SMap.get Stack.init s.dieStacks n
def State.setStack (s : State) (n : Nat) (x : Stack) : State := { s with dieStacks := SMap.put Stack.init s.dieStacks n x }

def Core.sreg (c : Core) (r : BitVec 5) : Word := c.s[r.toNat]'(r.isLt)
def Core.setSreg (c : Core) (r : BitVec 5) (v : Word) : Core := { c with s := c.s.set r.toNat v r.isLt }
/-- p0 reads true (R78). -/
def Core.preg (c : Core) (r : BitVec 4) : Bool := r == 0 || c.p.getLsbD r.toNat
/-- k0 selects all lanes (R78). -/
def Core.kreg (c : Core) (r : BitVec 4) : Mask := if r == 0 then BitVec.allOnes 512 else c.k[r.toNat]'(r.isLt)
def Core.row (c : Core) (r : Nat) : Row := SMap.get 0 c.rows r
def Core.setRow (c : Core) (r : Nat) (v : Row) : Core := { c with rows := SMap.put 0 c.rows r v }
def Core.greg (c : Core) (r : BitVec 4) : Desc := c.g[r.toNat]'(r.isLt)
def Core.setGreg (c : Core) (r : BitVec 4) (v : Desc) : Core := { c with g := c.g.set r.toNat v r.isLt }
def Core.buf (c : Core) (b : Nat) : Buf := SMap.get .undeclared c.bufs b
def Core.setBuf (c : Core) (b : Nat) (v : Buf) : Core := { c with bufs := SMap.put .undeclared c.bufs b v }
def Core.ctxAt (c : Core) (r : BitVec 3) : Ctx := c.ctx[r.toNat]'(r.isLt)
def Core.setCtx (c : Core) (r : BitVec 3) (v : Ctx) : Core := { c with ctx := c.ctx.set r.toNat v r.isLt }
def Core.xreg (c : Core) (r : BitVec 3) : XReg := c.x[r.toNat]'(r.isLt)
def Core.setXreg (c : Core) (r : BitVec 3) (v : XReg) : Core := { c with x := c.x.set r.toNat v r.isLt }

/-- The predicate of an instruction holds (R17, R27). -/
def Core.holds (c : Core) (p : Pred) : Bool := c.preg p.reg != p.neg

/-- The loop depth (R13). -/
def Core.ldepth (c : Core) : Nat := c.loops.length

/-! Names, free values and scheduling -/

/-- A new name for an operation in flight. -/
def State.fresh (s : State) : Nat × State := (s.nextId, { s with nextId := s.nextId + 1 })

/-- A free value of Config: the counter advances, so that each is a new one. -/
def State.freeNat (s : State) : Nat × State := (Config.freeNat s.freeCount, { s with freeCount := s.freeCount + 1 })

/-- Put an event on a cycle, before those of a later cycle or a higher place, after those of the same. -/
def insertAgenda (a : Agenda) : List Agenda → List Agenda
  | [] => [a]
  | b :: r => if a.at_ < b.at_ || (a.at_ == b.at_ && a.prio < b.prio) then a :: b :: r else b :: insertAgenda a r

def State.schedule (s : State) (at_ prio : Nat) (ev : Instr) : State :=
  { s with agenda := insertAgenda ⟨at_, prio, ev⟩ s.agenda }

/-- Put an event on a cycle unless it stands there already. -/
def State.scheduleOnce (s : State) (at_ prio : Nat) (ev : Instr) : State :=
  if s.agenda.any fun a => a.at_ == at_ && a.ev == ev then s else s.schedule at_ prio ev

/-! Time -/

/-- The unit of wall time, in which a cycle of the arithmetic clock at k x 53.125 MHz is a whole number for every k up to 16 (R268): 720,720 to a cycle of
the fabric clock, which is never stepped (R4, R361) and of which a slot has 24. -/
def slotLength : Nat := 24 * 720720
def fabricStep (freq : Nat) : Nat := 16 * 720720 / freq

/-- A microsecond of wall time: 850 cycles of the fabric clock. -/
def microsecond : Nat := 850 * 720720

/-- Cycles at the present frequency (R268) until that much more wall time has passed. -/
def State.cyclesFor (s : State) (time : Nat) : Nat := ceilDiv time (fabricStep s.freq)

/-! The places of events within a cycle: what becomes visible, completions, captures and claims, mesh, banks, the window, the
fabric; from 100 on, what follows the issues of the cycle. -/

def prioVisible : Nat := 0
def prioMatrix : Nat := 1
def prioXlat : Nat := 2
def prioComplete : Nat := 3
def prioGate : Nat := 4
def prioStart : Nat := 10
def prioCapture : Nat := 20
def prioBeat : Nat := 22
def prioClaim : Nat := 23
def prioRowClaim : Nat := 24
def prioHbm : Nat := 25
def prioMesh : Nat := 30
def prioBank : Nat := 40
/-- Captures of untimed commands: after the banks, so that a conflict on the block stops them. -/
def prioCaptureUntimed : Nat := 45
def prioWindow : Nat := 50
def prioCell : Nat := 60
/-- The stop of held and ended cores for a fault found after issue (R419): the last of the cycle's events. -/
def prioLate : Nat := 99
/-- The counts of a PGQ: after the issues of its cycle, before what is decided then (R248). -/
def prioCount : Nat := 120
def prioAfter : Nat := 150
def prioDecision : Nat := 200

/-- Noon decides in this cycle (R307). -/
def State.decideSoon (s : State) : State := s.scheduleOnce s.clock prioDecision .bindDecision

/-! Exceptions -/

/-- Why a bundle is not carried out: cause and detail (R11, R77), the slot recorded, and what is written all the same: an OORREC word (R143), LASTCODE of
the queue whose LAUNCH register stands at a window offset (R303). -/
structure Trap where
  cause : BitVec 8
  detail : BitVec 8
  slot : Nat
  oor : Option Word
  launch : Option Nat
  deriving DecidableEq, Repr

/-- An instruction's meaning inside a bundle: it reads and checks the state before the bundle, and adds its effects to what the
lower slots have left (R8, R42). -/
abbrev Op := State → State → Except Trap State

/-- A trap of the slot being issued. -/
def trapAt (s : State) (cause detail : BitVec 8) : Trap := ⟨cause, detail, s.ix.slot, none, none⟩

/-- A fault record (R76). -/
def frecWord (cause detail : BitVec 8) (slot : Nat) (sealed : Bool) (addr : Nat) : Word :=
  BitVec.ofNat 64 (cause.toNat + detail.toNat * 2 ^ 8 + slot % 16 * 2 ^ 16 + (if sealed then 2 ^ 20 else 0) + addr % 2 ^ 18 * 2 ^ 32)

/-- The recoverable causes that a core raises (R11, R12): a clock-crossing slip, a stamp mismatch, the vertical bus. -/
def recoverable (cause : BitVec 8) : Bool := cause == 0x10 || cause == 0x11 || cause == 0x1A || cause == 0x1B

/-- STATUS of a launch that a core's fault ends (R318). -/
def endStatus (cause detail : BitVec 8) : Nat :=
  if cause = 0x04 then 6
  else if (cause == 0x1A && detail == 0x04) || cause == 0x20 then 8
  else if recoverable cause then 5 else 1

/-- The domain is to stop 64 cycles from now (R76), and its launch to end (R318): the core named is the first to stop, of those of one cycle,
or of those that record one slip (R267), the lowest. -/
def State.endLaunch (s : State) (b n : Nat) (cause detail : BitVec 8) (frec : Word) (tcyc : Nat) : State :=
  let l := s.launch b
  let e : Ending := ⟨endStatus cause detail, frec, n, 0, tcyc⟩
  let same := s.agenda.any fun a => a.at_ == s.clock + 64 && a.ev == .domainStop b
  let named : Ending := match l.ending with
    | none => e
    | some o =>
      let slip := cause = 0x10 && bitsOf o.frec.toNat 0 8 = 0x10
      if (same || slip) && n < o.core && o.fseq = 0 then e else o
  (s.setLaunch b { l with ending := some named }).scheduleOnce (s.clock + 64) prioAfter (.domainStop b)

/-- The core takes an exception (R12, R76): FREC records it and the core issues nothing further.  A program error stops the rest of
the domain 64 clock cycles later; a recoverable cause asks for a freeze of the domain, except in a sealed region and for a
repeated uncorrectable word (R74, R238), which end the launch as a program error does.  A core takes 0x10 itself only where a sealed region of its domain
has met the slip. -/
def State.takeException (s : State) (n : Nat) (cause detail : BitVec 8) (slot addr : Nat) : State :=
  let c := s.core n
  let sealed := c.region.kind == .sealed
  let s := s.setCore n
    { c with frec := frecWord cause detail slot sealed addr, late := none, hold := none,
             run := if c.run == .ended then .ended else .stopped }
  match c.bind with
  | none => s
  | some b =>
    if recoverable cause && !sealed && cause ≠ 0x10 && !(cause == 0x1A && detail == 0x04) then
      s.scheduleOnce s.clock prioAfter (.freeze ⟨b, cause, detail, false⟩)
    else s.endLaunch b n cause detail (frecWord cause detail slot sealed addr) c.tcyc

/-- A store to a LAUNCH register that presents no launch word leaves reason 0x01 in LASTCODE (R303). -/
def State.badLaunch (s : State) (off : Nat) : State :=
  if 0x200 ≤ off then s
  else { s with queues := SMap.put .init s.queues (off / 8) { SMap.get .init s.queues (off / 8) with lastCode := 1 } }

/-- The trap of the bundle being issued, with the OORREC word that strict mode writes all the same (R143), and the LASTCODE of a malformed
store to LAUNCH (R303). -/
def State.takeTrap (s : State) (t : Trap) : State :=
  let s := match t.oor with
    | none => s
    | some w => s.modCur fun c => if c.oorrec.getLsbD 41 then c else { c with oorrec := w }
  let s := match t.launch with
    | some off => s.badLaunch off
    | none => s
  s.takeException s.ix.core t.cause t.detail t.slot s.ix.addr

/-- Run one instruction as a bundle of its own: the effects, or the exception (R42). -/
def runOp (f : Op) (s : State) : Host.Outcome State Fault Refusal :=
  match f s s with
  | .ok t => .next t
  | .error t => .next (s.takeTrap t)

/-- The order of R419 among faults: the one that arose first, then by issue, slot, cause and detail. -/
def LateFault.before (a b : LateFault) : Bool :=
  if a.arose ≠ b.arose then a.arose < b.arose
  else if a.issued ≠ b.issued then a.issued < b.issued
  else if a.slot ≠ b.slot then a.slot < b.slot
  else if a.cause ≠ b.cause then a.cause.toNat < b.cause.toNat
  else a.detail.toNat < b.detail.toNat

/-- A fault found after issue (R419): the core keeps the first.  An issuing core stops with it at its next bundle boundary; a held core stops, and an
ended core records it, in this cycle, once the cycle's other faults are known (BUNDLE_ISSUE, `Sys2Proof.Machine.State.settleLate`); an ended core records no
second one.  DESIGN CHOICE (log 46): a core that has stopped already, a frozen one among them, records nothing. -/
def State.lateFault (s : State) (n : Nat) (cause detail : BitVec 8) (slot addr issued : Nat) : State :=
  let c := s.core n
  let f : LateFault := ⟨s.clock, issued, slot, cause, detail, addr, false⟩
  let best := match c.late with
    | none => f
    | some g => if !g.done && f.before g then f else g
  match c.run with
  | .held | .ended | .waiting =>
    (s.setCore n { c with late := some best }).scheduleOnce s.clock (if s.stage = .events then prioLate else prioAfter) (.bundleIssue n)
  | .running => s.setCore n { c with late := some best }
  | .off | .frozen | .stopped => s

/-- A held core leaves its rendezvous, which is forgotten for every member (R419): the others stay held, and arrive at nothing. -/
def State.leaveRendezvous (s : State) (n : Nat) : State :=
  match (s.core n).hold with
  | none => s
  | some h =>
    let mates := (s.cores.filter fun kc => match kc.2.hold with
      | some x => kc.1 != n && x.group == h.group
      | none => false).map (·.1)
    let s := mates.foldl (fun (s : State) k => s.modCore k fun c => { c with hold := c.hold.map fun x => { x with void := true } }) s
    { s with fab := { s.fab with remote := SMap.put (0, 0, 0) s.fab.remote (h.group * 64 + s.fab.pkg) (0, 0, 0) } }

/-- A held, ended or waiting core takes the fault that it keeps (R419). -/
def State.settleLate (s : State) (n : Nat) : State :=
  let c := s.core n
  match c.late with
  | none => s
  | some f =>
    if f.done then s
    else
      let t := (s.leaveRendezvous n).takeException n f.cause f.detail f.slot f.addr
      if c.run == .ended then t.modCore n fun d => { d with late := some { f with done := true } } else t

/-! Register writes in flight (R18) -/

/-- A write of the instruction being issued, visible lat cycles from now, raising flags with it. -/
def State.addWrite (s : State) (w : RegWrite) (lat : Nat) (flags : BitVec 6 := 0) (acc : Nat := 0) : State :=
  let c := s.cur
  let pw : PendWrite := ⟨s.clock + lat, s.clock, s.ix.slot, s.ix.addr, c.tcyc, w, flags, acc⟩
  (s.setCore s.ix.core { c with pend := c.pend ++ [pw] }).scheduleOnce (s.clock + lat) prioVisible .writeVisible

def State.writeS (s : State) (r : BitVec 5) (v : Word) (lat : Nat) (flags : BitVec 6 := 0) (acc : Nat := 0) : State :=
  s.addWrite (.s r v) lat flags acc

def State.writeP (s : State) (r : BitVec 4) (v : Bool) (lat : Nat) (flags : BitVec 6 := 0) : State := s.addWrite (.p r v) lat flags

/-! Buffer-state changes (R147) -/

def State.addBuf (s : State) (engine : Bool) (core buf : Nat) (st : BufState) (fkind : BitVec 4) (filler : Nat) (held : Bool) : State :=
  let b : BufPend := ⟨s.clock + 1, engine, core, buf, st, fkind, filler, held⟩
  let s := { s with bufPend := s.bufPend ++ [b] }
  s.scheduleOnce (s.clock + 1) prioVisible .writeVisible

/-- The declared buffer that holds slice offset o. -/
def bufAt (bufs : SMap Buf) (o : Nat) : Option (Nat × Buf) :=
  match bufs with
  | [] => none
  | (n, b) :: r => if b.decl && b.offset ≤ o && o < b.offset + 64 * b.size then some (n, b) else bufAt r o

/-! Latencies and bank cycles of slice accesses (R102, R141, R149, R242, R260) -/

/-- Where a target slice lies as seen from core n (R258). -/
inductive Dist where
  | own | sameDie | otherDie | otherStack
  deriving DecidableEq, Repr

def distOf (n t : Nat) : Dist :=
  if n = t then .own
  else if coreStack n ≠ coreStack t then .otherStack
  else if coreDie n ≠ coreDie t then .otherDie else .sameDie

def absDiff (a b : Nat) : Nat := if a ≤ b then b - a else a - b

/-- Hops of R259. -/
def hopsOf (n t : Nat) : Nat :=
  match distOf n t with
  | .otherStack => (23 - coreX n) + (23 - coreX t) + absDiff (coreY n) (coreY t)
  | _ => absDiff (coreX n) (coreX t) + absDiff (coreY n) (coreY t)

/-- The slice's bus runs at half width (R242). -/
def State.half (s : State) (t : Nat) : Bool := (s.core t).bus.wstate == 1

/-- Load latency and store visibility of one slice access (R149, R242, R260). -/
def State.rowLat (s : State) (n t : Nat) : Nat :=
  (match distOf n t with
    | .own => if coreUpper n then 6 else 8
    | .sameDie => 10 + hopsOf n t
    | .otherDie => 14 + hopsOf n t
    | .otherStack => 58 + hopsOf n t) + (if s.half t then 2 else 0)

/-- Cycles from issue to the bank cycle (R141, R242, R260). -/
def State.bankLat (s : State) (n t : Nat) : Nat :=
  (match distOf n t with
    | .own => if coreUpper n then 4 else 6
    | .sameDie => 6 + hopsOf n t
    | .otherDie => 10 + hopsOf n t
    | .otherStack => 54 + hopsOf n t) + (if s.half t then 2 else 0)

/-! Routes (R259, R261) -/

/-- Mesh link numbers: die (of four), position and direction. -/
def linkNum (die pos dir : Nat) : Nat := (die * 192 + pos) * 4 + dir

/-- The links of a walk from (x, y) to (x', y') on one mesh, X first: directions 0 +x, 1 -x, 2 +y, 3 -y. -/
def walkLinks (die : Nat) : Nat → Nat → Nat → Nat → Nat → List Link
  | 0, _, _, _, _ => []
  | fuel + 1, x, y, x', y' =>
    if x < x' then ⟨0, linkNum die (y * 24 + x) 0⟩ :: walkLinks die fuel (x + 1) y x' y'
    else if x' < x then ⟨0, linkNum die (y * 24 + x) 1⟩ :: walkLinks die fuel (x - 1) y x' y'
    else if y < y' then ⟨1, linkNum die (y * 24 + x) 2⟩ :: walkLinks die fuel x (y + 1) x' y'
    else if y' < y then ⟨1, linkNum die (y * 24 + x) 3⟩ :: walkLinks die fuel x (y - 1) x' y'
    else []

/-- The links of a request from n to t with their cycles, for a request issued at cycle i (R261). -/
def routeLinks (n t i : Nat) : List (Nat × Link) :=
  let die := coreStack n * 2 + coreDie n
  let dieT := coreStack t * 2 + coreDie t
  let cross : List (Nat × Link) :=
    if coreDie n ≠ coreDie t then [(i + 2, ⟨2, (coreStack n * 192 + n % 192) * 2 + coreDie n⟩)] else []
  match distOf n t with
  | .own => []
  | .sameDie => (walkLinks die 64 (coreX n) (coreY n) (coreX t) (coreY t)).zipIdx.map fun (l, k) => (i + 2 + k, l)
  | .otherDie => cross ++ (walkLinks dieT 64 (coreX n) (coreY n) (coreX t) (coreY t)).zipIdx.map fun (l, k) => (i + 3 + k, l)
  | .otherStack =>
    let h1 := 23 - coreX n
    let dieS := coreStack n * 2 + coreDie t
    cross ++ ((walkLinks dieS 64 (coreX n) (coreY n) 23 (coreY n)).zipIdx.map fun (l, k) => (i + 3 + k, l)) ++
      [(i + 3 + h1, ⟨3, (coreY n * 2 + coreDie t) * 2 + coreStack n⟩)] ++
      (walkLinks dieT 64 23 (coreY n) (coreX t) (coreY t)).zipIdx.map fun (l, k) => (i + 40 + h1 + k, l)

/-- An access in flight: it meets its links and its bank at their cycles (R141, R261). -/
def State.addAcc (s : State) (a : Acc) : State :=
  let s := { s with accs := s.accs ++ [a] }
  let s := s.scheduleOnce a.cycle prioBank .bankAccess
  a.hops.foldl (fun s h => s.scheduleOnce h.1 prioMesh .meshHop) s

/-- Bytes written, visible at cycle vis, in the write order at bank cycle bank (R326, R327). -/
def State.addMem (s : State) (vis bank op : Nat) (data : List (Nat × Byte)) (store : Nat := coreCount) : State :=
  if data.isEmpty then s
  else
    let m : MemPend := ⟨vis, bank, op, store, data⟩
    let s := { s with memPend := s.memPend ++ [m] }
    s.scheduleOnce vis prioVisible .writeVisible

/-- Bytes that a step writes outside the timetable, visible at once: the last in the write order so far. -/
def State.addMemNow (s : State) (data : List (Nat × Byte)) : State := s.addMem s.clock s.clock 0 data

/-- An access cancelled by a fault: its register and memory writes do not take place. -/
def State.cancel (s : State) (core op : Nat) : State :=
  if op = 0 then s
  else
    let s := { s with memPend := s.memPend.filter fun m => m.op != op }
    s.modCore core fun c =>
      { c with pend := c.pend.filter (fun w => w.acc != op),
               mops := c.mops.map (fun m => if m.id == op then { m with dead := true } else m) }

end Sys2Proof.Machine
end

