-- ==== Sys2Proof/Machine/Numbers.lean ====
section
/-! DEFINITION. Number formats and arithmetic (04, R104-R123): exact values, decoding, rounding with its flags, conversions,
block quantisation, the special functions and the generator.  Codes are natural numbers below 2^width. -/

namespace Sys2Proof.Machine

/-- A set of the flags NV, DZ, OF, UF, NX, SV in bits 0-5 (R124). -/
abbrev Flags := BitVec 6

def flNV : Flags := 1
def flDZ : Flags := 2
def flOF : Flags := 4
def flUF : Flags := 8
def flNX : Flags := 16
def flSV : Flags := 32

/-- A decoded number: NaN (signalling or quiet), an infinity, or the exact value (-1)^neg x m x 2^e; m = 0 is a signed zero. -/
inductive Val where
  | nan (sig : Bool)
  | inf (neg : Bool)
  | fin (neg : Bool) (m : Nat) (e : Int)
  deriving DecidableEq, Repr

def Val.zero : Val := .fin false 0 0
def Val.isNan : Val → Bool
  | .nan _ => true
  | _ => false
def Val.isInf : Val → Bool
  | .inf _ => true
  | _ => false
def Val.isZero : Val → Bool
  | .fin _ m _ => m == 0
  | _ => false
def Val.isNeg : Val → Bool
  | .inf n => n
  | .fin n _ _ => n
  | .nan _ => false
/-- NV for a signalling NaN (R117). -/
def Val.sigFlag : Val → Flags
  | .nan true => flNV
  | _ => 0
def Val.neg : Val → Val
  | .nan s => .nan s
  | .inf n => .inf (!n)
  | .fin n m e => .fin (!n) m e
def Val.ofInt (i : Int) : Val := .fin (decide (i < 0)) i.natAbs 0

/-- Number of bits of n. -/
def bitLen (n : Nat) : Nat := if n = 0 then 0 else Nat.log2 n + 1

/-! Formats (R104, R105, R107) -/

/-- A floating-point format: exponent and mantissa widths, bias, whether it has infinities, whether it has NaN. -/
structure FloatFmt where
  ew : Nat
  mw : Nat
  bias : Nat
  hasInf : Bool
  hasNan : Bool
  deriving DecidableEq, Repr

def fp32 : FloatFmt := ⟨8, 23, 127, true, true⟩
def fp16 : FloatFmt := ⟨5, 10, 15, true, true⟩
def bf16 : FloatFmt := ⟨8, 7, 127, true, true⟩
def e4m3 : FloatFmt := ⟨4, 3, 7, false, true⟩
def e5m2 : FloatFmt := ⟨5, 2, 15, true, true⟩
def e2m3 : FloatFmt := ⟨2, 3, 1, false, false⟩
def e3m2 : FloatFmt := ⟨3, 2, 3, false, false⟩
def e2m1 : FloatFmt := ⟨2, 1, 1, false, false⟩

/-- The element kind of a format code (R104): floating point; integer with its range; ternary; the i/64 element of MXINT8. -/
inductive Elem where
  | flt (f : FloatFmt)
  | int (bits : Nat) (lo hi : Int)
  | tern
  | mxint
  deriving DecidableEq, Repr

def elemOf (fmt : Nat) : Elem :=
  match fmt with
  | 0 => .flt fp32
  | 1 => .flt fp16
  | 2 => .flt bf16
  | 3 | 12 => .flt e4m3
  | 4 | 13 => .flt e5m2
  | 5 | 14 => .flt e2m3
  | 6 | 15 => .flt e3m2
  | 7 | 16 | 18 => .flt e2m1
  | 8 => .int 8 (-128) 127
  | 9 => .int 8 0 255
  | 10 | 19 => .int 4 (-8) 7
  | 11 => .tern
  | _ => .mxint

/-- Element width in bits (R104). -/
def fmtBits (fmt : Nat) : Nat :=
  match fmt with
  | 0 => 32
  | 1 | 2 => 16
  | 3 | 4 | 8 | 9 | 12 | 13 | 17 => 8
  | 5 | 6 | 14 | 15 => 6
  | 7 | 10 | 16 | 18 | 19 => 4
  | _ => 2

/-- Block length of a format: 32 for codes 12-17, 8 for 18 and 19, 0 for none (R104). -/
def fmtBlock (fmt : Nat) : Nat := if 12 ≤ fmt && fmt ≤ 17 then 32 else if fmt = 18 || fmt = 19 then 8 else 0

/-- The canonical quiet NaN of R106; 0 in a format without NaN. -/
def FloatFmt.canonNan (f : FloatFmt) : Nat :=
  if !f.hasNan then 0
  else if !f.hasInf then 2 ^ (f.ew + f.mw) - 1
  else (2 ^ f.ew - 1) * 2 ^ f.mw + 2 ^ (f.mw - 1)

/-- Code of the largest finite magnitude (R105). -/
def FloatFmt.maxCode (f : FloatFmt) : Nat :=
  if f.hasInf then (2 ^ f.ew - 1) * 2 ^ f.mw - 1
  else if f.hasNan then 2 ^ (f.ew + f.mw) - 2
  else 2 ^ (f.ew + f.mw) - 1

/-- The value of a code's magnitude as m x 2^e (R105). -/
def FloatFmt.mag (f : FloatFmt) (code : Nat) : Nat × Int :=
  let ex := code / 2 ^ f.mw % 2 ^ f.ew
  let ma := code % 2 ^ f.mw
  if ex = 0 then (ma, 1 - (f.bias : Int) - f.mw) else (ma + 2 ^ f.mw, (ex : Int) - f.bias - f.mw)

/-- Decode a floating-point code (R105, R106). -/
def FloatFmt.decode (f : FloatFmt) (code : Nat) : Val :=
  let neg := code / 2 ^ (f.ew + f.mw) % 2 == 1
  let ex := code / 2 ^ f.mw % 2 ^ f.ew
  let ma := code % 2 ^ f.mw
  if f.hasInf && ex == 2 ^ f.ew - 1 then
    if ma = 0 then .inf neg else .nan (ma < 2 ^ (f.mw - 1))
  else if f.hasNan && !f.hasInf && ex == 2 ^ f.ew - 1 && ma == 2 ^ f.mw - 1 then .nan false
  else
    let (m, e) := f.mag code
    .fin neg m e

/-- Rounding modes of R115, and stochastic rounding with its 32-bit draw (R123). -/
inductive Rnd where
  | ne | rz | ru | rd
  | st (r : Nat)
  deriving DecidableEq, Repr

def rndOf (code : Nat) : Rnd :=
  match code % 4 with
  | 0 => .ne
  | 1 => .rz
  | 2 => .ru
  | _ => .rd

/-- Round the positive value m x 2^e of the given sign to a multiple of 2^q: the multiple's count and whether it is inexact. -/
def roundAt (mode : Rnd) (neg : Bool) (m : Nat) (e q : Int) : Nat × Bool :=
  if q ≤ e then (m * 2 ^ (e - q).toNat, false)
  else
    let d := 2 ^ (q - e).toNat
    let lo := m / d
    let r := m % d
    if r = 0 then (lo, false)
    else
      let up : Bool := match mode with
        | .ne => decide (d < 2 * r) || (2 * r == d && lo % 2 == 1)
        | .rz => false
        | .ru => !neg
        | .rd => neg
        | .st t => if neg then !(decide (t * d < (d - r) * 2 ^ 32)) else decide (t * d < r * 2 ^ 32)
      (if up then lo + 1 else lo, true)

/-- The code of magnitude n x 2^q, which lies on the format's grid (R105). -/
def FloatFmt.encodeMag (f : FloatFmt) (n : Nat) (q : Int) : Nat :=
  if n = 0 then 0
  else
    let p : Int := (bitLen n : Int) - 1 + q
    let emin : Int := 1 - (f.bias : Int)
    let unit : Int := (if p < emin then emin else p) - f.mw
    let ma := if unit ≤ q then n * 2 ^ (q - unit).toNat else n / 2 ^ (unit - q).toNat
    if p < emin then ma else (p + f.bias).toNat * 2 ^ f.mw + (ma - 2 ^ f.mw)

def FloatFmt.signBit (f : FloatFmt) (neg : Bool) : Nat := if neg then 2 ^ (f.ew + f.mw) else 0

/-- Round an exact finite value to a floating-point format (R115, R116). -/
def FloatFmt.round (f : FloatFmt) (mode : Rnd) (neg : Bool) (m : Nat) (e : Int) : Nat × Flags :=
  if m = 0 then (f.signBit neg, 0)
  else
    let p : Int := (bitLen m : Int) - 1 + e
    let emin : Int := 1 - (f.bias : Int)
    let q : Int := (if p < emin then emin else p) - f.mw
    let (n, inexact) := roundAt mode neg m e q
    let (n', _) := roundAt mode neg m e (p - f.mw)
    let tiny : Bool := if p < emin then decide (n' < 2 ^ (emin - (p - f.mw)).toNat) else false
    let (mm, me) := f.mag f.maxCode
    let above : Bool := if q ≤ me then decide (mm * 2 ^ (me - q).toNat < n) else decide (mm < n * 2 ^ (q - me).toNat)
    let nx : Flags := if inexact then flNX else 0
    if above then
      if !f.hasInf then (f.signBit neg + f.maxCode, flSV ||| flNX)
      else
        let toInf : Bool := match mode with
          | .ne | .st _ => true
          | .rz => false
          | .ru => !neg
          | .rd => neg
        (f.signBit neg + (if toInf then f.maxCode + 1 else f.maxCode), flOF ||| flNX)
    else (f.signBit neg + f.encodeMag n q, nx ||| (if inexact && tiny then flUF else 0))

/-- Round a value, NaN and infinity by the format's class (R116, R117, R119). -/
def FloatFmt.ofVal (f : FloatFmt) (mode : Rnd) (v : Val) : Nat × Flags :=
  match v with
  | .nan s => (f.canonNan, if f.hasNan then (if s then flNV else 0) else flNV)
  | .inf n => if f.hasInf then (f.signBit n + f.maxCode + 1, 0) else (f.signBit n + f.maxCode, flSV)
  | .fin n m e => f.round mode n m e

/-- Round to an integer range with saturation (R116): the integer and its flags. -/
def intOfVal (mode : Rnd) (lo hi : Int) (v : Val) : Int × Flags :=
  match v with
  | .nan _ => (0, flNV)
  | .inf n => (if n then lo else hi, flSV)
  | .fin neg m e =>
    let (n, inexact) := roundAt mode neg m e 0
    let i : Int := if neg then -(n : Int) else n
    if i < lo then (lo, flSV ||| flNX)
    else if hi < i then (hi, flSV ||| flNX)
    else (i, if inexact then flNX else 0)

/-- Decode an element without its scales, and the flag that reading it raises (R105, R107). -/
def Elem.decode (k : Elem) (code : Nat) : Val × Flags :=
  match k with
  | .flt f => (f.decode code, 0)
  | .int bits lo _ => (.ofInt (if lo < 0 then signed bits code else code), 0)
  | .tern =>
    match code % 4 with
    | 0 => (.zero, 0)
    | 1 => (.ofInt 1, 0)
    | 3 => (.ofInt (-1), 0)
    | _ => (.zero, flNV)
  | .mxint => (.fin (decide (signed 8 code < 0)) (signed 8 code).natAbs (-6), 0)

/-- Convert a value to an element code (R119). -/
def Elem.ofVal (k : Elem) (mode : Rnd) (v : Val) : Nat × Flags :=
  match k with
  | .flt f => f.ofVal mode v
  | .int bits lo hi =>
    let (i, fl) := intOfVal mode lo hi v
    (unsignedOf bits i, fl)
  | .tern =>
    let (i, fl) := intOfVal mode (-1) 1 v
    (unsignedOf 2 i, fl)
  | .mxint =>
    let v' := match v with
      | .fin n m e => .fin n m (e + 6)
      | w => w
    let (i, fl) := intOfVal mode (-128) 127 v'
    (unsignedOf 8 i, fl)

/-! Exact arithmetic -/

/-- Exact product; infinity times zero is an invalid NaN (R97, R112). -/
def Val.mul (a b : Val) : Val × Flags :=
  match a, b with
  | .nan s, .nan t => (.nan (s || t), 0)
  | .nan s, _ => (.nan s, 0)
  | _, .nan s => (.nan s, 0)
  | .inf n, .inf k => (.inf (n != k), 0)
  | .inf n, .fin k m _ => if m = 0 then (.nan false, flNV) else (.inf (n != k), 0)
  | .fin k m _, .inf n => if m = 0 then (.nan false, flNV) else (.inf (n != k), 0)
  | .fin n m e, .fin k l g => (.fin (n != k) (m * l) (e + g), 0)

/-- A finite value as an integer multiple of 2^q, q at or below its exponent. -/
def scaledInt (neg : Bool) (m : Nat) (e q : Int) : Int :=
  let v : Int := ((m * 2 ^ (e - q).toNat : Nat) : Int)
  if neg then -v else v

/-- Exact sum with the sign of an exact zero (R115); opposite infinities are an invalid NaN. -/
def Val.add (mode : Rnd) (a b : Val) : Val × Flags :=
  match a, b with
  | .nan s, .nan t => (.nan (s || t), 0)
  | .nan s, _ => (.nan s, 0)
  | _, .nan s => (.nan s, 0)
  | .inf n, .inf k => if n == k then (.inf n, 0) else (.nan false, flNV)
  | .inf n, _ => (.inf n, 0)
  | _, .inf n => (.inf n, 0)
  | .fin n m e, .fin k l g =>
    if m = 0 && l = 0 && n == k then (.fin n 0 0, 0)
    else
      let q := if e < g then e else g
      let t := scaledInt n m e q + scaledInt k l g q
      if t = 0 then (.fin (mode == .rd) 0 0, 0) else (.fin (decide (t < 0)) t.natAbs q, 0)

/-- A finite value's order against another (neither NaN); infinities lie at the ends, zeros are equal. -/
def Val.cmp (a b : Val) : Ordering :=
  match a, b with
  | .inf n, .inf k => if n == k then .eq else if n then .lt else .gt
  | .inf n, _ => if n then .lt else .gt
  | _, .inf n => if n then .gt else .lt
  | .fin n m e, .fin k l g =>
    let q := if e < g then e else g
    compare (scaledInt n m e q) (scaledInt k l g q)
  | _, _ => .eq

/-- The order that puts -0 below +0 (R97, R118). -/
def Val.before (a b : Val) : Bool :=
  match a.cmp b with
  | .lt => true
  | .gt => false
  | .eq => a.isNeg && !b.isNeg

/-- Round an invalid or exact result; the NaN of an operand sets NV when it is signalling (R115, R117). -/
def FloatFmt.result (f : FloatFmt) (mode : Rnd) (r : Val × Flags) : Nat × Flags :=
  let (c, fl) := f.ofVal mode r.1
  (c, fl ||| r.2)

def FloatFmt.add (f : FloatFmt) (mode : Rnd) (a b : Nat) : Nat × Flags := f.result mode ((f.decode a).add mode (f.decode b))
def FloatFmt.sub (f : FloatFmt) (mode : Rnd) (a b : Nat) : Nat × Flags := f.result mode ((f.decode a).add mode (f.decode b).neg)
def FloatFmt.mul (f : FloatFmt) (mode : Rnd) (a b : Nat) : Nat × Flags := f.result mode ((f.decode a).mul (f.decode b))

/-- a x b + c with one rounding (R97, R159). -/
def fmaVal (mode : Rnd) (a b c : Val) : Val × Flags :=
  let (p, fl) := a.mul b
  let (r, fl') := p.add mode c
  (r, fl ||| fl')

def FloatFmt.fma (f : FloatFmt) (mode : Rnd) (a b c : Nat) : Nat × Flags :=
  let r := fmaVal mode (f.decode a) (f.decode b) (f.decode c)
  f.result mode (r.1, r.2 ||| (f.decode a).sigFlag ||| (f.decode b).sigFlag ||| (f.decode c).sigFlag)

/-- A quotient to 200 significant bits with a sticky last bit, which rounds as the exact quotient does. -/
def quotVal (neg : Bool) (num den : Nat) (e : Int) : Val :=
  let k := 200 + bitLen den - bitLen num
  let q := num * 2 ^ k / den
  let r := num * 2 ^ k % den
  .fin neg (2 * q + (if r = 0 then 0 else 1)) (e - k - 1)

/-- The exact quotient of two values, as far as rounding can tell, with DZ and NV (R97). -/
def Val.div (a b : Val) : Val × Flags :=
  match a, b with
  | .nan s, .nan t => (.nan (s || t), 0)
  | .nan s, _ => (.nan s, 0)
  | _, .nan s => (.nan s, 0)
  | .inf _, .inf _ => (.nan false, flNV)
  | .inf n, .fin k _ _ => (.inf (n != k), 0)
  | .fin n _ _, .inf k => (.fin (n != k) 0 0, 0)
  | .fin n m e, .fin k l g =>
    if l = 0 then (if m = 0 then (.nan false, flNV) else (.inf (n != k), flDZ))
    else if m = 0 then (.fin (n != k) 0 0, 0)
    else (quotVal (n != k) m l (e - g), 0)

/-- Integer square root, one bit at a time from bit i - 1 of the root down. -/
def isqrtFrom : Nat → Nat → Nat → Nat
  | 0, _, r => r
  | i + 1, n, r =>
    let t := r + 2 ^ i
    if t * t ≤ n then isqrtFrom i n t else isqrtFrom i n r

def isqrt (n : Nat) : Nat := isqrtFrom (bitLen n / 2 + 1) n 0

/-- The square root of m x 2^e to 200 bits with a sticky bit. -/
def sqrtVal (m : Nat) (e : Int) : Val :=
  let (m, e) := if e % 2 = 0 then (m, e) else (2 * m, e - 1)
  let n := m * 2 ^ 400
  let r := isqrt n
  .fin false (2 * r + (if r * r = n then 0 else 1)) (e / 2 - 201)

/-- Square root with its special cases (R97, R168). -/
def Val.sqrt (a : Val) : Val × Flags :=
  match a with
  | .nan s => (.nan s, 0)
  | .inf n => if n then (.nan false, flNV) else (.inf false, 0)
  | .fin n m e => if m = 0 then (.fin n 0 0, 0) else if n then (.nan false, flNV) else (sqrtVal m e, 0)

def FloatFmt.div (f : FloatFmt) (mode : Rnd) (a b : Nat) : Nat × Flags := f.result mode ((f.decode a).div (f.decode b))
def FloatFmt.sqrt (f : FloatFmt) (mode : Rnd) (a : Nat) : Nat × Flags := f.result mode (f.decode a).sqrt

/-- Minimum (or maximum) of R97 and R118: equal operands give a; `prop` propagates NaN, otherwise a number is preferred. -/
def FloatFmt.minmax (f : FloatFmt) (max prop : Bool) (a b : Nat) : Nat × Flags :=
  let x := f.decode a
  let y := f.decode b
  let fl := x.sigFlag ||| y.sigFlag
  if x.isNan && y.isNan then (f.canonNan, fl)
  else if x.isNan then (if prop then f.canonNan else b, fl)
  else if y.isNan then (if prop then f.canonNan else a, fl)
  else
    let takeB := if max then x.before y else y.before x
    (if takeB then b else a, fl)

/-- The comparisons of R98 and R160 on values: (equal, less, unordered). -/
structure Rel where
  eq : Bool
  lt : Bool
  gt : Bool
  un : Bool
  sig : Bool
  deriving DecidableEq, Repr

def Val.rel (a b : Val) : Rel :=
  if a.isNan || b.isNan then ⟨false, false, false, true, a.sigFlag != 0 || b.sigFlag != 0⟩
  else ⟨a.cmp b == .eq, a.cmp b == .lt, a.cmp b == .gt, false, false⟩

/-! FP32 shorthand: codes in, code and flags out, to nearest even -/

def ne32 (v : Val × Flags) : Nat × Flags := fp32.result .ne v
def add32 (a b : Nat) : Nat × Flags := fp32.add .ne a b
def sub32 (a b : Nat) : Nat × Flags := fp32.sub .ne a b
def mul32 (a b : Nat) : Nat × Flags := fp32.mul .ne a b
def nan32 : Nat := 0x7FC00000

/-- TwoSumFold of R114. -/
def twoSumFold (s c x : Nat) : (Nat × Nat) × Flags :=
  let (s1, f1) := add32 s x
  let v := fp32.decode s1
  if v.isNan then ((nan32, 0), f1)
  else if v.isInf then ((s1, 0), f1)
  else
    let (t, f2) := sub32 s1 s
    let (u, f3) := sub32 s1 t
    let (p, f4) := sub32 s u
    let (w, f5) := sub32 x t
    let (e, f6) := add32 p w
    let (c', f7) := add32 c e
    ((s1, c'), f1 ||| f2 ||| f3 ||| f4 ||| f5 ||| f6 ||| f7)

/-- The value of a compensated pair (R114); an exact zero sum takes its sign from the instruction's rounding mode (R115). -/
def pairVal (mode : Rnd) (s c : Nat) : Val :=
  let v := fp32.decode s
  match v with
  | .fin _ _ _ =>
    match fp32.decode c with
    | .nan t => .nan t
    | w => (v.add mode w).1
  | w => w

/-! Scales (R109, R110) -/

def e8m0 (code : Nat) : Val := if code % 256 = 255 then .nan false else .fin false 1 ((code % 256 : Nat) - 127)

def e3m5 (code : Nat) : Val :=
  let c := code % 256
  if c = 255 then .nan false
  else if c < 32 then .fin false c (-7)
  else .fin false (32 + c % 32) ((c / 32 : Nat) - 3 - 5)

/-- An element under its block scale: a NaN scale makes it a quiet NaN, whatever its code (R109, R110). -/
def underScale (x : Val × Flags) (scale : Val) : Val × Flags :=
  if scale.isNan then (.nan false, 0) else x

/-- The value of a scaled element (R112): the product of element, block scale and band scale, and its flags. A zero block scale makes
it +0 (R110), also under a NaN or infinite band scale, where R112 would give NaN: that is the model's choice (log 46). -/
def scaledVal (x : Val × Flags) (scale band : Val) : Val × Flags :=
  if scale.isZero then (.zero, x.2)
  else
    let x := underScale x scale
    let (p, f) := x.1.mul scale
    let (r, g) := p.mul band
    (r, x.2 ||| f ||| g)

/-! Block quantisation (R120, R121) -/

def Val.abs : Val → Val
  | .fin _ m e => .fin false m e
  | .inf _ => .inf false
  | v => v

/-- max |x| with infinities counted as 0x7F7F_FFFF. -/
def blockMax (xs : List Val) : Val :=
  xs.foldl (fun a x =>
    let y := match x.abs with
      | .inf _ => fp32.decode 0x7F7FFFFF
      | v => v
    if a.cmp y == .lt then y else a) .zero

/-- Exponent of the format's largest normal power of two (R120). -/
def mxEmax (fmt : Nat) : Int :=
  match fmt with
  | 12 => 8
  | 13 => 15
  | 14 => 2
  | 15 => 4
  | 16 => 2
  | _ => 0

def orFlags (l : List (Nat × Flags)) : Flags := l.foldl (fun f x => f ||| x.2) 0

/-- QuantiseMX of R120: scale byte, element codes, flags.  DESIGN CHOICE (log 46): an E5M2 element whose rounded magnitude exceeds 57,344 x 2^E becomes the
infinity with OF, as RoundTo under R116 gives it, and does not saturate with SV as the closing sentence says of a block's largest value. -/
def quantMX (fmt : Nat) (mode : Nat → Rnd) (xs : List Val) : Nat × List Nat × Flags :=
  if xs.any Val.isNan then (0xFF, xs.map fun _ => 0, xs.foldl (fun f x => f ||| x.sigFlag) 0)
  else
    let a := blockMax xs
    let ex : Int := match a with
      | .fin _ m e =>
        if m = 0 then -127
        else
          let r := (bitLen m : Int) - 1 + e - mxEmax fmt
          if r < -127 then -127 else if 127 < r then 127 else r
      | _ => -127
    let els := xs.zipIdx.map fun (x, i) =>
      let y := match x with
        | .fin n m e => .fin n m (e - ex)
        | v => v
      (elemOf fmt).ofVal (mode i) y
    ((ex + 127).toNat, els.map (·.1), orFlags els)

/-- QuantiseDL of R121: scale byte, element codes, flags. -/
def quantDL (fmt : Nat) (mode : Nat → Rnd) (band : Val) (xs : List Val) : Nat × List Nat × Flags :=
  match band with
  | .fin false (bm + 1) be =>
    if xs.any Val.isNan then (0xFF, xs.map fun _ => 0, xs.foldl (fun f x => f ||| x.sigFlag) 0)
    else
      let emax := if fmt = 18 then 6 else 7
      match blockMax xs with
      | .fin _ (am + 1) ae =>
        let unitOf (c : Nat) : Val := ((e3m5 c).mul (.fin false (bm + 1) be)).1
        let lim (c : Nat) : Bool := ((unitOf c).mul (.fin false emax 0)).1.cmp (.fin false (am + 1) ae) != .lt
        let scale := ((List.range 254).map (· + 1)).find? lim |>.getD 0xFE
        match unitOf scale with
        | .fin _ um ue =>
          let els := xs.zipIdx.map fun (x, i) =>
            match x with
            | .fin n m e => if m = 0 then (elemOf fmt).ofVal (mode i) x else (elemOf fmt).ofVal (mode i) (quotVal n m um (e - ue))
            | v => (elemOf fmt).ofVal (mode i) v
          (scale, els.map (·.1), orFlags els)
        | _ => (scale, xs.map fun _ => 0, 0)
      | _ => (0x00, xs.map fun _ => 0, 0)
  | _ => (0xFF, xs.map fun _ => 0, flNV)

/-! Special functions (R168): correctly rounded, from fixed-point values of 320 fraction bits with a sticky bit -/

def fixBits : Nat := 320
/-- floor(ln 2 x 2^320). -/
def ln2Fix : Nat := 0xb17217f7d1cf79abc9e3b39803f2f6af40f343267298b62d8a0d175b8baafa2be7b876206debac98

/-- The series of exp(y) for 0 <= y < 1 in fixed point: sum of the terms t, t y / k, ... -/
def expSeries : Nat → Nat → Nat → Nat → Nat
  | 0, _, _, _ => 0
  | fuel + 1, y, k, t => t + expSeries fuel y (k + 1) (t * y / 2 ^ fixBits / k)

/-- 2^x for a finite x that is not an integer: the fraction part f gives exp(f ln 2) in [1, 2). -/
def exp2Val (neg : Bool) (m : Nat) (e : Int) : Val :=
  let whole : Int := if 0 ≤ e then 0 else (m / 2 ^ (-e).toNat : Nat)
  let fr : Nat := if 0 ≤ e then 0 else m % 2 ^ (-e).toNat
  let fix : Nat := fr * 2 ^ fixBits / 2 ^ (-e).toNat
  let (n, f) : Int × Nat := if neg then (-whole - 1, 2 ^ fixBits - fix) else (whole, fix)
  let y := expSeries 100 (f * ln2Fix / 2 ^ fixBits) 1 (2 ^ fixBits)
  .fin false (2 * (y / 2 ^ 60) + 1) (n - 261)

def Val.isInt : Val → Bool
  | .fin _ m e => decide (0 ≤ e) || m % 2 ^ (-e).toNat == 0
  | _ => false

/-- EXP2 (R168). -/
def Val.exp2 (a : Val) : Val × Flags :=
  match a with
  | .nan s => (.nan s, 0)
  | .inf n => (if n then .zero else .inf false, 0)
  | .fin n m e =>
    let big : Bool := decide (12 ≤ (bitLen m : Int) + e)
    if m = 0 then (.fin false 1 0, 0)
    else if big then (.fin false 1 (if n then -4000 else 4000), 0)
    else if a.isInt then
      let k : Int := if 0 ≤ e then (m * 2 ^ e.toNat : Nat) else (m / 2 ^ (-e).toNat : Nat)
      (.fin false 1 (if n then -k else k), 0)
    else (exp2Val n m e, 0)

/-- The series of atanh(z) in fixed point: z + z^3/3 + z^5/5 + ... with t the odd power of z. -/
def atanhSeries : Nat → Nat → Nat → Nat → Nat
  | 0, _, _, _ => 0
  | fuel + 1, z2, k, t => t / k + atanhSeries fuel z2 (k + 2) (t * z2 / 2 ^ fixBits)

/-- log2 of a positive finite value that is not a power of two: exponent plus 2 atanh((m - 1)/(m + 1)) / ln 2. -/
def log2Val (m : Nat) (e : Int) : Val :=
  let b := bitLen m - 1
  let one := 2 ^ b
  let z := (m - one) * 2 ^ fixBits / (m + one)
  let l := 2 * atanhSeries 110 (z * z / 2 ^ fixBits) 1 z
  let lg := l * 2 ^ fixBits / ln2Fix
  let v : Int := (e + b) * (2 ^ fixBits : Nat) + lg
  .fin (decide (v < 0)) (2 * (v.natAbs / 2 ^ 60) + 1) (-261)

/-- LOG2 (R168). -/
def Val.log2 (a : Val) : Val × Flags :=
  match a with
  | .nan s => (.nan s, 0)
  | .inf n => if n then (.nan false, flNV) else (.inf false, 0)
  | .fin n m e =>
    if m = 0 then (.inf true, flDZ)
    else if n then (.nan false, flNV)
    else
      let b := bitLen m - 1
      if m = 2 ^ b then (.ofInt (e + b), 0) else (log2Val m e, 0)

/-- RCP (R168). -/
def Val.rcp (a : Val) : Val × Flags := (Val.fin false 1 0).div a

/-- RSQ (R168). -/
def Val.rsq (a : Val) : Val × Flags :=
  match a with
  | .nan s => (.nan s, 0)
  | .inf n => if n then (.nan false, flNV) else (.zero, 0)
  | .fin n m e =>
    if m = 0 then (.inf n, flDZ)
    else if n then (.nan false, flNV)
    else
      let (m, e) := if e % 2 = 0 then (m, e) else (2 * m, e - 1)
      let r := isqrt (2 ^ 600 / m)
      (.fin false (2 * r + (if r * r * m = 2 ^ 600 then 0 else 1)) (-(e / 2) - 301), 0)

def exp2F (f : FloatFmt) (a : Nat) : Nat × Flags := f.result .ne (f.decode a).exp2
def log2F (f : FloatFmt) (a : Nat) : Nat × Flags := f.result .ne (f.decode a).log2
def rcpF (f : FloatFmt) (a : Nat) : Nat × Flags := f.result .ne (f.decode a).rcp
def rsqF (f : FloatFmt) (a : Nat) : Nat × Flags := f.result .ne (f.decode a).rsq
def sqrtF (f : FloatFmt) (a : Nat) : Nat × Flags := f.result .ne (f.decode a).sqrt

/-! The fixed sequences of R169, on FP32 codes; the flags are collected and NV and NX kept -/

def constL2E : Nat := 0x3FB8AA3B
def one32 : Nat := 0x3F800000

def sigm32 (x : Nat) : Nat × Flags :=
  let (p, f1) := mul32 x (constL2E + 2 ^ 31)
  let (e, f2) := exp2F fp32 p
  let (d, f3) := add32 one32 e
  let (r, f4) := rcpF fp32 d
  (r, f1 ||| f2 ||| f3 ||| f4)

def tanh32 (x : Nat) : Nat × Flags :=
  if (fp32.decode x).isNan then fp32.ofVal .ne (fp32.decode x)
  else
    let a := x % 2 ^ 31
    if a < 0x39800000 then (x, 0)
    else
      let (p, f1) := mul32 a 0xC038AA3B
      let (e, f2) := exp2F fp32 p
      let (n, f3) := sub32 one32 e
      let (d, f4) := add32 one32 e
      let (r, f5) := rcpF fp32 d
      let (q, f6) := mul32 n r
      (q % 2 ^ 31 + x / 2 ^ 31 % 2 * 2 ^ 31, f1 ||| f2 ||| f3 ||| f4 ||| f5 ||| f6)

def gelu32 (x : Nat) : Nat × Flags :=
  let (x2, f1) := mul32 x x
  let (u, f2) := fp32.fma .ne x2 0x3D372713 one32
  let (v, f3) := mul32 x u
  let (w, f4) := mul32 v 0x3F4C422A
  let (t, f5) := tanh32 w
  let (h, f6) := fp32.fma .ne t 0x3F000000 0x3F000000
  let (r, f7) := mul32 x h
  (r, f1 ||| f2 ||| f3 ||| f4 ||| f5 ||| f6 ||| f7)

/-- A sequence of R169 in view format f: exact conversion to FP32, the sequence, one rounding; only NV and NX are raised. -/
def seqF (g : Nat → Nat × Flags) (f : FloatFmt) (a : Nat) : Nat × Flags :=
  let v := f.decode a
  match v with
  | .nan s => (f.canonNan, if s then flNV else 0)
  | _ =>
    let (r, fl) := g (fp32.ofVal .ne v).1
    let (c, fl') := f.ofVal .ne (fp32.decode r)
    (c, (fl ||| fl') &&& (flNV ||| flNX))

/-! The generator of R122 -/

def philoxRound (c : Nat × Nat × Nat × Nat) (k : Nat × Nat) : Nat × Nat × Nat × Nat :=
  let (c0, c1, c2, c3) := c
  let p0 := 0xD2511F53 * c0
  let p1 := 0xCD9E8D57 * c2
  (((p1 / 2 ^ 32) ^^^ c1) ^^^ k.1, p1 % 2 ^ 32, ((p0 / 2 ^ 32) ^^^ c3) ^^^ k.2, p0 % 2 ^ 32)

def philoxFrom : Nat → Nat × Nat × Nat × Nat → Nat × Nat → Nat × Nat × Nat × Nat
  | 0, c, _ => c
  | n + 1, c, k => philoxFrom n (philoxRound c k) ((k.1 + 0x9E3779B9) % 2 ^ 32, (k.2 + 0xBB67AE85) % 2 ^ 32)

/-- rnd(i) for counter C and key GKEY (R122). -/
def rndWord (ctr key : Word) (i : Nat) : Nat :=
  let c := ctr.toNat
  let k := key.toNat
  let (a, b, d, e) := philoxFrom 10 (i / 4, 0, c % 2 ^ 32, c / 2 ^ 32) (k % 2 ^ 32, k / 2 ^ 32)
  match i % 4 with
  | 0 => a
  | 1 => b
  | 2 => d
  | _ => e

end Sys2Proof.Machine
end

