-- ==== Sys2Proof/Machine/Flags.lean ====
section
/-! DEFINITION. The sticky flags, the first-event record and write collisions (R124-R127). -/

namespace Sys2Proof.Machine

/-! Events of floating-point flags (R124, R126, R127) -/

/-- The set of a slot in FLAGSA (R124). -/
def flagSet (slot : Nat) : Option Nat :=
  match slot with
  | 0 => some 0
  | 1 => some 1
  | 3 => some 2
  | 4 => some 3
  | 5 => some 4
  | 6 => some 5
  | 7 => some 6
  | 8 => some 7
  | 9 => some 8
  | _ => none

/-- One flag event (R127): the sticky set, and FEVREC or FEVMORE. -/
def Core.raise (c : Core) (flags : BitVec 6) (slot addr stamp : Nat) : Core :=
  if flags == 0 then c
  else
    match flagSet slot with
    | none => c
    | some i =>
      let c := { c with flagsA := c.flagsA ||| BitVec.ofNat 64 (flags.toNat * 2 ^ (6 * i)) }
      if c.fevrec.getLsbD 31 then { c with flagsB := c.flagsB ||| 2 }
      else
        let w := addr % 2 ^ 18 + slot * 2 ^ 18 + flags.toNat * 2 ^ 22 + 2 ^ 31 + stamp % 2 ^ 32 * 2 ^ 32
        { c with fevrec := BitVec.ofNat 64 w }

/-- A write collision (R19, R125). -/
def Core.collide (c : Core) : Core := { c with flagsB := c.flagsB ||| 1 }

/-- Bits of FLAGSA that the sets in mask m occupy (R218). -/
def expandSets (m : BitVec 9) : Word :=
  BitVec.ofNat 64 ((List.range 9).foldl (fun a i => if m.getLsbD i then a + 0x3F * 2 ^ (6 * i) else a) 0)

/-- The writable bits of FLAGSA, FLAGSB, FEVREC and OORREC: reserved bits read as zero and ignore writes (R7, R124-R126, R143). -/
def flagsAMask : Word := 0x003FFFFFFFFFFFFF
def flagsBMask : Word := 7
def fevrecMask : Word := 0xFFFFFFFF8FFFFFFF
def oorrecMask : Word := 0xFFFF3FFFFFFFFFFF

end Sys2Proof.Machine
end

