-- ==== Sys2Proof/Machine/Operands.lean ====
section
/-! DEFINITION. Operand forms: literals and scalar operands (R23, R30, R89), lanes of rows and lane masks (R113, R156), stream
descriptors and the addresses they give (R128-R135). -/

namespace Sys2Proof.Machine

/-! Literals and scalar operands -/

/-- Literal entry i of the bundle (R23). -/
def State.lit (s : State) (i : Nat) : Nat := (s.ix.lits.getD i 0).toNat

/-- The 64-bit pair of entries i and i + 1, low word first (R23). -/
def State.lit64 (s : State) (i : Nat) : Nat := s.lit i + 2 ^ 32 * s.lit (i + 1)

/-- The second operand of an integer instruction: a register, or the literal sign-extended (R30). -/
def State.srcInt (s : State) (o : Src) : Word :=
  match o with
  | .reg r => s.cur.sreg r
  | .lit i => (BitVec.ofNat 32 (s.lit i.toNat)).signExtend 64

/-- The second operand of an FP instruction: the literal serves both halves of a P2 pair (R30). -/
def State.srcFp (s : State) (o : Src) : Word :=
  match o with
  | .reg r => s.cur.sreg r
  | .lit i => BitVec.ofNat 64 (s.lit i.toNat * (2 ^ 32 + 1))

/-! Lanes (R113) -/

/-- Lane width of a view in bits. -/
def viewBits (view : Nat) : Nat :=
  match view with
  | 0 => 64
  | 1 | 2 => 32
  | 3 | 4 | 5 => 16
  | _ => 8

/-- The floating-point format of an F view (R164). -/
def viewFloat (view : Nat) : FloatFmt :=
  match view with
  | 3 => bf16
  | 4 => fp16
  | _ => fp32

/-- The view is an integer view. -/
def viewInt (view : Nat) : Bool := view == 2 || view == 5 || view == 6

/-- Lane i of a row, unsigned. -/
def laneOf (r : Row) (view i : Nat) : Nat := (r.extractLsb' (i * viewBits view) (viewBits view)).toNat

def lanesOf (r : Row) (view : Nat) : List Nat := (List.range (viewLanes view)).map (laneOf r view)

/-- A row, and the mask of the bytes written, from values placed at bit offsets: (bit offset, width in bits, value). -/
def buildRow (l : List (Nat × Nat × Nat)) : Row × Mask :=
  let v := l.foldl (fun a (o, w, x) => a + x % 2 ^ w * 2 ^ o) 0
  let m := l.foldl (fun a (o, w, _) => a + (2 ^ (w / 8) - 1) * 2 ^ (o / 8)) 0
  (BitVec.ofNat 4096 v, BitVec.ofNat 512 m)

/-- The row write that puts values into lanes of a view. -/
def laneWrite (row : BitVec 11) (view : Nat) (l : List (Nat × Nat)) : RegWrite :=
  let (v, m) := buildRow (l.map fun (i, x) => (i * viewBits view, viewBits view, x))
  .row row v m

/-- The bits of a row that a byte mask covers. -/
def byteBits (m : Mask) : Row :=
  BitVec.ofNat 4096 ((List.range 512).foldl (fun a i => if m.getLsbD i then a + 0xFF * 2 ^ (8 * i) else a) 0)

/-- Merge the bytes of a row that m marks. -/
def mergeRow (old new : Row) (m : Mask) : Row :=
  if m == BitVec.allOnes 512 then new else (old &&& ~~~(byteBits m)) ||| (new &&& byteBits m)

/-- The bytes of a row, byte 0 first. -/
def rowBytes (r : Row) : List Byte := (List.range 512).map fun i => r.extractLsb' (8 * i) 8

/-- A row from its first bytes; the others are zero. -/
def rowOf (l : List Byte) : Row := BitVec.ofNat 4096 (leNat l)

/-- The bytes of a stream descriptor or engine block, byte 0 first (R128, R194). -/
def descBytes (d : Desc) : List Byte := (List.range 64).map fun i => d.extractLsb' (8 * i) 8

def descOf (l : List Byte) : Desc := BitVec.ofNat 512 (leNat l)

/-- n bytes of a block from byte b, as a little-endian number. -/
def Desc.field (d : Desc) (b n : Nat) : Nat := d.toNat / 2 ^ (8 * b) % 2 ^ (8 * n)

/-! Stream descriptors (R128, R129) -/

def Desc.ctl (d : Desc) : Nat := Desc.field d 0 2
def Desc.map (d : Desc) : Nat := Desc.field d 2 2
def Desc.base (d : Desc) : Nat := Desc.field d 4 5
def Desc.scb (d : Desc) : Int := signed 24 (Desc.field d 9 3)
def Desc.rpitch (d : Desc) : Nat := Desc.field d 12 2
def Desc.bsb (d : Desc) : Int := signed 24 (Desc.field d 14 3)
def Desc.bss (d : Desc) : Int := signed 16 (Desc.field d 17 2)
def Desc.ext (d : Desc) (l : Nat) : Nat := Desc.field d (20 + 2 * l) 2
def Desc.idx (d : Desc) (l : Nat) : Nat := Desc.field d (28 + 2 * l) 2
def Desc.stride (d : Desc) (l : Nat) : Int := signed 32 (Desc.field d (36 + 4 * l) 4)
def Desc.uch (d : Desc) : Nat := Desc.field d 52 2
def Desc.uh (d : Desc) : Nat := Desc.field d 54 2
def Desc.uw (d : Desc) : Nat := Desc.field d 56 2
def Desc.ukern (d : Desc) (i : Nat) : Nat := bitsOf (Desc.field d 58 2) (4 * i) 4
def Desc.udil (d : Desc) (i : Nat) : Nat := bitsOf (Desc.field d 60 2) (4 * i) 4
def Desc.fmt (d : Desc) : Nat := bitsOf (Desc.ctl d) 0 5
def Desc.bufMode (d : Desc) : Bool := bitsOf (Desc.ctl d) 5 1 == 1
def Desc.kind (d : Desc) : Nat := bitsOf (Desc.ctl d) 6 2
def Desc.bufNo (d : Desc) : Nat := bitsOf (Desc.ctl d) 8 6
def Desc.band (d : Desc) : Bool := bitsOf (Desc.ctl d) 14 1 == 1
/-- The binding B_l of stream level l (R129). -/
def Desc.bindOf (d : Desc) (l : Nat) : Nat := bitsOf (Desc.map d) (3 * l) 3

/-- Write n bits at bit b of a descriptor. -/
def Desc.put (d : Desc) (b n v : Nat) : Desc :=
  let old := d.toNat / 2 ^ b % 2 ^ n
  BitVec.ofNat 512 (d.toNat - old * 2 ^ b + v % 2 ^ n * 2 ^ b)

def Desc.setIdx (d : Desc) (l v : Nat) : Desc := Desc.put d (8 * (28 + 2 * l)) 16 v

/-- GSET's fields (R137). -/
def Desc.setField (d : Desc) (f : Nat) (v : Nat) : Desc :=
  match f with
  | 0 => Desc.put d 0 16 v
  | 1 => Desc.put d 16 16 v
  | 2 => Desc.put d 32 40 v
  | 3 => Desc.put d 72 24 v
  | 4 => Desc.put d 96 16 v
  | 5 => Desc.put d 112 24 v
  | 6 => Desc.put d 136 16 v
  | 7 => Desc.put d 160 32 v
  | 8 => Desc.put d 192 32 v
  | 9 => Desc.put d 288 32 v
  | 10 => Desc.put d 320 32 v
  | 11 => Desc.put d 352 32 v
  | 12 => Desc.put d 384 32 v
  | 13 => Desc.put d 416 32 v
  | 14 => Desc.put d 448 32 v
  | _ => Desc.put d 480 16 v

/-- GADV with carry from level j (R139). -/
def Desc.advCarry (d : Desc) (c : Int) : List Nat → Desc
  | [] => d
  | j :: js =>
    let e := Desc.ext d j
    if e = 0 then Desc.advCarry d c js
    else
      let v : Int := (Desc.idx d j : Int) + c
      let d := Desc.setIdx d j (v % (e : Int)).toNat
      let c := v / (e : Int)
      if c = 0 then d else Desc.advCarry d c js

/-- GADV (R139). -/
def Desc.adv (d : Desc) (l : Nat) (n : Int) (carry : Bool) : Desc :=
  let e := Desc.ext d l
  if e = 0 then d
  else if carry then Desc.advCarry d n ((List.range 4).drop l)
  else Desc.setIdx d l (((Desc.idx d l : Int) + n) % (e : Int)).toNat

/-- Levels of the stream bound to loop level k (R132). -/
def Desc.boundTo (d : Desc) (k : Nat) : List Nat := (List.range 4).filter fun l => Desc.bindOf d l == k

/-- A change of a stream (R132, R133, R137, R139). -/
def GChange.apply (c : GChange) (d : Desc) : Desc :=
  match c with
  | .load v => v
  | .field f v => Desc.setField d f.toNat v.toNat
  | .adv l n carry => Desc.adv d l n carry
  | .rst => Desc.put d 224 64 0
  | .pos l v => Desc.setIdx d l (if Desc.ext d l = 0 then v else v % Desc.ext d l)
  | .map l b => Desc.put d (16 + 3 * l) 3 b.toNat
  | .push k => (Desc.boundTo d k).foldl (fun d l => Desc.setIdx d l 0) d
  | .advance k => (Desc.boundTo d k).foldl
      (fun d l => if Desc.ext d l = 0 then d else Desc.setIdx d l ((Desc.idx d l + 1) % Desc.ext d l)) d
  | .delta v =>
    let w := if Desc.bufMode d then 22 else 40
    Desc.put d 32 40 ((((Desc.base d : Int) + signed 28 v.toNat) % (2 ^ w : Int)).toNat)

/-- The place of a change among those that become visible together (R133). -/
def GChange.order (c : GChange) : Nat :=
  match c with
  | .load _ => 0
  | .field _ _ | .adv _ _ _ | .rst | .pos _ _ | .map _ _ => 1
  | .push _ | .advance _ | .delta _ => 2

/-- A change moves something of a stream that stands as d when it is applied: a push or an advance only a level bound to it (R132). -/
def GChange.moves (c : GChange) (d : Desc) : Bool :=
  match c with
  | .push k => !(Desc.boundTo d k).isEmpty
  | .advance k => (Desc.boundTo d k).any fun l => Desc.ext d l ≠ 0
  | _ => true

/-- The limits of an unfolded stream (R135). -/
def Desc.unfoldOk (d : Desc) : Bool :=
  (List.range 4).all (fun i => Desc.ukern d i ≠ 0) && Desc.udil d 0 ≠ 0 && Desc.udil d 1 ≠ 0 &&
    Desc.uch d ≠ 0 && Desc.uh d ≠ 0 && Desc.uw d ≠ 0 && decide (0 ≤ Desc.stride d 0) && decide (0 ≤ Desc.stride d 1) &&
    (fmtBlock (Desc.fmt d) = 0 || Desc.uch d % fmtBlock (Desc.fmt d) = 0)

/-- The checks of a stream at its use (R130). -/
def Desc.useOk (d : Desc) : Bool :=
  Desc.fmt d < 20 && Desc.kind d < 2 && (List.range 4).all (fun l => Desc.bindOf d l ≠ 6) &&
    bitsOf (Desc.ctl d) 15 1 == 0 && Desc.field d 19 1 == 0 && Desc.field d 62 2 == 0 &&
    (fmtBlock (Desc.fmt d) = 0 || Desc.rpitch d ≠ 0) && (Desc.kind d == 0 || Desc.unfoldOk d)

/-- The position of a stream (R131); of an unfolded one, the displacement P' of its levels 2 and 3 (R135). -/
def Desc.position (d : Desc) : Int :=
  let levels := if Desc.kind d = 1 then [2, 3] else [0, 1, 2, 3]
  levels.foldl (fun a l => if Desc.ext d l = 0 && Desc.kind d ≠ 1 then a else a + (Desc.idx d l : Int) * Desc.stride d l) 0

/-- The base address of a stream on core n (R129): raw, or from the first byte of its buffer. -/
def State.streamBase (s : State) (n : Nat) (d : Desc) : Nat :=
  if Desc.bufMode d then sliceBase n + ((s.core n).buf (Desc.bufNo d)).offset + Desc.base d else Desc.base d

/-- The bytes a buffer-mode stream may reach: first address and size (R131, R142). -/
def State.streamWindow (s : State) (n : Nat) (d : Desc) : Option (Nat × Nat) :=
  if Desc.bufMode d then
    let b := (s.core n).buf (Desc.bufNo d)
    some (sliceBase n + b.offset, 64 * b.size)
  else none

/-- The address of a stream: base plus position, in raw mode modulo 2^40 (R131). -/
def State.streamAddr (s : State) (n : Nat) (d : Desc) : Nat :=
  let a : Int := (s.streamBase n d : Int) + Desc.position d
  if Desc.bufMode d then unsignedOf 64 a else unsignedOf 40 a

end Sys2Proof.Machine
end

