-- ==== Sys2Proof/Machine/Access.lean ====
section
/-! DEFINITION. Accesses of a core to slices: which bytes are in range (R142), buffer states (R146), the access map (R330, R331),
strict mode and OORREC (R143), and the claims and writes of an access that passes (R141, R148, R260-R264). -/

namespace Sys2Proof.Machine

/-- An access before its checks: first byte, length in bytes, direction, and the bytes a buffer-mode stream may reach. -/
structure Req where
  ea : Nat
  len : Nat
  write : Bool
  win : Option (Nat × Nat)
  deriving DecidableEq, Repr

/-- Byte a of an access that begins at byte ea is in range (R142): window 0, a slice that exists, the slice of the first byte, no
lent bank, inside the stream's buffer. -/
def State.byteIn (s : State) (ea : Nat) (win : Option (Nat × Nat)) (a : Nat) : Bool :=
  decide (a < 2 ^ 32) && a / 2 ^ 22 == ea / 2 ^ 22 &&
    (match coreOfAddr a with
      | none => false
      | some t => decide (a / 2 ^ 18 % 16 < 16 - (s.core t).lent)) &&
    (match win with
      | none => true
      | some (b, n) => decide (b ≤ a) && decide (a < b + n))

/-- The bytes of an access, as (index, address, in range). -/
def State.reqBytes (s : State) (r : Req) : List (Nat × Nat × Bool) :=
  (List.range r.len).map fun i => (i, r.ea + i, s.byteIn r.ea r.win (r.ea + i))

/-- The class of a target slice in the access map of core n (R330), as the DETAIL with which an access is refused (R331). -/
def State.mapRefusal (s : State) (n t : Nat) (write : Bool) : Option (BitVec 8) :=
  if n = t then none
  else
    match s.launchOf n with
    | none => some 0x03
    | some l =>
      if !l.cores.contains t then some 0x03
      else
        let ts := l.tasks.filter fun k => k.phase == (s.core n).mapPhase
        match ts.find? (fun k => k.members.contains t), ts.find? (fun k => k.members.contains n) with
        | none, _ => if write then some 0x02 else none
        | some k, some m => if k == m then none else some 0x01
        | some _, none => some 0x01

/-- The launch of core n runs in strict mode (R143, R300). -/
def State.strict (s : State) (n : Nat) : Bool :=
  match s.launchOf n with
  | none => false
  | some l => l.strict

/-- An OORREC word (R143). -/
def oorWord (a : Nat) (write : Bool) (slot tcyc : Nat) : Word :=
  BitVec.ofNat 64 (a % 2 ^ 40 + (if write then 2 ^ 40 else 0) + 2 ^ 41 + slot * 2 ^ 42 + tcyc % 2 ^ 16 * 2 ^ 48)

/-- A buffer allows an access of core n (R146): reads of full or draining, writes of empty or of filling by its own stores. -/
def Buf.allows (b : Buf) (n : Nat) (write : Bool) : Bool :=
  match b.st with
  | .empty => write
  | .filling => write && b.fkind == 1 && b.filler == n
  | .full | .draining => !write

/-- Some byte of a list (package scratchpad addresses) lies in a buffer of its slice that does not allow the access. -/
def State.bufRefuses (s : State) (n : Nat) (write : Bool) (bytes : List Nat) : Bool :=
  bytes.any fun a =>
    match coreOfAddr a with
    | none => false
    | some t =>
      match bufAt (s.core t).bufs (a % 2 ^ 22) with
      | none => false
      | some (_, b) => !b.allows n write

/-- A byte of the list lies in a declared buffer. -/
def State.inBuffer (s : State) (bytes : List Nat) : Bool :=
  bytes.any fun a =>
    match coreOfAddr a with
    | none => false
    | some t => (bufAt (s.core t).bufs (a % 2 ^ 22)).isSome

/-- Writes into empty buffers take them to filling, with FKIND 1 and the writer as FILLER (R146, R147). -/
def State.fillBufs (s : State) (n : Nat) (bytes : List Nat) : State :=
  let hits := bytes.filterMap fun a =>
    match coreOfAddr a with
    | none => none
    | some t =>
      match bufAt (s.core t).bufs (a % 2 ^ 22) with
      | some (i, b) => if b.st == .empty then some (t, i) else none
      | none => none
  hits.eraseDups.foldl (fun s (t, i) => s.addBuf false t i .filling 1 n false) s

/-- The checks at issue of the bytes an access selects, each (address, in range, written), by the core being issued, in ascending
cause (R42, R143, R146, R331).  The answer is the first out-of-range byte with its direction. -/
def State.checkBytes (s : State) (bytes : List (Nat × Bool × Bool)) : Except Trap (Option (Nat × Bool)) :=
  let n := s.ix.core
  let inr := bytes.filter fun b => b.2.1
  let oor := (bytes.find? fun b => !b.2.1).map fun b => (b.1, b.2.2)
  let own (w : Bool) := ((inr.filter fun b => b.2.2 == w).map (·.1)).filter fun a => coreOfAddr a == some n
  if s.bufRefuses n false (own false) || s.bufRefuses n true (own true) then .error (trapAt s 0x05 0)
  else
    match inr.findSome? fun b => (coreOfAddr b.1).bind fun t => s.mapRefusal n t b.2.2 with
    | some d => .error (trapAt s 0x06 d)
    | none =>
      match oor with
      | none => .ok none
      | some (a, w) =>
        if s.strict n then .error { trapAt s 0x07 0 with oor := some (oorWord a w s.ix.slot s.cur.tcyc) }
        else .ok (some (a, w))

/-- The checks of a plain access: `sel` holds the indices of its selected bytes. -/
def State.checkReq (s : State) (r : Req) (sel : List Nat) : Except Trap (Option Nat) :=
  (s.checkBytes (((s.reqBytes r).filter fun b => sel.contains b.1).map fun b => (b.2.1, b.2.2, r.write))).map
    fun o => o.map (·.1)

/-- Record the first out-of-range byte of an access, when OORREC holds no record (R143); the bundle keeps its own first one, which a CSR write of
the bundle that clears VALID lets in (R82). -/
def State.recordOor (s : State) (write : Bool) (oor : Option Nat) : State :=
  match oor with
  | none => s
  | some a =>
    let w := oorWord a write s.ix.slot s.cur.tcyc
    let t := s.modCur fun c => if c.oorrec.getLsbD 41 then c else { c with oorrec := w }
    { t with ix := { t.ix with oor := t.ix.oor.orElse fun _ => some w } }

/-- The banks of the in-range bytes of an access's whole span, selected or not (R141, R148). -/
def State.reqBanks (s : State) (r : Req) : List Nat :=
  (((s.reqBytes r).filter fun b => b.2.2).map fun b => b.2.1 / 2 ^ 18 % 16).eraseDups

/-- The value of a byte of a package scratchpad address as a read at this cycle returns it (R149, R326). -/
def State.nearByte (s : State) (a : Nat) : Byte := memByte s.mem (nearBase + a)

/-- What the selected bytes of an access read: out-of-range bytes read zero (R143). -/
def State.readReq (s : State) (r : Req) : List Byte :=
  (s.reqBytes r).map fun b => if b.2.2 then s.nearByte b.2.1 else 0

/-- A core access in flight to the slice of its first byte: bank cycle, links, stamp (R141, R260-R264).  `extra` is the distance of its
bank cycle beyond that of a row access; `bytes` are the bytes it reads or writes. -/
def State.claim (s : State) (op : Nat) (r : Req) (extra : Nat) (bytes : List Nat) (atom : Bool) : State :=
  match coreOfAddr r.ea with
  | none => s
  | some t =>
    let n := s.ix.core
    let banks := s.reqBanks r
    if banks.isEmpty then s
    else s.addAcc
      { op := op, kind := .core, core := n, slot := s.ix.slot, addr := s.ix.addr, issued := s.clock, stamp := s.cur.tcyc,
        cycle := s.clock + s.bankLat n t + extra, target := t, banks := banks, units := 1, write := r.write,
        hops := if n = t then [] else routeLinks n t s.clock, remote := n != t,
        bytes := bytes, atom := atom }

/-- The slice core n reaches with an access.  DESIGN CHOICE (log 46): an access outside every slice has the latency of one to the own slice. -/
def reqTarget (n : Nat) (r : Req) : Nat := if r.ea < 2 ^ 32 then (coreOfAddr r.ea).getD n else n

/-- The effects that loads and stores share once checked: OORREC and the claim.  The answer is the operation's name. -/
def State.beginAccess (s : State) (r : Req) (oor : Option Nat) (extra : Nat) (bytes : List Nat) : Nat × State :=
  let (op, s) := s.fresh
  let s := s.recordOor r.write oor
  (op, s.claim op r extra bytes false)

/-- The selected in-range bytes of an access, with their indices. -/
def State.liveBytes (s : State) (r : Req) (sel : List Nat) : List (Nat × Nat) :=
  ((s.reqBytes r).filter fun b => b.2.2 && sel.contains b.1).map fun b => (b.1, b.2.1)

/-- A store that has passed its checks: its bytes, in the write order at its bank cycle, visible at its latency (R149, R326, R327), and the
buffers it takes to filling. -/
def State.storeReq (s pre : State) (r : Req) (sel : List Nat) (oor : Option Nat) (extra : Nat) (data : List Byte) : Nat × State :=
  let n := s.ix.core
  let t := reqTarget n r
  let live := pre.liveBytes r sel
  let (op, s) := s.beginAccess r oor extra (live.map (·.2))
  let s := s.addMem (s.clock + pre.rowLat n t + extra) (s.clock + pre.bankLat n t + extra) op
    (live.map fun (i, a) => (nearBase + a, data.getD i 0)) n
  (op, if n = t then s.fillBufs n (live.map (·.2)) else s)

/-! Windows (R103, R295, R369) -/

/-- The window of an effective address whose bits 63:40 are zero (R258). -/
def windowOf (ea : Nat) : Nat := ea / 2 ^ 32 % 256

/-- An access of the core being issued to the coherent window: it reaches the window at issue + 24, and a load writes its register at issue + 48 (R295). -/
def State.windowAccess (s : State) (off len : Nat) (write : Bool) (data : Nat) (sd : BitVec 5) (sext : Bool) : State :=
  let (op, s) := s.fresh
  let a : WinAcc := { cycle := s.clock + 24, op := op, core := s.ix.core, slot := s.ix.slot, addr := s.ix.addr, issued := s.clock,
                      stamp := s.cur.tcyc, off := off, len := len, write := write, data := data, sd := sd, sext := sext }
  let s := { s with winAcc := s.winAcc ++ [a] }
  (if write then s else s.addWrite (.later sd) 48).scheduleOnce (s.clock + 24) prioWindow .windowSample

def Core.window (c : Core) (n : Nat) : Window := SMap.get .init c.win n
def Core.setWindow (c : Core) (n : Nat) (w : Window) : Core := { c with win := SMap.put .init c.win n w }

def Window.valid (w : Window) : Bool := w.peer.getLsbD 12
def Window.pkg (w : Window) : Nat := bitsOf w.peer.toNat 0 6
def Window.pod (w : Window) : Nat := bitsOf w.peer.toNat 6 6
def Window.baseAddr (w : Window) : Nat := bitsOf w.base.toNat 0 32
def Window.size (w : Window) : Nat := bitsOf w.base.toNat 32 32
def Window.limit (w : Window) : Nat := bitsOf w.allow.toNat 0 9

/-- The first test of R369: the window takes `bytes` bytes at offset o. -/
def State.windowTakes (s : State) (w : Window) (o bytes : Nat) : Bool :=
  w.valid && decide (o + bytes ≤ w.size) && decide (w.baseAddr + o + bytes ≤ 2 ^ 32) &&
    (w.pod != s.fab.pod || s.fab.livePeers.getLsbD w.pkg)

/-- A posted write (R369): `runs` are the contiguous runs of bytes from offset o, `bytes` the reach that is checked.  It is out of range,
exceeds the allowance, or sends one cell for each run.  DESIGN CHOICE (log 46): the address recorded is that of the access as a whole, for a VST the start of its
aligned row, whichever lanes it selects. -/
def State.postWrite (s pre : State) (ea bytes : Nat) (runs : List (Nat × List Byte)) : Except Trap State :=
  let n := windowOf ea
  let o := ea % 2 ^ 32
  let w := pre.cur.window n
  if !pre.windowTakes w o bytes then
    if pre.strict pre.ix.core then .error { trapAt pre 0x07 0 with oor := some (oorWord ea true pre.ix.slot pre.cur.tcyc) }
    else .ok (s.recordOor true (some ea))
  else
    let now := s.cur.window n
    if w.limit < now.outst + runs.length then .error (trapAt pre 0x18 0)
    else
      let cells : List OutCell := runs.map fun (k, d) =>
        { entry := s.clock + 2, core := s.ix.core, slot := s.ix.slot, dest := w.pod * 64 + w.pkg, kind := 1,
          addr := w.baseAddr + o + k, data := d, op := 0, fmt := 0, cmd := 0, step := 0, last := false, win := n, cmdId := 0,
          bind := s.cur.bind, ready := 0 }
      let s := s.modCur fun c => c.setWindow n { now with outst := now.outst + runs.length }
      let s := { s with fab := { s.fab with queue := s.fab.queue ++ cells } }
      .ok (if w.pod = s.fab.pod && w.pkg = s.fab.pkg then s.scheduleOnce (s.clock + 2) prioCell .cellSend else s)

end Sys2Proof.Machine
end

