-- ==== Sys2Proof/Machine/Elements.lean ====
section
/-! DEFINITION. Elements of stored tensors: packing (R108), the scales of a stream's elements (R134), decoding and encoding of views
(R113, R119). -/

namespace Sys2Proof.Machine

/-- Data bytes per block, bb (R134). -/
def fmtBlockBytes (fmt : Nat) : Nat :=
  match fmt with
  | 12 | 13 | 17 => 32
  | 14 | 15 => 24
  | 16 => 16
  | _ => 4

/-- Bytes that n consecutive elements take (R108). -/
def fmtBytes (fmt n : Nat) : Nat := ceilDiv (n * fmtBits fmt) 8

/-- First byte and byte count of element i of a packed array, from the array's first byte (R108). -/
def elemSpan (fmt i : Nat) : Nat × Nat :=
  let o := i * fmtBits fmt
  (o / 8, (o % 8 + fmtBits fmt + 7) / 8)

/-- The code of element i of a packed array whose byte k is `rd k` (R108). -/
def elemCode (rd : Nat → Byte) (fmt i : Nat) : Nat :=
  let o := i * fmtBits fmt
  let (b, n) := elemSpan fmt i
  leNat ((List.range n).map fun k => rd (b + k)) / 2 ^ (o % 8) % 2 ^ fmtBits fmt

/-- The bytes of codes packed in order (R108). -/
def packCodes (fmt : Nat) (codes : List Nat) : List Byte :=
  let v := codes.zipIdx.foldl (fun a (c, i) => a + c % 2 ^ fmtBits fmt * 2 ^ (i * fmtBits fmt)) 0
  leBytes (fmtBytes fmt codes.length) v

/-- A band scale belongs to the stream's elements (R111, R129). -/
def Desc.banded (d : Desc) : Bool := fmtBlock (Desc.fmt d) = 8 || (3 ≤ Desc.fmt d && Desc.fmt d ≤ 11 && Desc.band d)

/-- Row and column of displacement D (R134); where RPITCH is 0 the row is open. -/
def Desc.rowCol (d : Desc) (disp : Int) : Int × Int :=
  if Desc.rpitch d = 0 then (Config.zeroPitchRow disp, disp) else (disp / (Desc.rpitch d : Int), disp % (Desc.rpitch d : Int))

/-- The block-scale byte of the element at displacement D, as a displacement (R134). -/
def Desc.scaleDisp (d : Desc) (disp : Int) : Int :=
  let (row, col) := Desc.rowCol d disp
  let bb := fmtBlockBytes (Desc.fmt d)
  Desc.scb d + row * (ceilDiv (Desc.rpitch d) bb : Nat) + col / (bb : Int)

/-- The band-scale entry of the element at displacement D (R134). -/
def Desc.bandDisp (d : Desc) (disp : Int) : Int := Desc.bsb d + Desc.bss d * ((Desc.rowCol d disp).1 / 64)

/-- A displacement from a base as an address. -/
def addrAt (base : Nat) (disp : Int) : Nat := unsignedOf 64 ((base : Int) + disp)

/-- The band scale of the element at displacement D: 1 when there is none. -/
def bandAt (rd : Nat → Byte) (d : Desc) (base : Nat) (disp : Int) : Nat :=
  if Desc.banded d then
    let a := addrAt base (Desc.bandDisp d disp)
    leNat [rd a, rd (a + 1)]
  else 0x3F80

/-- The value of an element (R112): its code, and the scales at its displacement, read byte by byte. -/
def elemValue (rd : Nat → Byte) (d : Desc) (base : Nat) (disp : Int) (code : Nat) : Val × Flags :=
  let fmt := Desc.fmt d
  let x := (elemOf fmt).decode code
  let band := bf16.decode (bandAt rd d base disp)
  if fmtBlock fmt = 0 then (if Desc.banded d then scaledVal x (.fin false 1 0) band else x)
  else
    let s := (rd (addrAt base (Desc.scaleDisp d disp))).toNat
    scaledVal x (if fmtBlock fmt = 8 then e3m5 s else e8m0 s) band

/-! Views as formats (R113, R164) -/

/-- The exact value of a lane of a view; the rounding mode signs a pair's exact zero sum (R115). -/
def laneVal (mode : Rnd) (view code : Nat) : Val :=
  match view with
  | 0 => pairVal mode (code % 2 ^ 32) (code / 2 ^ 32)
  | 2 | 5 | 6 => .ofInt (signed (viewBits view) code)
  | _ => (viewFloat view).decode code

/-- A value written into a lane of a view: f32x2 gets (x, +0), integers saturate (R114, R116, R119). -/
def laneOfVal (view : Nat) (mode : Rnd) (v : Val) : Nat × Flags :=
  match view with
  | 0 => fp32.ofVal mode v
  | 2 | 5 | 6 =>
    let w := viewBits view
    let (i, f) := intOfVal mode (-(2 ^ (w - 1) : Int)) (2 ^ (w - 1) - 1) v
    (unsignedOf w i, f)
  | _ => (viewFloat view).ofVal mode v

/-- An element stored under a band scale.  DESIGN CHOICE (log 46): the value is divided by the band scale first, so that decoding under R112 gives it back,
and then rounded; open when the scale is NaN, infinite or zero (log 11). -/
def bandedCode (fmt : Nat) (mode : Rnd) (band src : Nat) (v : Val) : Nat × Flags :=
  match bf16.decode band with
  | .fin n (m + 1) e =>
    let (q, f) := v.div (.fin n (m + 1) e)
    let (c, g) := (elemOf fmt).ofVal mode q
    (c, f ||| g)
  | _ => (Config.openElem fmt band src % 2 ^ fmtBits fmt, 0)

end Sys2Proof.Machine
end

