-- ==== Sys2Proof/Machine/Monitors.lean ====
section
/-! DEFINITION. Monitors (16, R352, R353, R350): samples, the registers, clearing and capture. -/

namespace Sys2Proof.Machine

/-- Where a monitor stands in `State.mons`. -/
def MonId.key : MonId → Nat
  | .pkg m => m
  | .cluster c m => 16 + 8 * c + m

/-- The monitors that exist (R352). -/
def MonId.exists_ : MonId → Bool
  | .pkg m => decide (m < 7)
  | .cluster c m => decide (c < 48) && decide (2 ≤ m) && decide (m < 6)

def MonId.quantity : MonId → Nat
  | .pkg m => m
  | .cluster _ m => m

def State.mon (s : State) (k : Nat) : Monitor := SMap.get .init s.mons k
def State.setMon (s : State) (k : Nat) (m : Monitor) : State := { s with mons := SMap.put .init s.mons k m }

/-- Counts of monitors saturate (R353). -/
def sat32 (n : Nat) : Nat := Nat.min n (2 ^ 32 - 1)

/-- E, P and EN of CFG (R353). -/
def Monitor.e (m : Monitor) : Int := signed 6 (bitsOf m.cfg.toNat 0 6)
def Monitor.p (m : Monitor) : Nat := bitsOf m.cfg.toNat 8 2
def Monitor.en (m : Monitor) : Bool := m.cfg.getLsbD 12

/-- x is below 2^e. -/
def belowEdge (x : Nat) (e : Int) : Bool := if e < 0 then x == 0 else decide (x < 2 ^ e.toNat)

/-- The bin of a value (R352). -/
def Monitor.bin (m : Monitor) (x : Nat) : Nat :=
  ((List.range 31).find? fun i => belowEdge x (m.e + (i * (m.p + 1) : Nat))).getD 31

/-- A sample of value x (R352). -/
def Monitor.sample (m : Monitor) (x : Nat) : Monitor :=
  if m.en then
    let b := m.bin x
    { m with min := Nat.min m.min (sat32 x), max := Nat.max m.max (sat32 x), count := sat32 (m.count + 1),
             bins := SMap.put 0 m.bins b (sat32 (SMap.get 0 m.bins b + 1)) }
  else m

def State.ctl (s : State) (k : Nat) : Ctl := SMap.get .init s.ctls k
def State.setCtl (s : State) (k : Nat) (c : Ctl) : State := { s with ctls := SMap.put .init s.ctls k c }

/-- The controller that feeds a monitor (R350): Dusk droop and temperature, Vesper fabric and journal latency. -/
def feeder (q : Nat) : Option Nat :=
  match q with
  | 1 | 6 => some 1
  | 4 | 5 => some 2
  | _ => none

/-- A monitor skips samples while its feeder is being replaced (R350). -/
def State.gap (s : State) (q : Nat) : Bool :=
  match feeder q with
  | some k => (s.ctl k).window
  | none => false

/-- One sample of quantity q: the package's monitor, and that of core n's cluster for the quantities that clusters hold. -/
def State.sample (s : State) (q x : Nat) (core : Option Nat) : State :=
  if s.gap q then s
  else
    let s := s.setMon q ((s.mon q).sample x)
    match core with
    | none => s
    | some n =>
      if 2 ≤ q && q < 6 then
        let k := MonId.key (.cluster (coreCluster n) q)
        s.setMon k ((s.mon k).sample x)
      else s

/-- Words 0 to 31 of a monitor's registers (R353): offset 8i. -/
def Monitor.word (m : Monitor) (i : Nat) : Word :=
  match i with
  | 0 => m.cfg &&& 0x133F
  | 1 => BitVec.ofNat 64 (m.min + m.max * 2 ^ 32)
  | 2 => BitVec.ofNat 64 (m.count + m.gaps * 2 ^ 32)
  | 3 => 0
  | _ => if i < 20 then BitVec.ofNat 64 (SMap.get 0 m.bins (2 * (i - 4)) + SMap.get 0 m.bins (2 * (i - 4) + 1) * 2 ^ 32) else 0

def Monitor.clear (m : Monitor) : Monitor := { m with min := 0xFFFFFFFF, max := 0, count := 0, gaps := 0, bins := [] }
def Monitor.capture (m : Monitor) : Monitor := { m with cap := SMap.putAll 0 [] ((List.range 32).map fun i => (i, m.word i)) }

/-- MONITOR_CLEAR (R353). -/
def execMonitorClear (mon : MonId) (s : State) : Host.Outcome State Fault Refusal :=
  if MonId.exists_ mon then .next (s.setMon (MonId.key mon) (s.mon (MonId.key mon)).clear) else .fault .noSuchUnit

/-- MONITOR_CAPTURE (R353). -/
def execMonitorCapture (mon : MonId) (s : State) : Host.Outcome State Fault Refusal :=
  if MonId.exists_ mon then .next (s.setMon (MonId.key mon) (s.mon (MonId.key mon)).capture) else .fault .noSuchUnit

end Sys2Proof.Machine
end

