-- ==== Sys2Proof/Machine/Timelines.lean ====
section
/-! DEFINITION. Timeline contexts (08, R205, R206, R208, R416): batches, their counters and records, and the operations that join
and leave them; effects (R62). -/

namespace Sys2Proof.Machine

def Ctx.batch (x : Ctx) (n : Nat) : Batch := SMap.get .empty x.batches n

/-- Raise TLCNT while the next closed batch has no operation left (R206). -/
def Ctx.settleFrom : Nat → Ctx → Ctx
  | 0, x => x
  | fuel + 1, x =>
    if x.cnt < x.closed && (x.batch (x.cnt + 1)).pending == 0 then Ctx.settleFrom fuel { x with cnt := x.cnt + 1 } else x

def Ctx.settle (x : Ctx) : Ctx := Ctx.settleFrom (x.closed - x.cnt) x

/-- Close the open batch (R205): it takes the next number, unless it is empty. -/
def Ctx.close (x : Ctx) : Ctx :=
  if x.cur.members = 0 then x
  else Ctx.settle { x with closed := x.closed + 1, batches := SMap.put .empty x.batches (x.closed + 1) x.cur, cur := .empty }

/-- Close the open batch of context r on core n; its operations now count under the batch's number. -/
def State.closeBatch (s : State) (n : Nat) (r : BitVec 3) : State :=
  let c := s.core n
  let x := c.ctxAt r
  if x.cur.members = 0 then s
  else
    let s := s.setCore n (c.setCtx r x.close)
    { s with cmds := s.cmds.map fun k =>
        if k.core == n && k.ctx == r.toNat && k.batch == .opn then { k with batch := .num (x.closed + 1) } else k }

/-- An operation joins the open batch of its context (R205). -/
def Ctx.join (x : Ctx) (writing : Bool) : Ctx :=
  { x with cur := { x.cur with members := x.cur.members + 1, pending := x.cur.pending + 1,
                               writing := x.cur.writing + (if writing then 1 else 0) } }

/-- An operation of a batch completes (R206, R208): its status, detail and value go to the batch's record. -/
def Batch.finish (b : Batch) (writing : Bool) (status detail : BitVec 8) (value : BitVec 32) : Batch :=
  { b with pending := b.pending - 1, writing := b.writing - (if writing then 1 else 0),
           status := if status = 0 then b.status else status,
           detail := if status = 0 && detail = 0 then b.detail else detail,
           value := b.value + value }

def Ctx.finish (x : Ctx) (ref : BatchRef) (writing : Bool) (status detail : BitVec 8) (value : BitVec 32) : Ctx :=
  match ref with
  | .opn => { x with cur := x.cur.finish writing status detail value }
  | .num n => Ctx.settle { x with batches := SMap.put .empty x.batches n ((x.batch n).finish writing status detail value) }
  | .none | .detached => x

/-- A timeline record (R208). -/
def recordWord (status detail : BitVec 8) (valid expired : Bool) (value : BitVec 32) : Word :=
  BitVec.ofNat 64 (status.toNat + detail.toNat * 2 ^ 8 + (if valid then 2 ^ 16 else 0) + (if expired then 2 ^ 17 else 0) +
    value.toNat * 2 ^ 32)

/-- The numbers of the batches that have completed, latest completed number last; the last 8 keep their records (R208). -/
def Ctx.completed (x : Ctx) : List Nat := (x.batches.filter fun kb => kb.2.pending == 0).map (·.1)

/-- The highest batch whose record has expired: 8 completed ones follow it (R208), now or before a rewind. -/
def Ctx.lastExpired (x : Ctx) : Nat :=
  let done := x.completed
  Nat.max x.expired (((done.take (done.length - 8)).getLast?).getD 0)

/-- The record that TLRD reads for batch n, or for the last timed command with n = 0 (R208). -/
def Ctx.record (x : Ctx) (n : Nat) : Word :=
  if n = 0 then x.timed
  else
    if !x.completed.contains n then 0
    else if n ≤ x.lastExpired then recordWord 0 0 false true 0
    else
      let b := x.batch n
      recordWord b.status b.detail true false b.value

/-- Timed and untimed operations by name. -/
def State.cmd (s : State) (id : Nat) : Option Cmd := s.cmds.find? fun k => k.id == id
def State.setCmd (s : State) (k : Cmd) : State := { s with cmds := s.cmds.map fun j => if j.id == k.id then k else j }
def State.dropCmd (s : State) (id : Nat) : State := { s with cmds := s.cmds.filter fun j => j.id != id }

/-- A number below 8 as a context. -/
def ctxNo (n : Nat) : BitVec 3 := BitVec.ofNat 3 n

/-- A flag event of an engine on a frozen core goes to the checkpoint, which the restart brings back (R75, R127). -/
def Core.raiseFrozen (c : Core) (flags : BitVec 6) (addr stamp : Nat) : Core :=
  match c.run, c.ckpt with
  | .frozen, some k =>
    let d := { c with flagsA := k.flagsA, flagsB := k.flagsB, fevrec := k.fevrec }.raise flags 9 addr stamp
    { c with ckpt := some { k with flagsA := d.flagsA, flagsB := d.flagsB, fevrec := d.fevrec } }
  | _, _ => c.raise flags 9 addr stamp

/-- Flags merged into the saved record of a context that is switched out (R127, R323). -/
def Core.mergeSaved (c : Core) (flags : BitVec 6) : Core :=
  if flags = 0 then c
  else
    let put (a b : Word) : Core :=
      { c with flagsA := a ||| BitVec.ofNat 64 (flags.toNat * 2 ^ 48), flagsB := b ||| 4 }
    match c.ckpt with
    | none => put c.flagsA c.flagsB
    | some k =>
      let d := put k.flagsA k.flagsB
      { d with ckpt := some { k with flagsA := d.flagsA, flagsB := d.flagsB } }

/-- A member of a batch that was open at the cut line completes: the checkpoint's copy of the batch hears of it too (R416). -/
def Core.finishOpen (c : Core) (k : Cmd) : Core :=
  match c.ckpt with
  | none => c
  | some q =>
    let open_ := k.batch == .opn || k.batch == .num (q.closed.getD k.ctx 0 + 1)
    if k.issued < q.taken && open_ then
      { c with ckpt := some { q with opens := q.opens.set k.ctx ((q.opens.getD k.ctx .empty).finish k.writing k.status k.detail k.value) } }
    else c

/-- Change core n of the launch at b: what has been saved of it until it has been restored (R323), else the core itself. -/
def State.modSaved (s : State) (n : Nat) (b : Option Nat) (f : Core → Core) : State :=
  match b with
  | none => s.modCore n f
  | some k =>
    if (s.launch k).saved.isEmpty then s.modCore n f
    else s.modLaunch k fun l => { l with saved := SMap.put Core.init l.saved n (f (SMap.get Core.init l.saved n)) }

/-- The same for its windows, which the core has again once it is bound (R317). -/
def State.modIssuer (s : State) (n : Nat) (b : Option Nat) (f : Core → Core) : State :=
  if (s.core n).bind == b then s.modCore n f else s.modSaved n b f

/-- The operation leaves: its batch hears of it, and its flags are raised into FE, unless a rewind has detached it (R127, R206, R416); where its
launch is pre-empted, both happen in the saved core, and the context area is written again (R323). -/
def State.finishCmd (s : State) (k : Cmd) : State :=
  let s := s.dropCmd k.id
  let hear (c : Core) : Core := (c.finishOpen k).setCtx (ctxNo k.ctx) ((c.ctxAt (ctxNo k.ctx)).finish k.batch k.writing k.status k.detail k.value)
  if k.batch == .detached then s
  else
    match k.bind with
    | none => s.modCore k.core fun c => (hear c).raiseFrozen k.flags k.addr k.stamp
    | some b =>
      let l := s.launch b
      if !l.saved.isEmpty then
        let c := SMap.get Core.init l.saved k.core
        (s.setLaunch b { l with saved := SMap.put Core.init l.saved k.core ((hear c).mergeSaved k.flags) }).scheduleOnce s.clock prioAfter (.preemption b)
      else s.modCore k.core fun c => (hear c).raiseFrozen k.flags k.addr k.stamp

/-- The value of a scalar write that had none yet arrives (R73, R234, R295): the write of that issue cycle and slot takes it while it is in flight, and the
checkpoint that awaits it takes it in any case. -/
def Core.learn (c : Core) (issued slot : Nat) (v : Word) : Core :=
  { c with
    pend := c.pend.map fun w => match w.w with
      | .later r => if w.issued = issued && w.slot = slot then { w with w := .s r v } else w
      | _ => w,
    ckpt := c.ckpt.map fun q =>
      { q with
        s := Vector.ofFn fun i => if q.awaits.contains (i.val, issued, slot) then v else q.s[i.val]'(i.isLt),
        awaits := q.awaits.filter fun a => a.2 != (issued, slot) } }

/-- A saved context of a pre-empted launch that awaits the value. -/
def State.savedAwait (s : State) (n issued slot : Nat) : Option Launch :=
  (s.binds.find? fun kl => match (SMap.get Core.init kl.2.saved n).ckpt with
    | some q => q.awaits.any fun a => a.2 == (issued, slot)
    | none => false).map (·.2)

/-- The value reaches core n, or the context that was saved meanwhile, whose area is written again (R73, R321). -/
def State.learn (s : State) (n issued slot : Nat) (v : Word) : State :=
  match s.savedAwait n issued slot with
  | some l => (s.setLaunch l.bind { l with saved := SMap.put Core.init l.saved n ((SMap.get Core.init l.saved n).learn issued slot v) }).scheduleOnce
      s.clock prioAfter (.preemption l.bind)
  | none => s.modCore n fun c => c.learn issued slot v

/-- A scalar write whose value will never come: its access failed. -/
def State.unlearn (s : State) (n issued slot : Nat) : State :=
  s.modCore n fun c => { c with pend := c.pend.filter fun w => match w.w with
    | .later _ => w.issued != issued || w.slot != slot
    | _ => true }

/-- A new operation of the bundle being issued. -/
def State.newCmd (s : State) (instr : Instr) (ctx : Nat) (timed writing : Bool) (args : List Word) : Cmd × State :=
  let (id, s) := s.fresh
  let k : Cmd :=
    { id := id, core := s.ix.core, bind := s.cur.bind, slot := s.ix.slot, addr := s.ix.addr, stamp := s.cur.tcyc, issued := s.clock,
      instr := instr, ctx := ctx, timed := timed, batch := if timed then .none else .opn, tS := 0, start := 0, dur := 0, base := 0, span := 0, lost := [],
      block := 0, stage := .issued, writing := writing, args := args, data := [], flags := 0, status := 0, detail := 0, value := 0,
      bno := (s.cur.ctxAt (ctxNo ctx)).closed + 1, pos := (s.cur.ctxAt (ctxNo ctx)).cur.members, dead := false, beat := 0, bad := [] }
  let s := { s with cmds := s.cmds ++ [k] }
  (k, if timed then s else s.modCur fun c => c.setCtx (ctxNo ctx) ((c.ctxAt (ctxNo ctx)).join writing))

/-- An effect issues (R62): outside a sealed region it marks the region closing. -/
def State.effect (s : State) : State :=
  s.modCur fun c => if c.region.kind == .sealed then c else { c with region := { c.region with closing := true } }

end Sys2Proof.Machine
end

