-- ==== Sys2Proof/Machine/LSlot.lean ====
section
/-! DEFINITION. The L slot: rows between the accumulator file and slices, gather and scatter, buffer states and scratchpad atomics
(05, R148-R155). -/

namespace Sys2Proof.Machine

/-- One part of an access: its first byte, which fixes the slice, its bytes (address, selected), its direction and bus units. -/
structure Part where
  first : Nat
  bytes : List (Nat × Bool)
  write : Bool
  units : Nat
  deriving DecidableEq, Repr

/-- The address an L-slot instruction starts from (R148), with the bytes its stream may reach: the checks of R130 and R146, no unfolded
stream. -/
def lBase (s : State) (o : LOps) (off : Int) : Except Trap (Nat × Option (Nat × Nat)) :=
  if o.mode then .ok (unsignedOf 64 ((s.cur.sreg o.scalar).toNat + off), none)
  else
    let d := s.cur.greg o.stream
    if !Desc.useOk d || Desc.kind d ≠ 0 then .error (trapAt s 0x02 0)
    else if Desc.bufMode d && !(s.cur.buf (Desc.bufNo d)).decl then .error (trapAt s 0x05 0)
    else .ok (unsignedOf 64 ((s.streamAddr s.ix.core d : Int) + off), s.streamWindow s.ix.core d)

/-- View and lane mask of a memory instruction. -/
def lView (o : LOps) : Nat := (o.mod.extractLsb' 0 3).toNat
def lMask (s : State) (o : LOps) (i : Nat) : Bool := (s.cur.kreg o.mask).getLsbD i
/-- The selected lanes of the view (R148). -/
def lLanes (s : State) (o : LOps) : List Nat := (List.range (viewLanes (lView o))).filter (lMask s o)

/-- The bytes of a row, each selected with its lane. -/
def rowPart (s : State) (o : LOps) (a : Nat) (write : Bool) : Part :=
  let w := viewBits (lView o) / 8
  { first := a, bytes := (List.range 512).map fun i => (a + i, lMask s o (i / w)), write := write, units := 1 }

/-- Byte a of a part is in range (R142). -/
def partIn (s : State) (win : Option (Nat × Nat)) (p : Part) (a : Nat) : Bool := s.byteIn p.first win a

/-- The checks of an access of several parts (R42, R143, R146, R331). -/
def checkParts (s : State) (win : Option (Nat × Nat)) (ps : List Part) : Except Trap (Option (Nat × Bool)) :=
  s.checkBytes (ps.flatMap fun p => (p.bytes.filter (·.2)).map fun b => (b.1, partIn s win p b.1, p.write))

/-- What a part reads at an address: zero out of range (R143). -/
def partByte (s : State) (win : Option (Nat × Nat)) (p : Part) (a : Nat) : Byte :=
  if p.bytes.any (fun b => b.1 == a) && partIn s win p a then s.nearByte a else 0

/-- The slice a part reaches. -/
def partTarget (n : Nat) (p : Part) : Nat := if p.first < 2 ^ 32 then (coreOfAddr p.first).getD n else n

/-- The claims of an access: one for each part, all on one bank cycle, that of the first part (R141, R148, R151); each slice is reached once over the links (R261). -/
def claimParts (s pre : State) (op : Nat) (win : Option (Nat × Nat)) (ps : List Part) (cycle : Nat) : State :=
  let n := pre.ix.core
  ps.zipIdx.foldl (fun s (p, i) =>
    let t := partTarget n p
    let live := p.bytes.filter fun b => partIn pre win p b.1
    let banks := (live.map fun b => b.1 / 2 ^ 18 % 16).eraseDups
    if banks.isEmpty then s
    else s.addAcc
      { op := op, kind := .core, core := n, slot := pre.ix.slot, addr := pre.ix.addr, issued := pre.clock, stamp := pre.cur.tcyc,
        cycle := cycle, target := t, banks := banks, units := p.units, write := p.write,
        hops := if n = t || (ps.take i).any fun q => partTarget n q == t then [] else routeLinks n t pre.clock, remote := n != t,
        bytes := (live.filter (·.2)).map (·.1), atom := false }) s

/-- The loads and stores of rows: checks, OORREC and claims; then `go` adds the effects for the operation's name. -/
def accessParts (pre cur : State) (win : Option (Nat × Nat)) (ps : List Part) (cycle : Nat)
    (go : Nat → State → State) : Except Trap State :=
  match checkParts pre win ps with
  | .error t => .error t
  | .ok oor =>
    let (op, s) := cur.fresh
    let s := match oor with
      | some (a, w) => s.recordOor w (some a)
      | none => s
    .ok (go op (claimParts s pre op win ps cycle))

/-- The latency and the bank cycle of a row access by this core to the slice of a part. -/
def partLat (s : State) (p : Part) : Nat := s.rowLat s.ix.core (partTarget s.ix.core p)
def partBank (s : State) (p : Part) : Nat := s.clock + s.bankLat s.ix.core (partTarget s.ix.core p)

/-- Bytes of a store that take effect: selected and in range; buffers of the own slice begin to fill. -/
def storeParts (s pre : State) (win : Option (Nat × Nat)) (p : Part) (op vis bank : Nat) (data : Nat → Byte) : State :=
  let live := p.bytes.zipIdx.filter fun b => b.1.2 && partIn pre win p b.1.1
  let s := s.addMem vis bank op (live.map fun b => (nearBase + b.1.1, data b.2)) pre.ix.core
  if partTarget pre.ix.core p = pre.ix.core then s.fillBufs pre.ix.core (live.map fun b => b.1.1) else s

/-! The instructions -/

/-- VLD (R150). -/
def opVld (o : LOps) : Op := fun pre cur =>
  match lBase pre o o.off.toInt with
  | .error t => .error t
  | .ok (ea, win) =>
    let a := alignDown ea 64
    let p := rowPart pre o a false
    let view := lView o
    let w := viewBits view / 8
    accessParts pre cur win [p] (partBank pre p) fun op s =>
      let vals := (lLanes pre o).map fun i => (i, leNat ((List.range w).map fun k => partByte pre win p (a + w * i + k)))
      s.addWrite (laneWrite o.row view vals) (partLat pre p) 0 op
def execVld (o : LOps) (s : State) : Host.Outcome State Fault Refusal := runOp (opVld o) s

/-- The maximal runs of contiguous bytes among those selected, as (first offset, bytes) (R369). -/
def byteRuns : List (Nat × Byte) → List (Nat × List Byte)
  | [] => []
  | (i, b) :: r =>
    match byteRuns r with
    | [] => [(i, [b])]
    | (j, l) :: rs => if i + 1 = j then (i, b :: l) :: rs else (i, [b]) :: (j, l) :: rs

/-- VST (R150): in windows 1 to 254 a posted write of the selected bytes (R369). -/
def opVst (o : LOps) : Op := fun pre cur =>
  match lBase pre o o.off.toInt with
  | .error t => .error t
  | .ok (ea, win) =>
    let a := alignDown ea 64
    let p := rowPart pre o a true
    let row := rowBytes (pre.cur.row o.row.toNat)
    if a < 2 ^ 40 && windowOf a ≠ 0 && windowOf a ≠ 255 && win.isNone then
      let sel := (p.bytes.zipIdx.filter fun b => b.1.2).map fun b => (b.2, row.getD b.2 0)
      match sel.getLast? with
      | none => .ok cur
      | some (last, _) => cur.postWrite pre a (last + 1) (byteRuns sel)
    else
      accessParts pre cur win [p] (partBank pre p) fun op s =>
        storeParts s pre win p op (pre.clock + partLat pre p) (partBank pre p) fun i => row.getD i 0
def execVst (o : LOps) (s : State) : Host.Outcome State Fault Refusal := runOp (opVst o) s

/-- VLDB (R150): one element for every selected lane. -/
def opVldb (o : LOps) : Op := fun pre cur =>
  match lBase pre o o.off.toInt with
  | .error t => .error t
  | .ok (ea, win) =>
    let view := lView o
    let w := viewBits view / 8
    let a := alignDown ea w
    let lanes := lLanes pre o
    let p : Part := { first := a, bytes := (List.range w).map fun i => (a + i, !lanes.isEmpty), write := false, units := 1 }
    accessParts pre cur win [p] (partBank pre p) fun op s =>
      let x := leNat ((List.range w).map fun k => partByte pre win p (a + k))
      s.addWrite (laneWrite o.row view (lanes.map fun i => (i, x))) (partLat pre p) 0 op
def execVldb (o : LOps) (s : State) : Host.Outcome State Fault Refusal := runOp (opVldb o) s

/-! VLDA and VSTA (R151) -/

/-- Where the elements of a VLDA or VSTA lie: the stream, its base, the first element's byte (for a block format the start of its block
within its row), and the bytes the stream may reach. -/
structure ElemRun where
  d : Desc
  base : Nat
  first : Nat
  win : Option (Nat × Nat)
  deriving DecidableEq, Repr

def elemRun (s : State) (o : LOps) : Except Trap ElemRun :=
  match lBase s o o.off.toInt with
  | .error t => .error t
  | .ok (ea, win) =>
    let d := s.cur.greg o.stream
    let base := s.streamBase s.ix.core d
    let disp : Int := (ea : Int) - base
    let bb : Int := (fmtBlockBytes (Desc.fmt d) : Nat)
    let first := if fmtBlock (Desc.fmt d) = 0 then ea else addrAt base (disp - (Desc.rowCol d disp).2 % bb)
    .ok ⟨d, base, first, win⟩

/-- Displacement of the byte that holds element i. -/
def ElemRun.disp (r : ElemRun) (i : Nat) : Int := (r.first : Int) - r.base + (elemSpan (Desc.fmt r.d) i).1

/-- The lanes that a lane's block makes the instruction touch: for VSTA on a block format, all lanes of the lane's block. -/
def ElemRun.blockOf (r : ElemRun) (i : Nat) : Int := Desc.scaleDisp r.d (r.disp i)

/-- The parts of a VLDA or VSTA: elements, block scales, band scales; `sel` tells the elements touched. -/
def ElemRun.parts (r : ElemRun) (n : Nat) (sel : Nat → Bool) (write : Bool) : List Part :=
  let fmt := Desc.fmt r.d
  let len := fmtBytes fmt n
  let idx := List.range n
  let touched := (idx.filter sel).flatMap fun i =>
    let (b, k) := elemSpan fmt i
    (List.range k).map (b + ·)
  let data : Part := { first := r.first, bytes := (List.range len).map (fun k => (r.first + k, touched.contains k)), write := write, units := 1 }
  let side (wr : Bool) (addr : Nat → Nat) (k : Nat) : List Part :=
    let all := (idx.map addr).eraseDups
    let hit := ((idx.filter sel).map addr).eraseDups
    match all with
    | [] => []
    | a :: _ =>
      let bytes := all.flatMap fun x => (List.range k).map fun j => (x + j, hit.contains x)
      [{ first := a, bytes := bytes, write := wr, units := 0 }]
  data ::
    ((if fmtBlock fmt = 0 then [] else side write (fun i => addrAt r.base (r.blockOf i)) 1) ++
     (if Desc.banded r.d then side false (fun i => addrAt r.base (Desc.bandDisp r.d (r.disp i))) 2 else []))

/-- The bytes a run reads: those of its parts. -/
def runByte (s : State) (win : Option (Nat × Nat)) (ps : List Part) (a : Nat) : Byte :=
  match ps.find? fun p => p.bytes.any fun b => b.1 == a with
  | some p => partByte s win p a
  | none => 0

/-- VLDA (R151): readable two cycles after a VLD. -/
def opVlda (o : LOps) : Op := fun pre cur =>
  match elemRun pre o with
  | .error t => .error t
  | .ok r =>
    let view := lView o
    let mode := rndOf (o.mod.extractLsb' 3 2).toNat
    let ps := r.parts (viewLanes view) (lMask pre o) false
    let p := ps.headD ⟨r.first, [], false, 1⟩
    accessParts pre cur r.win ps (partBank pre p) fun op s =>
      let rd := runByte pre r.win ps
      let vals := (lLanes pre o).map fun i =>
        let code := elemCode (fun k => rd (r.first + k)) (Desc.fmt r.d) i
        let (v, f) := elemValue rd r.d r.base (r.disp i) code
        let (c, g) := laneOfVal view mode v
        (i, c, f ||| g)
      s.addWrite (laneWrite o.row view (vals.map fun x => (x.1, x.2.1))) (partLat pre p + 2)
        (vals.foldl (fun f x => f ||| x.2.2) 0) op
def execVlda (o : LOps) (s : State) : Host.Outcome State Fault Refusal := runOp (opVlda o) s

/-- The codes that VSTA writes: (element, code, flags), and the scale bytes as (address, byte). -/
def vstaCodes (r : ElemRun) (rd : Nat → Byte) (view : Nat) (mode : Rnd) (lane : Nat → Nat) (n : Nat) (sel : Nat → Bool) :
    List (Nat × Nat) × List (Nat × Byte) × Flags :=
  let fmt := Desc.fmt r.d
  let idx := (List.range n).filter sel
  if fmtBlock fmt = 0 then
    let out := idx.map fun i =>
      let v := laneVal mode view (lane i)
      let (c, f) := if Desc.banded r.d then bandedCode fmt mode (bandAt rd r.d r.base (r.disp i)) (lane i) v
        else (elemOf fmt).ofVal mode v
      (i, c, f)
    (out.map fun x => (x.1, x.2.1), [], out.foldl (fun f x => f ||| x.2.2) 0)
  else
    let blocks := (idx.map r.blockOf).eraseDups
    blocks.foldl (fun (acc : List (Nat × Nat) × List (Nat × Byte) × Flags) b =>
      let lanes := idx.filter fun i => r.blockOf i == b
      let xs := lanes.map fun i => laneVal mode view (lane i)
      let (sc, codes, f) :=
        if fmtBlock fmt = 8 then
          quantDL fmt (fun _ => mode) (bf16.decode (bandAt rd r.d r.base (r.disp (lanes.headD 0)))) xs
        else quantMX fmt (fun _ => mode) xs
      (acc.1 ++ lanes.zip codes, acc.2.1 ++ [(addrAt r.base b, BitVec.ofNat 8 sc)], acc.2.2 ||| f)) ([], [], 0)

/-- VSTA (R151): its banks two cycles after a VST's, its bytes visible two cycles after. -/
def opVsta (o : LOps) : Op := fun pre cur =>
  match elemRun pre o with
  | .error t => .error t
  | .ok r =>
    let view := lView o
    let fmt := Desc.fmt r.d
    let n := viewLanes view
    let mode := rndOf (o.mod.extractLsb' 3 2).toNat
    let hit := ((List.range n).filter (lMask pre o)).map r.blockOf
    let sel (i : Nat) : Bool := if fmtBlock fmt = 0 then lMask pre o i else hit.contains (r.blockOf i)
    let ps := r.parts n sel true
    let p := ps.headD ⟨r.first, [], true, 1⟩
    let bank := partBank pre p + (if partTarget pre.ix.core p = pre.ix.core then 2 else 0)
    accessParts pre cur r.win ps bank fun op s =>
      let rd := runByte pre r.win ps
      let lane := laneOf (pre.cur.row o.row.toNat) view
      let (codes, scales, flags) := vstaCodes r rd view mode lane n sel
      let old (k : Nat) : Nat := if p.bytes.any (fun b => b.1 == r.first + k) then (pre.nearByte (r.first + k)).toNat else 0
      let bits := codes.foldl (fun (m : SMap Nat) (i, c) =>
        let o := i * fmtBits fmt
        (List.range (elemSpan fmt i).2).foldl (fun m j =>
          let k := o / 8 + j
          let before := SMap.get 0 m k
          let prev := if m.any (fun e => e.1 == k) then before % 256 else old k
          let lo := if j = 0 then o % 8 else 0
          let piece := c * 2 ^ (o % 8) / 2 ^ (8 * j) % 256
          let width := Nat.min 8 (o % 8 + fmtBits fmt - 8 * j) - lo
          let v := prev - bitsOf prev lo width * 2 ^ lo + piece / 2 ^ lo % 2 ^ width * 2 ^ lo
          SMap.put 0 m k (v + 256)) m) []
      let data (k : Nat) : Byte := BitVec.ofNat 8 (SMap.get 0 bits k)
      let vis := pre.clock + partLat pre p + 2
      let s := storeParts s pre r.win p op vis bank data
      let s := (ps.filter fun q => q.write && q.units == 0).foldl (fun s q =>
        storeParts s pre r.win q op vis bank fun j =>
          match q.bytes[j]? with
          | some b => ((scales.find? fun x => x.1 == b.1).map (·.2)).getD 0
          | none => 0) s
      s.addWrite .none (partLat pre p + 2) flags op
def execVsta (o : LOps) (s : State) : Host.Outcome State Fault Refusal := runOp (opVsta o) s

/-! Gather and scatter (R152) -/

/-- The lane addresses: lane, address, in range in the own slice. -/
def laneAddrs (s : State) (o : LOps) (ea : Nat) (win : Option (Nat × Nat)) : List (Nat × Nat × Bool) :=
  let view := lView o
  let w := viewBits view / 8
  let vi := s.cur.row (o.off.extractLsb' 13 11).toNat
  (lLanes s o).map fun i =>
    let idx := signed 32 (laneOf vi 2 i)
    let a := alignDown (unsignedOf 64 ((ea : Int) + idx * w)) w
    (i, a, s.byteIn a win a && s.byteIn a win (a + w - 1) && coreOfAddr a == some s.ix.core)

/-- Cycles from issue to the first bank cycle of a gather, and to its result; and for how many cycles it holds the banks (R152, R242). -/
def gatherLat (s : State) : Nat × Nat × Nat :=
  let up := coreUpper s.ix.core
  if s.half s.ix.core then (if up then (6, 22, 16) else (8, 24, 16)) else if up then (4, 14, 8) else (6, 16, 8)

/-- The claims of a gather: every bank that is not lent, for each of its cycles, and every unit of the direction (R152, R236); its bytes in lane order, an
equal share in each cycle (log 23). -/
def claimGather (s pre : State) (op : Nat) (write : Bool) (bytes : List Nat) : State :=
  let n := pre.ix.core
  let (first, _, cycles) := gatherLat pre
  let share := ceilDiv bytes.length cycles
  (List.range cycles).foldl (fun s k => s.addAcc
    { op := op, kind := .core, core := n, slot := pre.ix.slot, addr := pre.ix.addr, issued := pre.clock, stamp := pre.cur.tcyc,
      cycle := pre.clock + first + k, target := n, banks := List.range (16 - pre.cur.lent), units := if pre.half n then 1 else 2,
      write := write, hops := [], remote := false, bytes := (bytes.drop (share * k)).take share, atom := false }) s

/-- The checks and shared effects of a gather or scatter: for each lane, its bytes against range, buffers and strict mode. -/
def gatherOp (o : LOps) (write : Bool) (go : Nat → List (Nat × Nat × Bool) → State → State → State) : Op := fun pre cur =>
  match lBase pre o (o.off.extractLsb' 0 13).toInt with
  | .error t => .error t
  | .ok (ea, win) =>
    let w := viewBits (lView o) / 8
    let lanes := laneAddrs pre o ea win
    match pre.checkBytes (lanes.flatMap fun l => (List.range w).map fun k => (l.2.1 + k, l.2.2, write)) with
    | .error t => .error t
    | .ok oor =>
      let (op, s) := cur.fresh
      let s := match oor with
        | some (a, wr) => s.recordOor wr (some a)
        | none => s
      let live := (lanes.filter fun l => l.2.2).flatMap fun l => (List.range w).map fun k => l.2.1 + k
      .ok (go op lanes pre (claimGather s pre op write live))

/-- VGTH (R152). -/
def opVgth (o : LOps) : Op := gatherOp o false fun op lanes pre s =>
  let view := lView o
  let w := viewBits view / 8
  let vals := lanes.map fun l =>
    (l.1, if l.2.2 then leNat ((List.range w).map fun k => pre.nearByte (l.2.1 + k)) else 0)
  s.addWrite (laneWrite o.row view vals) (gatherLat pre).2.1 0 op
def execVgth (o : LOps) (s : State) : Host.Outcome State Fault Refusal := runOp (opVgth o) s

/-- VSCT (R152): a later lane overwrites an earlier one. -/
def opVsct (o : LOps) : Op := gatherOp o true fun op lanes pre s =>
  let view := lView o
  let w := viewBits view / 8
  let row := pre.cur.row o.row.toNat
  let (first, lat, cycles) := gatherLat pre
  let data := (lanes.filter fun l => l.2.2).flatMap fun l =>
    (leBytes w (laneOf row view l.1)).zipIdx.map fun (b, k) => (nearBase + l.2.1 + k, b)
  let s := s.addMem (pre.clock + lat) (pre.clock + first + cycles - 1) op data pre.ix.core
  s.fillBufs pre.ix.core (((lanes.filter fun l => l.2.2).flatMap fun l => (List.range w).map fun k => l.2.1 + k))
def execVsct (o : LOps) (s : State) : Host.Outcome State Fault Refusal := runOp (opVsct o) s

/-! Buffers (R153) -/

/-- The buffer a BUFSET or BUFQ names. -/
def lBuf (o : LOps) : Nat := (o.off.extractLsb' 0 6).toNat

def bufCode : BufState → Nat
  | .empty => 0
  | .filling => 1
  | .full => 2
  | .draining => 3

def bufOfCode (n : Nat) : BufState := if n = 0 then .empty else if n = 1 then .filling else if n = 2 then .full else .draining

/-- The word BUFQ returns (R145). -/
def Buf.word (b : Buf) : Word :=
  if !b.decl then 0
  else BitVec.ofNat 64 (b.offset + b.size * 2 ^ 22 + bufCode b.st * 2 ^ 35 + 2 ^ 37 + b.filler % 2 ^ 10 * 2 ^ 38 +
    b.fkind.toNat * 2 ^ 48 + (if b.held then 2 ^ 52 else 0))

/-- BUFSET (R153): undeclared or held entries raise 0x05. -/
def opBufset (o : LOps) : Op := fun pre cur =>
  let b := pre.cur.buf (lBuf o)
  if !b.decl || b.held then .error (trapAt pre 0x05 0)
  else
    let st := bufOfCode (o.mod.extractLsb' 0 2).toNat
    let n := pre.ix.core
    .ok (if st = .filling then cur.addBuf false n (lBuf o) st 1 n false else cur.addBuf false n (lBuf o) st 0 0 false)
def execBufset (o : LOps) (s : State) : Host.Outcome State Fault Refusal := runOp (opBufset o) s

/-- BUFQ (R153). -/
def opBufq (o : LOps) : Op := fun pre cur => .ok (cur.writeS o.scalar (pre.cur.buf (lBuf o)).word 2)
def execBufq (o : LOps) (s : State) : Host.Outcome State Fault Refusal := runOp (opBufq o) s

/-! Scratchpad atomics (R154, R155) -/

/-- The operations of R154 on the old value: the new value, the status bit and the flags. -/
def atomApply (code : Nat) (w64 : Bool) (m x y : Nat) : Nat × Bool × Flags :=
  let w := if w64 || code = 1 then 64 else 32
  match code with
  | 0 | 1 => ((m + x) % 2 ^ w, false, 0)
  | 2 =>
    let (r, f) := add32 m x
    (r, false, f)
  | 3 =>
    let (lo, f) := bf16.add .ne (m % 2 ^ 16) (x % 2 ^ 16)
    let (hi, g) := bf16.add .ne (m / 2 ^ 16 % 2 ^ 16) (x / 2 ^ 16 % 2 ^ 16)
    (lo + hi * 2 ^ 16, false, f ||| g)
  | 4 => (if signed 32 x < signed 32 m then x else m, false, 0)
  | 5 => (if signed 32 m < signed 32 x then x else m, false, 0)
  | 6 =>
    let (r, f) := fp32.minmax false false m x
    (r, false, f)
  | 7 =>
    let (r, f) := fp32.minmax true false m x
    (r, false, f)
  | 8 => (m &&& x, false, 0)
  | 9 => (m ||| x, false, 0)
  | 10 => (m ^^^ x, false, 0)
  | 11 => (x, false, 0)
  | 12 => if m = y then (x, false, 0) else (m, true, 0)
  | 13 => (if y ≤ m then 0 else m + 1, false, 0)
  | _ => if m + x ≤ y then (m + x, false, 0) else (m, true, 0)

/-- Width of an atomic in bytes. -/
def atomBytes (code : Nat) (w64 : Bool) : Nat := if w64 || code = 1 then 8 else 4

/-- ATOM (R154, R155): an effect.  It reads the memory that is visible at issue and writes in the write order at its bank cycle, in one access of one bank
(R326, R327); its row and its memory are written at a row access's latency (R149).  DEDUCED (log 44): two atomics in flight on one word both read what
was visible when they issued. -/
def opAtom (o : LOps) : Op := fun pre cur =>
  match lBase pre o o.off.toInt with
  | .error t => .error t
  | .ok (ea, win) =>
    let code := (o.mod.extractLsb' 0 4).toNat
    let w64 := o.mod.getLsbD 4
    let w := atomBytes code w64
    let a := alignDown ea w
    let n := pre.ix.core
    let p : Part := { first := a, bytes := (List.range w).map fun i => (a + i, true), write := true, units := 1 }
    let live := p.bytes.filter fun b => partIn pre win p b.1
    let t := partTarget n p
    if t = n && pre.inBuffer (live.map (·.1)) then .error (trapAt pre 0x05 0)
    else
      match checkParts pre win [p] with
      | .error e => .error e
      | .ok oor =>
        let (op, s) := cur.fresh
        let s := match oor with
          | some (b, wr) => s.recordOor wr (some b)
          | none => s
        let row := pre.cur.row o.row.toNat
        let x := (row.extractLsb' 0 64).toNat % 2 ^ (8 * w)
        let y := (row.extractLsb' 64 64).toNat % 2 ^ (8 * w)
        if live.length < w then .ok (s.addWrite (laneWrite o.row 0 [(0, 0), (1, 0)]) (partLat pre p)).effect
        else
          let m := leNat ((List.range w).map fun i => pre.nearByte (a + i))
          let (r, st, f) := atomApply code w64 m x y
          let s := s.addMem (pre.clock + partLat pre p) (partBank pre p) op ((leBytes w r).zipIdx.map fun b => (nearBase + a + b.2, b.1)) n
          let s := s.addWrite (laneWrite o.row 0 [(0, m), (1, if st then 1 else 0)]) (partLat pre p) f op
          .ok (s.addAcc
            { op := op, kind := .core, core := n, slot := pre.ix.slot, addr := pre.ix.addr, issued := pre.clock, stamp := pre.cur.tcyc,
              cycle := partBank pre p, target := t, banks := [a / 2 ^ 18 % 16], units := 1, write := true,
              hops := if n = t then [] else routeLinks n t pre.clock, remote := n != t,
              bytes := p.bytes.map (·.1), atom := true }).effect
def execAtom (o : LOps) (s : State) : Host.Outcome State Fault Refusal := runOp (opAtom o) s

end Sys2Proof.Machine
end

