-- ==== Sys2Proof/Machine/Buses.lean ====
section
/-! DEFINITION. Vertical buses (10, R236-R244): retry counts, swaps at cut lines, width and its log. -/

namespace Sys2Proof.Machine

/-- Write one vertical-bus log record of core n (R243, R244); `at_` is the access's bank cycle, or the cut line's (R253). -/
def State.busLog (s : State) (n group : Nat) (write : Bool) (kind offset at_ : Nat) : State :=
  let k := coreCluster n
  let c := s.cluster k
  let j := c.vbhead
  let w := coreLocal n + group * 2 ^ 4 + (if write then 2 ^ 10 else 0) + kind * 2 ^ 11 + 2 ^ 14 +
    offset / 32 % 2 ^ 17 * 2 ^ 15 + at_ % 2 ^ 32 * 2 ^ 32
  let held := (SMap.get 0 c.vblog j).getLsbD 14
  let lost := if held && !c.vbread.contains j then Nat.min (c.vblost + 1) (2 ^ 28 - 1) else c.vblost
  s.setCluster k { c with vblog := SMap.put 0 c.vblog j (BitVec.ofNat 64 w), vbhead := (j + 1) % 16, vblost := lost,
                          vbread := c.vbread.filter (· != j) }

/-- Healthy lane groups (R243). -/
def Bus.healthy (b : Bus) : Nat := (List.range 34).countP fun g => b.health.getLsbD g

/-- The lowest-numbered free spare group (R239). -/
def Bus.freeSpare (b : Bus) : Option Nat :=
  [32, 33].find? fun g => b.health.getLsbD g && !(b.swapped.map (·.2)).contains g

/-- A marked group is swapped for a spare, or the bus narrows (R239, R240): the bus, and the kind of the record where something changes (R244).
A bus that is narrow already loses the group and keeps its width, its ACK and its log. -/
def Bus.swapGroup (b : Bus) (g : Nat) : Bus × Option Nat :=
  let b := { b with health := b.health &&& ~~~(BitVec.ofNat 34 (2 ^ g)), count := SMap.put (0, 0) b.count g (0, 0) }
  match b.wstate, b.freeSpare with
  | 0, some sp => ({ b with swapped := b.swapped ++ [(g, sp)] }, some 2)
  | w, _ =>
    if w = 2 then (b, none)
    else if b.healthy < 16 then ({ b with wstate := 2, ack := false, degraded := true }, some 4)
    else if w = 1 then (b, none)
    else ({ b with wstate := 1, ack := false, degraded := true }, some 3)

/-- The swaps that the marks of core n's bus call for: at a cut line, or at once when no launch runs (R239, R240). -/
def State.busSwaps (s : State) (n : Nat) : State :=
  (s.core n).bus.marked.foldl (fun s g =>
    let (b, kind) := (s.core n).bus.swapGroup g
    let s := s.modCore n fun c => { c with bus := { b with marked := b.marked.filter (· != g) } }
    match kind with
    | some k => s.busLog n g false k 0 s.clock
    | none => s) s

/-- The retry limit of a cluster: 0 reads as 1 (R243). -/
def Cluster.limit (c : Cluster) : Nat := if c.rlim = 0 then 1 else c.rlim

/-- One counted failure of a lane group (R239): the count restarts once RWIN cycles have passed, and at RLIM the group is marked. -/
def State.busFailure (s : State) (n g : Nat) : State :=
  let c := s.core n
  let k := s.cluster (coreCluster n)
  let (cnt, first) := SMap.get (0, 0) c.bus.count g
  let (cnt, first) := if cnt = 0 || first + k.rwin ≤ s.clock then (1, s.clock) else (cnt + 1, first)
  let mark : Bool := decide (k.limit ≤ cnt) && !c.bus.marked.contains g && c.bus.health.getLsbD g
  let s := s.setCore n { c with bus := { c.bus with
    count := SMap.put (0, 0) c.bus.count g (cnt, first),
    marked := if mark then c.bus.marked ++ [g] else c.bus.marked } }
  let s := s.scheduleOnce (first + k.rwin) prioGate (.retryWindowExpiry n g)
  if mark && c.bind.isNone then s.busSwaps n else s

/-- VWIDTH (R241). -/
def Bus.vwidth (b : Bus) : Word :=
  BitVec.ofNat 64 ((if b.wstate = 0 then 1 else 0) + (if b.ack then 2 else 0) + b.swapped.length * 4)

/-- RETRY_WINDOW_EXPIRY (R239): a group's count returns to 0 when its window has passed. -/
def execRetryWindowExpiry (core group : Nat) (s : State) : Host.Outcome State Fault Refusal :=
  if 768 ≤ core || 34 ≤ group then .fault .noSuchUnit
  else
    let c := s.core core
    let (cnt, first) := SMap.get (0, 0) c.bus.count group
    if cnt ≠ 0 && first + (s.cluster (coreCluster core)).rwin ≤ s.clock then
      .next (s.setCore core { c with bus := { c.bus with count := SMap.put (0, 0) c.bus.count group (0, 0) } })
    else .next s

end Sys2Proof.Machine
end

