-- ==== Sys2Proof/Machine/Arrays.lean ====
section
/-! DEFINITION. What an access meets at a slice beside its bank (10, R237-R241, R245; 11, R252, R253): the state of the vertical bus, parity, and
the array's error code; and the same for untimed operations and the routing engine. -/

namespace Sys2Proof.Machine

/-! The bus (R240, R241) -/

/-- The cause and detail with which the state of slice t's bus turns core n's access away. -/
def State.busRefuses (s : State) (n t : Nat) : Option (BitVec 8 × BitVec 8) :=
  let b := (s.core t).bus
  if b.wstate = 2 then some (0x1B, 1)
  else if b.wstate = 1 && b.degraded && !(n == t && b.ack) then some (0x1B, 0)
  else none

/-- Slice t has turned an access away because its bus is narrow: that was the first access since the change (R241). -/
def State.widthHeard (s : State) (t : Nat) (detail : BitVec 8) : State :=
  if detail = 0 then s.modCore t fun c => { c with bus := { c.bus with degraded := false } } else s

/-! Parity (R237, R239, R252) -/

/-- The group to which a group's traffic has moved: itself without a swap (R239). -/
def Bus.moved (b : Bus) (g : Nat) : Nat := ((b.swapped.find? fun x => x.1 = g).map (·.2)).getD g

/-- The lane group that carries position i of unit u (R240, R252): a spare that was itself swapped has passed its bytes on. -/
def Bus.carrier (b : Bus) (u i : Nat) : Nat :=
  if b.wstate = 1 then ((List.range 34).filter fun g => b.health.getLsbD g).getD i 0
  else b.moved (b.moved (16 * u + i))

/-- A beat that fills its direction: an operand claim of the matrix engine, or a gather or scatter that holds every bank (R236). -/
def Acc.wide (a : Acc) : Bool := a.kind == .matrix || (a.kind == .core && 2 ≤ a.units) || a.banks.length = 16

/-- The groups that carry an access: its bytes' positions on its unit, or every group of the bus where it fills the direction (R252). -/
def State.laneGroups (s : State) (l : List Acc) (a : Acc) : List Nat :=
  let b := (s.core a.target).bus
  let peers := l.filter fun y => y.target == a.target && y.write == a.write && y.units ≠ 0
  let bank (x : Acc) : Nat := x.banks.headD 0
  let u := a.unit.getD (if (a.units ≠ 0 || a.kind == .mrow) && peers.any fun y => y.op != a.op && bank y < bank a then 1 else 0)
  if a.wide then (List.range 2).flatMap fun u => (List.range 16).map fun i => b.carrier u i
  else (a.bytes.map fun x => b.carrier u (x % 512 / 32)).eraseDups

/-- The parity errors that fall on an access: logged and counted (R239, R244); the answer says whether the retry failed too. -/
def State.parityCheck (s : State) (l : List Acc) (a : Acc) : Bool × State :=
  let gs := s.laneGroups l a
  let hits := s.parity.filter fun p => p.core == a.target && p.write == a.write && gs.contains p.group
  match hits with
  | [] => (false, s)
  | h :: r =>
    let bad := hits.any (·.retryFails)
    let g := r.foldl (fun (m : Nat) p => Nat.min m p.group) h.group
    let s := { s with parity := s.parity.filter fun p => !hits.contains p }
    let s := s.busLog a.target g a.write (if bad then 1 else 0) (a.bytes.headD 0 % 2 ^ 22) (s.clock - a.after)
    (bad, (hits.map (·.group)).eraseDups.foldl (fun (s : State) (g : Nat) => s.busFailure a.target g) s)

/-! The array's code (R238, R245, R253) -/

def popcount (n : Nat) : Nat := (List.range 8).countP fun i => n / 2 ^ i % 2 == 1

/-- The columns of the data bits: the first 64 values with an odd number of bits, at least three (R253). -/
def eccColumns : List Nat := ((List.range 256).filter fun v => popcount v % 2 == 1 && 3 ≤ popcount v).take 64

/-- The syndrome of flipped bits: data bits 0 to 63, then check bits 64 to 71. -/
def syndrome (flips : Nat) : Nat :=
  (List.range 72).foldl (fun a i => if flips / 2 ^ i % 2 = 1 then a ^^^ (if i < 64 then eccColumns.getD i 0 else 2 ^ (i - 64)) else a) 0

/-- The bit that a syndrome names, if it names one. -/
def syndromeBit (sy : Nat) : Option Nat := (List.range 72).find? fun i => (if i < 64 then eccColumns.getD i 0 else 2 ^ (i - 64)) = sy

/-- Write one record of a stack's array ECC log: word is bits 31:3 of the address (R245). -/
def State.eccLog (s : State) (word sy kind : Nat) : State :=
  let k := word / 2 ^ 28
  let x := s.stackAt k
  let w := word % 2 ^ 29 + sy * 2 ^ 29 + kind * 2 ^ 37 + 2 ^ 39 + s.clock % 2 ^ 24 * 2 ^ 40
  let lost := if SMap.get 0 x.ecc x.eccHead ≠ 0 then Nat.min (x.eccLost + 1) (2 ^ 32 - 1) else x.eccLost
  s.setStack k { x with ecc := SMap.put 0 x.ecc x.eccHead (BitVec.ofNat 64 w), eccHead := (x.eccHead + 1) % 64, eccLost := lost }

/-- A word is read from the array (R238): a correctable error is corrected and logged; the answer says whether it cannot be.  What more than two flipped
bits leave, the device does not promise (R253): the word keeps what the code makes of it. -/
def State.eccRead (s : State) (word : Nat) (scrub : Bool) : Bool × State :=
  let f := SMap.get 0 s.flips word
  if f = 0 then (false, s)
  else
    let sy := syndrome f
    match (if sy = 0 then some 0 else (syndromeBit sy).map fun b => 2 ^ b) with
    | none => (true, s.eccLog word sy (if scrub then 3 else 1))
    | some fix =>
      let v := (f ^^^ fix) % 2 ^ 64
      let s := { s with flips := SMap.put 0 s.flips word 0 }
      let s := if v = 0 then s
        else s.addMemNow ((List.range 8).map fun i =>
          (nearBase + 8 * word + i, s.nearByte (8 * word + i) ^^^ BitVec.ofNat 8 (v / 2 ^ (8 * i))))
      (false, if sy = 0 then s else s.eccLog word sy (if scrub then 2 else 0))

/-- An uncorrectable word read by core n (R238): DETAIL 3, or 4 for the second read of the word in the launch. -/
def State.uncorrectable (s : State) (n word : Nat) : BitVec 8 × State :=
  match (s.core n).bind with
  | none => (3, s)
  | some b =>
    if (s.launch b).uncorr.contains word then (4, s) else (3, s.modLaunch b fun l => { l with uncorr := l.uncorr ++ [word] })

/-- Bytes of slices that core n's access reads or writes, against the array's code: the worst DETAIL, the words that cannot be corrected, and the
state.  A whole word that is written takes fresh check bits. -/
def State.eccBytes (s : State) (n : Nat) (write : Bool) (bytes : List Nat) : (Option (BitVec 8) × List Nat) × State :=
  if s.flips.isEmpty then ((none, []), s)
  else
    let words := (bytes.map fun x => x / 8).eraseDups
    words.foldl (fun (acc : (Option (BitVec 8) × List Nat) × State) (w : Nat) =>
      let ((worst, lost), s) := acc
      if write && (List.range 8).all fun i => bytes.contains (8 * w + i) then ((worst, lost), { s with flips := SMap.put 0 s.flips w 0 })
      else
        let (bad, s) := s.eccRead w false
        if !bad then ((worst, lost), s)
        else
          let (d, s) := s.uncorrectable n w
          ((match worst with
            | some e => some (if e.toNat ≤ d.toNat then e else d)
            | none => some d, lost ++ [w]), s)) ((none, []), s)

/-- Whole words of slices that are written take fresh check bits (R238): the n bytes from scratchpad address a. -/
def State.freshWords (s : State) (a n : Nat) : State :=
  { s with flips := s.flips.filter fun x => !(decide (a ≤ 8 * x.1) && decide (8 * x.1 + 8 ≤ a + n)) }

/-- Words of the n scratchpad bytes from a that hold flipped bits. -/
def State.flippedIn (s : State) (a n : Nat) : List Nat := (s.flips.map (·.1)).filter fun w => decide (8 * w < a + n) && decide (a < 8 * w + 8)

/-- Those words are read by a unit that is no core's (R238): corrected where they can be; the answer names the others. -/
def State.scanWords (s : State) (a n : Nat) : List Nat × State :=
  (s.flippedIn a n).foldl (fun (acc : List Nat × State) (w : Nat) =>
    let (bad, s) := acc.2.eccRead w false
    (if bad then acc.1 ++ [w] else acc.1, s)) ([], s)

/-- Bytes of slices that dispatch writes: whole words take fresh check bits, part words are read first, and one that cannot be corrected keeps what it holds (R238). -/
def State.storeSlices (s : State) (data : List (Nat × Byte)) : State :=
  let words := (s.flips.map (·.1)).filter fun w => data.any fun b => b.1 / 8 == w
  let (lost, s) := words.foldl (fun (acc : List Nat × State) (w : Nat) =>
    let (l, s) := acc
    if (List.range 8).all fun i => data.any fun b => b.1 == 8 * w + i then (l, s.freshWords (8 * w) 8)
    else
      let (bad, s) := s.eccRead w false
      (if bad then l ++ [w] else l, s)) ([], s)
  s.addMemNow ((data.filter fun b => !lost.contains (b.1 / 8)).map fun b => (nearBase + b.1, b.2))

/-- The words of an access against the array's code: whether it may go on (a read of an uncorrectable word may not; a part write leaves the word). -/
def State.eccCheck (s : State) (a : Acc) : Option (BitVec 8) × State :=
  let ((worst, lost), s) := if a.banks.isEmpty then ((none, []), s) else s.eccBytes a.core (a.write && !a.atom) a.bytes
  (worst, if a.write && !lost.isEmpty then
      { s with memPend := s.memPend.map fun m =>
          if m.op == a.op then { m with data := m.data.filter fun x => x.1 < nearBase || !lost.contains ((x.1 - nearBase) / 8) } else m }
    else s)

/-! Accesses without a bank cycle of their own: untimed operations and the routing engine (R204, R214) -/

/-- One beat of such an access at slice t (R236): parity (R237), then the array's code (R238). -/
def State.beatServe (s : State) (n op addr issued t : Nat) (write : Bool) (bytes : List Nat) : List Nat × State :=
  let a : Acc := { op := op, kind := .copy, core := n, slot := 9, addr := addr, issued := issued, stamp := 0, cycle := s.clock,
                   target := t, banks := [], units := 1, write := write, hops := [], remote := t != n, bytes := bytes, atom := false }
  let (failed, s) := s.parityCheck [a] a
  if failed then (bytes, s.lateFault n 0x1A (if write then 2 else 1) 9 addr issued)
  else
    let ((worst, words), s) := s.eccBytes n write bytes
    (bytes.filter fun b => words.contains (b / 8), match worst with
      | some d => s.lateFault n 0x1A d 9 addr issued
      | none => s)

/-- Bytes of slices that core n's operation reads or writes outside the bank agenda, in beats of 512 aligned bytes: the state of each bus (R240, R241), parity and
the array's code, with core n as the issuer of bundle `addr` at cycle `issued`.  The answer names the bytes that are not transferred. -/
def State.sliceServe (s : State) (n op addr issued : Nat) (write : Bool) (bytes : List Nat) : List Nat × State :=
  let beats := (bytes.map fun a => a / 512).eraseDups
  beats.foldl (fun (acc : List Nat × State) (b : Nat) =>
    let (lost, s) := acc
    let mine := bytes.filter fun a => a / 512 == b
    match coreOfAddr (512 * b) with
    | none => (lost, s)
    | some t =>
      match s.busRefuses n t with
      | some (c, d) => (lost ++ mine, (s.widthHeard t d).lateFault n c d 9 addr issued)
      | none =>
        let (l, s) := s.beatServe n op addr issued t write mine
        (lost ++ l, s)) ([], s)

/-- The same for an engine command. -/
def State.engineServe (s : State) (k : Cmd) (write : Bool) (bytes : List Nat) : List Nat × State :=
  s.sliceServe k.core k.id k.addr k.issued write bytes

end Sys2Proof.Machine
end

