-- ==== Sys2Proof/Machine/Pages.lean ====
section
/-! DEFINITION. Physical memory of the package (13): the physical ranges (R277), page tables and walks (R272-R275), extent tables (R280),
messages to the host (R338-R340), device faults (R281). -/

namespace Sys2Proof.Machine

/-! Physical addresses (R277, R278) -/

def hostBase : Nat := 0x4_0000_0000_0000
def isFar (a : Nat) : Bool := decide (a < 2 ^ 39)
def isHost (a : Nat) : Bool := decide (hostBase ≤ a) && decide (a < 0x5_0000_0000_0000)
def isNear (a : Nat) : Bool := decide (nearBase ≤ a) && decide (a < nearBase + 2 ^ 32)

/-- Scratchpad address a lies in a lent bank (R140, R270). -/
def State.lentByte (s : State) (a : Nat) : Bool :=
  match coreOfAddr a with
  | none => false
  | some t => decide (16 - (s.core t).lent ≤ a / 2 ^ 18 % 16)

/-- A physical address that exists. -/
def State.physExists (s : State) (a : Nat) : Bool := isFar a || isHost a || (isNear a && s.lentByte (a - nearBase))

/-- Tier of a physical address: 0 far, 1 near, 2 host (R274). -/
def tierOf (a : Nat) : Nat := if isFar a then 0 else if isNear a then 1 else 2

/-- HBM stack, pseudo-channel, bank and 256-byte chunk of a far-tier address (R278). -/
def hbmStackOf (a : Nat) : Nat := bitsOf a 8 3
def hbmPc (a : Nat) : Nat := bitsOf a 11 6
def hbmBank (a : Nat) : Nat := bitsOf a 17 4

/-- The words that HBM cannot correct among n bytes from a (log 13: a word is 8 bytes, named by its address). -/
def State.badIn (s : State) (a n : Nat) : List Nat := (s.badWords.filter fun w => decide (w < a + n) && decide (a < w + 8)).eraseDups

/-- n bytes from a hold a word that HBM cannot correct. -/
def State.badRead (s : State) (a n : Nat) : Bool := !(s.badIn a n).isEmpty

/-- The first of those words, as the log names it (R294). -/
def State.badWord (s : State) (a n : Nat) : Nat := (s.badIn a n).headD a

/-- Write one record of an HBM stack's log (R294). -/
def State.hbmLog (s : State) (pa : Nat) (ue : Bool) : State :=
  let k := hbmStackOf pa
  let h := SMap.get .init s.hbm k
  let w := pa % 2 ^ 39 + (if ue then 2 ^ 39 else 0) + 2 ^ 40 + s.clock % 2 ^ 23 * 2 ^ 41
  { s with hbm := SMap.put .init s.hbm k { h with log := SMap.put 0 h.log h.head (BitVec.ofNat 64 w), head := (h.head + 1) % 64 } }

/-! Page tables -/

/-- A page-table entry is malformed at level lv (R274). -/
def pteMalformed (e : Word) (lv : Nat) : Bool :=
  let leaf := e.getLsbD 3
  let pa := bitsOf e.toNat 12 40 * 2 ^ 12
  let tier := bitsOf e.toNat 4 2
  bitsOf e.toNat 7 5 ≠ 0 || (leaf && decide (3 ≤ lv)) || (!leaf && lv = 0) ||
    (!leaf && (bitsOf e.toNat 4 3 ≠ 0 || bitsOf e.toNat 1 2 ≠ 0 || !isFar pa)) ||
    (leaf && (pa % 2 ^ (12 + 9 * lv) ≠ 0 ||
      (tier = 0 && !isFar pa) || (tier = 1 && !isNear pa) || (tier = 2 && !isHost pa) ||
      (tier = 1 && lv ≠ 0) || (e.getLsbD 6 && (lv ≠ 0 || 2 ≤ tier))))

/-- What a walk finds (R275): the entry's place and value and its level, or a reason of R210 and whether an entry was malformed; or an entry that HBM cannot
correct (R293). -/
inductive Walked where
  | page (pte : Nat) (e : Word) (lv : Nat)
  | absent (reason : Nat) (malformed : Bool)
  | torn (pte : Nat)
  deriving DecidableEq, Repr

def Mmb.asid (m : Mmb) (a : Nat) : Word := SMap.get 0 m.asids a

def walkFrom (bad : List Nat) (mem : Memory) (va : Nat) : Nat → Nat → Walked
  | 0, _ => .absent 0 false
  | lv + 1, a =>
    let pa := a + 8 * bitsOf va (12 + 9 * lv) 9
    let e : Word := BitVec.ofNat 64 (memNat mem pa 8)
    if bad.contains pa then .torn pa
    else if !e.getLsbD 0 then .absent 0 false
    else if pteMalformed e lv then .absent 0 true
    else if e.getLsbD 3 then .page pa e lv
    else walkFrom bad mem va lv (bitsOf e.toNat 12 40 * 2 ^ 12)

/-- Walk (R275): need has bit 0 read, bit 1 write. -/
def State.walk (s : State) (asid va need : Nat) : Walked :=
  let r := s.mmb.asid asid
  if !r.getLsbD 0 || 2 ^ 57 ≤ va then .absent 0 false
  else
    match walkFrom s.badWords s.mem va 5 (bitsOf r.toNat 12 40 * 2 ^ 12) with
    | .absent r m => .absent r m
    | .torn p => .torn p
    | .page p e lv =>
      if bitsOf e.toNat 4 2 = 3 then .absent 2 false
      else if (need % 2 = 1 && !e.getLsbD 1) || (2 ≤ need && !e.getLsbD 2) then .absent 1 false
      else .page p e lv

/-- REASON of the device fault that a walk gives (R281): none where it finds the page. -/
def Walked.fault : Walked → Option Nat
  | .page _ _ _ => none
  | .absent r malformed => some (if malformed then 4 else r)
  | .torn _ => some 5

/-- A walk of va met an entry that HBM cannot correct: its stack logs it (R294). -/
def State.logTorn (s : State) (asid va : Nat) : State :=
  match s.walk asid va 0 with
  | .torn p => s.hbmLog p true
  | .page _ _ _ | .absent _ _ => s

/-- The leaves of a page table of level lv - 1 and of the tables below it: virtual address, entry, level. -/
def leavesOf (mem : Memory) : Nat → Nat → Nat → List (Nat × Word × Nat)
  | 0, _, _ => []
  | lv + 1, a, va => (List.range 512).flatMap fun i =>
    let e : Word := BitVec.ofNat 64 (memNat mem (a + 8 * i) 8)
    let v := va + i * 2 ^ (12 + 9 * lv)
    if !e.getLsbD 0 || pteMalformed e lv then []
    else if e.getLsbD 3 then [(v, e, lv)]
    else leavesOf mem lv (bitsOf e.toNat 12 40 * 2 ^ 12) v

/-- The frame address in an entry. -/
def pteFrame (e : Word) : Nat := bitsOf e.toNat 12 40 * 2 ^ 12

/-- The leaves that an ASID's root reaches. -/
def State.leaves (s : State) (asid : Nat) : List (Nat × Word × Nat) :=
  let r := s.mmb.asid asid
  if r.getLsbD 0 then leavesOf s.mem 5 (pteFrame r) 0 else []

/-- The blocks of the near tier, those that the driver has mapped there among them (R274, R276): 64 KiB frame, ASID plus 1 and VA. -/
def State.nearBlocks (s : State) : List (Nat × (Nat × Nat)) :=
  let mapped := s.mmb.asids.flatMap fun x =>
    ((s.leaves x.1).filter fun y => isNear (pteFrame y.2.1)).map fun y => (pteFrame y.2.1 / 2 ^ 16, (x.1 + 1, y.1 / 2 ^ 16 * 2 ^ 16))
  s.near ++ (mapped.eraseDups).filter fun x => SMap.get (0, 0) s.near x.1 = (0, 0)

/-- The physical address of va in the page an entry maps. -/
def pteAddr (e : Word) (lv va : Nat) : Nat := bitsOf e.toNat 12 40 * 2 ^ 12 + va % 2 ^ (12 + 9 * lv)

/-- A walk's result as a handle (R210).  DESIGN CHOICE (log 30): an entry that cannot be corrected reads as not mapped, since R210 has no reason for it. -/
def Walked.handle (w : Walked) (va : Nat) : Word :=
  match w with
  | .torn _ => BitVec.ofNat 64 (2 ^ 63)
  | .absent r _ => BitVec.ofNat 64 (2 ^ 63 + r * 2 ^ 59)
  | .page _ e lv => BitVec.ofNat 64 (pteAddr e lv va + lv * 2 ^ 52 + bitsOf e.toNat 4 2 * 2 ^ 55 + bitsOf e.toNat 1 2 * 2 ^ 57)

def handleAbsent (h : Word) : Bool := h.getLsbD 63
def handleReason (h : Word) : Nat := bitsOf h.toNat 59 3
def handlePa (h : Word) : Nat := bitsOf h.toNat 0 52
def handleSize (h : Word) : Nat := bitsOf h.toNat 52 3
/-- Bytes of the handle's page. -/
def handlePage (h : Word) : Nat := 2 ^ (12 + 9 * handleSize h)

/-- The block of 64 KiB that holds va, with its ASID (R283). -/
def blockKey (asid va : Nat) : Nat := asid * 2 ^ 41 + va / 2 ^ 16

/-- A move of the block that holds va is under way (R284). -/
def State.moving (s : State) (asid va : Nat) : Bool := s.moves.any fun m => m.asid == asid && m.va / 2 ^ 16 == va / 2 ^ 16 && !m.ptes.isEmpty

/-- The free time that the engine takes for a step of a move; one that dispatch waits for keeps within a quarter of what is left until `due` (R355). -/
def State.moveDelay (s : State) (due : Option Nat) : Nat × State :=
  let (d, s) := s.freeNat
  (match due with
    | none => d + 1
    | some t => 1 + d % Nat.max 1 ((t - s.wall) / fabricStep s.freq / 4), s)

/-- A new move of the block that holds va to a tier: to frame address `frame`, where dispatch names one (R279). -/
def Move.ask (asid va tier frame : Nat) (why : MoveFor) (due : Option Nat) : Move := ⟨0, asid, va / 2 ^ 16 * 2 ^ 16, 0, frame, tier, [], why, due⟩

/-- Ask for a move, unless one of its block is asked for (R283): the engine takes it up after a free time.  A move that the tensor lifetime table asks for
takes the place of any that has not begun, and comes after one that has (R285, R286); so does one that dispatch waits for, of one that access counts ask for. -/
def State.requestMove (s : State) (m : Move) : State :=
  let same (x : Move) : Bool := x.asid == m.asid && x.va == m.va
  let yields (x : Move) : Bool := same x && x.ptes.isEmpty && (m.why.isTensor || (m.why == .dispatch && x.why == .heat))
  if !m.why.isTensor && s.moves.any (fun x => same x && !yields x) then s
  else
    let (id, s) := s.fresh
    let (d, s) := s.moveDelay m.due
    let s := { s with moves := s.moves.filter (fun x => !yields x) ++ [{ m with id := id }] }
    s.schedule (s.clock + d) prioAfter (.migrationMove id)

/-- HOTMIN and MIGEN (R273). -/
def Mmb.hotmin (m : Mmb) : Nat := bitsOf m.cfg.toNat 8 8
def Mmb.migen (m : Mmb) : Bool := bitsOf m.cfg.toNat 0 1 == 1

/-- Count an untimed access that resolves into an unpinned block; at HOTMIN a far block is to be promoted (R285).  Near blocks count as well, since
the return to the far tier goes by their count. -/
def State.countAccess (s : State) (asid va pa : Nat) : State :=
  let pinned := s.binds.any fun kl => kl.2.asid == asid && kl.2.pins.any fun p =>
    decide (p.va / 2 ^ 16 ≤ va / 2 ^ 16) && decide (va / 2 ^ 16 ≤ (p.va + p.size - 1) / 2 ^ 16)
  if !(isFar pa || isNear pa) || pinned then s
  else
    let k := blockKey asid va
    let h := SMap.get ⟨0, 0⟩ s.heat k
    let s := { s with heat := SMap.put ⟨0, 0⟩ s.heat k { h with count := h.count + 1 } }
    if isFar pa && s.mmb.hotmin ≤ h.count + 1 && s.mmb.migen then s.requestMove (.ask asid va 1 0 .heat none) else s

/-! Tasks and extents (R280, R309, R312) -/

/-- The index and record of the task that core n belongs to in its current phase (R309). -/
def Launch.taskOf (l : Launch) (n phase : Nat) : Option (Nat × Task) :=
  (l.tasks.zipIdx.find? fun t => t.1.phase == phase && t.1.members.contains n).map fun t => (t.2, t.1)

/-- An extent-table entry (R280). -/
structure Extent where
  va : Nat
  len : Nat
  mode : Nat
  valid : Bool
  tier : Nat
  psize : Nat
  pvec : Nat
  deriving DecidableEq, Repr

/-- Where the entry of extent e of core n stands (R280, R308, R309): its task's table in the far tier, 2,048 bytes for each task. -/
def State.extentEntry (s : State) (n e : Nat) : Option Nat :=
  match s.launchOf n with
  | none => none
  | some l => (l.taskOf n (s.core n).phaseno.toNat).map fun jt => l.extab + 2048 * jt.1 + 32 * e

/-- The extent-table entry at a physical address. -/
def State.extentAt (s : State) (a : Nat) : Extent :=
  { va := memNat s.mem a 8, len := memNat s.mem (a + 8) 8, mode := memNat s.mem (a + 16) 1,
    valid := (memByte s.mem (a + 17)).getLsbD 7, tier := memNat s.mem (a + 17) 1 % 4, psize := memNat s.mem (a + 18) 1,
    pvec := memNat s.mem (a + 24) 8 }

/-- The physical address of byte off of an extent (R280). -/
def State.extentPa (s : State) (x : Extent) (off : Nat) : Nat :=
  let p := 2 ^ (12 + 9 * x.psize)
  let y := x.va % p + off
  memNat s.mem (x.pvec + 8 * (y / p)) 8 + y % p

/-! Queue registers, the host-link status block and the coherent window as they read (R295, R303, R304, R306, R341) -/

def Queue.prio (q : Queue) : Nat := bitsOf q.cfg.toNat 0 3
def Queue.enabled (q : Queue) : Bool := q.cfg.getLsbD 3
def Queue.age (q : Queue) : Nat := bitsOf q.cfg.toNat 16 16

/-- ELEVEL (R306). -/
def Queue.elevel (q : Queue) : Nat := if q.words.isEmpty || q.prio ≤ 1 || q.age = 0 then q.prio else q.level

def State.queue (s : State) (q : Nat) : Queue := SMap.get .init s.queues q
def State.setQueue (s : State) (q : Nat) (x : Queue) : State := { s with queues := SMap.put .init s.queues q x }

/-- QSTAT (R304). -/
def Queue.qstat (q : Queue) : Nat := Nat.min q.words.length 8 + q.elevel * 2 ^ 4 + q.lastCode % 256 * 2 ^ 8 + q.lastLid % 2 ^ 32 * 2 ^ 32

/-- The 8 bytes at an aligned window offset below 0x4000: launch area (R303, R304), host-link status block (R341), reserved. -/
def State.windowReg (s : State) (a : Nat) : Nat :=
  let l := s.link
  if a < 0x200 then 0
  else if a < 0x400 then (s.queue ((a - 0x200) / 8)).cfg.toNat
  else if a < 0x600 then (s.queue ((a - 0x400) / 8)).qstat
  else if a < 0x800 then 0
  else if a = 0x800 then l.lastRx + l.lastTx * 2 ^ 32
  else if a = 0x808 then l.invSeq + l.hostAck * 2 ^ 32
  else if a = 0x810 then l.epoch
  else if a < 0x1000 then 0
  else if a < 0x2000 then
    let e := SMap.get .none l.sent ((a - 0x1000) / 16)
    if a % 16 = 0 then e.seq + e.typ * 2 ^ 32 + e.st * 2 ^ 40 + e.payload.length * 2 ^ 48 else e.key
  else if a < 0x3000 then
    let e := SMap.get .none l.received ((a - 0x2000) / 16)
    if a % 16 = 0 then e.seq + e.typ * 2 ^ 32 + e.outcome * 2 ^ 40 else e.key
  else 0

/-- The byte of the window at offset a, and n bytes from there. -/
def State.windowByte (s : State) (a : Nat) : Byte :=
  if a < 0x4000 then BitVec.ofNat 8 (bitsOf (s.windowReg (a / 8 * 8)) (8 * (a % 8)) 8) else memByte s.mem (windowBase + a)
def State.windowRead (s : State) (a n : Nat) : List Byte := (List.range n).map fun i => s.windowByte (a + i)

/-! Messages to the host (R338-R341) -/

/-- The 96-bit IV of a message (R342): the direction, EPOCH, 32 zero bits, SEQ. -/
def linkIv (toHost : Bool) (epoch seq : Nat) : BitVec 96 :=
  BitVec.ofNat 96 ((if toHost then 2 ^ 95 else 0) + epoch % 2 ^ 31 * 2 ^ 64 + seq % 2 ^ 32)

/-- A device message of type typ: the next number, the sent list; where no key stands, or its numbers are used up, it waits (R342). -/
def State.sendMsg (s : State) (typ flags arg : Nat) (payload : List Byte) (key : Nat) : State :=
  let l := s.link
  let n := (l.lastTx + 1) % 2 ^ 32
  let m : SentMsg := ⟨n, typ, flags, arg, payload, key, 0, linkIv true l.epoch n⟩
  if l.keyed && l.used < 2 ^ 32 then
    { s with link := { l with lastTx := m.seq, used := l.used + 1, sent := SMap.put .none l.sent (m.seq % 256) m } }
  else { s with link := { l with waiting := l.waiting ++ [m] } }

/-- FLAGS of a message that serves a launch: PRIO0 at level 0 (R338). -/
def State.prioFlag (s : State) (b : Option Nat) : Nat :=
  match b with
  | none => 0
  | some b => if (s.launch b).level = 0 then 1 else 0

/-- The number the next device message takes. -/
def State.nextSeq (s : State) : Nat := (s.link.lastTx + 1) % 2 ^ 32

/-- The link can carry a message now. -/
def State.linkUp (s : State) : Bool := s.link.keyed && decide (s.link.used < 2 ^ 32)

/-- Event codes that the spec leaves open are the model's (log 13): fault record, rollback, alarm, refused staging, fabric log. -/
def evFaultRecord : Nat := 1
def evRollback : Nat := 2
def evAlarm : Nat := 3
def evStageRefused : Nat := 4
def evFabric : Nat := 5

/-- EVENT (R339): 16 bytes. -/
def State.sendEvent (s : State) (code : Nat) (payload : List Byte) : State :=
  s.sendMsg 0x87 0 code (payload ++ List.replicate (16 - payload.length) 0) 0

/-! SYS requests (R351) -/

/-- SYSREQ (R339, R59): the request's ARG, and n, COREID, TCYC and s0-s7. -/
def State.sendSysreq (s : State) (k : Cmd) : State :=
  let arg (i : Nat) : Nat := (k.args.getD i 0).toNat
  let tag := arg 11 % 2 ^ 16
  let payload := leBytes 1 (arg 0) ++ leBytes 2 (arg 1) ++ leBytes 8 (arg 2) ++ (List.range 8).flatMap fun i => leBytes 8 (arg (3 + i))
  s.sendMsg 0x86 (s.prioFlag k.bind) (k.bind.getD 0 % 2 ^ 8 + k.core * 2 ^ 8 + tag * 2 ^ 18) payload tag

/-- Send the requests that wait, in issue order, while fewer than 64 are outstanding. -/
def State.pumpSysN : Nat → State → State
  | 0, s => s
  | n + 1, s =>
    match s.sysWait with
    | [] => s
    | id :: rest =>
      if 64 ≤ s.sysOut.length then s
      else
        match s.cmd id with
        | none => State.pumpSysN n { s with sysWait := rest }
        | some k => State.pumpSysN n ({ s with sysWait := rest, sysOut := s.sysOut ++ [id] }.sendSysreq k)

def State.pumpSys (s : State) : State := State.pumpSysN s.sysWait.length s

/-! Device faults (R281) -/

def ringBase (r : Word) : Nat := bitsOf r.toNat 12 40 * 2 ^ 12
def ringSize (r : Word) : Nat := 2 ^ (bitsOf r.toNat 0 4 + 4)

/-- A device fault: it goes to the fault ring when there is room. -/
def State.postFault (s : State) (f : DevFault) : State :=
  let s := { s with devFaults := s.devFaults ++ [f] }
  s.schedule s.clock prioAfter .faultRecord

/-- The 32 bytes of a fault record. -/
def DevFault.bytes (f : DevFault) (seq : Nat) : List Byte :=
  leBytes 4 seq ++ leBytes 1 f.source ++ leBytes 1 f.reason ++ leBytes 1 f.asid ++ leBytes 1 f.access ++ leBytes 8 f.va ++
    leBytes 2 f.core ++ leBytes 1 f.ctx ++ leBytes 1 f.bind ++ leBytes 12 0

/-- Counters of the rings count modulo 2^32. -/
def counterDiff (a b : Nat) : Nat := (a + 2 ^ 32 - b) % 2 ^ 32

/-- FAULT_RECORD (R281): the oldest event that waits is written, when the ring has room. -/
def execFaultRecord (s : State) : Host.Outcome State Fault Refusal :=
  match s.devFaults.find? fun f => f.seq.isNone with
  | none => .next s
  | some f =>
    let m := s.mmb
    if ringSize m.fault ≤ counterDiff m.frHead m.frTail then .next s
    else
      let at_ := ringBase m.fault + 32 * (m.frHead % ringSize m.fault)
      let bytes := f.bytes m.frHead
      let rest := s.devFaults.erase f
      let waits := f.source = 0 || f.cmd ≠ 0
      let done : DevFault := { f with seq := some m.frHead }
      let s := { s with devFaults := if waits then rest ++ [done] else rest,
                        mmb := { m with frHead := (m.frHead + 1) % 2 ^ 32 } }
      let s := s.addMemNow (bytes.zipIdx.map fun b => (at_ + b.2, b.1))
      let s := s.sendEvent evFaultRecord (bytes.take 16)
      .next (if s.devFaults.any fun g => g.seq.isNone then s.schedule s.clock prioAfter .faultRecord else s)

end Sys2Proof.Machine
end

