-- ==== Sys2Proof/Machine/Images.lean ====
section
/-! DEFINITION. Linked images (14, R299-R302, R314, R315, R418): reading the header, sections and tables, and the checks at load. -/

namespace Sys2Proof.Machine

/-- n bytes of a list from o, as a little-endian number. -/
def leAt (l : List Byte) (o n : Nat) : Nat := leNat ((l.drop o).take n)

/-- Records of n bytes of a list. -/
def chunks (n : Nat) : Nat → List Byte → List (List Byte)
  | 0, _ => []
  | fuel + 1, l => if l.length < n || n = 0 then [] else l.take n :: chunks n fuel (l.drop n)

def recordsOf (n : Nat) (l : List Byte) : List (List Byte) := chunks n l.length l

def Image.strict (i : Image) : Bool := leAt i.bytes 6 2 % 2 == 1
def Image.determ (i : Image) : Bool := bitsOf (leAt i.bytes 6 2) 1 1 == 1
def Image.batchInv (i : Image) : Bool := bitsOf (leAt i.bytes 6 2) 2 1 == 1
def Image.cutMax (i : Image) : Nat := leAt i.bytes 8 4
def Image.ctxSize (i : Image) : Nat := leAt i.bytes 16 8
def Image.wdTag (i : Image) : Nat := leAt i.bytes 64 8

/-- The section table (R301): type, offset, length. -/
def Image.sections (i : Image) : List (Nat × Nat × Nat) :=
  (List.range (leAt i.bytes 12 4)).map fun k =>
    let o := 128 + 16 * k
    (leAt i.bytes o 2, leAt i.bytes (o + 4) 4, leAt i.bytes (o + 8) 8)

/-- The bytes of every section of a type. -/
def Image.sectionsOf (i : Image) (t : Nat) : List (List Byte) :=
  (i.sections.filter fun x => x.1 == t).map fun x => (i.bytes.drop x.2.1).take x.2.2

def Image.section (i : Image) (t : Nat) : List Byte := (i.sectionsOf t).headD []
def Image.has (i : Image) (t : Nat) : Bool := i.sections.any fun x => x.1 == t

/-- Code blocks (R301): core and bytes. -/
def codeBlocks : Nat → List Byte → List (Nat × List Byte)
  | 0, _ => []
  | fuel + 1, l =>
    if l.length < 6 then []
    else (leAt l 0 2, (l.drop 6).take (leAt l 2 4)) :: codeBlocks fuel (l.drop (6 + leAt l 2 4))

def Image.code (i : Image) : List (Nat × List Byte) := codeBlocks (i.section 1).length (i.section 1)

/-- Start-vector tables (R302), one after another. -/
def svecTables : Nat → List Byte → List (List Byte)
  | 0, _ => []
  | fuel + 1, l =>
    let n := 16 + 16 * leAt l 0 2 + 32 * leAt l 2 2
    if l.length < n then [] else l.take n :: svecTables fuel (l.drop n)

def Image.svecs (i : Image) : List (List Byte) := svecTables (i.section 2).length (i.section 2)

/-- Groups of the image (R314): number and members. -/
def maskMembers (m : Nat) : List Nat := (List.range coreCount).filter fun n => m / 2 ^ n % 2 == 1
def Image.groupTable (i : Image) : List (Nat × List Nat) :=
  (recordsOf 100 (i.section 5)).map fun r => (leAt r 0 1, maskMembers (leAt r 4 96))

/-- A task record (R302). -/
def taskOfRecord (groups : List (Nat × List Nat)) (r : List Byte) : Task :=
  let g := leAt r 4 1
  { phase := leAt r 0 4, group := g, members := ((groups.find? fun x => x.1 == g).map (·.2)).getD [], nrange := leAt r 5 1,
    ranges := leAt r 8 4 }

/-- The tasks of a start vector. -/
def Image.tasks (i : Image) (v : Nat) : List Task :=
  let t := i.svecs.getD v []
  (recordsOf 16 ((t.drop 16).take (16 * leAt t 0 2))).map (taskOfRecord i.groupTable)

/-- The core entries of a start vector. -/
def Image.entries (i : Image) (v : Nat) : List CoreEntry :=
  let t := i.svecs.getD v []
  (recordsOf 32 (t.drop (16 + 16 * leAt t 0 2))).map fun r =>
    { core := leAt r 0 2, entry := leAt r 4 4, stack := leAt r 8 4, limit := leAt r 12 4, reserve := leAt r 16 4, gp := leAt r 20 4,
      param := leAt r 24 4, lend := leAt r 28 1 }

/-- A declared range (R279): VA, LEN, MODE, HINT, NEARCORE. -/
structure RangeRec where
  va : Nat
  len : Nat
  mode : Nat
  hint : Nat
  near : Nat
  deriving DecidableEq, Repr

def Image.ranges (i : Image) : List RangeRec :=
  (recordsOf 32 (i.section 6)).map fun r => ⟨leAt r 0 8, leAt r 8 8, leAt r 16 1, leAt r 17 1, leAt r 18 2⟩

/-- The declared ranges of a task. -/
def Image.taskRanges (i : Image) (t : Task) : List RangeRec := (i.ranges.drop t.ranges).take t.nrange

/-- A graph-table entry (R315): nodes (start vectors), EXCL, predecessor masks of nodes 0 to 13 (those of 14 and 15 are zero). -/
structure GraphEntry where
  nodes : List Nat
  excl : Bool
  preds : List Nat
  deriving DecidableEq, Repr

def Image.graphTable (i : Image) : List GraphEntry :=
  (recordsOf 64 (i.section 8)).map fun r =>
    let n := leAt r 0 1
    { nodes := (List.range n).map fun k => leAt r (4 + 2 * k) 1, excl := leAt r 1 1 % 2 == 1,
      preds := (List.range 14).map fun k => leAt r (36 + 2 * k) 2 }

/-- An entry of the memory timetable (R291): N and its items (COL, columns, ACTD, COLIDX); its words, for the checks. -/
structure Timetable where
  n : Nat
  items : List (Nat × Nat × Nat × Nat)
  words : List Nat
  deriving DecidableEq, Repr

def timetables : Nat → List Byte → List Timetable
  | 0, _ => []
  | fuel + 1, l =>
    if l.length < 8 then []
    else
      let h := leAt l 0 8
      let k := bitsOf h 24 16
      let ws := (List.range (k + 1)).map fun j => leAt l (8 * j) 8
      let items := (ws.drop 1).map fun w => (bitsOf w 0 24, bitsOf w 32 2 + 1, bitsOf w 34 6, bitsOf w 40 24)
      { n := bitsOf h 0 24, items := items, words := ws } :: timetables fuel (l.drop (8 * (k + 1)))

/-- Entry e of the memory timetable, numbered from 1. -/
def Image.timetable (i : Image) (e : Nat) : Option Timetable :=
  if e = 0 then none else (timetables (i.section 10).length (i.section 10))[e - 1]?

/-- A range of n bytes at a meets another. -/
def meets (a n b m : Nat) : Bool := decide (a < b + m) && decide (b < a + n)

/-- A block of initialised data (R418): core, slice offset, the length its header gives, and its bytes. -/
structure DataBlock where
  core : Nat
  off : Nat
  len : Nat
  bytes : List Byte
  deriving DecidableEq, Repr

def dataBlocks : Nat → List Byte → List DataBlock
  | 0, _ => []
  | fuel + 1, l =>
    if l.length < 16 then []
    else
      let n := leAt l 8 4
      ⟨leAt l 0 2, leAt l 4 4, n, (l.drop 16).take n⟩ :: dataBlocks fuel (l.drop (16 + ceilDiv n 16 * 16))

def Image.data (i : Image) : List DataBlock := (i.sectionsOf 11).flatMap fun x => dataBlocks x.length x

/-- The buffers of core n (R144): slice offset and size. -/
def Image.plan (i : Image) (n : Nat) : List (Nat × Nat) := Config.planOf (i.section 3) n

/-- The image initialises bytes of a buffer of core n (R144). -/
def Image.fills (i : Image) (n off size : Nat) : Bool := i.data.any fun b => b.core == n && decide (0 < b.len) && meets b.off b.len off size

/-! The checks at load (R299) -/

/-- No two entries of a list meet. -/
def apart : List (Nat × Nat) → Bool
  | [] => true
  | (a, n) :: r => !(r.any fun x => meets a n x.1 x.2) && apart r

/-- How often a section type may stand (R301). -/
def sectionCount (t n : Nat) : Bool :=
  match t with
  | 1 | 2 | 3 | 9 | 15 => n == 1
  | 4 | 5 | 6 | 7 | 8 | 10 => decide (n ≤ 1)
  | 11 => true
  | _ => false

/-- The rules of R300 and R301 on the header and the section table. -/
def Image.headerOk (i : Image) : Bool :=
  let ss := i.sections
  leAt i.bytes 0 4 == 0x314B4C44 && leAt i.bytes 4 2 == 1 && decide (leAt i.bytes 6 2 < 8) &&
    decide (1 ≤ i.cutMax) && decide (i.cutMax ≤ 16777215) && decide (1 ≤ leAt i.bytes 12 4) && decide (leAt i.bytes 12 4 ≤ 64) &&
    leAt i.bytes 24 40 == 0 && decide (128 + 16 * ss.length ≤ i.bytes.length) &&
    ss.zipIdx.all (fun x => leAt i.bytes (130 + 16 * x.2) 2 == 0) &&
    ((List.range 65536).filter fun t => ss.any fun x => x.1 == t).all (fun t => sectionCount t (ss.filter fun x => x.1 == t).length) &&
    [1, 2, 3, 9, 15].all (fun t => i.has t) &&
    ss.all (fun x => decide (x.2.1 + x.2.2 ≤ i.bytes.length)) &&
    apart ((0, 128 + 16 * ss.length) :: ss.map fun x => x.2) &&
    ss.all (fun x => x.1 == 15 || ss.all fun y => y.1 != 15 || decide (x.2.1 ≤ y.2.1))

/-- The rules of R144 on the buffers of a core. -/
def planOk (l : List (Nat × Nat)) : Bool :=
  decide (l.length ≤ 64) &&
    l.all (fun b => b.1 % 64 == 0 && b.2 % 64 == 0 && decide (64 ≤ b.2) && decide (b.2 ≤ 2 ^ 18) && decide (b.1 + b.2 ≤ 2 ^ 22) &&
      b.1 / 2 ^ 18 == (b.1 + b.2 - 1) / 2 ^ 18) &&
    apart l

/-- A slice offset of core entry e lies in a lent bank (R302, R418); the slice's end, which a stack may start at (R85), lies in none. -/
def inLent (e : CoreEntry) (off : Nat) : Bool := decide (16 - e.lend ≤ off / 2 ^ 18) && decide (off < 2 ^ 22)

/-- The rules of R302 on one start vector; a parameter copy of no bytes fits in any bank. -/
def Image.svecOk (i : Image) (v : Nat) : Bool :=
  let es := i.entries v
  let ts := i.tasks v
  let dom := es.map (·.core)
  let len := Config.paramLength (i.section 9) v
  ts.all (fun t => t.members.all fun m => dom.contains m) && ts.all (fun t => decide (t.nrange ≤ 64)) &&
    ts.zipIdx.all (fun t => ts.zipIdx.all fun u => t.2 == u.2 || t.1.phase != u.1.phase || t.1.members.all fun m => !u.1.members.contains m) &&
    es.all (fun e => decide (e.core < coreCount) && decide (e.lend ≤ 8) && e.reserve % 8 == 0 &&
      !inLent e e.stack && !inLent e e.limit && !inLent e e.gp && !inLent e e.param && decide (e.param < 2 ^ 22) &&
      (len == 0 || decide (e.param % 2 ^ 18 + len ≤ 2 ^ 18) &&
        (i.plan e.core).all (fun b => b.1 / 2 ^ 18 != e.param / 2 ^ 18))) &&
    i.data.all (fun b => es.all fun e => e.core != b.core || (!inLent e b.off && !inLent e (b.off + b.len - 1)))

/-- Every rule that refuses an image at load (R144, R279, R299-R302, R314, R315, R418). -/
def Image.ok (i : Image) : Bool :=
  let vs := List.range i.svecs.length
  let gs := i.groupTable
  i.headerOk && Config.signatureOk i.bytes && vs.all i.svecOk &&
    ((List.range coreCount).all fun n => planOk (i.plan n)) &&
    i.ranges.all (fun r => decide (1 ≤ r.mode) && decide (r.mode ≤ 3) && decide (r.hint ≤ 3) && decide (r.va < 2 ^ 57) &&
      decide (1 ≤ r.len) && decide (r.len ≤ 2 ^ 48)) &&
    gs.all (fun g => vs.all fun v => !((i.tasks v).any fun t => t.group == g.1) ||
      g.2.all fun m => ((i.entries v).map (·.core)).contains m) &&
    ((List.range coreCount).all fun n => decide ((gs.filter fun g => g.2.contains n).length ≤ 4)) &&
    i.graphTable.all (fun e => decide (1 ≤ e.nodes.length) && decide (e.nodes.length ≤ 16) &&
      e.preds.zipIdx.all fun p => decide (p.1 < 2 ^ p.2)) &&
    i.data.all (fun b => decide (b.off + b.len ≤ 2 ^ 22)) &&
    ((List.range coreCount).all fun n => apart ((i.data.filter fun b => b.core == n).map fun b => (b.off, b.len)))

def State.imageAt (s : State) (slot : Nat) : Option Image :=
  let i := SMap.get ⟨[]⟩ s.images slot
  if i.bytes.isEmpty then none else some i

/-- The image of the launch that core n is bound to. -/
def State.imageOf (s : State) (n : Nat) : Option Image := (s.launchOf n).bind fun l => s.imageAt l.image

/-- The image has a half-width variant for a start vector (R325): one for each of its cores. -/
def Image.variantFor (i : Image) (svec : Nat) (cores : List Nat) : Bool := i.has 7 && cores.all fun n => (Config.variantOf (i.section 7) svec n).isSome

end Sys2Proof.Machine
end

