-- ==== Sys2Proof/Machine/Matrix.lean ====
section
/-! DEFINITION. The matrix engine (07, R175-R191): operands and their claims, the order of sums, tiles in flight. -/

namespace Sys2Proof.Machine

/-! Classes (R176, R187) -/

/-- Kc of a format's class. -/
def fmtKc (fmt : Nat) : Nat :=
  match fmt with
  | 7 | 10 | 11 | 16 | 18 | 19 => 32
  | 0 => 2
  | 1 | 2 => 8
  | _ => 16

/-- Depth of the stationary buffer's panel. -/
def panelDepth (fmt : Nat) : Nat := 32 * fmtKc fmt + (if fmt = 0 then 64 else 0)

/-! Operands (R181, R134, R135) -/

/-- An operand: its stream, base address and address Q (below 0 where a buffer-mode position leads there), whether it is A, and whether it is stored
K-major. -/
structure Operand where
  d : Desc
  base : Nat
  q : Int
  win : Option (Nat × Nat)
  isA : Bool
  tb : Bool
  deriving DecidableEq, Repr

def State.operand (s : State) (n : Nat) (d : Desc) (isA tb : Bool) : Operand :=
  ⟨d, s.streamBase n d, if Desc.bufMode d then (s.streamBase n d : Int) + Desc.position d else s.streamAddr n d, s.streamWindow n d, isA, tb⟩

/-- Where one element lies: its byte, its first bit in it, its displacement, and the block it belongs to (R182); padding has no byte. -/
structure ElemRef where
  real : Bool
  addr : Nat
  bit : Nat
  disp : Int
  block : List Int
  deriving DecidableEq, Repr

/-- The block of an element that lies at a displacement and bit (R182). -/
def Operand.blockAt (o : Operand) (disp : Int) (bit : Nat) : List Int :=
  let fmt := Desc.fmt o.d
  let (row, col) := Desc.rowCol o.d disp
  if fmtBlock fmt ≠ 0 then [0, row, col / (fmtBlockBytes fmt : Int)]
  else if o.tb then [1, row / 32]
  else [0, row, (col * 8 + bit) / (32 * fmtBits fmt : Nat)]

/-- Element number j counted from byte a. -/
def Operand.refAt (o : Operand) (a : Int) (j : Nat) : ElemRef :=
  let bits := j * fmtBits (Desc.fmt o.d)
  let addr : Int := a + (bits / 8 : Nat)
  let disp : Int := addr - o.base
  ⟨true, unsignedOf 64 addr, bits % 8, disp, o.blockAt disp (bits % 8)⟩

/-- A value of the unfolded matrix (R135): the stored element, or padding; padding inside the kernel window keeps the block of its
channel run (log 12). -/
def Operand.unfolded (o : Operand) (m k : Nat) : ElemRef :=
  let d := o.d
  let (c, h, w) := (Desc.uch d, Desc.uh d, Desc.uw d)
  let (kh, kw) := (Desc.ukern d 0, Desc.ukern d 1)
  let (sh, sw) := (Desc.ukern d 2, Desc.ukern d 3)
  let (dh, dw) := (Desc.udil d 0, Desc.udil d 1)
  let (ph, pw) := (Desc.udil d 2, Desc.udil d 3)
  let oh : Int := ((h : Int) + 2 * ph - dh * ((kh : Int) - 1) - 1) / sh + 1
  let ow : Int := ((w : Int) + 2 * pw - dw * ((kw : Int) - 1) - 1) / sw + 1
  let m' : Int := (Desc.idx d 0 : Int) * Desc.stride d 0 + m
  let k' : Int := (Desc.idx d 1 : Int) * Desc.stride d 1 + k
  if oh ≤ 0 || ow ≤ 0 || oh * ow ≤ m' || (kh * kw * c : Nat) ≤ k' then ⟨false, 0, 0, 0, [3]⟩
  else
    let a : Int := k' / (kw * c : Nat)
    let b : Int := k' / (c : Int) % (kw : Int)
    let ch : Int := k' % (c : Int)
    let ih : Int := m' / ow * sh - ph + a * dh
    let iw : Int := m' % ow * sw - pw + b * dw
    if ih < 0 || (h : Int) ≤ ih || iw < 0 || (w : Int) ≤ iw then
      ⟨false, 0, 0, 0, [2, a, b, ch / (if fmtBlock (Desc.fmt d) = 0 then 32 else fmtBlock (Desc.fmt d) : Nat)]⟩
    else o.refAt o.q ((ih * w + iw) * c + ch).toNat

/-- Element (i, k) of an operand: i is the row of A or the column of B (R181). -/
def Operand.ref (o : Operand) (i k : Nat) : ElemRef :=
  if o.isA && Desc.kind o.d = 1 then o.unfolded i k
  else if o.tb then o.refAt (o.q + (k * Desc.rpitch o.d : Nat)) i
  else o.refAt (o.q + (i * Desc.rpitch o.d : Nat)) k

/-- Equal neighbours of a list kept once. -/
def dedupNext : List (Nat × Nat) → List (Nat × Nat)
  | a :: b :: r => if a = b then dedupNext (b :: r) else a :: dedupNext (b :: r)
  | l => l

/-- The byte runs of an operand's data for k from k0 to k1 - 1, as (first byte, length). -/
def Operand.dataRuns (o : Operand) (k0 k1 : Nat) : List (Nat × Nat) :=
  let fmt := Desc.fmt o.d
  if o.isA && Desc.kind o.d = 1 then
    (List.range 128).flatMap fun m => (List.range (k1 - k0)).filterMap fun j =>
      let r := o.unfolded m (k0 + j)
      if r.real then some (r.addr, (r.bit + fmtBits fmt + 7) / 8) else none
  else if o.tb then (List.range (k1 - k0)).map fun j => (unsignedOf 64 (o.q + ((k0 + j) * Desc.rpitch o.d : Nat)), fmtBytes fmt 128)
  else
    let b0 := k0 * fmtBits fmt / 8
    (List.range 128).map fun i => (unsignedOf 64 (o.q + (i * Desc.rpitch o.d + b0 : Nat)), ceilDiv (k1 * fmtBits fmt) 8 - b0)

/-- The runs of the scale bytes that those elements use. -/
def Operand.scaleRuns (o : Operand) (k0 k1 : Nat) : List (Nat × Nat) :=
  let blk := fmtBlock (Desc.fmt o.d) ≠ 0
  let band := Desc.banded o.d
  if !blk && !band then []
  else
    let refs := ((List.range 128).flatMap fun i => (List.range (k1 - k0)).map fun j => o.ref i (k0 + j)).filter (·.real)
    (if blk then dedupNext (refs.map fun r => (addrAt o.base (Desc.scaleDisp o.d r.disp), 1)) else []) ++
      (if band then dedupNext (refs.map fun r => (addrAt o.base (Desc.bandDisp o.d r.disp), 2)) else [])

def Operand.runs (o : Operand) (k0 k1 : Nat) : List (Nat × Nat) := o.dataRuns k0 k1 ++ o.scaleRuns k0 k1

/-! Byte runs against the own slice (R142, R146, R181) -/

/-- The bytes of core n's slice that an M-slot access may reach: first and end. -/
def State.ownLimits (s : State) (n : Nat) (win : Option (Nat × Nat)) : Nat × Nat :=
  let lo := sliceBase n
  let hi := lo + (16 - (s.core n).lent) * 2 ^ 18
  match win with
  | none => (lo, hi)
  | some (b, k) => (Nat.max lo b, Nat.min hi (b + k))

/-- The in-range part of a run; one that begins below address 0, and so at 2^64 less something, is in range from address 0 on at most. -/
def clipRun (lim : Nat × Nat) (r : Nat × Nat) : Nat × Nat :=
  let r := if 2 ^ 64 < r.1 + r.2 then (0, r.1 + r.2 - 2 ^ 64) else r
  let a := Nat.max r.1 lim.1
  (a, Nat.min (r.1 + r.2) lim.2 - a)

def clipRuns (lim : Nat × Nat) (l : List (Nat × Nat)) : List (Nat × Nat) := (l.map (clipRun lim)).filter fun r => r.2 ≠ 0

/-- The first out-of-range byte of a list of runs. -/
def firstOor (lim : Nat × Nat) (l : List (Nat × Nat)) : Option Nat :=
  l.findSome? fun r =>
    if r.2 = 0 then none
    else if r.1 < lim.1 then some r.1
    else if lim.2 < r.1 + r.2 then some (Nat.max r.1 lim.2)
    else none

/-- Buffer b of core n lies under a run (package scratchpad addresses). -/
def underRun (n : Nat) (b : Buf) (r : Nat × Nat) : Bool :=
  let lo := sliceBase n + b.offset
  b.decl && decide (r.1 < lo + 64 * b.size) && decide (lo < r.1 + r.2)

/-- A declared buffer of core n under the runs does not allow the access (R146, R186). -/
def State.runsRefused (s : State) (n : Nat) (write : Bool) (l : List (Nat × Nat)) : Bool :=
  (s.core n).bufs.any fun kb => !kb.2.allows n write && l.any (underRun n kb.2)

/-- A claim of an MSAVE or MLOAD finds a declared buffer in another state than its issue left it in (R190): one that refuses the access,
or, under an MSAVE, one that is empty again. -/
def State.runsChanged (s : State) (n : Nat) (write : Bool) (l : List (Nat × Nat)) : Bool :=
  s.runsRefused n write l || (write && (s.core n).bufs.any fun kb => kb.2.st == .empty && l.any (underRun n kb.2))

/-- The banks of in-range runs. -/
def runBanks (l : List (Nat × Nat)) : List Nat :=
  (List.range 16).filter fun b => l.any fun r => (List.range 17).any fun k =>
    decide (r.1 / 2 ^ 18 + k ≤ (r.1 + r.2 - 1) / 2 ^ 18) && (r.1 / 2 ^ 18 + k) % 16 == b

/-- The bytes of runs, and a captured map of them as a read now returns them. -/
def runAddrs (l : List (Nat × Nat)) : List Nat := l.flatMap fun r => (List.range r.2).map (r.1 + ·)

def State.capture (s : State) (l : List (Nat × Nat)) : SMap Byte :=
  (runAddrs l).foldr (fun a m => SMap.put 0 m a (s.nearByte a)) []

/-! Steps and the claim cycles (R185, R187, R242) -/

/-- The classes' common Kc of a matrix instruction: A and B, or A and the panel. -/
def mopKc (i : Instr) (a b : Desc) : Nat :=
  match i with
  | .mpre _ => fmtKc (Desc.fmt b)
  | _ => Nat.min (fmtKc (Desc.fmt a)) (fmtKc (Desc.fmt b))

def mopK (i : Instr) : Nat :=
  match i with
  | .mma o | .mpre o => o.k.toNat
  | _ => 0

def mopSteps (i : Instr) (a b : Desc) : Nat := ceilDiv (mopK i) (mopKc i a b)

/-- B stored K-major, as the instruction says, or as the panel was stored. -/
def mopTb (i : Instr) (panel : Option Panel) : Bool :=
  match i with
  | .mma o => if o.rb then (match panel with
    | some p => p.kmajor
    | none => false) else o.tb
  | .mpre o => o.tb
  | _ => false

/-! Issue -/

/-- The write to a tile that is still in flight, if there is one: the latest issued (R178). -/
def tileWriter (l : List MOp) (t : Nat) : Option MOp := (l.filter fun m => m.tiles.contains t).getLast?

/-- The rows of a tile as they stand. -/
def Core.tileRows (c : Core) (t : Nat) : List Row := (List.range 128).map fun r => c.row (128 * t + r)

/-- The input of a tile at issue (R178, R188). -/
def tileInput (c : Core) (t : Nat) : Nat × TileIn :=
  (t, match tileWriter c.mops t with
    | some m => .pending m.id
    | none => .rows (c.tileRows t))

/-- The engine is busy (R177). -/
def engineBusy (s : State) : Bool := decide (s.clock < s.cur.mBusyUntil)

/-- The completion cycle of an instruction that reads or writes the tiles (R178). -/
def tileDone (c : Core) (own : Nat) (tiles : List Nat) : Nat :=
  tiles.foldl (fun d t => match tileWriter c.mops t with
    | some m => Nat.max d (m.done + 2)
    | none => d) own

/-- A matrix instruction enters the engine: occupancy, own completion cycle, tiles read and written, operands. -/
def enterEngine (pre cur : State) (instr : Instr) (occ own : Nat) (reads writes : List Nat) (a b : Desc)
    (panel : Option Panel) : MOp × State :=
  let (id, s) := cur.fresh
  let c := pre.cur
  let m : MOp :=
    { id := id, instr := instr, addr := pre.ix.addr, stamp := c.tcyc, issued := pre.clock,
      done := tileDone c own (reads ++ writes), base := pre.clock, tiles := writes, input := reads.map (tileInput c),
      descA := a, descB := b, capA := [], capB := [], panel := panel, hit := false, dead := false }
  let s := s.modCur fun c => { c with mops := c.mops ++ [m], mBusyUntil := pre.clock + occ }
  (m, s.schedule m.done prioMatrix (.matrixWriteComplete pre.ix.core id))

/-- The checks of all operands' runs at issue, in ascending cause (R42): buffers (R186), strict mode (R143), the busy engine (R177). -/
def checkRuns (pre : State) (operands : List (Option (Nat × Nat) × List (Nat × Nat))) (write : Bool)
    (cont : Option Nat → Except Trap State) : Except Trap State :=
  let n := pre.ix.core
  if operands.any fun w => pre.runsRefused n write (clipRuns (pre.ownLimits n w.1) w.2) then .error (trapAt pre 0x05 0)
  else
    let oor := operands.findSome? fun w => firstOor (pre.ownLimits n w.1) w.2
    match oor, pre.strict n with
    | some a, true => .error { trapAt pre 0x07 0 with oor := some (oorWord a write pre.ix.slot pre.cur.tcyc) }
    | _, _ => if engineBusy pre then .error (trapAt pre 0x12 0) else cont oor

/-- A stream names an undeclared buffer (R130). -/
def undeclared (s : State) (d : Desc) : Bool := Desc.bufMode d && !(s.cur.buf (Desc.bufNo d)).decl

/-- A stream of an M-slot instruction is legal as operand B (R130, R180). -/
def bOk (d : Desc) (tb : Bool) : Bool :=
  Desc.useOk d && Desc.kind d = 0 && !(tb && (12 ≤ Desc.fmt d || Desc.band d))

/-- Operands fit integer accumulation (R180). -/
def intFmt (d : Desc) : Bool := 8 ≤ Desc.fmt d && Desc.fmt d ≤ 11 && !Desc.band d

/-- Schedule the claims of an operand: first cycle, distance, steps. -/
def scheduleClaims (s : State) (n op first gap steps : Nat) (isB : Bool) : State :=
  (List.range steps).foldl (fun s j => s.schedule (first + gap * j) prioClaim (.mmaOperandClaim n op j isB)) s

/-- MMA (R179-R186). -/
def opMma (o : MOps) : Op := fun pre cur =>
  let c := pre.cur
  let n := pre.ix.core
  let a := c.greg o.sa
  let b := match o.rb, c.panel with
    | true, some p => p.desc
    | _, _ => c.greg o.sb
  let panelOk := !o.rb || (match c.panel with
    | some p => decide (o.k.toNat ≤ p.k)
    | none => false)
  if !Desc.useOk a || (!o.rb && !bOk b o.tb) || !panelOk || (o.int && (!intFmt a || !intFmt b)) then .error (trapAt pre 0x02 0)
  else if undeclared pre a || (!o.rb && undeclared pre b) then .error (trapAt pre 0x05 0)
  else
    let k := o.k.toNat
    let opA := pre.operand n a true false
    let opB := pre.operand n b false o.tb
    let runsA := opA.runs 0 k
    let runsB := if o.rb then [] else opB.runs 0 k
    checkRuns pre [(opA.win, runsA), (opB.win, runsB)] false fun oor =>
      let half := pre.half n
      let steps := mopSteps (.mma o) a b
      let gap := if half then 16 else 8
      let t := o.tile.toNat
      let ti := if o.it then o.ti.toNat else t
      let pair (x : Nat) : List Nat := if o.cp then [x, x + 1] else [x]
      let cur := cur.recordOor false oor
      let (m, s) := enterEngine pre cur (.mma o) (gap * steps) (pre.clock + gap * steps + 22)
        (if o.zi then [] else pair ti) (pair t) a b (if o.rb then c.panel else none)
      let s := scheduleClaims s n m.id (pre.clock + 2) gap steps false
      .ok (if o.rb then s else scheduleClaims s n m.id (pre.clock + (if half then 10 else 6)) gap steps true)
def execMma (o : MOps) (s : State) : Host.Outcome State Fault Refusal := runOp (opMma o) s

/-- MPRE (R187): the panel is replaced; its bytes come with its claims. -/
def opMpre (o : MOps) : Op := fun pre cur =>
  let c := pre.cur
  let n := pre.ix.core
  let b := c.greg o.sb
  let k := o.k.toNat
  if !bOk b o.tb || panelDepth (Desc.fmt b) < k then .error (trapAt pre 0x02 0)
  else if undeclared pre b then .error (trapAt pre 0x05 0)
  else
    let opB := pre.operand n b false o.tb
    checkRuns pre [(opB.win, opB.runs 0 k)] false fun oor =>
      let steps := mopSteps (.mpre o) b b
      let gap := if pre.half n then 8 else 4
      let (m, s) := enterEngine pre (cur.recordOor false oor) (.mpre o) (gap * steps) (pre.clock + gap * steps) [] [] b b none
      let s := s.modCur fun c => { c with panel := some ⟨m.id, k, o.tb, b, []⟩ }
      .ok (scheduleClaims s n m.id (pre.clock + 2) gap steps true)
def execMpre (o : MOps) (s : State) : Host.Outcome State Fault Refusal := runOp (opMpre o) s

/-- An instruction on tiles alone (R189). -/
def tileOp (instr : Instr) (occ lat : Nat) (reads writes : List Nat) : Op := fun pre cur =>
  if engineBusy pre then .error (trapAt pre 0x12 0)
  else .ok (enterEngine pre cur instr occ (pre.clock + lat) reads writes 0 0 none).2

/-- A tile, or the pair tile that begins with it. -/
def tilePair (cp : Bool) (t : Nat) : List Nat := if cp then [t, t + 1] else [t]

/-- MZERO (R190). -/
def opMzero (o : MOps) : Op := tileOp (.mzero o) 1 2 [] (tilePair o.cp o.tile.toNat)
def execMzero (o : MOps) (s : State) : Host.Outcome State Fault Refusal := runOp (opMzero o) s

/-- MFOLD (R190). -/
def opMfold (o : MOps) : Op := tileOp (.mfold o) 16 24 (tilePair true o.ti.toNat) [o.tile.toNat]
def execMfold (o : MOps) (s : State) : Host.Outcome State Fault Refusal := runOp (opMfold o) s

/-- MTRN (R190). -/
def opMtrn (o : MOps) : Op := tileOp (.mtrn o) 16 24 (tilePair o.cp o.ti.toNat) (tilePair o.cp o.tile.toNat)
def execMtrn (o : MOps) (s : State) : Host.Outcome State Fault Refusal := runOp (opMtrn o) s

/-- The rows of an MSAVE or MLOAD in memory: first byte and length of each (R190). -/
def rowRuns (s : State) (n : Nat) (d : Desc) (off : BitVec 24) : List (Nat × Nat) :=
  let a := alignDown (unsignedOf 64 ((s.streamAddr n d : Int) + off.toInt)) 64
  let p := if Desc.rpitch d = 0 then 512 else Desc.rpitch d
  (List.range 128).map fun r => ((a + r * p) % 2 ^ 64, 512)

/-- The stream of an MSAVE or MLOAD is legal (R190). -/
def rowStreamOk (d : Desc) : Bool := Desc.useOk d && Desc.kind d = 0 && Desc.rpitch d % 64 = 0

/-- MSAVE and MLOAD (R190): checks in full at issue, then the row claims. -/
def rowsOp (instr : Instr) (o : MOps) (write : Bool) : Op := fun pre cur =>
  let c := pre.cur
  let n := pre.ix.core
  let d := c.greg o.sa
  if !rowStreamOk d then .error (trapAt pre 0x02 0)
  else if undeclared pre d then .error (trapAt pre 0x05 0)
  else
    let win := pre.streamWindow n d
    let runs := rowRuns pre n d o.low
    checkRuns pre [(win, runs)] write fun oor =>
      let half := pre.half n
      let t := o.tile.toNat
      let base := match write, tileWriter c.mops t with
        | true, some m => Nat.max pre.clock (m.done - 4)
        | _, _ => pre.clock
      let occ := if half then 128 else 64
      let (m, s) := enterEngine pre (cur.recordOor write oor) instr (base - pre.clock + occ) (base + occ + 8)
        (if write then [t] else []) (if write then [] else [t]) d d none
      let done := if write then base + occ + 8 else m.done
      let s := s.modCur fun c => { c with mops := c.mops.map fun x => if x.id == m.id then { x with base := base, done := done } else x }
      let s := if write then
          ((s.cur.bufs.filter fun kb => kb.2.st == .empty && (clipRuns (pre.ownLimits n win) runs).any (underRun n kb.2)).foldl
            (fun s kb => s.addBuf false n kb.1 .filling 1 n false) s)
        else s
      .ok ((List.range (if half then 128 else 64)).foldl (fun s i =>
        s.schedule (base + (if half then 6 else 4) + i) prioRowClaim (.msaveRowClaim n m.id (if half then i else 2 * i))) s)

/-- MSAVE (R190). -/
def opMsave (o : MOps) : Op := rowsOp (.msave o) o true
def execMsave (o : MOps) (s : State) : Host.Outcome State Fault Refusal := runOp (opMsave o) s

/-- MLOAD (R190). -/
def opMload (o : MOps) : Op := rowsOp (.mload o) o false
def execMload (o : MOps) (s : State) : Host.Outcome State Fault Refusal := runOp (opMload o) s

/-! Claims in flight -/

def Core.mop (c : Core) (id : Nat) : Option MOp := c.mops.find? fun m => m.id == id
def Core.setMop (c : Core) (m : MOp) : Core := { c with mops := c.mops.map fun x => if x.id == m.id then m else x }

/-- A missed operand (R186, R190): the instruction writes nothing, not even rows claimed before. -/
def missOperand (s : State) (n : Nat) (m : MOp) : State :=
  let s := { s with memPend := s.memPend.filter fun x => x.op != m.id }
  (s.setCore n ((s.core n).setMop { m with dead := true })).lateFault n 0x15 0 8 m.addr m.issued

/-- The access of an operand claim: its banks now, the bus for this cycle and those that follow (R185, R236); each later beat names its first byte,
for its parity record (R237, R244). -/
def operandAccs (s : State) (n : Nat) (m : MOp) (runs : List (Nat × Nat)) : State :=
  if runs.isEmpty then s
  else
    let half := s.half n
    (List.range (if half then 6 else 3)).foldl (fun s i => s.addAcc
      { op := m.id, kind := .matrix, core := n, slot := 8, addr := m.addr, issued := m.issued, stamp := m.stamp,
        cycle := s.clock + i, target := n, banks := if i = 0 then runBanks runs else [], units := if half then 1 else 2,
        write := false, hops := [], remote := false,
        bytes := if i = 0 then runAddrs runs else ((runAddrs runs).drop ((if half then 512 else 1024) * i)).take 1, atom := false, after := i }) s

/-- MMA_OPERAND_CLAIM (R185-R187): the bytes of one step of one operand. -/
def execMmaOperandClaim (core op step : Nat) (isB : Bool) (s : State) : Host.Outcome State Fault Refusal :=
  if 768 ≤ core then .fault .noSuchUnit
  else
    match (s.core core).mop op with
    | none => .next s
    | some m =>
      if m.dead then .next s
      else
        let kc := mopKc m.instr m.descA m.descB
        let k1 := Nat.min ((step + 1) * kc) (mopK m.instr)
        let o := s.operand core (if isB then m.descB else m.descA) (!isB) (isB && mopTb m.instr m.panel)
        let runs := clipRuns (s.ownLimits core o.win) (o.runs (step * kc) k1)
        if s.runsRefused core false runs then .next (missOperand s core m)
        else
          let cap := s.capture runs
          let c := s.core core
          let c := match m.instr, c.panel with
            | .mpre _, some p => if p.op == m.id then { c with panel := some { p with bytes := SMap.put [] p.bytes step cap } } else c
            | .mpre _, none => c
            | _, _ => c.setMop (if isB then { m with capB := SMap.put [] m.capB step cap } else { m with capA := SMap.put [] m.capA step cap })
          .next (operandAccs (s.setCore core c) core m runs)

/-- The rows of an input tile, once known. -/
def TileIn.list (t : TileIn) : List Row :=
  match t with
  | .rows l => l
  | .pending _ => []

/-- The parts of a row's run in the banks that it touches. -/
def runParts (r : Nat × Nat) : List (Nat × Nat) :=
  let e := alignDown r.1 (2 ^ 18) + 2 ^ 18
  if r.1 + r.2 ≤ e then [r] else [(r.1, e - r.1), (e, r.1 + r.2 - e)]

/-- The accesses of the rows that claim on this cycle, one to a bank and row: each row uses its own unit, that of the lower bank unit 0 (R190, R252). -/
def rowAccs (s : State) (n : Nat) (m : MOp) (write : Bool) (rows : List (Nat × Nat)) : State :=
  let bank (r : Nat × Nat) : Nat := r.1 / 2 ^ 18 % 16
  rows.zipIdx.foldl (fun (s : State) (r : (Nat × Nat) × Nat) =>
    let mate := rows.getD (1 - r.2) (0, 0)
    let second : Bool := decide (bank mate < bank r.1) || (bank mate == bank r.1 && r.2 == 1)
    (runParts r.1).zipIdx.foldl (fun (s : State) (p : (Nat × Nat) × Nat) => s.addAcc
      { op := m.id, kind := .mrow, core := n, slot := 8, addr := m.addr, issued := m.issued, stamp := m.stamp,
        cycle := s.clock, target := n, banks := [bank p.1], units := if p.2 = 0 then 1 else 0, write := write,
        hops := [], remote := false, bytes := runAddrs [p.1], atom := false,
        unit := if rows.length = 2 then some (if second then 1 else 0) else none }) s) s

/-- MSAVE_ROW_CLAIM (R190): one row, or at full width two, of an MSAVE or MLOAD. -/
def execMsaveRowClaim (core op row : Nat) (s : State) : Host.Outcome State Fault Refusal :=
  if 768 ≤ core || 128 ≤ row then .fault .noSuchUnit
  else
    match (s.core core).mop op with
    | none => .next s
    | some m =>
      if m.dead then .next s
      else
        let write := match m.instr with
          | .msave _ => true
          | _ => false
        let off := match m.instr with
          | .msave o | .mload o => o.low
          | _ => 0
        let half := s.half core
        let rows := if half then [row] else [row, row + 1]
        let lim := s.ownLimits core (s.streamWindow core m.descA)
        let all := rowRuns s core m.descA off
        let runs := rows.map fun r => (r, clipRun lim (all.getD r (0, 0)), (all.getD r (0, 0)).1)
        let live := runs.filter fun x => x.2.1.2 ≠ 0
        if s.runsChanged core write (live.map (·.2.1)) then .next (missOperand s core m)
        else
          let s := rowAccs s core m write (live.map (·.2.1))
          if write then
            let l := m.input.flatMap fun x => x.2.list
            .next (live.foldl (fun (s : State) x =>
              let bytes := rowBytes (l.getD x.1 0)
              (runParts x.2.1).foldl (fun (s : State) p =>
                let data := (List.range p.2).map fun k => (nearBase + p.1 + k, bytes.getD ((p.1 + 2 ^ 64 - x.2.2) % 2 ^ 64 + k) 0)
                s.addMem (m.base + (if half then 136 else 72)) s.clock m.id data core) s) s)
          else
            let m := live.foldl (fun (m : MOp) x =>
              let bytes : SMap Byte := (List.range x.2.1.2).foldr (fun k a => SMap.put 0 a ((x.2.1.1 + 2 ^ 64 - x.2.2) % 2 ^ 64 + k) (s.nearByte (x.2.1.1 + k))) []
              { m with capA := SMap.put [] m.capA x.1 bytes }) m
            .next (s.setCore core ((s.core core).setMop m))

/-! Results (R182-R184, R190) -/

/-- An element as the engine uses it: value without scales, its flag, block scale, band scale, integer, block, and whether it is padding. -/
structure MElem where
  x : Val
  f : Flags
  sc : Val
  bd : Val
  int : Int
  block : List Int
  pad : Bool
  deriving DecidableEq, Repr

def Val.one : Val := .fin false 1 0

/-- The elements of row (or column) i of an operand for k below the depth, from the bytes captured in each step. -/
def Operand.line (o : Operand) (cap : SMap (SMap Byte)) (kc depth i : Nat) : List MElem :=
  (List.range depth).map fun k =>
    let r := o.ref i k
    if !r.real then ⟨.zero, 0, .one, .one, 0, r.block, true⟩
    else
      let m := SMap.get [] cap (k / kc)
      let rd (a : Nat) : Byte := SMap.get 0 m (a % 2 ^ 64)
      let fmt := Desc.fmt o.d
      let code := leNat ((List.range ((r.bit + fmtBits fmt + 7) / 8)).map fun j => rd (r.addr + j)) / 2 ^ r.bit % 2 ^ fmtBits fmt
      let (x0, f0) := (elemOf fmt).decode code
      let sb := (rd (addrAt o.base (Desc.scaleDisp o.d r.disp))).toNat
      let sc := if fmtBlock fmt = 0 then .one else if fmtBlock fmt = 8 then e3m5 sb else e8m0 sb
      let (x, f) := underScale (x0, f0) sc
      let bd := if Desc.banded o.d then bf16.decode (bandAt rd o.d o.base r.disp) else .one
      let int : Int := match x0 with
        | .fin n v _ => if n then -(v : Int) else v
        | _ => 0
      ⟨x, f, sc, bd, int, r.block, false⟩

/-- The full value of an element with its scales (R112). -/
def MElem.full (e : MElem) : Val × Flags := scaledVal (e.x, e.f) e.sc e.bd

/-- Groups(K) of R182: neighbours that share both blocks stand together. -/
def mmaGroups : List (MElem × MElem) → List (List (MElem × MElem))
  | [] => []
  | p :: r =>
    match mmaGroups r with
    | (q :: g) :: gs => if p.1.block = q.1.block && p.2.block = q.2.block then (p :: q :: g) :: gs else [p] :: (q :: g) :: gs
    | gs => [p] :: gs

/-- GroupSum of R183, as (value, flags). -/
def groupSum (g : List (MElem × MElem)) : Val × Flags :=
  let ps := g.map fun p => p.1.x.mul p.2.x
  let fl := (g.foldl (fun f p => f ||| p.1.f ||| p.2.f) 0) ||| ps.foldl (fun f p => f ||| p.2) 0
  let vs := ps.map (·.1)
  if vs.any Val.isNan then (.nan (vs.any fun v => v == .nan true), fl)
  else
    let infs := vs.filter Val.isInf
    if infs.any Val.isNeg && infs.any (fun v => !v.isNeg) then (.nan false, fl ||| flNV)
    else
      match infs with
      | v :: _ => (v, fl)
      | [] => (vs.foldl (fun a v => (a.add .ne v).1) .zero, fl)

/-- The value of a narrow group (R182, R183): sum and scales exact, rounded once; an exact zero is +0, and so is a group that lies
wholly in the padding, which reads no scale (R225) and keeps the flags of B's elements.  DESIGN CHOICE (log 46): the sum is multiplied by SA, SB, BA and BB
in this order, which decides whether NV is raised where a NaN scale stands beside an infinite and a zero factor. -/
def groupValue (g : List (MElem × MElem)) : Nat × Flags :=
  match g with
  | [] => (0, 0)
  | p :: _ =>
    if g.all fun q => q.1.pad then (0, g.foldl (fun f q => f ||| q.2.f) 0)
    else
    let (v, fl) := groupSum g
    let (v, fl) := [p.1.sc, p.2.sc, p.1.bd, p.2.bd].foldl (fun (a : Val × Flags) x =>
      let (w, f) := a.1.mul x
      (w, a.2 ||| f)) (v, fl)
    let (c, f) := fp32.ofVal .ne (if v.isZero then .zero else v)
    (c, fl ||| f)

/-- The accumulator of an element: an FP32 code, a pair, or an integer in 32 bits. -/
def mmaFold (cp : Bool) (acc x : Nat) : Nat × Flags :=
  if cp then
    let (p, f) := twoSumFold (pairLo' acc) (acc / 2 ^ 32) x
    (p.1 + p.2 * 2 ^ 32, f)
  else add32 acc x
where pairLo' (x : Nat) : Nat := x % 2 ^ 32

/-- Groups of 32 from k = 0 (R182, INT). -/
def intGroups : Nat → List (MElem × MElem) → List (List (MElem × MElem))
  | 0, _ => []
  | fuel + 1, l => if l.isEmpty then [] else l.take 32 :: intGroups fuel (l.drop 32)

/-- One integer group (R184). -/
def intFold (acc : Nat) (g : List (MElem × MElem)) : Nat × Flags :=
  let v : Int := signed 32 acc + g.foldl (fun a p => a + p.1.int * p.2.int) 0
  let nv : Flags := g.foldl (fun f p => f ||| p.1.f ||| p.2.f) 0
  if v < -(2 ^ 31 : Int) then (2 ^ 31, nv ||| flSV)
  else if (2 ^ 31 - 1 : Int) < v then (2 ^ 31 - 1, nv ||| flSV)
  else (unsignedOf 32 v, nv)

/-- MmaElement of R182 from the initial value. -/
def mmaElement (int cp narrow : Bool) (init : Nat) (l : List (MElem × MElem)) : Nat × Flags :=
  if int then
    (intGroups l.length l).foldl (fun (a : Nat × Flags) g =>
      let (r, f) := intFold a.1 g
      (r, a.2 ||| f)) (init, 0)
  else if narrow then
    (mmaGroups l).foldl (fun (a : Nat × Flags) g =>
      let (x, f) := groupValue g
      let (r, h) := mmaFold cp a.1 x
      (r, a.2 ||| f ||| h)) (init, 0)
  else
    l.foldl (fun (a : Nat × Flags) p =>
      let (u, f) := p.1.full
      let (v, g) := p.2.full
      let (x, h) := ne32 (u.mul v)
      let (r, i) := mmaFold cp a.1 x
      (r, a.2 ||| f ||| g ||| h ||| i)) (init, 0)

/-- Element (m, n) of tile rows in a layout (R175). -/
def tileElem (rows : List Row) (cp : Bool) (m n : Nat) : Nat :=
  if cp then laneOf (rows.getD (2 * m + n / 64) 0) 0 (n % 64) else laneOf (rows.getD m 0) 1 n

/-- The rows that hold a 128 x 128 result in a layout (R175). -/
def tileOfElems (cp : Bool) (e : List (List Nat)) : List Row :=
  let row (w : Nat) (l : List Nat) : Row := BitVec.ofNat 4096 (l.foldr (fun x a => x + a * 2 ^ w) 0)
  if cp then e.flatMap fun l => [row 64 (l.take 64), row 64 (l.drop 64)] else e.map (row 32)

/-- The result of an MMA. -/
def mmaResult (s : State) (core : Nat) (m : MOp) (o : MOps) (inp : List Row) : List Row × Flags :=
  let kc := mopKc m.instr m.descA m.descB
  let opA := s.operand core m.descA true false
  let opB := s.operand core m.descB false (mopTb m.instr m.panel)
  let (capB, kcB) := match m.panel with
    | some p => (p.bytes, fmtKc (Desc.fmt p.desc))
    | none => (m.capB, kc)
  let k := o.k.toNat
  let linesA := (List.range 128).map (opA.line m.capA kc k)
  let linesB := (List.range 128).map (opB.line capB kcB k)
  let narrow := 3 ≤ Desc.fmt m.descA && 3 ≤ Desc.fmt m.descB
  let out := linesA.zipIdx.map fun (la, i) => linesB.zipIdx.map fun (lb, j) =>
    mmaElement o.int o.cp narrow (if o.zi then 0 else tileElem inp o.cp i j) (la.zip lb)
  (tileOfElems o.cp (out.map fun l => l.map (·.1)), out.foldl (fun f l => l.foldl (fun f x => f ||| x.2) f) 0)

/-- The result of an MFOLD (R190). -/
def mfoldResult (o : MOps) (inp : List Row) : List Row × Flags :=
  let fmt := if o.it then bf16 else fp32
  let out := (List.range 128).map fun m => (List.range 128).map fun n => fmt.ofVal .ne (laneVal .ne 0 (tileElem inp true m n))
  let row (l : List Nat) : Row := BitVec.ofNat 4096 (l.foldr (fun x a => x + a * 2 ^ (if o.it then 16 else 32)) 0)
  (out.map fun l => row (l.map (·.1)), out.foldl (fun f l => l.foldl (fun f x => f ||| x.2) f) 0)

/-- The result of an MTRN (R190). -/
def mtrnResult (o : MOps) (inp : List Row) : List Row :=
  tileOfElems o.cp ((List.range 128).map fun m => (List.range 128).map fun n => tileElem inp o.cp n m)

/-- What a completed matrix instruction writes (R190): rows in the order of its tiles, and its flags. -/
def mopResult (s : State) (core : Nat) (m : MOp) : List Row × Flags :=
  let inp := m.input.flatMap fun x => x.2.list
  match m.instr with
  | .mma o => mmaResult s core m o inp
  | .mfold o => mfoldResult o inp
  | .mtrn o => (mtrnResult o inp, 0)
  | .mzero _ => (List.replicate (128 * m.tiles.length) 0, 0)
  | .mload _ => ((List.range 128).map fun r =>
      let b := SMap.get [] m.capA r
      rowOf ((List.range 512).map fun k => SMap.get 0 b k), 0)
  | _ => ([], 0)

/-- Write rows to tiles, whole (R188). -/
def Core.writeTiles (c : Core) (tiles : List Nat) (rows : List Row) : Core :=
  let idx := tiles.flatMap fun t => (List.range 128).map (128 * t + ·)
  (idx.zip rows).foldl (fun c (i, r) => c.setRow i r) c

/-- MATRIX_WRITE_COMPLETE (R188): rows, flags into FM, WCOL for the vector writes they replace, and the inputs that waited for them. -/
def execMatrixWriteComplete (core op : Nat) (s : State) : Host.Outcome State Fault Refusal :=
  if 768 ≤ core then .fault .noSuchUnit
  else
    let c := s.core core
    match c.mop op with
    | none => .next s
    | some m =>
      let (rows, flags) := if m.dead then ([], 0) else mopResult s core m
      let c := c.writeTiles m.tiles rows
      let c := if m.hit && !m.dead then c.collide else c
      let c := c.raise flags 8 m.addr m.stamp
      let mops := (c.mops.filter fun x => x.id != op).map fun x =>
        { x with input := x.input.map fun (t, i) => if i == .pending op then (t, .rows (c.tileRows t)) else (t, i) }
      .next (s.setCore core { c with mops := mops })

end Sys2Proof.Machine
end

