-- ==== Sys2Proof/Machine/Copies.lean ====
section
/-! DEFINITION. Copy descriptors (08, R197-R203) and the memory timetable's groups (13, R288-R292): sides, runs, beats, checks of a
captured block, and the conversion of elements. -/

namespace Sys2Proof.Machine

/-! Sides -/

/-- One side of a copy (R197): address word, format, band bit, strides of levels 1 to 3, displacement of the scale region, buffer byte. -/
structure Side where
  word : Nat
  fmt : Nat
  band : Bool
  str : List Int
  scb : Int
  buf : Nat
  deriving DecidableEq, Repr

def cpFmt (d : Desc) : Nat := Desc.field d 48 2
def cpSrc (d : Desc) : Side :=
  { word := Desc.field d 0 8, fmt := bitsOf (cpFmt d) 0 5, band := bitsOf (cpFmt d) 12 1 == 1,
    str := (List.range 3).map fun i => signed 32 (Desc.field d (24 + 4 * i) 4), scb := signed 24 (Desc.field d 58 3), buf := Desc.field d 50 1 }
def cpDst (d : Desc) : Side :=
  { word := Desc.field d 8 8, fmt := bitsOf (cpFmt d) 5 5, band := bitsOf (cpFmt d) 13 1 == 1,
    str := (List.range 3).map fun i => signed 32 (Desc.field d (36 + 4 * i) 4), scb := signed 24 (Desc.field d 61 3), buf := Desc.field d 51 1 }
def cpMode (d : Desc) : Rnd := rndOf (bitsOf (cpFmt d) 10 2)
def cpExt (d : Desc) (l : Nat) : Nat := Desc.field d (16 + 2 * l) 2
def cpDur (d : Desc) : Nat := Desc.field d 52 3
def cpTte (d : Desc) : Nat := Desc.field d 56 2
/-- Number of runs. -/
def cpRuns (d : Desc) : Nat := cpExt d 1 * cpExt d 2 * cpExt d 3

def Side.space (x : Side) : Nat := x.word / 2 ^ 61
def Side.bufValid (x : Side) : Bool := bitsOf x.buf 7 1 == 1
def Side.bufNo (x : Side) : Nat := bitsOf x.buf 0 6
def Side.banded (x : Side) : Bool := fmtBlock x.fmt = 8 || (3 ≤ x.fmt && x.fmt ≤ 11 && x.band)

/-- Displacement of run r: i1 fastest (R197). -/
def Side.run (x : Side) (d : Desc) (r : Nat) : Int :=
  (r % cpExt d 1 : Nat) * x.str.getD 0 0 + (r / cpExt d 1 % cpExt d 2 : Nat) * x.str.getD 1 0 +
    (r / (cpExt d 1 * cpExt d 2) : Nat) * x.str.getD 2 0

/-- Data bytes of a run. -/
def Side.runLen (x : Side) (d : Desc) : Nat := fmtBytes x.fmt (cpExt d 0)
/-- Block scales of a run (R199). -/
def Side.blocks (x : Side) (d : Desc) : Nat := if fmtBlock x.fmt = 0 then 0 else ceilDiv (cpExt d 0) (fmtBlock x.fmt)
/-- Displacement of the scale of block b of run r, and of the band scale of run r (R199). -/
def Side.scaleAt (x : Side) (d : Desc) (r b : Nat) : Int := x.scb + (r * x.blocks d + b : Nat)
def Side.bandScaleAt (x : Side) (d : Desc) (r : Nat) : Int := x.scb + (2 * ceilDiv (cpRuns d * x.blocks d) 2 + 2 * (r / 64) : Nat)

/-- Every byte of a side: (displacement, length), its scale region included. -/
def Side.bytes (x : Side) (d : Desc) : List (Int × Nat) :=
  ((List.range (cpRuns d)).map fun r => (x.run d r, x.runLen d)) ++
    (if x.blocks d = 0 then [] else [(x.scb, cpRuns d * x.blocks d)]) ++
    (if x.banded then [(x.bandScaleAt d 0, 2 * ceilDiv (cpRuns d) 64)] else [])

/-! Where a byte of a side lies (R198, R280) -/

/-- A byte's place: a slice, an address in another window, the coherent window, physical memory, nowhere (an out-of-range scratchpad
address), an absent translation with its reason and address, a page that is being moved. -/
inductive Place where
  | slice (a : Nat)
  | win (a : Nat)
  | coh (o : Nat)
  | phys (pa va : Nat)
  | out (a : Nat)
  | absent (reason va : Nat) (malformed : Bool)
  | moving (va : Nat)
  deriving DecidableEq, Repr

/-- A scratchpad address as a place; bits 31:16 of an offset in the coherent window are zero (R295). -/
def State.scratchPlace (s : State) (a : Nat) : Place :=
  if 2 ^ 40 ≤ a then .out a
  else if windowOf a = 0 then
    match coreOfAddr a with
    | none => .out a
    | some t => if a / 2 ^ 18 % 16 < 16 - (s.core t).lent then .slice a else .out a
  else if windowOf a = 255 then (if a % 2 ^ 32 < 2 ^ 16 then .coh (a % 2 ^ 32) else .out a)
  else .win a

/-- A write below offset 0x4000 of the coherent window is dropped as one out of range (R303, R341); need as in R275.  DEDUCED (log 46): also at a LAUNCH
register, which takes launch words from the host and from stores of cores only. -/
def Place.written (p : Place) (need : Nat) : Place :=
  match p with
  | .coh o => if 2 ≤ need && o < 2 ^ 14 then .out (255 * 2 ^ 32 + o) else p
  | _ => p

/-- What a command keeps of a side in its arguments: handle, its address, the place of its extent's entry. -/
structure SideArg where
  handle : Word
  va : Nat
  entry : Nat
  rewalk : Bool
  deriving DecidableEq, Repr

/-- The arguments of side i (0 source or target, 1 destination), and whether handles are walked afresh (R210). -/
def Cmd.side (k : Cmd) (i : Nat) : SideArg :=
  { handle := k.args.getD (3 * i) 0, va := (k.args.getD (3 * i + 1) 0).toNat, entry := (k.args.getD (3 * i + 2) 0).toNat,
    rewalk := k.args.getD 6 0 == 1 }

def Cmd.launch (s : State) (k : Cmd) : Launch :=
  match k.bind with
  | none => Launch.free
  | some b => s.launch b

/-- The place of the byte at a displacement from the base of an address word; need as in R275. -/
def State.place (s : State) (k : Cmd) (w : Nat) (x : SideArg) (disp : Int) (need : Nat) : Place :=
  match w / 2 ^ 61 with
  | 0 =>
    let a : Int := (w % 2 ^ 40 : Nat) + disp
    if a < 0 then .out (unsignedOf 40 a) else (s.scratchPlace a.toNat).written need
  | 1 =>
    let off : Int := (w % 2 ^ 48 : Nat) + disp
    let e := s.extentAt x.entry
    .phys (s.extentPa e off.toNat) (e.va + off.toNat)
  | _ =>
    let off : Int := (w % 2 ^ 48 : Nat) + disp
    let h := x.handle
    let va := unsignedOf 64 ((x.va : Int) + off)
    let p := handlePage h
    let asid := (k.launch s).asid
    if !x.rewalk && handleAbsent h then .absent (handleReason h) va false
    else if !x.rewalk && 0 ≤ (x.va % p : Nat) + off && (x.va % p : Nat) + off < (p : Int) then
      if (need % 2 = 1 && !h.getLsbD 57) || (2 ≤ need && !h.getLsbD 58) then .absent 1 va false
      else .phys (unsignedOf 52 ((handlePa h : Int) + off)) va
    else if s.moving asid va then .moving va
    else
      match s.walk asid va need with
      | .absent r m => .absent r va m
      | .torn _ => .absent 5 va false
      | .page _ e lv => .phys (pteAddr e lv va) va

/-- The slice address of a place, when it lies in a slice: near-tier memory does too (R270). -/
def Place.sliceAddr (p : Place) : Option Nat :=
  match p with
  | .slice a => some a
  | .phys pa _ => if isNear pa then some (pa - nearBase) else none
  | _ => none

/-- The address in the model's memory. -/
def Place.memAddr (p : Place) : Option Nat :=
  match p with
  | .slice a => some (nearBase + a)
  | .coh o => some (windowBase + o)
  | .phys pa _ => some pa
  | _ => none

def State.readPlace (s : State) (p : Place) : Byte :=
  match p with
  | .coh o => s.windowByte o
  | _ =>
    match p.memAddr with
    | some a => memByte s.mem a
    | none => 0

/-! Beats (R200) -/

/-- Elements of a beat. -/
def cpBeat (d : Desc) : Nat :=
  let w := Nat.max (fmtBits (cpSrc d).fmt) (fmtBits (cpDst d).fmt)
  4096 / w / 8 * 8

def cpBeatsPerRun (d : Desc) : Nat := ceilDiv (cpExt d 0) (cpBeat d)
def cpBeats (d : Desc) : Nat := cpRuns d * cpBeatsPerRun d
/-- Beat j: its run and its elements e0 to e1 - 1. -/
def cpBeatOf (d : Desc) (j : Nat) : Nat × Nat × Nat :=
  let b := cpBeatsPerRun d
  let e0 := j % b * cpBeat d
  (j / b, e0, Nat.min (e0 + cpBeat d) (cpExt d 0))

/-- The beat of element e of run r. -/
def cpBeatFor (d : Desc) (r e : Nat) : Nat := r * cpBeatsPerRun d + e / cpBeat d

/-- What the source of a beat reads: (map, key in it, displacement).  Data bytes stand in map 2r by their offset in run r; the scales that
beat j reads stand in map 2j + 1 by displacement. -/
def cpReads (d : Desc) (j : Nat) : List (Nat × Nat × Int) :=
  let x := cpSrc d
  let (r, e0, e1) := cpBeatOf d j
  let bits := fmtBits x.fmt
  let b0 := e0 * bits / 8
  let data := (List.range (ceilDiv (e1 * bits) 8 - b0)).map fun i => (2 * r, b0 + i, x.run d r + (b0 + i : Nat))
  let blk := fmtBlock x.fmt
  let scales : List Int :=
    (if blk = 0 then [] else (List.range ((e1 - 1) / blk - e0 / blk + 1)).map fun i => x.scaleAt d r (e0 / blk + i)) ++
      (if x.banded then [x.bandScaleAt d r, x.bandScaleAt d r + 1] else [])
  data ++ scales.map fun v => (2 * j + 1, unsignedOf 64 v, v)

/-- The value of element e of run r (R112, R199), from what the command has read. -/
def cpValue (d : Desc) (data : SMap (SMap Byte)) (r e : Nat) : Val × Flags :=
  let x := cpSrc d
  if x.space = 3 then (fp32.decode (x.word % 2 ^ 32), 0)
  else
    let run := SMap.get [] data (2 * r)
    let sc := SMap.get [] data (2 * cpBeatFor d r e + 1)
    let code := elemCode (fun i => SMap.get 0 run i) x.fmt e
    let v := (elemOf x.fmt).decode code
    let at_ (a : Int) : Nat := (SMap.get 0 sc (unsignedOf 64 a)).toNat
    let band : Val := if x.banded then bf16.decode (at_ (x.bandScaleAt d r) + 256 * at_ (x.bandScaleAt d r + 1)) else .fin false 1 0
    match fmtBlock x.fmt with
    | 0 => if x.banded then scaledVal v (.fin false 1 0) band else v
    | 8 => scaledVal v (e3m5 (at_ (x.scaleAt d r (e / 8)))) band
    | b => scaledVal v (e8m0 (at_ (x.scaleAt d r (e / b)))) band

/-- Elements e0 to e1 - 1 of run r as the destination stores them (R199): data bytes by displacement, scale bytes by displacement, flags. `band` is
the BF16 code of the destination's band scale; `bad` tells the elements whose source could not be read: no byte that holds a bit of them, or of a block they belong
to, is made (R293). -/
def cpEncode (d : Desc) (data : SMap (SMap Byte)) (band : Nat) (bad : Nat → Bool) (r e0 e1 : Nat) : List (Int × Byte) × List (Int × Byte) × Flags :=
  let x := cpDst d
  let mode := cpMode d
  let bits := fmtBits x.fmt
  let base := x.run d r + (e0 * bits / 8 : Nat)
  let blk := fmtBlock x.fmt
  let lanesOf (b : Nat) : List Nat := (List.range (Nat.min ((b + 1) * blk) (cpExt d 0) - b * blk)).map (b * blk + ·)
  let torn (e : Nat) : Bool := if blk = 0 then bad e else (lanesOf (e / blk)).any bad
  let place (codes : List Nat) : List (Int × Byte) :=
    ((packCodes x.fmt codes).zipIdx.filter fun b =>
      !(List.range (ceilDiv (8 * b.2 + 8) bits - 8 * b.2 / bits)).any fun i => torn (e0 + 8 * b.2 / bits + i)).map fun b => (base + (b.2 : Nat), b.1)
  let es := (List.range (e1 - e0)).map (e0 + ·)
  if blk = 0 then
    let out := es.map fun e =>
      let (v, f) := cpValue d data r e
      let (c, g) := if x.banded then bandedCode x.fmt mode band 0 v else (elemOf x.fmt).ofVal mode v
      (e, c, f ||| g)
    (place (out.map (·.2.1)), [], (out.filter fun o => !torn o.1).foldl (fun f o => f ||| o.2.2) 0)
  else
    let blocks := (List.range ((e1 - 1) / blk - e0 / blk + 1)).map (e0 / blk + ·)
    let out := blocks.map fun b =>
      let lanes := lanesOf b
      let vs : List (Val × Flags) := lanes.map fun e => cpValue d data r e
      let xs := vs.map (·.1)
      let (sc, codes, f) :=
        if blk = 8 then quantDL x.fmt (fun _ => mode) (bf16.decode band) xs else quantMX x.fmt (fun _ => mode) xs
      (b, sc, lanes.zip codes, vs.foldl (fun (g : Flags) (v : Val × Flags) => g ||| v.2) f)
    let codes := (out.flatMap fun o => o.2.2.1).filter fun c => decide (e0 ≤ c.1) && decide (c.1 < e1)
    let whole := out.filter fun o => !torn (o.1 * blk)
    let scales := (whole.filter fun o => decide (e0 ≤ o.1 * blk)).map fun o => (x.scaleAt d r o.1, BitVec.ofNat 8 o.2.1)
    (place (codes.map (·.2)), scales, whole.foldl (fun f o => f ||| o.2.2.2) 0)

/-! The memory timetable (R288-R292) -/

/-- The far-tier columns of a side: physical address of column q of its bytes in run order (R291). -/
def State.columnPa (s : State) (k : Cmd) (i : Nat) (x : Side) (q : Nat) : Nat :=
  let r := q * 64 / x.runLen k.block
  match s.place k x.word (k.side i) (x.run k.block r + (q * 64 % x.runLen k.block : Nat)) 0 with
  | .phys pa _ => pa
  | _ => 0

/-- The groups an entry asks for, from the clock cycle on which the command starts: (stack, pc, bank, act, col, columns, first column). -/
def groupsOf (core cmd start : Nat) (t : Timetable) (pa : Nat → Nat) : List HbmGroup :=
  t.items.map fun (col, n, actd, idx) =>
    let a := pa idx
    { core := core, cmd := cmd, stack := hbmStackOf a, pc := hbmPc a, bank := hbmBank a, act := start + col - actd, col := start + col, n := n }

/-- The rules of R291 on an entry for a side of `cols` columns: write tells the direction of the HBM side. -/
def ttOk (t : Timetable) (cols : Nat) (write : Bool) (pa : Nat → Nat) : Bool :=
  let last := t.items.foldl (fun m x => Nat.max m (x.1 + x.2.1 - 1)) 0
  t.words.all (fun w => decide (w < 2 ^ 64)) && decide ((t.words.headD 0) < 2 ^ 40) && !t.items.isEmpty &&
    (t.words.drop 1).all (fun w => bitsOf w 24 8 == 0) &&
    t.items.all (fun x => decide (14 ≤ x.2.2.1) && decide (x.2.2.1 ≤ x.1) && (!write || decide (40 ≤ x.1)) &&
      ((List.range x.2.1).all fun i => pa (x.2.2.2 + i) / 256 == pa x.2.2.2 / 256)) &&
    (t.items.zip (t.items.drop 1)).all (fun p => decide (p.1.1 ≤ p.2.1)) &&
    decide (last + (if write then 30 else 42) ≤ t.n) &&
    ((List.range cols).all fun q => (t.items.filter fun x => decide (x.2.2.2 ≤ q) && decide (q < x.2.2.2 + x.2.1)).length == 1) &&
    t.items.all (fun x => decide (x.2.2.2 + x.2.1 ≤ cols))

/-- Slot types by cycle (R288): row slot U; column slot U or Z. -/
def rowU (c : Nat) : Bool := c % 2176 % 8 == 7
def colUZ (c : Nat) : Bool :=
  let f := c % 2176
  f % 17 == 16 || (16 * (f / 17) + f % 17) % 8 == 7

/-- A bank's reserved windows (R289): 136b to 136b + 135, 136b + 1,088 to 136b + 1,223. -/
def reservedAt (bank c : Nat) : Bool :=
  let x := (c % 2176 + 2176 - 136 * bank % 2176) % 2176
  decide (x < 136) || (decide (1088 ≤ x) && decide (x < 1224))

/-- The last cycle on which a group's bank is busy (R290). -/
def HbmGroup.busyTo (g : HbmGroup) : Nat := Nat.max (g.col + g.n - 1 + 28) (g.act + 42)

def HbmGroup.samePc (g h : HbmGroup) : Bool := g.stack == h.stack && g.pc == h.pc

/-- The checks of R292 of one group against those accepted: the lowest DETAIL that applies. -/
def groupCheck (acc : List HbmGroup) (owned : Nat → Bool) (g : HbmGroup) : Option (BitVec 8) :=
  let cols := (List.range g.n).map (g.col + ·)
  if rowU g.act || acc.any (fun h => g.samePc h && h.act == g.act) then some 0x30
  else if cols.any colUZ || acc.any (fun h => g.samePc h && meets g.col g.n h.col h.n) then some 0x31
  else if (List.range (g.busyTo - g.act + 1)).any (fun i => reservedAt g.bank (g.act + i)) ||
      acc.any (fun h => g.samePc h && h.bank == g.bank && decide (g.act ≤ h.busyTo) && decide (h.act ≤ g.busyTo)) then some 0x32
  else if !owned g.stack then some 0x33 else none

/-- The groups of a command are accepted one after another, or the first check that fails stops it. -/
def acceptGroups (acc : List HbmGroup) (owned : Nat → Bool) : List HbmGroup → Except (BitVec 8) (List HbmGroup)
  | [] => .ok acc
  | g :: gs =>
    match groupCheck acc owned g with
    | some d => .error d
    | none => acceptGroups (acc ++ [g]) owned gs

/-! Checks of a captured copy block (R199-R203, R332) -/

def Cmd.isFill (k : Cmd) : Bool :=
  match k.instr with
  | .cfill _ => true
  | _ => false

/-- The group a CPYM names. -/
def Cmd.multi (k : Cmd) : Option Nat :=
  match k.instr with
  | .cpym o => some (o.low.extractLsb' 16 8).toNat
  | _ => none

/-- The cores that a copy's destination is written in: the members of a CPYM's group; else none. -/
def Cmd.members (s : State) (k : Cmd) : List Nat :=
  match k.multi with
  | some g => (SMap.get (0, []) s.groups g).2
  | none => []

/-- A window-0 address moved to the same offset of core m's slice. -/
def toSlice (m a : Nat) : Nat := sliceBase m + a % 2 ^ 22

/-- A side in an extent that is far tier, with its direction. -/
def Side.far (x : Side) (s : State) (a : SideArg) : Bool := x.space = 1 && (s.extentAt a.entry).tier == 0

/-- Reserved bits of an address word (R198). -/
def wordReserved (w : Nat) : Bool :=
  match w / 2 ^ 61 with
  | 0 => bitsOf w 40 21 ≠ 0
  | 1 => bitsOf w 54 7 ≠ 0
  | 2 => bitsOf w 51 10 ≠ 0
  | 3 => bitsOf w 32 29 ≠ 0
  | _ => true

/-- Range number `no` of the task that the command belongs to was declared with NEARCORE (R279, R280). -/
def State.extentNear (s : State) (k : Cmd) (no : Nat) : Bool :=
  let l := k.launch s
  match s.imageAt l.image, l.taskOf k.core (s.core k.core).phaseno.toNat with
  | some i, some (_, t) =>
    match (i.taskRanges t)[no]? with
    | some r => r.hint == 2 && r.near != 0xFFFF
    | none => false
  | _, _ => false

/-- An extent side breaks its table (R199, R280): absent, the wrong direction, past its length; a timed side in host memory, in small pages,
in an HBM stack not owned, or near without NEARCORE. -/
def State.extentBad (s : State) (k : Cmd) (x : Side) (a : SideArg) (write : Bool) (bytes : List (Int × Nat)) : Bool :=
  let e := s.extentAt a.entry
  let l := k.launch s
  let off : Nat := x.word % 2 ^ 48
  a.entry = 0 || !e.valid || (if write then !(e.mode == 2 || e.mode == 3) else !(e.mode == 1 || e.mode == 3)) ||
    bytes.any (fun b => (off : Int) + b.1 < 0 || (e.len : Int) < (off : Int) + b.1 + (b.2 : Nat)) ||
    (k.timed && (e.tier == 2 || (e.tier == 0 && e.psize == 0) || (e.tier == 1 && !s.extentNear k (bitsOf x.word 48 6)) ||
      (e.tier == 0 && bytes.any fun b => ((List.range (ceilDiv b.2 64)).map (64 * ·) ++ [b.2 - 1]).any fun i =>
        !l.hbm.testBit (hbmStackOf (s.extentPa e ((off : Int) + b.1 + (i : Nat)).toNat)))))

/-- The buffer rule of R199 on a side of window 0: inside its named buffer, or in no declared buffer.  `mem` lists the cores written. -/
def State.bufBad (s : State) (x : Side) (mem : List Nat) (bytes : List (Int × Nat)) : Bool :=
  let base := x.word % 2 ^ 40
  let inWin0 := x.space = 0 && windowOf base = 0
  if !inWin0 then x.bufValid
  else
    let owners := if mem.isEmpty then [(coreOfAddr base).getD 0] else mem
    owners.any fun m =>
      let lo : Nat := if mem.isEmpty then base else toSlice m base
      if x.bufValid then
        let b := (s.core m).buf x.bufNo
        let first := sliceBase m + b.offset
        !b.decl || bytes.any fun y => (lo : Int) + y.1 < first || ((first + 64 * b.size : Nat) : Int) < (lo : Int) + y.1 + (y.2 : Nat)
      else bytes.any fun y =>
        let a := unsignedOf 40 ((lo : Int) + y.1)
        match coreOfAddr a with
        | none => false
        | some t => (s.core t).bufs.any fun kb => underRun t kb.2 (a, y.2)

/-- Row-load latency to the farthest of a list of slices (R200). -/
def State.farthest (s : State) (n : Nat) (ts : List Nat) : Nat := ts.foldl (fun m t => Nat.max m (s.rowLat n t)) 0

/-- The slices that the bytes of a side touch. -/
def State.sideSlices (s : State) (k : Cmd) (i : Nat) (x : Side) : List Nat :=
  ((x.bytes k.block).flatMap fun b => ((List.range (ceilDiv b.2 4096)).map (4096 * ·) ++ [b.2 - 1]).filterMap fun o =>
    ((s.place k x.word (k.side i) (b.1 + (o : Nat)) 0).sliceAddr).bind coreOfAddr).eraseDups

/-- The slices a command writes: those of its destination, or of every member of its group. -/
def State.dstSlices (s : State) (k : Cmd) : List Nat := if k.multi.isSome then k.members s else s.sideSlices k 1 (cpDst k.block)

/-- W of R200, R202 and R203. -/
def State.copyW (s : State) (k : Cmd) : Nat :=
  if k.isFill then 2
  else if k.multi.isSome then s.farthest k.core (k.members s) + 2
  else s.farthest k.core (s.sideSlices k 0 (cpSrc k.block)) + 2

/-- Beats come every second cycle when a side lies in a slice whose bus runs at half width (R242). -/
def State.copyGap (s : State) (k : Cmd) : Nat :=
  if ((if k.isFill then [] else s.sideSlices k 0 (cpSrc k.block)) ++ s.dstSlices k).any s.half then 2 else 1

/-- The HBM side of a command: its index and side (source 0, destination 1). -/
def State.hbmSide (s : State) (k : Cmd) : Option (Nat × Side) :=
  let x := cpSrc k.block
  let y := cpDst k.block
  if !k.timed then none
  else if !k.isFill && x.far s (k.side 0) then some (0, x)
  else if y.far s (k.side 1) then some (1, y)
  else none

def State.ttOf (s : State) (k : Cmd) (e : Nat) : Option Timetable := (s.imageAt (k.launch s).image).bind fun i => i.timetable e

/-- The descriptor is invalid (R199, R200, R202, R203, R291): detail 0x10. -/
def State.copyInvalid (s : State) (k : Cmd) : Bool :=
  let d := k.block
  let x := cpSrc d
  let y := cpDst d
  let fill := k.isFill
  let rd := if fill then [] else x.bytes d
  let wr := y.bytes d
  let srcWin := windowOf (x.word % 2 ^ 40)
  let dstWin := windowOf (y.word % 2 ^ 40)
  wordReserved x.word || wordReserved y.word || bitsOf (cpFmt d) 14 2 ≠ 0 || Desc.field d 55 1 ≠ 0 || bitsOf y.buf 6 1 ≠ 0 ||
    decide (20 ≤ x.fmt) || decide (20 ≤ y.fmt) || (List.range 4).any (fun l => cpExt d l == 0) ||
    cpExt d 0 * fmtBits x.fmt % 8 ≠ 0 || cpExt d 0 * fmtBits y.fmt % 8 ≠ 0 ||
    y.space = 3 || (x.space = 3) != fill || (fill && x.fmt ≠ 0) ||
    (k.timed && (x.space = 2 || y.space = 2)) ||
    (x.space = 0 && (if k.timed then srcWin ≠ 0 else srcWin ≠ 0 && srcWin ≠ 255)) ||
    (y.space = 0 && k.timed && dstWin ≠ 0) ||
    (k.multi.isSome && (y.space ≠ 0 || (SMap.get (0, []) s.groups ((k.multi).getD 0)).1 = 0)) ||
    (!fill && x.space = 1 && s.extentBad k x (k.side 0) false rd) || (y.space = 1 && s.extentBad k y (k.side 1) true wr) ||
    (!fill && s.bufBad x [] rd) || s.bufBad y (k.members s) wr ||
    (!k.timed && cpDur d ≠ 0) ||
    (match s.hbmSide k with
      | none => cpTte d ≠ 0 || (k.timed && decide (cpDur d < s.copyGap k * cpBeats d + s.copyW k + 2))
      | some (i, z) =>
        let other := if i = 0 then y.far s (k.side 1) else false
        let len := z.runLen d
        other || len % 64 ≠ 0 || len = 0 ||
          (List.range (cpRuns d)).any (fun r => s.columnPa k i z (r * len / 64) % 64 ≠ 0) ||
          (match s.ttOf k (cpTte d) with
            | none => true
            | some t => cpDur d ≠ t.n || !ttOk t (cpRuns d * len / 64) (i == 1) (s.columnPa k i z)))

/-- A scratchpad side that the access map refuses (R332). -/
def State.sideRefused (s : State) (n : Nat) (ts : List Nat) (write : Bool) : Bool := ts.any fun t => (s.mapRefusal n t write).isSome

/-- Bytes, each by its virtual address and, where it is mapped, its physical one, that meet another task's declared range of the phase: a write of any, a read
of a writable one (R332). -/
def State.phaseRefused (s : State) (n : Nat) (bytes : List (Nat × Option Nat)) (write : Bool) : Bool :=
  match s.launchOf n with
  | none => false
  | some l =>
    let phase := (s.core n).phaseno.toNat
    let mine := (l.taskOf n phase).map (·.1)
    l.pins.any fun p => p.phase == phase && some p.task != mine && (write || 2 ≤ p.mode) && bytes.any fun b =>
      meets b.1 1 (p.va + (p.lo - p.pa)) p.len || b.2.any fun a => meets a 1 p.lo p.len

/-- An x register that the word names holds no valid result (R211). -/
def State.handleInvalid (s : State) (n w : Nat) : Bool := w / 2 ^ 61 = 2 && !((s.core n).xreg (BitVec.ofNat 3 (bitsOf w 48 3))).valid

/-- A place that a handle gives, as R332 looks at it. -/
def Place.mapped : Place → Option (Nat × Option Nat)
  | .phys pa va => some (va, some pa)
  | .absent _ va _ | .moving va => some (va, none)
  | .slice _ | .win _ | .coh _ | .out _ => none

/-- The bytes of a side that names a handle (R332). -/
def State.handleBytes (s : State) (k : Cmd) (i : Nat) (x : Side) : List (Nat × Option Nat) :=
  if x.space ≠ 2 then []
  else (x.bytes k.block).flatMap fun b => (List.range b.2).filterMap fun o => (s.place k x.word (k.side i) (b.1 + (o : Nat)) 0).mapped

/-- A side of a copy or fill that names a handle touches another task's declared range (R332). -/
def State.handlesRefused (s : State) (k : Cmd) : Bool :=
  (!k.isFill && s.phaseRefused k.core (s.handleBytes k 0 (cpSrc k.block)) false) || s.phaseRefused k.core (s.handleBytes k 1 (cpDst k.block)) true

/-- DETAIL of the memory-model check of a captured copy, when it fails (R332); an x register without a result is R211's fault first. -/
def State.copyRefused (s : State) (k : Cmd) : Option (BitVec 8) :=
  let x := cpSrc k.block
  let y := cpDst k.block
  let w0 (z : Side) : Bool := z.space = 0 && windowOf (z.word % 2 ^ 40) = 0
  let early := (!k.isFill && s.handleInvalid k.core x.word) || s.handleInvalid k.core y.word
  if (!k.isFill && w0 x && s.sideRefused k.core (s.sideSlices k 0 x) false) || (w0 y && s.sideRefused k.core (s.dstSlices k) true) then some 0x04
  else if !early && s.handlesRefused k then some 0x05
  else none

end Sys2Proof.Machine
end

