-- ==== Sys2Proof/Machine/Engines.lean ====
section
/-! DEFINITION. The E slot (08): issue of every engine command (R192-R196, R204), timed and untimed copies, memory atomics, the
routing engine, and the columns of timed HBM groups (13, R290). -/

namespace Sys2Proof.Machine

/-! Issue -/

/-- The untimed commands of a context that have issued and not completed (R195). -/
def State.queued (s : State) (n : Nat) (ctx : BitVec 3) : Nat :=
  s.cmds.countP fun k => k.core == n && k.ctx == ctx.toNat && !k.timed && (match k.instr with
    | .sys _ _ => false
    | _ => true)

/-- An engine command (R192-R196, R204): its block's address and checks, T_S, the queue; then it enters its context, and its block is captured
at the bank cycle.  A timed command of a PHASE's or RESYNC's own bundle that could never start is that instruction's 0x12 (R196).  `extra` are the checks of its own, on the block as it stands at issue, and `after` its effects at issue. -/
def engineOp (instr : Instr) (o : EOps) (timed : Bool) (writing : State → Desc → Bool) (isEffect : Desc → Bool) (extra : State → Desc → Except Trap Unit)
    (after : Desc → State → State) : Op := fun pre cur =>
  let n := pre.ix.core
  let a := (pre.cur.sreg o.sd).toNat
  if a % 64 ≠ 0 || 2 ^ 32 ≤ a || coreOfAddr a ≠ some n then .error (trapAt pre 0x02 0)
  else
    let r : Req := ⟨a, 64, false, none⟩
    let d := descOf (pre.readReq r)
    match extra pre d with
    | .error t => .error t
    | .ok _ =>
      match pre.checkReq r (List.range 64) with
      | .error t => .error t
      | .ok oor =>
        let t0 := pre.cur.tcyc + 8
        let delta := (o.start.toNat + 2 ^ 24 - t0 % 2 ^ 24) % 2 ^ 24
        if timed && 2 ^ 23 ≤ delta then .error (trapAt pre 0x15 0)
        else if timed && cur.cur.run == .held && decide (((cur.cur.hold.map (·.arrival)).getD 0) ≤ t0 + delta) then
          .error { trapAt pre 0x12 0 with slot := 0 }
        else if !timed && 64 ≤ pre.queued n o.ctx then .error (trapAt pre 0x12 0)
        else
          let s := cur.recordOor false oor
          let (k, s) := s.newCmd instr o.ctx.toNat timed (writing pre d) [0, 0, 0, 0, 0, 0, 0, BitVec.ofNat 64 a]
          let s := s.setCmd { k with tS := t0 + delta }
          let s := if isEffect d then s.effect else s
          let cycle := pre.clock + pre.bankLat n n
          let banks := pre.reqBanks r
          let s := if banks.isEmpty then s
            else s.addAcc
              { op := k.id, kind := .block, core := n, slot := pre.ix.slot, addr := pre.ix.addr, issued := pre.clock, stamp := pre.cur.tcyc,
                cycle := cycle, target := n, banks := banks, units := 1, write := false, hops := [], remote := false,
                bytes := (pre.liveBytes r (List.range 64)).map (·.2), atom := false }
          .ok (after d (s.schedule cycle (if timed then prioCapture else prioCaptureUntimed) (.blockCapture n k.id)))

/-- A command without checks or effects of its own at issue. -/
def plainOp (instr : Instr) (o : EOps) (timed writing eff : Bool) : Op :=
  engineOp instr o timed (fun _ _ => writing) (fun _ => eff) (fun _ _ => .ok ()) (fun _ s => s)

/-- CPYT (R200). -/
def opCpyt (o : EOps) : Op := plainOp (.cpyt o) o true false false
def execCpyt (o : EOps) (s : State) : Host.Outcome State Fault Refusal := runOp (opCpyt o) s

/-- CPYM (R202). -/
def opCpym (o : EOps) : Op := plainOp (.cpym o) o true false false
def execCpym (o : EOps) (s : State) : Host.Outcome State Fault Refusal := runOp (opCpym o) s

/-- The buffer a side names with VALID set, in the core that owns the slice of its base (R199). -/
def Side.namedBuf (x : Side) : Option (Nat × Nat) :=
  let a := x.word % 2 ^ 40
  if x.space = 0 && windowOf a = 0 && x.bufValid then (coreOfAddr a).map fun t => (t, x.bufNo) else none

/-- The state of a named buffer is not st. -/
def State.bufNot (s : State) (b : Option (Nat × Nat)) (st : BufState) : Bool :=
  match b with
  | none => false
  | some (t, i) =>
    let e := (s.core t).buf i
    e.decl && e.st != st

/-- An engine changes a named buffer's state (R147, R201, R204). -/
def State.engineBuf (s : State) (b : Option (Nat × Nat)) (st : BufState) (fkind : Nat) (filler : Nat) (held : Bool) : State :=
  match b with
  | none => s
  | some (t, i) => if ((s.core t).buf i).decl then s.addBuf true t i st (BitVec.ofNat 4 fkind) filler held else s

/-- The source state AFTER names (R197). -/
def Side.after (x : Side) : BufState := if bitsOf x.buf 6 1 = 1 then .full else .empty

/-- An untimed copy or fill whose destination is host memory writes none of the device's (R334): a host-tier extent, or a handle of tier 2. -/
def State.hostDst (s : State) (d : Desc) : Bool :=
  let w := (cpDst d).word
  let n := s.ix.core
  match w / 2 ^ 61 with
  | 1 => ((s.extentEntry n (bitsOf w 48 6)).map fun e => (s.extentAt e).tier) == some 2
  | 2 =>
    let x := (s.core n).xreg (BitVec.ofNat 3 (bitsOf w 48 3))
    x.valid && !handleAbsent x.val && bitsOf x.val.toNat 55 2 == 2
  | _ => false

/-- An untimed copy or fill checks and changes its buffers at issue (R204): full to draining, empty to filling, both held. -/
def untimedCopy (instr : Instr) (o : EOps) (fill : Bool) : Op :=
  engineOp instr o false (fun pre d => !pre.hostDst d) (fun _ => !fill)
    (fun pre d =>
      let src := if fill then none else (cpSrc d).namedBuf
      if pre.bufNot src .full || pre.bufNot (cpDst d).namedBuf .empty then .error (trapAt pre 0x05 0) else .ok ())
    (fun d s =>
      let src := if fill then none else (cpSrc d).namedBuf
      (s.engineBuf src .draining 0 0 true).engineBuf (cpDst d).namedBuf .filling (2 + o.ctx.toNat) s.ix.core true)

/-- CPYU (R204): an effect. -/
def opCpyu (o : EOps) : Op := untimedCopy (.cpyu o) o false
def execCpyu (o : EOps) (s : State) : Host.Outcome State Fault Refusal := runOp (opCpyu o) s

/-- CFILL and CFILL.u (R203). -/
def opCfill (o : EOps) : Op := if o.low.getLsbD 0 then untimedCopy (.cfill o) o true else plainOp (.cfill o) o true false false
def execCfill (o : EOps) (s : State) : Host.Outcome State Fault Refusal := runOp (opCfill o) s

/-- CSEAL (R205). -/
def opCseal (o : EOps) : Op := fun pre cur => .ok (cur.closeBatch pre.ix.core o.ctx)
def execCseal (o : EOps) (s : State) : Host.Outcome State Fault Refusal := runOp (opCseal o) s

/-- AMO and AMOF (R215): effects; an image marked deterministic forbids untimed floating-point sums (R216). -/
def atomicOp (instr : Instr) (o : EOps) : Op :=
  let timed := o.low.getLsbD 18
  let code := (o.low.extractLsb' 20 4).toNat
  engineOp instr o timed (fun _ _ => true) (fun _ => true)
    (fun pre _ =>
      let det := match pre.imageOf pre.ix.core with
        | some i => i.determ
        | none => false
      if !timed && det && (code = 2 || code = 3) then .error (trapAt pre 0x02 0x11) else .ok ())
    (fun _ s => s)

/-- AMO (R215). -/
def opAmo (o : EOps) : Op := atomicOp (.amo o) o
def execAmo (o : EOps) (s : State) : Host.Outcome State Fault Refusal := runOp (opAmo o) s

/-- AMOF (R215). -/
def opAmof (o : EOps) : Op := atomicOp (.amof o) o
def execAmof (o : EOps) (s : State) : Host.Outcome State Fault Refusal := runOp (opAmof o) s

/-- RTOPK (R213). -/
def opRtopk (o : EOps) : Op := plainOp (.rtopk o) o true false false
def execRtopk (o : EOps) (s : State) : Host.Outcome State Fault Refusal := runOp (opRtopk o) s

/-- RCAP (R214). -/
def opRcap (o : EOps) : Op := plainOp (.rcap o) o true false false
def execRcap (o : EOps) (s : State) : Host.Outcome State Fault Refusal := runOp (opRcap o) s

/-- RDISP (R214). -/
def opRdisp (o : EOps) : Op := plainOp (.rdisp o) o true false false
def execRdisp (o : EOps) (s : State) : Host.Outcome State Fault Refusal := runOp (opRdisp o) s

/-- TLIFE (R217). -/
def opTlife (o : EOps) : Op := plainOp (.tlife o) o false true false
def execTlife (o : EOps) (s : State) : Host.Outcome State Fault Refusal := runOp (opTlife o) s

/-- TDROP (R217). -/
def opTdrop (o : EOps) : Op := plainOp (.tdrop o) o false true false
def execTdrop (o : EOps) (s : State) : Host.Outcome State Fault Refusal := runOp (opTdrop o) s

/-- FSEND (R372, R374): an effect when it reduces at the target.  DESIGN CHOICE (log 46): whether it does is read from its block as memory stands at issue
(R62), though the block is captured later. -/
def opFsend (o : EOps) : Op :=
  engineOp (.fsend o) o false (fun _ _ => true) (fun d => Desc.field d 18 1 ≠ 0) (fun _ _ => .ok ()) (fun _ s => s)
def execFsend (o : EOps) (s : State) : Host.Outcome State Fault Refusal := runOp (opFsend o) s

/-- FRDC (R372, R377): an effect. -/
def opFrdc (o : EOps) : Op := plainOp (.frdc o) o false true true
def execFrdc (o : EOps) (s : State) : Host.Outcome State Fault Refusal := runOp (opFrdc o) s

/-- FAG (R372, R378). -/
def opFag (o : EOps) : Op := plainOp (.fag o) o false true false
def execFag (o : EOps) (s : State) : Host.Outcome State Fault Refusal := runOp (opFag o) s

/-- FA2A (R372, R378). -/
def opFa2a (o : EOps) : Op := plainOp (.fa2a o) o false true false
def execFa2a (o : EOps) (s : State) : Host.Outcome State Fault Refusal := runOp (opFa2a o) s

/-- JRNL (R391): an effect. -/
def opJrnl (o : EOps) : Op := plainOp (.jrnl o) o false false true
def execJrnl (o : EOps) (s : State) : Host.Outcome State Fault Refusal := runOp (opJrnl o) s

/-- EMIT (R391): an effect. -/
def opEmit (o : EOps) : Op := plainOp (.emit o) o false false true
def execEmit (o : EOps) (s : State) : Host.Outcome State Fault Refusal := runOp (opEmit o) s

/-- JTRUNC (R391). -/
def opJtrunc (o : EOps) : Op := plainOp (.jtrunc o) o false false false
def execJtrunc (o : EOps) (s : State) : Host.Outcome State Fault Refusal := runOp (opJtrunc o) s

/-- HFLUSH (R297). -/
def opHflush (o : EOps) : Op := plainOp (.hflush o) o false false false
def execHflush (o : EOps) (s : State) : Host.Outcome State Fault Refusal := runOp (opHflush o) s

/-- HNOTE (R297). -/
def opHnote (o : EOps) : Op := plainOp (.hnote o) o false false false
def execHnote (o : EOps) (s : State) : Host.Outcome State Fault Refusal := runOp (opHnote o) s

/-! What every command shares after its issue -/

/-- The address of a command's block. -/
def Cmd.blockAddr (k : Cmd) : Nat := (k.args.getD 7 0).toNat

/-- A command that has no effect leaves its batch. -/
def State.leaveCmd (s : State) (k : Cmd) : State :=
  let s := { s with hbmGroups := s.hbmGroups.filter fun g => g.cmd != k.id }
  if k.timed then s.dropCmd k.id else s.finishCmd { k with flags := 0, status := 0, detail := 0, value := 0 }

/-- A command found faulty after issue (R194, R195, R332): it has no effect, and leaves its batch. -/
def State.failCmd (s : State) (k : Cmd) (cause detail : BitVec 8) : State := (s.leaveCmd k).lateFault k.core cause detail 9 k.addr k.issued

/-- The first out-of-range byte of an engine's access (R143): OORREC with SLOT 9, or 0x07 as well in strict mode.  DESIGN CHOICE (log 46): TSTAMP is TCYC on the cycle
on which the engine makes the access, since R143's "issue" does not say whether the access's or the command's. -/
def State.engineOor (s : State) (k : Cmd) (a : Nat) (write : Bool) : State :=
  let s := s.modCore k.core fun c => if c.oorrec.getLsbD 41 then c else { c with oorrec := oorWord a write 9 c.tcyc }
  if s.strict k.core then s.lateFault k.core 0x07 0 9 k.addr k.issued else s

/-- A scratchpad byte that an engine can reach in the slices (R143, R269). -/
def State.inSlice (s : State) (a : Nat) : Bool := match s.scratchPlace a with
  | .slice _ => true
  | _ => false

/-- Bytes of the slices read for a command outside the bank agenda: out-of-range ones read 0 (R143); none where an access fails (R237-R241). -/
def State.engineRead (s : State) (k : Cmd) (addrs : List Nat) : Option (List Byte) × State :=
  let s := match addrs.find? fun a => !s.inSlice a with
    | some a => s.engineOor k a false
    | none => s
  let (lost, s) := s.engineServe k false (addrs.filter s.inSlice)
  (if lost.isEmpty then some (addrs.map fun a => if s.inSlice a then s.nearByte a else 0) else none, s)

/-- Bytes written to the slices for a command outside the bank agenda: those out of range or not transferred are not written. -/
def State.engineWrite (s : State) (k : Cmd) (data : List (Nat × Byte)) : State :=
  let s := match data.find? fun b => !s.inSlice b.1 with
    | some b => s.engineOor k b.1 true
    | none => s
  let data := data.filter fun b => s.inSlice b.1
  let (lost, s) := s.engineServe k true (data.map (·.1))
  s.addMemNow ((data.filter fun b => !lost.contains b.1).map fun b => (nearBase + b.1, b.2))

/-- A timed command ends: its flags, and its timed record (R208). -/
def State.finishTimed (s : State) (k : Cmd) : State :=
  (s.modSaved k.core k.bind fun c =>
    let r := ctxNo k.ctx
    c.setCtx r { c.ctxAt r with timed := recordWord k.status k.detail true false k.value }).finishCmd k

/-- The next free delay of an untimed operation, at least 1 cycle (R328). -/
def State.freeDelay (s : State) : Nat × State :=
  let (d, s) := s.freeNat
  (d + 1, s)

/-- An untimed operation goes on after a delay that the device does not fix. -/
def State.later (s : State) (k : Cmd) : State :=
  let (d, s) := s.freeDelay
  s.schedule (s.clock + d) prioComplete (.untimedComplete k.id)

/-- Bytes of an untimed write: each becomes visible at a free cycle from now until cycle t (R328). -/
def State.addUntimed (s : State) (t op : Nat) (data : List (Nat × Byte)) : State :=
  data.foldl (fun (s : State) (x : Nat × Byte) =>
    let (d, s) := s.freeNat
    let vis := s.clock + d % (t - s.clock + 1)
    s.addMem vis vis op [x]) s

/-- The handle and extent that an address word names (R198, R209, R280). -/
def State.sideArgs (s : State) (n w : Nat) : List Word :=
  match w / 2 ^ 61 with
  | 1 => [0, 0, BitVec.ofNat 64 ((s.extentEntry n (bitsOf w 48 6)).getD 0)]
  | 2 =>
    let x := (s.core n).xreg (BitVec.ofNat 3 (bitsOf w 48 3))
    [x.val, x.va, 0]
  | _ => [0, 0, 0]

/-- A command with its block captured and the arguments of its address words. -/
def State.withBlock (s : State) (k : Cmd) (d : Desc) (w0 w1 : Nat) : Cmd :=
  { k with block := d, stage := .captured,
           args := s.sideArgs k.core w0 ++ s.sideArgs k.core w1 ++ [0, BitVec.ofNat 64 k.blockAddr] }

/-- The name of the scratchpad access that goes with column q of a timed copy to or from HBM. -/
def Cmd.colOp (k : Cmd) (q : Nat) : Nat := k.base + 2 * cpBeats k.block + 2 + q

/-- The clock cycle on which a timed command starts. -/
def State.startClock (s : State) (k : Cmd) : Nat := s.clock + (k.tS - (s.core k.core).tcyc)

/-! Copies -/

/-- A timed group reads a word that cannot be corrected (R293): a fault record, and the launch ends with STATUS 8. -/
def State.hbmUncorrectable (s : State) (k : Cmd) (pa : Nat) : State :=
  let s := s.hbmLog pa true
  let seq := (s.mmb.frHead + s.devFaults.countP fun f => f.seq.isNone) % 2 ^ 32
  let s := s.postFault ⟨none, 3, 5, (k.launch s).asid, 1, pa, k.core, k.ctx, k.bind.getD 0, 0⟩
  let s := match k.bind with
    | none => s
    | some b => s.modLaunch b fun l => if l.ending.isSome then l
        else { l with ending := some ⟨8, frecWord 0x20 0x40 9 ((s.core k.core).region.kind == RegionKind.sealed) k.addr, k.core, seq, (s.core k.core).tcyc⟩ }
  s.lateFault k.core 0x20 0x40 9 k.addr k.issued

/-- The accesses of a beat or column: one for each slice that its bytes lie in (R200, R236, R261). -/
def State.copyAccs (s : State) (k : Cmd) (op cycle : Nat) (write : Bool) (addrs : List Nat) : State :=
  let ts := (addrs.filterMap coreOfAddr).eraseDups
  ts.foldl (fun (s : State) (t : Nat) =>
    let mine := addrs.filter fun a => coreOfAddr a == some t
    s.addAcc
      { op := op, kind := .copy, core := k.core, slot := 9, addr := k.addr, issued := k.issued,
        stamp := (s.core k.core).tcyc + k.issued - s.clock, cycle := cycle, target := t,
        banks := (mine.map fun a => a / 2 ^ 18 % 16).eraseDups, units := 1, write := write, hops := [], remote := t != k.core,
        bytes := mine, atom := false }) s

/-- The links of an engine's access to a remote slice (R261), where their cycles have not passed. -/
def State.copyHops (s : State) (k : Cmd) (op claim : Nat) (ts : List Nat) : State :=
  (ts.filter (· != k.core)).foldl (fun (s : State) (t : Nat) =>
    let issue := claim - s.bankLat k.core t
    let hops := (routeLinks k.core t issue).filter fun h => decide (s.clock ≤ h.1)
    if hops.isEmpty then s
    else s.addAcc
      { op := op, kind := .copy, core := k.core, slot := 9, addr := k.addr, issued := k.issued, stamp := (s.core k.core).tcyc + k.issued - s.clock,
        cycle := claim, target := t, banks := [], units := 0, write := false, hops := hops, remote := false, bytes := [], atom := false }) s

/-- The destinations of a copy: its own, or one in the slice of every member of a CPYM's group (R202). -/
def State.dstTargets (s : State) (k : Cmd) : List (Option Nat) := if k.multi.isSome then (k.members s).map some else [none]

/-- The place of a destination byte; need as in R275. -/
def State.dstPlace (s : State) (k : Cmd) (m : Option Nat) (disp : Int) (need : Nat) : Place :=
  let y := cpDst k.block
  match m with
  | some m => s.scratchPlace (unsignedOf 40 ((toSlice m (y.word % 2 ^ 40) : Nat) + disp))
  | none => s.place k y.word (k.side 1) disp need

/-- The displacements that elements e0 to e1 - 1 of run r take at their destination: data, and the scales of the blocks that begin there. -/
def cpWritesOf (d : Desc) (r e0 e1 : Nat) : List Int :=
  let y := cpDst d
  let b0 := e0 * fmtBits y.fmt / 8
  let blk := fmtBlock y.fmt
  let first := ceilDiv e0 blk
  (List.range (ceilDiv (e1 * fmtBits y.fmt) 8 - b0)).map (fun i => y.run d r + (b0 + i : Nat)) ++
    (if blk = 0 then [] else (List.range (ceilDiv e1 blk - first)).map fun i => y.scaleAt d r (first + i))

/-- Those that beat j writes. -/
def cpWrites (d : Desc) (j : Nat) : List Int :=
  let (r, e0, e1) := cpBeatOf d j
  cpWritesOf d r e0 e1

/-- The slices that beat j's bytes touch at its source or at its destination, scales with them (R200, R261). -/
def State.beatSlices (s : State) (k : Cmd) (j : Nat) (dst : Bool) : List Nat :=
  let d := k.block
  let ps := if dst then (s.dstTargets k).flatMap fun m => (cpWrites d j).map fun v => s.dstPlace k m v 0
    else (cpReads d j).map fun q => s.place k (cpSrc d).word (k.side 0) q.2.2 0
  (ps.filterMap fun p => p.sliceAddr.bind coreOfAddr).eraseDups

/-- The elements whose stored form a span of bytes of a run's destination or source needs: whole bytes on both sides and whole blocks. -/
def unitRange (d : Desc) (fmt b0 b1 : Nat) : Nat × Nat :=
  let u := Nat.max 8 (fmtBlock (cpDst d).fmt)
  let bits := fmtBits fmt
  (b0 * 8 / bits / u * u, Nat.min (ceilDiv (ceilDiv (b1 * 8) bits) u * u) (cpExt d 0))

/-- The reads of elements e0 to e1 - 1 of run r: data bytes, and scales for each beat they belong to. -/
def cpReadsOf (d : Desc) (r e0 e1 : Nat) : List (Nat × Nat × Int) :=
  let x := cpSrc d
  let bits := fmtBits x.fmt
  let b0 := e0 * bits / 8
  let data := (List.range (ceilDiv (e1 * bits) 8 - b0)).map fun i => (2 * r, b0 + i, x.run d r + (b0 + i : Nat))
  let js := [cpBeatFor d r e0, cpBeatFor d r (e1 - 1)].eraseDups
  data ++ js.flatMap fun j => (cpReads d j).filter fun (q : Nat × Nat × Int) => q.1 % 2 == 1

/-- The elements of the units that column q of run data touches: run, first and end. -/
def columnUnits (d : Desc) (z : Side) (q : Nat) : Nat × Nat × Nat :=
  let off := q * 64 % z.runLen d
  let (e0, e1) := unitRange d z.fmt off (off + 64)
  (q * 64 / z.runLen d, e0, e1)

/-- The slices that the source of column q of a copy into HBM lies in. -/
def State.columnSlices (s : State) (k : Cmd) (z : Side) (q : Nat) : List Nat :=
  let (r, e0, e1) := columnUnits k.block z q
  ((cpReadsOf k.block r e0 e1).filterMap fun x => ((s.place k (cpSrc k.block).word (k.side 0) x.2.2 1).sliceAddr).bind coreOfAddr).eraseDups

/-- The clock cycle of column q of a command that starts at `start`. -/
def colCycle (t : Timetable) (start q : Nat) : Nat :=
  match t.items.find? fun x => decide (x.2.2.2 ≤ q) && decide (q < x.2.2.2 + x.2.1) with
  | some x => start + x.1 + (q - x.2.2.2)
  | none => 0

/-- The units of elements, whole bytes and whole blocks, that column q of a copy out of HBM completes: of its run, first and end. -/
def unitsDone (d : Desc) (t : Timetable) (z : Side) (q : Nat) : List (Nat × Nat) :=
  let len := z.runLen d
  let off := q * 64 % len
  let (e0, e1) := unitRange d z.fmt off (off + 64)
  let u := Nat.max 8 (fmtBlock (cpDst d).fmt)
  let units := (List.range (ceilDiv (e1 - e0) u)).map fun i => (e0 + i * u, Nat.min (e0 + (i + 1) * u) e1)
  let row := q * 64 / len * len
  units.filter fun (a, b) =>
    let c0 := (row + a * fmtBits z.fmt / 8) / 64
    let c1 := (row + ceilDiv (b * fmtBits z.fmt) 8 - 1) / 64
    (List.range (c1 - c0 + 1)).all fun i =>
      let c := c0 + i
      colCycle t 0 c < colCycle t 0 q || (colCycle t 0 c == colCycle t 0 q && decide (c ≤ q))

/-- The slices that column q of a copy out of HBM writes. -/
def State.unitSlices (s : State) (k : Cmd) (t : Timetable) (z : Side) (q : Nat) : List Nat :=
  let ps := (s.dstTargets k).flatMap fun m => (unitsDone k.block t z q).flatMap fun (a, b) =>
    (cpWritesOf k.block (q * 64 / z.runLen k.block) a b).map fun v => s.dstPlace k m v 0
  (ps.filterMap fun p => p.sliceAddr.bind coreOfAddr).eraseDups

/-- The block of a timed copy or fill has been captured: its checks (R199, R292, R332), then its start (R193) and its links. -/
def State.captureTimedCopy (s : State) (k : Cmd) : State :=
  if s.copyInvalid k then s.failCmd k 0x02 0x10
  else
    match s.copyRefused k with
    | some d => s.failCmd k 0x06 d
    | none =>
      let d := k.block
      let start := s.startClock k
      let accepted : Except (BitVec 8) (List HbmGroup) :=
        match s.hbmSide k, s.ttOf k (cpTte d) with
        | some (i, z), some t =>
          let live := s.hbmGroups.filter fun g => decide (s.clock ≤ g.busyTo)
          acceptGroups live (fun st => (k.launch s).hbm.testBit st) (groupsOf k.core k.id start t (s.columnPa k i z))
        | _, _ => .ok s.hbmGroups
      match accepted with
      | .error e => s.failCmd k 0x13 e
      | .ok gs =>
        let n := cpBeats d
        let cols := match s.hbmSide k with
          | some (_, z) => cpRuns d * z.runLen d / 64
          | none => 0
        let k := { k with dur := cpDur d, base := s.nextId, span := 2 * n + 2 + cols }
        let s := { s with hbmGroups := gs, nextId := s.nextId + k.span }
        let s := s.setCmd k
        let s := match s.hbmSide k, s.ttOf k (cpTte d) with
          | some (i, z), some t =>
            if i = 1 && k.isFill then s
            else t.items.foldl (fun (s : State) (it : Nat × Nat × Nat × Nat) => (List.range it.2.1).foldl (fun (s : State) (j : Nat) =>
              let q := it.2.2.2 + j
              if i = 0 then s.copyHops k (k.colOp q) (start + it.1 + j + 40) (s.unitSlices k t z q)
              else s.copyHops k (k.colOp q) (start + it.1 + j - 40) (s.columnSlices k z q)) s) s
          | _, _ => (List.range n).foldl (fun (s : State) (j : Nat) =>
            let at_ := start + s.copyGap k * j
            let s := if k.isFill then s else s.copyHops k (k.base + 2 * j) at_ (s.beatSlices k j false)
            s.copyHops k (k.base + 2 * j + 1) (at_ + s.copyW k) (s.beatSlices k j true)) s
        s.schedule start prioStart (.timedCommandStart k.core k.id)

/-- The channel is busy: the command names the first free clock cycle of each (R195). -/
def State.channelBusy (s : State) (k : Cmd) : Bool := decide (s.clock < SMap.get 0 (s.core k.core).chan k.ctx)

/-- The buffers of the destination of a timed copy: one, or one in each member's table (R202). -/
def State.dstBufs (s : State) (k : Cmd) : List (Option (Nat × Nat)) :=
  let y := cpDst k.block
  if k.multi.isSome then (k.members s).map fun m => if y.bufValid then some (m, y.bufNo) else none else [y.namedBuf]

/-- The scales of a far-tier source that HBM cannot correct (R293): their words, and the elements that they scale, as run, first element and number. -/
def State.badScales (s : State) (k : Cmd) (z : Side) : List Nat × List (Nat × Nat × Nat) :=
  let d := k.block
  let torn (v : Int) : List Nat := match s.place k z.word (k.side 0) v 1 with
    | .phys pa _ => s.badIn pa 1
    | _ => []
  let blk := fmtBlock z.fmt
  let hits := (List.range (cpRuns d)).flatMap fun r =>
    ((List.range (z.blocks d)).map fun b => (torn (z.scaleAt d r b), (r, b * blk, blk))) ++
      (if z.banded then [(torn (z.bandScaleAt d r) ++ torn (z.bandScaleAt d r + 1), (r, 0, cpExt d 0))] else [])
  let hits := hits.filter fun h => !h.1.isEmpty
  ((hits.flatMap (·.1)).eraseDups, hits.map (·.2))

/-- A timed copy starts (R201): its buffers, its beats or HBM columns, its end. -/
def State.startCopy (s : State) (k : Cmd) : State :=
  let d := k.block
  let src := if k.isFill then none else (cpSrc d).namedBuf
  let dst := s.dstBufs k
  if s.bufNot src .full || dst.any (fun b => s.bufNot b .empty) then s.failCmd k 0x15 0
  else
    let k := { k with stage := .running, start := s.clock }
    let s := s.setCmd k
    let s := s.modCore k.core fun c => { c with chan := SMap.put 0 c.chan k.ctx (s.clock + k.dur) }
    let s := s.engineBuf src .draining 0 0 true
    let s := dst.foldl (fun (s : State) b => s.engineBuf b .filling (2 + k.ctx) k.core true) s
    let s := match s.hbmSide k, s.ttOf k (cpTte d) with
      | some (i, z), some t =>
        let s := t.items.zipIdx.foldl (fun (s : State) (it : (Nat × Nat × Nat × Nat) × Nat) =>
          (List.range it.1.2.1).foldl (fun (s : State) (q : Nat) =>
            let at_ := s.clock + it.1.1 + q
            let s := s.schedule at_ prioHbm (.hbmGroup k.core k.id (4 * it.2 + q))
            if i = 1 && !k.isFill then s.schedule (at_ - 40) prioBeat (.copyBeat k.core k.id (it.1.2.2.2 + q) false) else s) s) s
        if i = 0 then
          let reads : List (Nat × Nat × Int) := ((List.range (cpBeats d)).flatMap (cpReads d)).filter fun x => x.1 % 2 == 1
          let data := reads.foldl (fun (m : SMap (SMap Byte)) (x : Nat × Nat × Int) =>
            SMap.put [] m x.1 (SMap.put 0 (SMap.get [] m x.1) x.2.1 (s.readPlace (s.place k z.word (k.side 0) x.2.2 1)))) k.data
          let (words, bad) := if s.badWords.isEmpty then ([], []) else s.badScales k z
          words.foldl (fun (s : State) (w : Nat) => s.hbmUncorrectable k w) (s.setCmd { k with data := data, bad := bad })
        else s
      | _, _ =>
        let gap := s.copyGap k
        let w := s.copyW k
        (List.range (cpBeats d)).foldl (fun (s : State) (j : Nat) =>
          let s := if k.isFill then s else s.schedule (s.clock + gap * j) prioBeat (.copyBeat k.core k.id j false)
          s.schedule (s.clock + gap * j + w) prioBeat (.copyBeat k.core k.id j true)) s
    s.schedule (s.clock + k.dur) prioComplete (.timedCopyEnd k.core k.id)

/-- Read bytes of the source into a command (R200): (map, key, displacement). -/
def State.copyRead (s : State) (k : Cmd) (op : Nat) (reads : List (Nat × Nat × Int)) : State :=
  let x := cpSrc k.block
  let ps := reads.map fun q => (q, s.place k x.word (k.side 0) q.2.2 1)
  let data := ps.foldl (fun (m : SMap (SMap Byte)) (q : (Nat × Nat × Int) × Place) =>
    SMap.put [] m q.1.1 (SMap.put 0 (SMap.get [] m q.1.1) q.1.2.1 (s.readPlace q.2))) k.data
  let s := s.setCmd { k with data := data }
  let s := match ps.findSome? fun q => match q.2 with
      | .out a => some a
      | _ => none with
    | some a => s.engineOor k a false
    | none => s
  s.copyAccs k op s.clock false (ps.filterMap fun q => q.2.sliceAddr)

/-- The places of the band scale in a destination's region for run r (R199). -/
def State.bandPlaces (s : State) (k : Cmd) (m : Option Nat) (r : Nat) : List Place :=
  let y := cpDst k.block
  if y.banded then [s.dstPlace k m (y.bandScaleAt k.block r) 1, s.dstPlace k m (y.bandScaleAt k.block r + 1) 1] else []

/-- The band scale that stands there. -/
def State.dstBand (s : State) (k : Cmd) (m : Option Nat) (r : Nat) : Nat :=
  match s.bandPlaces k m r with
  | [p, q] => (s.readPlace p).toNat + 256 * (s.readPlace q).toNat
  | _ => 0x3F80

/-- The destinations of a timed copy whose band scale of run r can be read: the read meets the bus and the array's code (R237-R241), or HBM's (R293). -/
def State.bandTargets (s : State) (k : Cmd) (r : Nat) : List (Option Nat) × State :=
  (s.dstTargets k).foldl (fun (acc : List (Option Nat) × State) (m : Option Nat) =>
    let (l, s) := acc
    let ps := s.bandPlaces k m r
    let words := (ps.flatMap fun p => match p with
      | .phys pa _ => if isFar pa then s.badIn pa 1 else []
      | _ => []).eraseDups
    let s := words.foldl (fun (s : State) (w : Nat) => s.hbmUncorrectable k w) s
    let (lost, s) := s.engineServe k false (ps.filterMap (·.sliceAddr))
    (if words.isEmpty && lost.isEmpty then l ++ [m] else l, s)) ([], s)

/-- Elements e0 to e1 - 1 of run r as every destination stores them (R199, R202), each under its own band scale: displacements with bytes of data
and of scales, and flags. -/
structure Encoded where
  target : Option Nat
  data : List (Int × Byte)
  scales : List (Int × Byte)
  flags : Flags
  deriving DecidableEq, Repr

/-- Element e of run r could not be read. -/
def Cmd.badElem (k : Cmd) (r e : Nat) : Bool := k.bad.any fun x => x.1 = r && decide (x.2.1 ≤ e) && decide (e < x.2.1 + x.2.2)

def State.encode (s : State) (k : Cmd) (data : SMap (SMap Byte)) (ms : List (Option Nat)) (r e0 e1 : Nat) : List Encoded :=
  ms.map fun m =>
    let (d, sc, f) := cpEncode k.block data (s.dstBand k m r) (k.badElem r) r e0 e1
    ⟨m, d, sc, f⟩

def encodedFlags (l : List Encoded) : Flags := l.foldl (fun f x => f ||| x.flags) 0

/-- The places of encoded bytes. -/
def State.dstPlaces (s : State) (k : Cmd) (l : List Encoded) : List (Place × Byte) :=
  l.flatMap fun x => (x.data ++ x.scales).map fun b => (s.dstPlace k x.target b.1 2, b.2)

/-- Destination bytes of a timed copy: visible 2 cycles after they claim their banks at cycle claim (R200, R326). -/
def State.copyWrite (s : State) (k : Cmd) (op claim : Nat) (out : List Encoded) : State :=
  let ps := s.dstPlaces k out
  let s := match ps.findSome? fun q => match q.1 with
      | .out a => some a
      | _ => none with
    | some a => s.engineOor k a true
    | none => s
  let s := s.addMem (claim + 2) claim op (ps.filterMap fun q => q.1.memAddr.map fun a => (a, q.2))
  s.copyAccs k op claim true (ps.filterMap fun q => q.1.sliceAddr)

/-- COPY_BEAT (R200, R201, R203): the source side of a beat is read at its claim cycle, the destination side written; for a copy into HBM, the
source of one column (R290). -/
def execCopyBeat (core cmd beat : Nat) (dst : Bool) (s : State) : Host.Outcome State Fault Refusal :=
  if 768 ≤ core then .fault .noSuchUnit
  else
    match s.cmd cmd with
    | none => .next s
    | some k =>
      if k.stage != .running || k.dead then .next s
      else
        let d := k.block
        match s.hbmSide k with
        | some (_, z) =>
          let (r, e0, e1) := columnUnits d z beat
          .next (if k.lost.contains (k.colOp beat) then s else s.copyRead k (k.colOp beat) (cpReadsOf d r e0 e1))
        | none =>
          let (r, e0, e1) := cpBeatOf d beat
          if !dst then .next (if k.lost.contains (k.base + 2 * beat) then s else s.copyRead k (k.base + 2 * beat) (cpReads d beat))
          else if k.lost.contains (k.base + 2 * beat) || k.lost.contains (k.base + 2 * beat + 1) then .next s
          else
            let (ms, s) := s.bandTargets k r
            let out := s.encode k k.data ms r e0 e1
            let s := s.setCmd { k with flags := k.flags ||| encodedFlags out }
            .next (s.copyWrite k (k.base + 2 * beat + 1) s.clock out)

/-! Timed HBM groups (R290, R293) -/

/-- A column of a copy out of HBM: its bytes, and every unit of elements that it completes, which claims its banks 40 cycles later (R290).  Each
word that cannot be corrected is reported, and the elements that it holds are not written (R293). -/
def State.hbmRead (s : State) (k : Cmd) (t : Timetable) (z : Side) (q : Nat) : State :=
  let d := k.block
  let len := z.runLen d
  let r := q * 64 / len
  let off := q * 64 % len
  let pa := s.columnPa k 0 z q
  let words := s.badIn pa 64
  let bits := fmtBits z.fmt
  let torn (w : Nat) : Nat × Nat × Nat :=
    let o := off + (w - pa)
    (r, 8 * o / bits, ceilDiv (8 * o + 64) bits - 8 * o / bits)
  let run := (List.range 64).foldl (fun (m : SMap Byte) (i : Nat) => SMap.put 0 m (off + i) (memByte s.mem (pa + i))) (SMap.get [] k.data (2 * r))
  let k := { k with bad := k.bad ++ words.map torn, data := SMap.put [] k.data (2 * r) run }
  let s := words.foldl (fun (s : State) (w : Nat) => s.hbmUncorrectable k w) (s.setCmd k)
  match unitsDone d t z q with
  | [] => s
  | ready =>
    let (ms, s) := s.bandTargets k r
    let out := ready.flatMap fun (a, b) => s.encode k k.data ms r a b
    let s := s.setCmd { k with flags := k.flags ||| encodedFlags out }
    if k.lost.contains (k.colOp q) then s else s.copyWrite k (k.colOp q) (s.clock + 40) out

/-- A column of a copy into HBM: visible from its cycle + 30 (R290). -/
def State.hbmWrite (s : State) (k : Cmd) (z : Side) (q : Nat) : State :=
  let d := k.block
  let len := z.runLen d
  let r := q * 64 / len
  let off := q * 64 % len
  let (e0, e1) := unitRange d z.fmt off (off + 64)
  let lo : Int := z.run d r + (off : Nat)
  let (ms, s) := s.bandTargets k r
  let out := (s.encode k k.data ms r e0 e1).map fun x =>
    { x with data := x.data.filter fun b => decide (lo ≤ b.1) && decide (b.1 < lo + 64) }
  let s := s.setCmd { k with flags := k.flags ||| encodedFlags out }
  if k.lost.contains (k.colOp q) then s
  else s.addMem (s.clock + 30) s.clock (k.colOp q)
    ((s.dstPlaces k out).filterMap fun p => p.1.memAddr.map fun a => (a, p.2))

/-! Memory atomics (R215, R216) -/

/-- The byte that stands last in the write order now, visible or not (R154, R216): what an atomic reads. -/
def State.latestByte (s : State) (a : Nat) : Byte :=
  let hits := (s.memPend.filter fun m => decide (m.bank ≤ s.clock)).filterMap fun m => ((m.data.filter fun x => x.1 == a).getLast?).map fun x => (m.bank, x.2)
  (hits.foldl (fun (b : Nat × Byte) (x : Nat × Byte) => if b.1 ≤ x.1 then x else b) (SMap.get 0 s.memRecent a, memByte s.mem a)).2

/-- Code and width of an atomic command. -/
def Cmd.atomCode (k : Cmd) : Nat × Bool :=
  match k.instr with
  | .amo o | .amof o => ((o.low.extractLsb' 20 4).toNat, o.low.getLsbD 19)
  | _ => (0, false)

def Cmd.fetches (k : Cmd) : Bool :=
  match k.instr with
  | .amof _ => true
  | _ => false

/-- An atomic applies at physical address pa, visible at cycle vis: the old value, STAT and flags stay in the command. -/
def State.applyAtomic (s : State) (k : Cmd) (pa vis : Nat) : State :=
  let (code, w64) := k.atomCode
  let w := atomBytes code w64
  let m := leNat ((List.range w).map fun i => s.latestByte (pa + i))
  let x := Desc.field k.block 8 8 % 2 ^ (8 * w)
  let y := Desc.field k.block 16 8 % 2 ^ (8 * w)
  let (r, st, f) := atomApply code w64 m x y
  let out : SMap Byte := (leBytes 8 m ++ leBytes 8 (if st then 1 else 0)).zipIdx.foldl (fun (d : SMap Byte) b => SMap.put 0 d b.2 b.1) []
  let s := s.setCmd { k with stage := .running, flags := k.flags ||| f, data := [(0, out)] }
  s.addMem vis s.clock k.id ((leBytes w r).zipIdx.map fun b => (pa + b.2, b.1))

/-- A host-tier target is refused (R215): STAT bit 1. -/
def State.refuseAtomic (s : State) (k : Cmd) : State := s.setCmd { k with stage := .running, data := [(0, SMap.put 0 [] 8 (2 : Byte))] }

/-- The bytes OLD and STAT that an AMOF writes into its block (R215), an access of its slice like any other (R237-R241). -/
def State.atomicResult (s : State) (k : Cmd) : State :=
  if k.fetches then
    let d := SMap.get [] k.data 0
    s.engineWrite k ((List.range 16).map fun i => (k.blockAddr + 32 + i, SMap.get 0 d i))
  else s

/-- The target of an atomic, aligned down to its width (R215): its place. -/
def State.atomicPlace (s : State) (k : Cmd) : Place :=
  let (code, w64) := k.atomCode
  let w := atomBytes code w64
  let t := Desc.field k.block 0 8
  match s.place k t (k.side 0) 0 3 with
  | .phys pa va => .phys (alignDown pa w) (alignDown va w)
  | p => p

/-- The block of an atomic breaks its format's rules (R194, R215, R291). -/
def State.atomicInvalid (s : State) (k : Cmd) : Bool :=
  let d := k.block
  let t := Desc.field d 0 8
  let e := s.extentAt (k.side 0).entry
  let (code, w64) := k.atomCode
  let w := atomBytes code w64
  let lo := alignDown (e.va + t % 2 ^ 48) w
  wordReserved t || !(t / 2 ^ 61 = 1 || (t / 2 ^ 61 = 2 && !k.timed)) ||
    (k.fetches && s.inBuffer ((List.range 64).map (k.blockAddr + ·))) ||
    (t / 2 ^ 61 = 1 && ((k.side 0).entry = 0 || !e.valid || e.mode ≠ 3 || decide (lo < e.va) || decide (e.va + e.len < lo + w))) ||
    (k.timed && ((e.tier = 0 && e.psize = 0) || (e.tier = 1 && !s.extentNear k (bitsOf t 48 6)) ||
      (match s.ttOf k (Desc.field d 24 2) with
        | none => true
        | some tt => tt.items.length ≠ 1 || !ttOk tt 1 false (fun _ => alignDown ((s.atomicPlace k).memAddr.getD 0) 64) ||
            (tt.items.headD (0, 0, 0, 0)).2.1 ≠ 1)))

/-- An atomic through a handle touches another task's declared range (R332). -/
def State.atomicRefused (s : State) (k : Cmd) : Bool :=
  Desc.field k.block 0 8 / 2 ^ 61 = 2 && (match (s.atomicPlace k).mapped with
    | some (va, pa) => s.phaseRefused k.core ((List.range (atomBytes k.atomCode.1 k.atomCode.2)).map fun i => (va + i, pa.map (· + i))) true
    | none => false)

/-- A timed or untimed atomic's block has been captured. -/
def State.captureAtomic (s : State) (k : Cmd) : State :=
  if s.atomicInvalid k then s.failCmd k 0x02 0x10
  else
    let t := Desc.field k.block 0 8
    if s.handleInvalid k.core t then s.failCmd k 0x19 0
    else if s.atomicRefused k then s.failCmd k 0x06 0x05
    else if k.timed then
      let start := s.startClock k
      match s.ttOf k (Desc.field k.block 24 2) with
      | none => s
      | some tt =>
        let live := s.hbmGroups.filter fun g => decide (s.clock ≤ g.busyTo)
        let pa := (s.atomicPlace k).memAddr.getD 0
        match acceptGroups live (fun st => (k.launch s).hbm.testBit st) (if isFar pa then groupsOf k.core k.id start tt fun _ => pa else []) with
        | .error e => s.failCmd k 0x13 e
        | .ok gs =>
          let s := { s with hbmGroups := live ++ gs.drop live.length }
          (s.setCmd { k with dur := tt.n }).schedule start prioStart (.timedCommandStart k.core k.id)
    else
      let (d, s) := (s.setCmd k).freeDelay
      s.schedule (s.clock + d) prioComplete (.atomicApply k.id)

/-- A timed atomic starts: its column and its end (R215). -/
def State.startAtomic (s : State) (k : Cmd) : State :=
  let col := match s.ttOf k (Desc.field k.block 24 2) with
    | some tt => (tt.items.headD (0, 0, 0, 0)).1
    | none => 0
  let s := s.setCmd { k with stage := .running, start := s.clock }
  let s := s.modCore k.core fun c => { c with chan := SMap.put 0 c.chan k.ctx (s.clock + k.dur) }
  let s := s.schedule (s.clock + col) prioHbm (.hbmGroup k.core k.id 0)
  s.schedule (s.clock + k.dur) prioComplete (.timedCopyEnd k.core k.id)

/-- HBM_GROUP (R290): one column of a timed command's group. -/
def execHbmGroup (core cmd item : Nat) (s : State) : Host.Outcome State Fault Refusal :=
  if 768 ≤ core then .fault .noSuchUnit
  else
    match s.cmd cmd with
    | none => .next s
    | some k =>
      if k.stage != .running || k.dead then .next s
      else
        match k.instr with
        | .amo _ | .amof _ =>
          let pa := (s.atomicPlace k).memAddr.getD 0
          let w := atomBytes k.atomCode.1 k.atomCode.2
          if isHost pa then .next (s.refuseAtomic k)
          else if isNear pa then
            let bytes := (List.range w).map fun i => pa - nearBase + i
            let (lost, s) := s.engineServe k false bytes
            .next (if lost.isEmpty then (s.applyAtomic k pa (s.clock + 2)).copyAccs k k.id s.clock true bytes else s)
          else if s.badRead pa w then .next (s.hbmUncorrectable k (s.badWord pa w)) else .next (s.applyAtomic k pa (s.clock + 30))
        | _ =>
          match s.hbmSide k, s.ttOf k (cpTte k.block) with
          | some (i, z), some t =>
            let q := (t.items.getD (item / 4) (0, 0, 0, 0)).2.2.2 + item % 4
            .next (if i = 0 then s.hbmRead k t z q else s.hbmWrite k z q)
          | _, _ => .next s

/-- A fault of an untimed operation goes to the driver (R207, R281), and the operation waits. -/
def State.copyFault (s : State) (k : Cmd) (source reason va access : Nat) : State :=
  (s.setCmd { k with stage := .faulted }).postFault
    ⟨none, source, reason, (k.launch s).asid, access, va, k.core, k.ctx, k.bind.getD 0, k.id⟩

/-- REASON of a device fault from a reason of R210. -/
def faultReason (reason : Nat) (malformed : Bool) : Nat := if malformed then 4 else reason

/-- ATOMIC_APPLY (R216): an untimed atomic arrives at the memory port; a host-tier target is refused. -/
def execAtomicApply (op : Nat) (s : State) : Host.Outcome State Fault Refusal :=
  match s.cmd op with
  | none => .next s
  | some k =>
    match k.instr with
    | .amo _ | .amof _ =>
      match s.atomicPlace k with
      | .phys pa va =>
        let s := s.countAccess (k.launch s).asid va pa
        let w := atomBytes k.atomCode.1 k.atomCode.2
        if isHost pa then .next ((s.refuseAtomic k).later k)
        else if s.atomicRefused k then .next (s.failCmd k 0x06 0x05)
        else if !s.physExists pa then .next (s.copyFault k 2 0 va 3)
        else if isFar pa && s.badRead pa w then .next ((s.hbmLog (s.badWord pa w) true).copyFault k 2 5 va 3)
        else
          let bytes := if isNear pa then (List.range w).map fun i => pa - nearBase + i else []
          let (torn, s) := s.engineServe k false bytes
          let (lost, s) := if torn.isEmpty then s.engineServe k true bytes else (torn, s)
          .next (if lost.isEmpty then (s.applyAtomic k pa s.clock).later k else (s.setCmd { k with stage := .running }).later k)
      | .absent r va m => .next ((if r = 5 then s.logTorn (k.launch s).asid va else s).copyFault k 2 (faultReason r m) va 3)
      | _ => .next (s.schedule (s.clock + 1) prioComplete (.atomicApply op))
    | _ => .next s

end Sys2Proof.Machine
end

