-- ==== Sys2Proof/Machine/Moves.lean ====
section
/-! DEFINITION. The migration engine (13, R282-R286): blocks that move between tiers, hot and cold blocks, tensors. -/

namespace Sys2Proof.Machine

/-- 64 KiB frames of the near tier (R269, R283): the quarters of every lent bank, as physical address / 2^16. -/
def State.nearFrames (s : State) : List Nat :=
  s.cores.flatMap fun kc => (List.range kc.2.lent).flatMap fun i => (List.range 4).map fun q =>
    (nearBase + sliceBase kc.1 + (15 - i) * 2 ^ 18 + q * 2 ^ 16) / 2 ^ 16

/-- A page of a running launch is pinned in a frame. -/
def State.pinnedIn (s : State) (frame : Nat) : Bool :=
  s.binds.any fun kl => kl.2.pins.any fun p => meets p.pa p.size (frame * 2 ^ 16) (2 ^ 16)

/-- The free frames of the pool: none of a block, of a move, or pinned. -/
def State.freeFrames (s : State) : List Nat :=
  let used := s.nearBlocks.map (·.1)
  s.nearFrames.filter fun f => !used.contains f && !s.pinnedIn f &&
    !s.moves.any fun m => m.new / 2 ^ 16 == f && !m.ptes.isEmpty

/-- The 16 leaves of a block that can move (R283): places and values of its PTEs, all at level 0, with MIG, of one tier, in one aligned run. -/
def State.blockPtes (s : State) (asid va : Nat) : Option (List (Nat × Word)) :=
  let ws := (List.range 16).map fun i => s.walk asid (va + 4096 * i) 0
  let l := ws.filterMap fun w => match w with
    | .page p e lv => if lv = 0 && e.getLsbD 6 then some (p, e) else none
    | .absent _ _ | .torn _ => none
  match l with
  | [] => none
  | (_, e0) :: _ =>
    if l.length = 16 && pteFrame e0 % 2 ^ 16 = 0 && l.zipIdx.all (fun x => pteFrame x.1.2 == pteFrame e0 + 4096 * x.2 && bitsOf x.1.2.toNat 4 2 == bitsOf e0.toNat 4 2)
    then some l else none

/-- The frame of a block's leaves. -/
def frameOf (l : List (Nat × Word)) : Nat :=
  match l with
  | [] => 0
  | (_, e) :: _ => pteFrame e

/-- A run of n bytes at virtual address a lies in a block. -/
def inBlock (a n va : Nat) : Bool := meets a n va (2 ^ 16)

/-- A side of an untimed operation that names a handle lies in a block. -/
def Cmd.usesBlock (k : Cmd) (va : Nat) : Bool :=
  let hit (w : Nat) (x : SideArg) (bytes : List (Int × Nat)) : Bool :=
    w / 2 ^ 61 = 2 && bytes.any fun b => inBlock (unsignedOf 64 ((x.va : Int) + (w % 2 ^ 48 : Nat) + b.1)) b.2 va
  !k.timed && (k.stage == .captured || k.stage == .running || k.stage == .faulted) &&
    (match k.instr with
      | .cpyu _ => hit (cpSrc k.block).word (k.side 0) ((cpSrc k.block).bytes k.block) || hit (cpDst k.block).word (k.side 1) ((cpDst k.block).bytes k.block)
      | .cfill _ => hit (cpDst k.block).word (k.side 1) ((cpDst k.block).bytes k.block)
      | .amo _ | .amof _ => hit (Desc.field k.block 0 8) (k.side 0) [(0, 8)]
      | _ => false)

/-- An update record that waits names a PTE (R276). -/
def State.updateWaits (s : State) (ptes : List Nat) : Bool :=
  let m := s.mmb
  (List.range (counterDiff m.uqTail m.uqDone)).any fun i =>
    let a := ringBase m.upd + 32 * ((m.uqDone + i) % ringSize m.upd)
    ptes.contains (memNat s.mem a 8)

/-- R283's reasons to hold a move. -/
def State.blockHeld (s : State) (asid va : Nat) (ptes : List Nat) : Bool :=
  (s.binds.any fun kl => kl.2.asid == asid && kl.2.pins.any fun p => inBlock p.va p.size va) ||
    (s.cores.any fun kc =>
      (match kc.2.bind with
        | none => false
        | some b => (s.launch b).asid == asid) &&
      kc.2.x.toList.any fun x => x.valid && !handleAbsent x.val && inBlock x.va.toNat 1 va) ||
    (s.cmds.any fun k => (k.launch s).asid == asid && k.usesBlock va) || s.updateWaits ptes

/-- The first of a block's pages that gives no walk (R275), with REASON, where that is a malformed entry or one that HBM cannot correct. -/
def State.blockFault (s : State) (asid va : Nat) : Option (Nat × Nat) :=
  ((List.range 16).map fun i => va + 4096 * i).findSome? fun a =>
    match (s.walk asid a 0).fault with
    | some r => if r = 4 || r = 5 then some (a, r) else none
    | none => none

/-- A record of the migration engine's (R281). -/
def State.moveFault (s : State) (m : Move) (reason va : Nat) : State := s.postFault ⟨none, 4, reason, m.asid, 1, va, 0xFFFF, 0xFF, 0, 0⟩

/-- The engine's walk of a block, with the entry that it reports (R275, R281, R293). -/
def State.walkBlock (s : State) (m : Move) : Option (List (Nat × Word)) × State :=
  match s.blockPtes m.asid m.va with
  | some l => (some l, s)
  | none => (none, match s.blockFault m.asid m.va with
    | some (a, 5) => (s.logTorn m.asid a).moveFault m 5 a
    | some (a, r) => s.moveFault m r a
    | none => s)

/-- A block has leaves that can move and are in another tier, and nothing holds it (R283). -/
def State.movable (s : State) (asid va tier : Nat) : Bool :=
  match s.blockPtes asid va with
  | some l => !s.blockHeld asid va (l.map (·.1)) && l.any fun x => bitsOf x.2.toNat 4 2 ≠ tier
  | none => false

/-- A move waits for others before it starts (R284-R286): one of its block that has begun; of one entry of the lifetime table, one of a lower VA that could
start; and a promotion by count, any move of the table into the near tier that could. -/
def State.moveWaits (s : State) (m : Move) : Bool :=
  s.moves.any fun x => x.id != m.id &&
    ((x.asid == m.asid && x.va == m.va && !x.ptes.isEmpty) ||
     (x.why.isTensor && x.tier == m.tier && x.ptes.isEmpty && s.movable x.asid x.va x.tier &&
       ((x.why == m.why && decide (x.va < m.va)) || (m.why == .heat && m.tier == 1))))

/-- The pool has no free frame: the move is not made, nor those that its entry of the lifetime table still asks for (R286). -/
def State.poolFull (s : State) (m : Move) : State :=
  { s with moves := s.moves.filter fun x => x.id != m.id && !(m.why.isTensor && x.why == m.why && x.tier == m.tier && x.ptes.isEmpty) }

/-- Room in the migration log. -/
def Mmb.logRoom (m : Mmb) : Bool := decide (counterDiff m.mlHead m.mlTail < ringSize m.mig)

def State.setMove (s : State) (m : Move) : State := { s with moves := s.moves.map fun x => if x.id == m.id then m else x }
def State.dropMove (s : State) (id : Nat) : State := { s with moves := s.moves.filter fun x => x.id != id }

/-- A move is looked at again after a free time. -/
def State.moveLater (s : State) (m : Move) : State :=
  let (d, s) := s.moveDelay m.due
  s.schedule (s.clock + d) prioAfter (.migrationMove m.id)

/-- Far-tier bytes that the engine may not take for a block, as runs of 64 KiB frames: pages that a table of an ASID maps, its root, rings, moves under way,
and all that holds a byte other than 0 (log 32). -/
def State.farUsed (s : State) : List (Nat × Nat) :=
  let run (a n : Nat) : Nat × Nat := (a / 2 ^ 16, (a + n - 1) / 2 ^ 16 - a / 2 ^ 16 + 1)
  (s.mmb.asids.flatMap fun x => run (pteFrame x.2) 4096 :: (s.leaves x.1).map fun y => run (pteFrame y.2.1) (2 ^ (12 + 9 * y.2.2))) ++
    ([s.mmb.upd, s.mmb.fault, s.mmb.mig].map fun r => run (ringBase r) (32 * ringSize r)) ++ (s.moves.map fun m => (m.new / 2 ^ 16, 1)) ++
    (s.mem.filter fun e => isFar e.1).map fun e => (e.1 / 2 ^ 16, 1)

/-- A far frame that nothing uses: the first at or after frame r, or after the end of some run in use. -/
def State.freeFar (s : State) (r : Nat) : Option Nat :=
  let used := s.farUsed
  (r % 2 ^ 23 :: used.map fun u => (u.1 + u.2) % 2 ^ 23).find? fun f => !used.any fun u => decide (u.1 ≤ f) && decide (f < u.1 + u.2)

/-- The frame a move goes to: a free frame of the pool, or of the far tier; which one is the device's choice. -/
def State.pickFrame (s : State) (tier : Nat) : Option Nat × State :=
  let (r, s) := s.freeNat
  if tier = 1 then
    let l := s.freeFrames
    (if l.isEmpty then none else l[r % l.length]?, s)
  else (s.freeFar r, s)

/-- A translation under way that has found a page of a block comes too late once the block's move has begun (R284). -/
def State.lateXlats (s : State) (m : Move) : State :=
  s.cores.foldl (fun (s : State) (kc : Nat × Core) =>
    if (match kc.2.bind with
      | none => false
      | some b => (s.launch b).asid == m.asid) then
      s.modCore kc.1 fun c => { c with x := c.x.map fun e => match e.pend with
        | some (_, _, va) => if e.val ≠ 0 && inBlock va.toNat 1 m.va then { e with val := 0x9800000000000000 } else e
        | none => e }
    else s) s

/-- The words of a block's old frame that cannot be read: those that HBM or the array's code cannot correct (R238, R293), each logged. -/
def State.frameTorn (s : State) (frame : Nat) : Bool × State :=
  if isNear frame then
    let (l, s) := s.scanWords (frame - nearBase) (2 ^ 16)
    (!l.isEmpty, s)
  else
    let l := s.badIn frame (2 ^ 16)
    (!l.isEmpty, l.foldl (fun (s : State) (w : Nat) => s.hbmLog w true) s)

/-- MIGRATION_MOVE (R283, R284): a move starts, to a frame that dispatch has named (R279) or one that the engine picks, or its copy is done: the re-check, the switch of the 16 PTEs, the
log record.  A block that cannot be read stays where it is, and the driver hears of it (R281). -/
def execMigrationMove (move : Nat) (s : State) : Host.Outcome State Fault Refusal :=
  match s.moves.find? fun m => m.id == move with
  | none => .next s
  | some m =>
    let (now, s) := s.walkBlock m
    if m.ptes.isEmpty then
      match now with
      | none => .next (s.dropMove move)
      | some l =>
        let tier := match l with
          | [] => 0
          | (_, e) :: _ => bitsOf e.toNat 4 2
        if (tier = m.tier && (m.new = 0 || frameOf l = m.new)) || !s.mmb.migen then .next (s.dropMove move)
        else if s.blockHeld m.asid m.va (l.map (·.1)) || s.moveWaits m then .next (s.moveLater m)
        else
          match (if m.new = 0 then s.pickFrame m.tier else (some (m.new / 2 ^ 16), s)) with
          | (none, s) => .next (s.poolFull m)
          | (some f, s) => .next (((s.setMove { m with old := frameOf l, new := f * 2 ^ 16, ptes := l }).lateXlats m).moveLater m)
    else if now != some m.ptes then .next (s.dropMove move)
    else if s.blockHeld m.asid m.va (m.ptes.map (·.1)) || !s.mmb.logRoom then .next (s.moveLater m)
    else
      match s.frameTorn m.old with
      | (true, s) => .next ((s.moveFault m 5 m.va).dropMove move)
      | (false, s) =>
        let data := (List.range (2 ^ 16)).map fun i => (m.new + i, memByte s.mem (m.old + i))
        let ptes := m.ptes.zipIdx.flatMap fun x =>
          let e := x.1.2.toNat
          let v := e % 2 ^ 4 + m.tier * 2 ^ 4 + bitsOf e 6 6 * 2 ^ 6 + (m.new / 2 ^ 12 + x.2) * 2 ^ 12 + bitsOf e 52 12 * 2 ^ 52
          (leBytes 8 v).zipIdx.map fun b => (x.1.1 + b.2, b.1)
        let rec_ := leBytes 8 m.va ++ leBytes 8 m.old ++ leBytes 8 m.new ++ leBytes 1 m.asid ++ leBytes 1 m.tier ++ leBytes 6 0
        let at_ := ringBase s.mmb.mig + 32 * (s.mmb.mlHead % ringSize s.mmb.mig)
        let s := (if isNear m.new then s.freshWords (m.new - nearBase) (2 ^ 16) else s).addMemNow (data ++ ptes ++ rec_.zipIdx.map fun b => (at_ + b.2, b.1))
        let near := if isNear m.old then SMap.put (0, 0) s.near (m.old / 2 ^ 16) (0, 0) else s.near
        let near := if isNear m.new then SMap.put (0, 0) near (m.new / 2 ^ 16) (m.asid + 1, m.va) else near
        .next { s with moves := s.moves.filter fun x => x.id != move, near := near, heat := SMap.put ⟨0, 0⟩ s.heat (blockKey m.asid m.va) ⟨0, 0⟩,
                       mmb := { s.mmb with mlHead := (s.mmb.mlHead + 1) % 2 ^ 32 } }

/-- A block of an entry of the lifetime table that wants it near: that stands above the counts (R285). -/
def State.heldByTensor (s : State) (asid va : Nat) : Bool := s.tensors.any fun t => t.asid == asid && t.near && meets va (2 ^ 16) t.va t.len

/-- HOTNESS_INTERVAL (R285): every 1 ms; a near block without an access in four intervals goes back to the far tier, unless the lifetime table holds it near. -/
def execHotnessInterval (s : State) : Host.Outcome State Fault Refusal :=
  let cold := s.nearBlocks
  let s := cold.foldl (fun (s : State) (x : Nat × (Nat × Nat)) =>
    let k := blockKey (x.2.1 - 1) x.2.2
    let h := SMap.get (⟨0, 0⟩ : Heat) s.heat k
    if h.count = 0 then
      if 3 ≤ h.zeros && s.mmb.migen && !s.heldByTensor (x.2.1 - 1) x.2.2 then s.requestMove (.ask (x.2.1 - 1) x.2.2 0 0 .heat none)
      else { s with heat := SMap.put ⟨0, 0⟩ s.heat k { h with zeros := h.zeros + 1 } }
    else { s with heat := SMap.put ⟨0, 0⟩ s.heat k { h with zeros := 0 } }) s
  let s := { s with heat := s.heat.foldl (fun (m : SMap Heat) (x : Nat × Heat) =>
    SMap.put ⟨0, 0⟩ m x.1 { x.2 with count := 0 }) [] }
  .next (s.schedule (s.clock + s.cyclesFor (1000 * microsecond)) prioAfter .hotnessInterval)

/-! The tensor lifetime table (R217, R286) -/

/-- The blocks of a tensor that hold a page which can move, in ascending VA (R286). -/
def State.tensorBlocks (s : State) (t : Tensor) : List Nat :=
  (((s.leaves t.asid).filter fun y => y.2.2 = 0 && y.2.1.getLsbD 6 && meets (y.1 / 2 ^ 16 * 2 ^ 16) (2 ^ 16) t.va t.len).map fun y => y.1 / 2 ^ 16 * 2 ^ 16).eraseDups

/-- The moves of a tensor's blocks to a tier, which the entry wants them in from now on. -/
def State.moveTensor (s : State) (t : Tensor) (tier : Nat) : State :=
  let s := { s with tensors := s.tensors.map fun (x : Tensor) => if x.id == t.id then { x with near := tier == 1 } else x }
  if s.mmb.migen then (s.tensorBlocks t).foldl (fun (s : State) (va : Nat) => s.requestMove (.ask t.asid va tier 0 (.tensor t.id) none)) s else s

/-- Entries of the table are removed, with the moves that they ask for and that have not begun (R286). -/
def State.dropTensors (s : State) (f : Tensor → Bool) : State :=
  let ids := (s.tensors.filter f).map (·.id)
  { s with tensors := s.tensors.filter (fun t => !f t),
           moves := s.moves.filter fun m => !(m.ptes.isEmpty && (match m.why with
             | .tensor t => ids.contains t
             | .heat | .dispatch => false)) }

/-- A launch releases phase n (R286): tensors first used in phase n + 1 start into the near tier. -/
def State.tensorsIn (s : State) (b n : Nat) : State :=
  (s.tensors.filter fun t => t.bind == b && t.first == n + 1).foldl (fun (s : State) (t : Tensor) => s.moveTensor t 1) s

/-- A launch's phases below n have committed (R286): tensors last used in phase n - 1 go back to the far tier. -/
def State.tensorsOut (s : State) (b n : Nat) : State :=
  (s.tensors.filter fun t => t.bind == b && t.last + 1 == n).foldl (fun (s : State) (t : Tensor) => s.moveTensor t 0) s

/-- The lowest entry identifier that is free. -/
def State.freeTensor (s : State) : Option Nat := (List.range 4096).find? fun i => !s.tensors.any fun t => t.id == i

/-- TLIFE and TDROP act at their completion (R217); the identifier bytes of a refused TLIFE are free values. -/
def State.lifetime (s : State) (k : Cmd) : State :=
  let d := k.block
  let put (s : State) (o : Nat) (l : List Byte) : State := s.engineWrite k (l.zipIdx.map fun b => (k.blockAddr + o + b.2, b.1))
  match k.instr with
  | .tdrop _ =>
    let id := Desc.field d 0 2
    if s.tensors.any fun t => t.id == id then put (s.dropTensors fun t => t.id == id) 26 [0] else put s 26 [3]
  | _ =>
    let asid := (k.launch s).asid
    let va := Desc.field d 0 8
    let len := Desc.field d 8 8
    let refuse (code : Byte) : State :=
      let (r, s) := s.freeNat
      put s 24 (leBytes 2 r ++ [code])
    if s.tensors.any fun t => t.asid == asid && meets va len t.va t.len then refuse 2
    else
      match s.freeTensor with
      | none => refuse 1
      | some id =>
        let t : Tensor := ⟨id, asid, va, len, Desc.field d 16 4, Desc.field d 20 4, k.bind.getD 0, false⟩
        let s := { s with tensors := s.tensors ++ [t] }
        let s := put s 24 (leBytes 2 id ++ [0])
        if t.first = 0 then s.moveTensor t 1 else s

end Sys2Proof.Machine
end

