-- ==== Sys2Proof/Machine/Control.lean ====
section
/-! DEFINITION. The C slot (02): control transfers, loops, predicates, regions and checkpoints, PHASE and RESYNC, TRAP, SYS, TRIGGER
and END. -/

namespace Sys2Proof.Machine

/-- A control transfer takes effect: the next bundle comes from address a (R48, R49). -/
def State.jump (s : State) (a : Int) : State := { s with ix := { s.ix with transfer := true, next := unsignedOf 32 a } }

/-- The address of the bundle and of the one after it. -/
def State.here (s : State) : Nat := s.ix.addr
def State.after (s : State) : Nat := s.ix.addr + s.ix.len

/-- An offset counted in 4-byte words from the bundle (R46). -/
def State.wordOff {w : Nat} (s : State) (off : BitVec w) : Int := (s.here : Int) + 4 * off.toInt

/-- B (R49). -/
def opB (p : Pred) (off : BitVec 19) : Op := fun pre cur =>
  if pre.cur.holds p then .ok (cur.jump (pre.wordOff off)) else .ok cur
def execB (p : Pred) (off : BitVec 19) (s : State) : Host.Outcome State Fault Refusal := runOp (opB p off) s

/-- CALL (R49): s30 gets the address after the bundle. -/
def opCall (p : Pred) (off : BitVec 19) : Op := fun pre cur =>
  if pre.cur.holds p then .ok ((cur.jump (pre.wordOff off)).writeS 30 (BitVec.ofNat 64 pre.after) 1) else .ok cur
def execCall (p : Pred) (off : BitVec 19) (s : State) : Host.Outcome State Fault Refusal := runOp (opCall p off) s

/-- CheckTarget (R49). -/
def badTarget (t : Word) : Bool := t.toNat / 2 ^ 18 ≠ 0 || t.toNat % 4 ≠ 0

/-- CALLI (R49). -/
def opCalli (p : Pred) (sa : BitVec 5) : Op := fun pre cur =>
  if !pre.cur.holds p then .ok cur
  else
    let t := pre.cur.sreg sa
    if badTarget t then .error (trapAt pre 0x02 0x06)
    else .ok ((cur.jump t.toNat).writeS 30 (BitVec.ofNat 64 pre.after) 1)
def execCalli (p : Pred) (sa : BitVec 5) (s : State) : Host.Outcome State Fault Refusal := runOp (opCalli p sa) s

/-- RET (R49). -/
def opRet (p : Pred) (sa : BitVec 5) : Op := fun pre cur =>
  if !pre.cur.holds p then .ok cur
  else
    let t := pre.cur.sreg sa
    if badTarget t then .error (trapAt pre 0x02 0x06) else .ok (cur.jump t.toNat)
def execRet (p : Pred) (sa : BitVec 5) (s : State) : Host.Outcome State Fault Refusal := runOp (opRet p sa) s

/-! Hardware loops (R50-R53, R67) -/

/-- A change of every stream, visible to the bundle that issues next (R132). -/
def State.changeStreams (s : State) (g : GChange) : State :=
  (List.range 16).foldl (fun s i => s.addWrite (.g (BitVec.ofNat 4 i) g) 1) s

/-- Push a loop level: every stream level bound to it when the change becomes visible, after the changes of the bundle's own A slot, goes to index 0
(R50, R132, R133). -/
def State.pushLevel (s : State) (l : LoopLevel) : State :=
  let k := s.cur.ldepth
  (s.modCur fun c => { c with loops := l :: c.loops }).changeStreams (.push k)

/-- The word at an address of the core's code store. -/
def State.codeAt (s : State) (a : Nat) : BitVec 32 := BitVec.ofNat 32 (memNat s.mem (codeBase s.ix.core + a) 4)

/-- LOOP with count n and end offset E (R50).  DESIGN CHOICE (log 46): where LEND is itself illegal and the count is 0, R50's illegal instruction (0x02) is recorded, and the
skipped bundle, which then cannot be looked for, makes no illegal bundle of it (R40). -/
def loopOp (n : State → BitVec 32) (e : BitVec 13) : Op := fun pre cur =>
  let start := pre.after
  let last := pre.here + 4 * e.toNat
  let n := n pre
  if last < start || codeBytes ≤ last then .error (trapAt pre 0x02 0x00)
  else if n = 0 then
    let hd := pre.codeAt last
    let next := last + bundleLen (hd.extractLsb' 0 11) (hd.extractLsb' 11 3).toNat
    if codeBytes < next then .error ⟨0x01, 0x00, 15, none, none⟩ else .ok (cur.jump next)
  else if 6 ≤ pre.cur.ldepth then .error (trapAt pre 0x02 0x01)
  else .ok ((cur.pushLevel ⟨n, 0, BitVec.ofNat 18 start, BitVec.ofNat 18 last, none⟩).jump start)

/-- LOOP (R50): the count is bits 31:0 of sa. -/
def opLoop (sa : BitVec 5) (e : BitVec 13) : Op := loopOp (fun s => (s.cur.sreg sa).extractLsb' 0 32) e
def execLoop (sa : BitVec 5) (e : BitVec 13) (s : State) : Host.Outcome State Fault Refusal := runOp (opLoop sa e) s

/-- LOOP with a literal count (R50). -/
def opLoopLit (l : BitVec 3) (e : BitVec 13) : Op := loopOp (fun s => BitVec.ofNat 32 (s.lit l.toNat)) e
def execLoopLit (l : BitVec 3) (e : BitVec 13) (s : State) : Host.Outcome State Fault Refusal := runOp (opLoopLit l e) s

/-- BRKL (R52): n of 0 or 7 is illegal. -/
def opBrkl (p : Pred) (n : BitVec 3) (off : BitVec 16) : Op := fun pre cur =>
  if !pre.cur.holds p then .ok cur
  else if pre.cur.ldepth < n.toNat then .error (trapAt pre 0x02 0x02)
  else .ok ((cur.modCur fun c => { c with loops := c.loops.drop n.toNat }).jump (pre.wordOff off))
def execBrkl (p : Pred) (n : BitVec 3) (off : BitVec 16) (s : State) : Host.Outcome State Fault Refusal := runOp (opBrkl p n off) s

/-- LIDX (R53). -/
def opLidx (p : Pred) (sd : BitVec 5) (d : BitVec 3) : Op := fun pre cur =>
  if pre.cur.holds p then
    let v : Nat := if d = 7 then pre.cur.ldepth else
      match pre.cur.loops[d.toNat]? with
      | some l => l.index.toNat
      | none => 0
    .ok (cur.writeS sd (BitVec.ofNat 64 v) 1)
  else .ok cur
def execLidx (p : Pred) (sd : BitVec 5) (d : BitVec 3) (s : State) : Host.Outcome State Fault Refusal := runOp (opLidx p sd d) s

/-- The stage predicates of iteration i of a replay level (R67): p(8 + k) is true when 0 <= i - k < N. -/
def State.stagePreds (s : State) (r : Replay) (i : Nat) : State :=
  (List.range r.stages).foldl (fun s k =>
    s.writeP (BitVec.ofNat 4 (8 + k)) (decide (k ≤ i) && decide (i < k + r.count.toNat)) 1) s

/-- REPLAY (R67).  DESIGN CHOICE (log 46): a count N + S - 1 of 2^32 or more wraps modulo 2^32 in LCOUNT. -/
def opReplay (l : BitVec 8) (st d : BitVec 3) : Op := fun pre cur =>
  let n : BitVec 32 := BitVec.ofNat 32 (pre.lit 0)
  let start := pre.after
  let stop := start + 4 * l.toNat
  if n = 0 then .ok (cur.jump stop)
  else if 6 ≤ pre.cur.ldepth then .error (trapAt pre 0x02 0x01)
  else
    let deltas : List (BitVec 4 × BitVec 28) := (List.range d.toNat).map fun i =>
      let v := pre.lit (1 + i)
      (BitVec.ofNat 4 (v / 2 ^ 28), BitVec.ofNat 28 v)
    let r : Replay := ⟨n, st.toNat, deltas, stop⟩
    let count := n + BitVec.ofNat 32 (st.toNat - 1)
    .ok (((cur.pushLevel ⟨count, 0, BitVec.ofNat 18 start, 0, some r⟩).stagePreds r 0).jump start)
def execReplay (l : BitVec 8) (st d : BitVec 3) (s : State) : Host.Outcome State Fault Refusal := runOp (opReplay l st d) s

/-- One level of the loop-end test ends at the bundle at a of length len (R51, R67). -/
def LoopLevel.endsAt (l : LoopLevel) (a len : Nat) : Bool :=
  match l.replay with
  | some r => a + len == r.blockEnd
  | none => l.last.toNat == a

/-- The loop-end test (R51): the levels that pop, and the back-edge if there is one. -/
def loopEnd (a len : Nat) : List LoopLevel → List LoopLevel × Option LoopLevel
  | [] => ([], none)
  | l :: r =>
    if l.endsAt a len then
      if 1 < l.count.toNat then
        let l := { l with count := l.count - 1, index := l.index + 1 }
        (l :: r, some l)
      else loopEnd a len r
    else (l :: r, none)

/-- The back-edge of a level (R51, R67, R132): deltas, then the streams bound to it, and the stage predicates of the next iteration. -/
def State.backEdge (s : State) (l : LoopLevel) : State :=
  let k := s.cur.ldepth - 1
  let s := match l.replay with
    | none => s
    | some r => (r.deltas.foldl (fun (s : State) (x : BitVec 4 × BitVec 28) => s.addWrite (.g x.1 (.delta x.2)) 1) s).stagePreds r l.index.toNat
  s.changeStreams (.advance k)

/-! Predicates and timeline tests (R55-R57) -/

/-- PAND, POR and PXOR share their operands (R55). -/
def predOp (p : Pred) (o : PredOps) (f : Bool → Bool → Bool) : Op := fun pre cur =>
  if pre.cur.holds p then .ok (cur.writeP o.pd (f (pre.cur.preg o.pa != o.na) (pre.cur.preg o.pb != o.nb)) 1) else .ok cur

/-- PAND (R55). -/
def opPand (p : Pred) (o : PredOps) : Op := predOp p o fun a b => a && b
def execPand (p : Pred) (o : PredOps) (s : State) : Host.Outcome State Fault Refusal := runOp (opPand p o) s

/-- POR (R55). -/
def opPor (p : Pred) (o : PredOps) : Op := predOp p o fun a b => a || b
def execPor (p : Pred) (o : PredOps) (s : State) : Host.Outcome State Fault Refusal := runOp (opPor p o) s

/-- PXOR (R55). -/
def opPxor (p : Pred) (o : PredOps) : Op := predOp p o fun a b => a != b
def execPxor (p : Pred) (o : PredOps) (s : State) : Host.Outcome State Fault Refusal := runOp (opPxor p o) s

/-- PGET (R56). -/
def opPget (p : Pred) (sd : BitVec 5) (h : Bool) : Op := fun pre cur =>
  if pre.cur.holds p then
    let b := if h then 8 else 0
    let v := (List.range 8).foldl (fun a i => if pre.cur.preg (BitVec.ofNat 4 (b + i)) then a + 2 ^ i else a) 0
    .ok (cur.writeS sd (BitVec.ofNat 64 v) 1)
  else .ok cur
def execPget (p : Pred) (sd : BitVec 5) (h : Bool) (s : State) : Host.Outcome State Fault Refusal := runOp (opPget p sd h) s

/-- PSET (R56): the write to p0 is discarded. -/
def opPset (p : Pred) (sa : BitVec 5) (h : Bool) : Op := fun pre cur =>
  if pre.cur.holds p then
    let b := if h then 8 else 0
    let v := pre.cur.sreg sa
    .ok ((List.range 8).foldl (fun s i => s.writeP (BitVec.ofNat 4 (b + i)) (v.getLsbD i) 1) cur)
  else .ok cur
def execPset (p : Pred) (sa : BitVec 5) (h : Bool) (s : State) : Host.Outcome State Fault Refusal := runOp (opPset p sa h) s

/-- The test of R57 and R68: TLCNT at least a value, or at most so many closed batches outstanding. -/
def Ctx.test (x : Ctx) (out : Bool) (value : Nat) : Bool :=
  if out then decide (x.closed - x.cnt ≤ value) else decide (value ≤ x.cnt)

/-- TLTEST (R57): close the open batch, then sample. -/
def tltestOp (p : Pred) (t : TlTest) (value : State → Nat) : Op := fun pre cur =>
  if pre.cur.holds p then
    let s := cur.closeBatch pre.ix.core t.c
    .ok (s.writeP t.pd ((s.cur.ctxAt t.c).test t.out (value pre)) 2)
  else .ok cur

/-- TLTEST against a scalar (R57). -/
def opTltest (p : Pred) (t : TlTest) (r : BitVec 5) : Op := tltestOp p t fun s => (s.cur.sreg r).toNat
def execTltest (p : Pred) (t : TlTest) (r : BitVec 5) (s : State) : Host.Outcome State Fault Refusal := runOp (opTltest p t r) s

/-- TLTEST against a literal (R57). -/
def opTltestLit (p : Pred) (t : TlTest) (l : BitVec 3) : Op := tltestOp p t fun s => s.lit l.toNat
def execTltestLit (p : Pred) (t : TlTest) (l : BitVec 3) (s : State) : Host.Outcome State Fault Refusal := runOp (opTltestLit p t l) s

/-! TRAP, SYS, TRIGGER and END (R58-R61) -/

/-- TRAP (R58). -/
def opTrap (p : Pred) (code : BitVec 8) : Op := fun pre cur =>
  if pre.cur.holds p then .error (trapAt pre 0x08 code) else .ok cur
def execTrap (p : Pred) (code : BitVec 8) (s : State) : Host.Outcome State Fault Refusal := runOp (opTrap p code) s

/-- SYS (R59): an untimed operation of tl7 that holds n, COREID, TCYC and s0-s7, with its tag (R351); an effect. -/
def opSys (p : Pred) (code : BitVec 8) : Op := fun pre cur =>
  if pre.cur.holds p then
    let c := pre.cur
    let args : List Word := BitVec.ofNat 64 code.toNat :: BitVec.ofNat 64 pre.ix.core :: BitVec.ofNat 64 c.tcyc ::
      ((List.range 8).map fun i => c.sreg (BitVec.ofNat 5 i)) ++ [c.sysCount.zeroExtend 64]
    let (k, s) := cur.newCmd (.sys p code) 7 false true args
    let s := { s with sysWait := s.sysWait ++ [k.id] }
    .ok (s.modCur fun c => { c with sysCount := c.sysCount + 1 }).effect
  else .ok cur
def execSys (p : Pred) (code : BitVec 8) (s : State) : Host.Outcome State Fault Refusal := runOp (opSys p code) s

/-- The launch's trigger (R60) fires once one core has issued TRIGGER and every core that has not ended has. -/
def State.checkTrigger (s : State) (b : Option Nat) : State :=
  match b with
  | none => s
  | some b =>
    let l := s.launch b
    if !l.triggered && l.cores.any (fun n => (s.core n).triggered) &&
        l.cores.all (fun n => (s.core n).run == .ended || (s.core n).triggered) then
      (s.setLaunch b { l with triggered := true }).scheduleOnce s.clock prioDecision .bindDecision
    else s

/-- TRIGGER (R60). -/
def opTrigger (p : Pred) : Op := fun pre cur =>
  if pre.cur.holds p then .ok ((cur.modCur fun c => { c with triggered := true }).checkTrigger pre.cur.bind) else .ok cur
def execTrigger (p : Pred) (s : State) : Host.Outcome State Fault Refusal := runOp (opTrigger p) s

/-- END (R61): the core retires; a sealed region closes with it. -/
def opEndTask : Op := fun pre cur =>
  .ok ((cur.modCur fun c => { c with run := .ended, loops := [], endedAtCut := false, region := ⟨.normal, pre.clock, pre.here, false⟩ }).jump
    pre.here |>.checkTrigger pre.cur.bind)
def execEndTask (s : State) : Host.Outcome State Fault Refusal := runOp opEndTask s

/-! Regions and checkpoints (R62-R66, R73) -/

/-- The last write of scalar i issued so far, in flight or visible (R73): its issue cycle, its value, and its slot where the value is not known yet. -/
def Core.lastWrite (c : Core) (i : Nat) : Nat × Word × Option Nat :=
  c.pend.foldl (fun a w => match w.w with
    | .s r v => if r.toNat = i && a.1 ≤ w.issued then (w.issued, v, none) else a
    | .later r => if r.toNat = i && a.1 ≤ w.issued then (w.issued, 0, some w.slot) else a
    | _ => a) (c.sWr.getD i 0, c.s.getD i 0, none)

/-- The value a scalar has from the last write issued so far (R73); where it is not known yet the checkpoint awaits it. -/
def Core.lastS (c : Core) (i : Nat) : Word := (c.lastWrite i).2.1

/-- The named scalars whose last write has no value yet, with its issue cycle and slot (R73). -/
def Core.awaits (c : Core) (sm : Nat) : List (Nat × Nat × Nat) :=
  (List.range 32).filterMap fun i =>
    if bitsOf sm i 1 = 1 then (c.lastWrite i).2.2.map fun k => (i, (c.lastWrite i).1, k) else none

/-- The value a predicate has from the last write issued so far (R73). -/
def Core.lastP (c : Core) (i : Nat) : Bool :=
  let base : Nat × Bool := (c.pWr.getD i 0, c.p.getLsbD i)
  (c.pend.foldl (fun a w => match w.w with
    | .p r v => if r.toNat = i && a.1 ≤ w.issued then (w.issued, v) else a
    | _ => a) base).2

/-- The value a stream has from the writes issued so far, later ones upon earlier ones (R73). -/
def Core.lastG (c : Core) (i : Nat) : Desc :=
  let base : Nat × Desc := (c.gWr.getD i 0, c.g.getD i 0)
  (c.pend.foldl (fun a w => match w.w with
    | .g r x => if r.toNat = i && a.1 ≤ w.issued then (w.issued, x.apply a.2) else a
    | _ => a) base).2

/-- The checkpoint of a cut marker at address a (R63, R73): masks of scalars, predicates and streams, live tiles and row ranges. -/
def Core.checkpoint (c : Core) (clock a : Nat) (sm pg tm : Nat) (ranges : List (Nat × Nat)) : Checkpoint :=
  { entry := false, taken := clock, addr := a, loops := c.loops, tcyc := c.tcyc, phaseno := c.phaseno,
    flagsA := c.flagsA, flagsB := c.flagsB, fevrec := c.fevrec,
    s := Vector.ofFn fun i => if bitsOf sm i.val 1 = 1 then c.lastS i.val else 0,
    p := BitVec.ofNat 16 (1 + (List.range 15).foldl
      (fun x i => if bitsOf pg (i + 1) 1 = 1 && c.lastP (i + 1) then x + 2 ^ (i + 1) else x) 0),
    g := Vector.ofFn fun i => if bitsOf pg (16 + i.val) 1 = 1 then c.lastG i.val else 0,
    rows := ranges, tiles := BitVec.ofNat 16 tm, bufs := c.bufs, closed := c.ctx.toList.map (·.closed),
    opens := c.ctx.toList.map (·.cur), mapPhase := c.mapPhase, awaits := c.awaits sm }

/-- The literal entries of a REGION are well formed (R63): reserved bits zero, each range rising. -/
def regionLitsOk (s : State) (b nr : Nat) : Bool :=
  s.lit (b + 2) / 2 ^ 16 == 0 &&
    (List.range nr).all fun i =>
      let v := s.lit (b + 3 + i)
      bitsOf v 11 5 == 0 && bitsOf v 27 5 == 0 && bitsOf v 0 11 ≤ bitsOf v 16 11

/-- Rows pushed into the FIFOs of core n's pair before this cycle that stood there when it began (R232): those that a pop of this cycle has
taken, whose slots come back in three cycles, count too. -/
def State.pairBusy (s : State) (n : Nat) : Bool :=
  let p := s.pair (corePair n)
  (p.down.rows ++ p.up.rows).any (fun r => decide (r.1 < s.clock + 3)) || (p.down.freed ++ p.up.freed).any fun x => x == s.clock + 3

/-- REGION (R63, R64, R73): a cut takes the checkpoint, empties the stationary buffer (R187), needs the pair's FIFOs popped (R232), lets
the marked lane groups swap (R239), and marks the ended cores of the domain that have not taken this cut line themselves, before their END, as seen by
it (R61, R234, R247). -/
def opRegion (kind : BitVec 2) (b nr : BitVec 3) : Op := fun pre cur =>
  let c := pre.cur
  if !regionLitsOk pre b.toNat nr.toNat then .error (trapAt pre 0x02 0x00)
  else if kind ≠ 2 && c.region.kind == .sealed then .error (trapAt pre 0x02 0x05)
  else if kind = 0 then .ok (cur.modCur fun c => { c with region := ⟨.normal, pre.clock, pre.here, false⟩ })
  else if kind = 1 then
    let s := cur.modCur fun c => { c with region := ⟨.sealed, pre.clock, pre.here, false⟩ }
    .ok s
  else if pre.pairBusy pre.ix.core then .error (trapAt pre 0x02 0x12)
  else
    let bl := b.toNat
    let ranges := (List.range nr.toNat).map fun i => (bitsOf (pre.lit (bl + 3 + i)) 0 11, bitsOf (pre.lit (bl + 3 + i)) 16 11)
    let ck := c.checkpoint pre.clock pre.here (pre.lit bl) (pre.lit (bl + 1)) (pre.lit (bl + 2)) ranges
    let s := cur.modCur fun c =>
      { c with region := ⟨.cut, pre.clock, pre.here, false⟩, ckpt := some ck, cutTcyc := c.tcyc, panel := none }
    let s := s.busSwaps pre.ix.core
    match c.bind with
    | none => .ok s
    | some l => .ok ((s.launch l).cores.foldl (fun s n =>
        if (s.core n).run == .ended && decide ((s.core n).cutTcyc < c.tcyc) then (s.modCore n fun c => { c with endedAtCut := true }).busSwaps n else s) s)
def execRegion (kind : BitVec 2) (b nr : BitVec 3) (s : State) : Host.Outcome State Fault Refusal := runOp (opRegion kind b nr) s

/-! PHASE and RESYNC (R68-R72, R196, R334) -/

/-- Wait entry i of a list at literal j (R68). -/
def waitOf (s : State) (j i : Nat) : Wait :=
  let v := s.lit64 (j + 2 * i)
  ⟨bitsOf v 63 1 == 1, bitsOf v 60 3, bitsOf v 0 60⟩

/-- The members of a group (R314). -/
def State.members (s : State) (g : Nat) : List Nat := (SMap.get (0, []) s.groups g).2

/-- Key of `Fabric.remote`: the arrival of package p at pod group g (R362). -/
def podKey (g p : Nat) : Nat := g * 64 + p

/-- An arrival as `remote` holds it: n, kind (RESYNC), and whether all members there have ended; T_R's part; PSLOT of sending. -/
def arrivalCode (n : Nat) (resync ended : Bool) : Nat := n % 2 ^ 32 + (if resync then 2 ^ 32 else 0) + (if ended then 2 ^ 33 else 0) + 2 ^ 34

/-- The arrival that another package has sent for pod group g (R362), as a rendezvous that it has begun. -/
def State.remoteHold (s : State) (g : Nat) : Option Hold :=
  if SMap.get 0 s.fab.podMap g = 0 then none
  else (List.range 64).findSome? fun p =>
    let c := (SMap.get (0, 0, 0) s.fab.remote (podKey g p)).1
    if p = s.fab.pkg || c = 0 || bitsOf c 33 1 = 1 then none
    else some ⟨g, bitsOf c 32 1 == 1, BitVec.ofNat 32 c, 0, [], 0, false, 0, false⟩

/-- The pending rendezvous of a group: the first member that has arrived (R69, R71), here or in another package of a pod group. -/
def State.rendezvous (s : State) (g : Nat) : Option Hold :=
  let here := (s.members g).findSome? fun n => match (s.core n).hold with
    | some h => if h.group = g && !h.void then some h else none
    | none => none
  here.orElse fun _ => s.remoteHold g

/-- A context has an operation that writes device memory and has not completed (R334). -/
def Ctx.writes (x : Ctx) : Bool := x.cur.writing ≠ 0 || x.batches.any fun kb => kb.2.writing ≠ 0

/-- A wait list covers a context (R334). -/
def Ctx.coveredBy (x : Ctx) (i : Nat) (ws : List Wait) : Bool :=
  ws.any fun w => w.ctx == i && (if w.out then w.value == 0 else decide (x.closed ≤ w.value))

/-- The arrival of PHASE (with number n) or RESYNC (R69): the checks against the rendezvous as it stands (R68, R69, R71), the commit
rule of R334, the timed commands that could never start (R196); then the batch closes and the hold. -/
def arriveOp (resync : Bool) (g : Nat) (n : State → BitVec 32) (w : BitVec 2) (j : BitVec 3) : Op := fun pre cur =>
  let me := pre.ix.core
  let n := n pre
  let waits := (List.range w.toNat).map fun i => waitOf pre j.toNat i
  let arrival := pre.cur.tcyc + Nat.max (1 + pre.ix.idle) 8
  if !(pre.members g).contains me then .error (trapAt pre 0x02 0x08)
  else
    let clash : Option (BitVec 8) := match pre.rendezvous g with
      | none => none
      | some h => if h.resync != resync then some 0x0A else if !resync && h.n != n then some 0x09 else none
    match clash with
    | some d => .error (trapAt pre 0x02 d)
    | none =>
      let s := waits.foldl (fun s w => s.closeBatch me (ctxNo w.ctx)) cur
      let bare := [0, 1, 2, 3, 5, 7].any fun i =>
        let x := s.cur.ctxAt (ctxNo i)
        x.writes && !x.coveredBy i waits
      if !resync && bare then .error (trapAt pre 0x06 0x06)
      else if pre.cmds.any fun k => k.core == me && k.timed && k.stage != .running && arrival ≤ k.tS then
        .error (trapAt pre 0x12 0)
      else .ok (s.modCur fun c => { c with run := .held, hold := some ⟨g, resync, n, arrival, waits, pre.clock, false, pre.here, false⟩ })

/-- PHASE (R69). -/
def opPhase (g : BitVec 8) (l : BitVec 3) (w : BitVec 2) (j : BitVec 3) : Op :=
  arriveOp false g.toNat (fun s => BitVec.ofNat 32 (s.lit l.toNat)) w j
def execPhase (g : BitVec 8) (l : BitVec 3) (w : BitVec 2) (j : BitVec 3) (s : State) : Host.Outcome State Fault Refusal :=
  runOp (opPhase g l w j) s

/-- RESYNC (R68, R69, R71). -/
def opResync (g : BitVec 8) (w : BitVec 2) (j : BitVec 3) : Op := arriveOp true g.toNat (fun _ => 0) w j
def execResync (g : BitVec 8) (w : BitVec 2) (j : BitVec 3) (s : State) : Host.Outcome State Fault Refusal := runOp (opResync g w j) s

end Sys2Proof.Machine
end

