-- ==== Sys2Proof/Machine/Routing.lean ====
section
/-! DEFINITION. The routing engine (08, R212-R214). -/

namespace Sys2Proof.Machine

/-! The routing descriptor (R212) -/

def rtLoga (d : Desc) : Nat := Desc.field d 0 5
def rtLfmt (d : Desc) : Nat := Desc.field d 5 1
def rtLpitch (d : Desc) : Nat := Desc.field d 6 2
def rtT (d : Desc) : Nat := Desc.field d 8 2
def rtE (d : Desc) : Nat := Desc.field d 10 2
def rtK (d : Desc) : Nat := Desc.field d 12 1
def rtWfmt (d : Desc) : Nat := Desc.field d 13 1
def rtC (d : Desc) : Nat := Desc.field d 14 2
def rtIdx (d : Desc) : Nat := Desc.field d 16 5
def rtWt (d : Desc) : Nat := Desc.field d 21 5
def rtSlot (d : Desc) : Nat := Desc.field d 26 5
def rtDrop (d : Desc) : Nat := Desc.field d 31 5
def rtCnt (d : Desc) : Nat := Desc.field d 36 5
def rtTok (d : Desc) : Nat := Desc.field d 41 5
def rtStg (d : Desc) : Nat := Desc.field d 46 5
def rtRp (d : Desc) : Nat := Desc.field d 51 2

/-- Bytes of a routing format: FP32 or BF16. -/
def rtBytes (fmt : Nat) : Nat := if fmt = 2 then 2 else 4

/-- FORCE (R192). -/
def Cmd.force (k : Cmd) : Bool :=
  match k.instr with
  | .rtopk o => o.low.getLsbD 0
  | _ => false

/-! Memory as the command sees it: what it captured, and what it has written so far -/

/-- Working memory of a routing command: bytes by address, and the bytes written, in order. -/
structure RtMem where
  m : SMap Byte
  out : List (Nat × Byte)
  deriving DecidableEq, Repr

def RtMem.get (r : RtMem) (a n : Nat) : Nat := leNat ((List.range n).map fun i => SMap.get 0 r.m (a + i))
def RtMem.put (r : RtMem) (a : Nat) (l : List Byte) : RtMem :=
  { m := l.zipIdx.foldl (fun (m : SMap Byte) b => SMap.put 0 m (a + b.2) b.1) r.m, out := r.out ++ l.zipIdx.map fun b => (a + b.2, b.1) }

/-- A logit of a routing format as FP32, exact (R213). -/
def rtF32 (fmt code : Nat) : Nat := if fmt = 2 then code * 2 ^ 16 else code

/-- Expert a ranks before expert b (R213): numbers before NaN; larger first; +0 before -0; lower index. -/
def rtBefore (x : Nat → Nat) (a b : Nat) : Bool :=
  let u := fp32.decode (x a)
  let v := fp32.decode (x b)
  match u.isNan, v.isNan with
  | true, true => decide (a < b)
  | true, false => false
  | false, true => true
  | false, false =>
    match u.cmp v with
    | .gt => true
    | .lt => false
    | .eq =>
      if u.isZero && v.isZero && u.isNeg != v.isNeg then !u.isNeg else decide (a < b)

def rtInsert (x : Nat → Nat) (e : Nat) : List Nat → List Nat
  | [] => [e]
  | a :: r => if rtBefore x e a then e :: a :: r else a :: rtInsert x e r

/-- The experts in rank order. -/
def rtRank (x : Nat → Nat) (n : Nat) : List Nat := (List.range n).foldl (fun l e => rtInsert x e l) []

/-- One token of RTOPK (R213): the selection, the weights, flags. -/
def rtToken (x : Nat → Nat) (sel : List Nat) (wfmt : Nat) : List Nat × Flags :=
  let xs := sel.map x
  let (m, _) := match xs with
    | [] => (nan32, (0 : Flags))
    | a :: r => r.foldl (fun (b : Nat × Flags) v =>
        let (c, f) := fp32.minmax true false b.1 v
        (c, b.2 ||| f)) (a, 0)
  let ev := xs.map fun v =>
    let (a, f) := sub32 v m
    let (b, g) := mul32 a constL2E
    let (c, h) := exp2F fp32 b
    (c, f ||| g ||| h)
  let (sum, fs) := match ev.map (·.1) with
    | [] => (0, (0 : Flags))
    | a :: r => r.foldl (fun (b : Nat × Flags) v =>
        let (c, f) := add32 b.1 v
        (c, b.2 ||| f)) (a, 0)
  let (rc, fr) := rcpF fp32 sum
  let ws := ev.map fun e =>
    let (p, f) := mul32 e.1 rc
    if wfmt = 2 then
      let (w, g) := bf16.ofVal .ne (fp32.decode p)
      (w, f ||| g)
    else (p, f)
  (ws.map (·.1), (orFlags ev) ||| fs ||| fr ||| orFlags ws)

/-- RTOPK (R213). -/
def rtTopk (d : Desc) (force : Bool) (mem : RtMem) : RtMem × Flags :=
  let k := rtK d
  let n := rtE d
  let lb := rtBytes (rtLfmt d)
  let wb := rtBytes (rtWfmt d)
  (List.range (rtT d)).foldl (fun (acc : RtMem × Flags) t =>
    let x (e : Nat) : Nat := if e < n then rtF32 (rtLfmt d) (mem.get (rtLoga d + t * rtLpitch d + e * lb) lb) else nan32
    let sel := if force then (List.range k).map fun j => mem.get (rtIdx d + t * k + j) 1 else (rtRank x n).take k
    let read := if force then sel else List.range n
    let nv : Flags := if read.any fun e => (fp32.decode (x e)).isNan then flNV else 0
    let (ws, f) := rtToken x sel (rtWfmt d)
    let m := if force then acc.1 else acc.1.put (rtIdx d + t * k) (sel.map fun e => BitVec.ofNat 8 e)
    let m := m.put (rtWt d + t * k * wb) (ws.flatMap fun w => leBytes wb w)
    (m, acc.2 ||| nv ||| f)) (mem, 0)

/-- RCAP (R214): the counts, the number of drops. -/
def rtCap (d : Desc) (mem : RtMem) : RtMem × Nat :=
  let k := rtK d
  let n := rtE d
  let (mem, cnt, drops) := (List.range (rtT d * k)).foldl (fun (acc : RtMem × SMap Nat × Nat) i =>
    let (m, cnt, drops) := acc
    let e := m.get (rtIdx d + i) 1
    let c := SMap.get 0 cnt e
    if e < n && c < rtC d then (m.put (rtSlot d + 2 * i) (leBytes 2 c), SMap.put 0 cnt e (c + 1), drops)
    else
      let m := m.put (rtSlot d + 2 * i) (leBytes 2 0xFFFF)
      (m.put (rtDrop d + 4 * drops) (leBytes 4 (i / k + i % k * 2 ^ 12 + e * 2 ^ 16)), cnt, drops + 1)) (mem, [], 0)
  ((List.range n).foldl (fun (m : RtMem) e => m.put (rtCnt d + 2 * e) (leBytes 2 (SMap.get 0 cnt e))) mem, drops)

/-- base[e] of RDISP (R214). -/
def rtBase (d : Desc) (mem : RtMem) (e : Nat) : Nat := (List.range e).foldl (fun a i => a + mem.get (rtCnt d + 2 * i) 2) 0

/-- RDISP (R214). -/
def rtDisp (d : Desc) (mem : RtMem) : RtMem :=
  let k := rtK d
  let rp := rtRp d
  (List.range (rtT d * k)).foldl (fun (m : RtMem) i =>
    let sl := m.get (rtSlot d + 2 * i) 2
    if sl = 0xFFFF then m
    else
      let e := m.get (rtIdx d + i) 1
      let row := (List.range rp).map fun j => SMap.get 0 m.m (rtTok d + i / k * rp + j)
      m.put (rtStg d + (rtBase d mem e + sl) * rp) row) mem

/-! Arrays, checks and duration -/

/-- The arrays of a command, as (address, bytes). -/
def rtArrays (i : Instr) (d : Desc) (kept : Nat) : List (Nat × Nat) :=
  let t := rtT d
  let k := rtK d
  let idx := (rtIdx d, t * k)
  let slot := (rtSlot d, 2 * t * k)
  let cnt := (rtCnt d, 2 * rtE d)
  match i with
  | .rtopk _ =>
    [(rtLoga d, (t - 1) * rtLpitch d + rtE d * rtBytes (rtLfmt d)), idx, (rtWt d, t * k * rtBytes (rtWfmt d))]
  | .rcap _ => [idx, slot, (rtDrop d, 4 * t * k), cnt]
  | _ => [idx, slot, cnt, (rtTok d, t * rtRp d), (rtStg d, kept * rtRp d)]

/-- A routing block breaks its rules (R194, R212). -/
def rtInvalid (n : Nat) (i : Instr) (d : Desc) : Bool :=
  let fmtOk (f : Nat) : Bool := f == 0 || f == 2
  let own := (rtArrays i d 0).any fun a => decide (a.1 < sliceBase n) || decide (sliceBase n + 2 ^ 22 < a.1 + a.2)
  rtT d = 0 || decide (4096 < rtT d) || rtE d = 0 || decide (256 < rtE d) || rtK d = 0 || decide (8 < rtK d) ||
    decide (rtE d < rtK d) || own ||
    (match i with
      | .rtopk _ => !fmtOk (rtLfmt d) || !fmtOk (rtWfmt d)
      | .rcap _ => decide (4096 < rtC d)
      | _ => rtRp d % 64 ≠ 0 || rtRp d = 0 || decide (4096 < rtRp d) || decide (rtStg d < sliceBase n) ||
          decide (sliceBase n + 2 ^ 22 ≤ rtStg d))

/-- Duration (R214). -/
def rtDuration (i : Instr) (d : Desc) : Nat :=
  match i with
  | .rtopk _ => 32 + rtT d * ceilDiv (rtE d) 32
  | .rcap _ => 16 + ceilDiv (rtT d * rtK d) 4
  | _ => 16 + rtT d * rtK d * ceilDiv (rtRp d) 512

/-- The rows RDISP will keep, from the counts as they stand. -/
def State.rtKept (s : State) (d : Desc) : Nat :=
  (List.range (rtE d)).foldl (fun a e => a + memNat s.mem (nearBase + rtCnt d + 2 * e) 2) 0

/-- The banks a running routing command holds (R214). -/
def State.rtBanks (s : State) (k : Cmd) : List Nat :=
  ((rtArrays k.instr k.block (s.rtKept k.block)).flatMap fun a =>
    if a.2 = 0 then [] else (List.range 17).filterMap fun i =>
      let b := a.1 / 2 ^ 18 + i
      if b ≤ (a.1 + a.2 - 1) / 2 ^ 18 then some (b % 16) else none).eraseDups

/-- The slices that RDISP's staging rows reach, from the counts as they stand: the one side that can leave the core's own slice. -/
def State.rtSlices (s : State) (k : Cmd) : List Nat :=
  match k.instr with
  | .rdisp _ =>
    let n := s.rtKept k.block * rtRp k.block
    if n = 0 then [] else ((List.range (n / 2 ^ 22 + 2)).filterMap fun i =>
      coreOfAddr (Nat.min (rtStg k.block + i * 2 ^ 22) (rtStg k.block + n - 1))).eraseDups
  | _ => []

/-- A routing command's block has been captured: its format, then the access map for its staging rows (R332). -/
def State.captureRouting (s : State) (k : Cmd) : State :=
  if rtInvalid k.core k.instr k.block then s.failCmd k 0x02 0x10
  else if s.sideRefused k.core (s.rtSlices k) true then s.failCmd k 0x06 0x04
  else
    let k := { k with dur := rtDuration k.instr k.block }
    (s.setCmd k).schedule (s.startClock k) prioStart (.timedCommandStart k.core k.id)

/-- The bytes that a routing command reads (R213, R214): the logits it ranks or that its indices name, and the arrays and token rows it uses. -/
def State.rtInputs (s : State) (k : Cmd) : List Nat :=
  let d := k.block
  let span (a n : Nat) : List Nat := (List.range n).map (a + ·)
  let lb := rtBytes (rtLfmt d)
  let pairs := List.range (rtT d * rtK d)
  let idx := span (rtIdx d) (rtT d * rtK d)
  match k.instr with
  | .rtopk _ =>
    if k.force then idx ++ pairs.flatMap fun i =>
      let e := (s.nearByte (rtIdx d + i)).toNat
      if e < rtE d then span (rtLoga d + i / rtK d * rtLpitch d + e * lb) lb else []
    else (List.range (rtT d)).flatMap fun t => span (rtLoga d + t * rtLpitch d) (rtE d * lb)
  | .rcap _ => idx
  | _ =>
    idx ++ span (rtSlot d) (2 * rtT d * rtK d) ++ span (rtCnt d) (2 * rtE d) ++ (List.range (rtT d)).flatMap fun t =>
      if (List.range (rtK d)).any fun j => memNat s.mem (nearBase + rtSlot d + 2 * (t * rtK d + j)) 2 ≠ 0xFFFF
      then span (rtTok d + t * rtRp d) (rtRp d) else []

/-- A routing command starts (R214): it reads its arrays, and holds their banks until its end.  Where a read fails, it computes nothing. -/
def State.startRouting (s : State) (k : Cmd) : State :=
  let banks := s.rtBanks k
  let addrs := (s.rtInputs k).eraseDups
  let (got, s) := s.engineRead k addrs
  let seen := (addrs.zip (got.getD [])).foldl (fun (m : SMap Byte) b => SMap.put 0 m b.1 b.2) []
  let k := { k with stage := .running, start := s.clock, data := [(0, seen)], dead := got.isNone,
                    args := k.args ++ banks.map fun b => BitVec.ofNat 64 b }
  let s := s.setCmd k
  let s := s.modCore k.core fun c => { c with chan := SMap.put 0 c.chan k.ctx (s.clock + k.dur) }
  s.schedule (s.clock + k.dur) prioComplete (.routingComplete k.core k.id)

/-- The banks held by the routing command that runs on core t, if one does (R214). -/
def State.routingHolds (s : State) (t : Nat) : Option (Cmd × List Nat) :=
  (s.cmds.find? fun k => k.core == t && k.ctx == 4 && k.stage == .running && k.timed).map fun k =>
    (k, (k.args.drop 8).map (·.toNat))

/-- ROUTING_COMPLETE (R213, R214): the outputs become visible and the timed record is written; after an access has met the command's banks, each
output byte is the old or the new one. -/
def execRoutingComplete (core cmd : Nat) (s : State) : Host.Outcome State Fault Refusal :=
  if 768 ≤ core then .fault .noSuchUnit
  else
    match s.cmd cmd with
    | none => .next s
    | some k =>
      if k.stage != .running then .next s
      else
        let mem : RtMem := ⟨SMap.get [] k.data 0, []⟩
        let (m, f, v) : RtMem × Flags × Nat := match k.instr with
          | .rtopk _ =>
            let (m, f) := rtTopk k.block k.force mem
            (m, f, 0)
          | .rcap _ =>
            let (m, n) := rtCap k.block mem
            (m, 0, n)
          | _ => (rtDisp k.block mem, 0, 0)
        let out := if k.dead then [] else m.out
        let (out, s) := if k.lost.isEmpty then (out, s)
          else out.foldl (fun (a : List (Nat × Byte) × State) b =>
            let (x, s) := a.2.freeNat
            (if x % 2 = 0 then a.1 ++ [b] else a.1, s)) ([], s)
        let s := s.engineWrite k out
        .next (s.finishTimed { k with flags := f, value := BitVec.ofNat 32 v })

end Sys2Proof.Machine
end

