-- ==== Sys2Proof/Machine/Fabric.lean ====
section
/-! DEFINITION. The fabric unit (17): slot tables (R358, R359), pod time (R361), the fault log (R385), cells (R364), the queues and pairs (R365,
R367), cells applied at their target (R366, R370), acknowledgements, and the end of a fabric command (R373). -/

namespace Sys2Proof.Machine

/-! Numbers -/

/-- This package as a destination: pod x 64 + package. -/
def Fabric.self (f : Fabric) : Nat := f.pod * 64 + f.pkg
/-- A package of this pod as a destination. -/
def Fabric.inPod (f : Fabric) (p : Nat) : Nat := f.pod * 64 + p
def laneKey (port lane : Nat) : Nat := port * 8 + lane
def slotKey (port lane slot : Nat) : Nat := (port * 8 + lane) * 64 + slot % 64
/-- The package a cell from package i on line w reaches (R357). -/
def lineTarget (i w : Nat) : Nat := (i + w % 64) % 64

/-! Slot entries -/

/-- The default pattern (R359). -/
def defaultEntry (lane slot : Nat) : Nat :=
  let w := (slot + 8 * lane) % 64
  w + 2 ^ 7 + w * 2 ^ 8 + 2 ^ 15 + (if lane = 7 then 2 ^ 16 else 0)

/-- An entry of a bank of slot tables (R358): the default pattern where the bank holds no change. -/
def bankEntry (bank : SMap Word) (port lane slot : Nat) : Nat :=
  let v := (SMap.get 0 bank (slotKey port lane slot)).toNat
  if v / 2 ^ 32 = 1 then v % 2 ^ 32 else defaultEntry lane (slot % 64)

/-- A bank with one entry written. -/
def putEntry (bank : SMap Word) (port lane slot v : Nat) : SMap Word :=
  SMap.put 0 bank (slotKey port lane slot) (if v = defaultEntry lane (slot % 64) then 0 else BitVec.ofNat 64 (v + 2 ^ 32))

def txLine (e : Nat) : Nat := bitsOf e 0 7
def txEn (e : Nat) : Bool := bitsOf e 7 1 == 1
def rxLine (e : Nat) : Nat := bitsOf e 8 7
def rxEn (e : Nat) : Bool := bitsOf e 15 1 == 1
def txClass (e : Nat) : Nat := bitsOf e 16 2
def rxRelay (e : Nat) : Bool := bitsOf e 18 1 == 1

/-! The fault log (R385) -/

def State.fabLog (s : State) (kind port line peer slot : Nat) : State :=
  let f := s.fab
  let w := kind + port % 16 * 2 ^ 3 + line % 128 * 2 ^ 7 + peer % 64 * 2 ^ 14 + 2 ^ 20 + slot % 2 ^ 32 * 2 ^ 32
  let s := { s with fab := { f with log := SMap.put 0 f.log f.logHead (BitVec.ofNat 64 w), logHead := (f.logHead + 1) % 64 } }
  s.sendEvent evFabric (leBytes 8 w)

/-! Pod time (R361) -/

def Fabric.dest (f : Fabric) (d : Nat) : Dest := SMap.get .init f.dests d
def State.setDest (s : State) (d : Nat) (x : Dest) : State := { s with fab := { s.fab with dests := SMap.put .init s.fab.dests d x } }
def Fabric.source (f : Fabric) (d : Nat) : Source := SMap.get .init f.srcs d
def State.setSource (s : State) (d : Nat) (x : Source) : State := { s with fab := { s.fab with srcs := SMap.put .init s.fab.srcs d x } }

/-- The OP of a journal cell that carries nothing (Machine.Journal). -/
def jcNone : Nat := 255

/-- The oldest unacknowledged cell of a pair is 128 slots old, and is not being sent again already (R365). -/
def Dest.stale (x : Dest) (slot : Nat) : Bool :=
  match x.unacked with
  | [] => false
  | u :: _ => x.again.isNone && decide (u.slot + 128 ≤ slot)

/-- A journal cell of a pair has stayed unacknowledged for 64 rotations (R398); one whose record a lost partner no longer gets is none (R399). -/
def Dest.journalLate (x : Dest) (slot : Nat) : Bool :=
  x.unacked.any fun u => u.cell.kind == 4 && u.cell.op.toNat != jcNone && decide (u.first + 4096 ≤ slot)

/-- This clock cycle is the last of its slot (R361). -/
def State.slotEnds (s : State) : Bool := decide (slotLength ≤ s.fab.phase + fabricStep s.freq)

/-- What falls on the slot that begins: patches switch or miss acknowledgements (R381), pairs send again (R365), a journal cell is late (R398); and at the
start of a rotation the slip of a superstep that has ended is logged (R384, R408: log 14). -/
def State.slotBegins (s : State) : State :=
  let f := s.fab
  let p := f.pslot
  let s := if f.slipDue && p % 64 = 0 then ({ s with fab := { s.fab with slipDue := false } } : State).fabLog 4 0 0 0 p else s
  let s := f.patches.foldl (fun (s : State) (x : PatchState) =>
    let at_ := x.patch.patchSlot.toNat
    let s := if x.pending && decide (at_ ≤ p) then s.scheduleOnce s.clock prioAfter (.patchSwitch x.patch) else s
    if x.atHome && !x.missing.isEmpty && decide (at_ ≤ p + 128) then s.scheduleOnce s.clock prioAfter (.patchAckDeadline x.patch) else s) s
  let s := f.dests.foldl (fun (s : State) (x : Nat × Dest) =>
    if x.2.stale p then s.scheduleOnce s.clock prioAfter (.retransmit x.1) else s) s
  if s.jrn.valid && !s.jrn.lostPartner && (f.dest (f.inPod s.jrn.partner)).journalLate p then
    s.scheduleOnce s.clock prioAfter .partnerLost
  else s

/-- Put an event of the outside on a cycle. -/
def insertInput (i : Input) : List Input → List Input
  | [] => [i]
  | j :: r => if i.at_ < j.at_ then i :: j :: r else j :: insertInput i r

/-- The outside's event comes again on the next cycle. -/
def State.nextCycle (s : State) (ev : Instr) (stim : Stim) : State := { s with inputs := insertInput ⟨s.clock + 1, ev, stim⟩ s.inputs }

/-! Cells (R364, R387) -/

/-- Egress entry h of a route (R387). -/
def egressOf (e : Nat) (h : Nat) : Nat := bitsOf e (16 * h) 16
def egValid (x : Nat) : Bool := bitsOf x 15 1 == 1
def egTrunk (x : Nat) : Bool := bitsOf x 2 1 == 1

/-- The route to a package of another pod (R387). -/
def Fabric.route (f : Fabric) (d : Nat) : Nat := (SMap.get 0 f.path d).toNat

/-- ACK of the next cell to a pair (R364, R365): the highest SEQ received in order. -/
def Source.ack (x : Source) : Nat := x.next + 2 ^ 32 - 1

/-- The cell that carries what a queue entry asks for, as sent to d with a SEQ in a slot (R364, R365, R370). -/
def Fabric.cell (f : Fabric) (c : OutCell) (seq slot : Nat) : Cell :=
  let src := f.source c.dest
  let far : Bool := c.dest / 64 != f.pod
  { kind := c.kind, flags := BitVec.ofNat 8 ((if c.last then 1 else 0) + (if far then 16 else 0)),
    src := BitVec.ofNat 16 (f.pkg + f.pod * 64), dst := BitVec.ofNat 16 c.dest, seq := BitVec.ofNat 32 seq,
    ack := BitVec.ofNat 32 src.ack, slotNo := BitVec.ofNat 16 slot, addr := BitVec.ofNat 32 c.addr, op := c.op, fmt := c.fmt,
    cmd := c.cmd, step := BitVec.ofNat 16 c.step, egress := if far then BitVec.ofNat 64 (f.route c.dest) else 0,
    rfseq := match src.refused with
      | [] => 0
      | r :: _ => BitVec.ofNat 32 (r + 1),
    payload := c.data }

/-- A cell to d has left: the refused SEQ it carries is returned (R370). -/
def State.toldRefused (s : State) (d : Nat) : State :=
  let x := s.fab.source d
  s.setSource d { x with refused := x.refused.drop 1 }

/-- A queue entry without a command: control cells and idle cells. -/
def bareCell (entry dest kind op : Nat) (data : List Byte) : OutCell :=
  { entry := entry, core := 0, slot := 9, dest := dest, kind := BitVec.ofNat 8 kind, addr := 0, data := data, op := BitVec.ofNat 8 op, fmt := 0,
    cmd := 0, step := 0, last := false, win := 0, cmdId := 0, bind := none, ready := 0 }

/-- Control cells (KIND 5): what their OP says is the model's (log 14): arrival at a rendezvous, announcement, patch
acknowledgement, patch cancelled; and the patch itself, which is repair traffic and not a control cell (R360, R381). -/
def ctlArrival : Nat := 1
def ctlAnnounce : Nat := 2
def ctlPatchAck : Nat := 3
def ctlPatchCancel : Nat := 4
def ctlPatch : Nat := 5

def State.enqueue (s : State) (c : OutCell) : State := { s with fab := { s.fab with queue := s.fab.queue ++ [c] } }

/-- A control cell to every package of a list (R360). -/
def State.control (s : State) (to_ : List Nat) (op : Nat) (data : List Byte) : State :=
  to_.foldl (fun (s : State) (p : Nat) => s.enqueue (bareCell s.clock (s.fab.inPod p) 5 op data)) s

/-- The order of a queue (R367). -/
def OutCell.before (a b : OutCell) : Bool :=
  if a.entry ≠ b.entry then a.entry < b.entry else if a.core ≠ b.core then a.core < b.core else a.slot < b.slot

/-- The first cell of the queue that satisfies f, in the order of R367. -/
def firstCell (f : OutCell → Bool) (q : List OutCell) : Option OutCell :=
  q.foldl (fun (b : Option OutCell) c => if f c then (match b with
    | none => some c
    | some x => if c.before x then some c else some x) else b) none

/-! Cells at their target (R366, R370) -/

/-- A byte of a posted or FSEND cell may be written (R370): it lies in a declared buffer that is empty, or filling with FKIND 6, of a core that runs a
launch. -/
def State.postedOk (s : State) (a : Nat) : Bool :=
  match coreOfAddr a with
  | none => false
  | some t =>
    let c := s.core t
    let runs := match c.bind with
      | none => false
      | some b => (s.launch b).st == 3 || (s.launch b).st == 4 || (s.launch b).st == 6
    match bufAt c.bufs (a % 2 ^ 22) with
    | none => false
    | some (_, b) => runs && (b.st == .empty || (b.st == .filling && b.fkind == 6))

/-- The declared buffers that hold a list of scratchpad addresses. -/
def State.bufsOf (s : State) (addrs : List Nat) : List (Nat × Nat) :=
  (addrs.filterMap fun a => (coreOfAddr a).bind fun t => (bufAt (s.core t).bufs (a % 2 ^ 22)).map fun x => (t, x.1)).eraseDups

/-- The bytes that a cell with an OP leaves at address a: a write, or the word-wise sum (R366), with its flags. -/
def State.reduced (s : State) (op a : Nat) (payload : List Byte) : List (Nat × Byte) × Flags :=
  if op = 1 || op = 2 then
    (List.range (payload.length / 4)).foldl (fun (acc : List (Nat × Byte) × Flags) i =>
      let old := leNat ((List.range 4).map fun j => s.latestByte (nearBase + a + 4 * i + j))
      let x := leAt payload (4 * i) 4
      let (v, f) := if op = 1 then add32 old x else ((old + x) % 2 ^ 32, 0)
      (acc.1 ++ (leBytes 4 v).zipIdx.map fun b => (nearBase + a + 4 * i + b.2, b.1), acc.2 ||| f)) ([], 0)
  else (payload.zipIdx.map fun b => (nearBase + a + b.2, b.1), 0)

/-- A posted or FSEND cell is applied, or refused (none): R366, R370; the LAST cell of an FSEND with TFULL fills its buffer (R374).  What the bus or the
array refuses is not written, and the slice's own core records it: R366 names no core for it (log 25). -/
def State.applyPosted (s : State) (op a : Nat) (payload : List Byte) (full : Bool) : Option (State × Flags) :=
  let addrs := (List.range payload.length).map (a + ·)
  if !(addrs.all s.postedOk) then none
  else
    let (data, f) := s.reduced op a payload
    let n := (coreOfAddr a).getD 0
    let (torn, s) := if op = 0 then ([], s) else s.sliceServe n 0 0 s.clock false addrs
    let (lost, s) := s.sliceServe n 0 0 s.clock true addrs
    let s := s.addMemNow (data.filter fun b => !torn.contains (b.1 - nearBase) && !lost.contains (b.1 - nearBase))
    let s := (s.bufsOf addrs).foldl (fun (s : State) (b : Nat × Nat) =>
      if full then s.addBuf true b.1 b.2 .full 0 0 false
      else if ((s.core b.1).buf b.2).st == .empty then s.addBuf true b.1 b.2 .filling 6 0 false else s) s
    some (s, f)

/-! Fabric commands that run (R373) -/

def Fabric.find (f : Fabric) (id : Nat) : Option FabCmd := f.running.find? fun x => x.cmd == id
def State.setFab (s : State) (x : FabCmd) : State :=
  { s with fab := { s.fab with running := s.fab.running.map fun y => if y.cmd == x.cmd then x else y } }

/-- The bytes that a collective's member writes to its OUT (R377, R378). -/
def fabTotal (k : Cmd) (g : Nat) : Nat :=
  let n := Desc.field k.block 8 4
  match k.instr with
  | .frdc _ => n * (if Desc.field k.block 13 1 = 2 then 2 else 4)
  | .fag _ | .fa2a _ => n * g
  | _ => 0

/-- A running command whose cells are acknowledged, and whose member's output is written, completes (R373). -/
def State.fabSettle (s : State) (id : Nat) : State :=
  match s.fab.find id, s.cmd id with
  | some x, some k =>
    let g := ((List.range 64).filter fun p => (SMap.get AddrGroup.init s.fab.groups x.group).members.getLsbD p).length
    if !x.done && x.waiting = 0 && x.todo.isEmpty && decide (fabTotal k g ≤ x.got) then
      (s.setFab { x with done := true }).schedule s.clock prioAfter (.untimedComplete id)
    else s
  | _, _ => s

/-- SBUF and OBUF at the end of a fabric command (R374, R376). -/
def State.fabBuffers (s : State) (k : Cmd) (out : Option (Nat × Nat)) : State :=
  let b := Desc.field k.block (match k.instr with
    | .fsend _ => 17
    | _ => 14) 1
  let src : Option (Nat × Nat) := if bitsOf b 7 1 = 1 then (coreOfAddr (Desc.field k.block 0 5)).map fun t => (t, bitsOf b 0 6) else none
  let s := s.engineBuf src (if bitsOf b 6 1 = 1 then .full else .empty) 0 0 false
  s.engineBuf out .full 0 0 false

/-- A fabric command completes with a STATUS and DETAIL, and with it those that were issued again under its key (R373). -/
def State.fabEnd (s : State) (id : Nat) (status detail : Nat) (value : Nat) (out : Option (Nat × Nat)) : State :=
  match s.fab.find id, s.cmd id with
  | some x, some k =>
    let done (k : Cmd) : Cmd := { k with status := BitVec.ofNat 8 status, detail := BitVec.ofNat 8 detail, value := BitVec.ofNat 32 value, flags := x.flags }
    let s := s.fabBuffers k out
    let s := { s with fab := { s.fab with running := s.fab.running.filter fun y => y.cmd != id } }
    (s.cmds.filter fun j => j.id == id || x.alias_.contains j.id).foldl (fun (s : State) (j : Cmd) => s.finishCmd (done j)) s
  | _, _ => s

/-! Acknowledgement (R365, R369, R370, R373) -/

/-- The record of the journal that holds ring offset o (R393), and the cursor value at its end. -/
def Journal.recEnd (j : Journal) (o : Nat) : Option Nat :=
  (j.recs.find? fun r => decide (j.acur ≤ r.at_) && decide (r.at_ % 2 ^ 28 ≤ o) && decide (o < r.at_ % 2 ^ 28 + r.len)).map fun r => r.at_ + r.len

/-- A cell is acknowledged, refused or failed: the window, the launch, the command or the journal hear of it (a journal cell's OP: Machine.Journal). -/
def State.cellDone (s : State) (c : OutCell) (refused failed : Bool) : State :=
  let s := if c.kind == 1 then s.modIssuer c.core c.bind fun k =>
      let w := k.window c.win
      k.setWindow c.win { w with outst := w.outst - 1 }
    else s
  let s := match c.bind with
    | some b => if refused || (failed && c.kind == 1) then s.modLaunch b fun l => { l with pwfail := l.pwfail + 1 } else s
    | none => s
  let s := if c.cmdId = 0 then s
    else match s.fab.find c.cmdId with
      | none => s
      | some x => (s.setFab { x with waiting := x.waiting - 1, refused := x.refused + (if refused || failed then 1 else 0) }).fabSettle c.cmdId
  let s := if c.kind == 4 && c.op != 0 && !failed && s.jrn.copying.any (fun x => c.dest == s.fab.inPod x.1) then s.scheduleOnce s.clock prioAfter .partnerRestore else s
  if c.kind == 4 && !failed then
    match c.op.toNat with
    | 0 => if c.last then (match s.jrn.recEnd c.addr with
        | some e => s.schedule s.clock prioAfter (.journalAck e)
        | none => s) else s
    | 3 => s.schedule s.clock prioAfter (.untimedComplete c.cmdId)
    | _ => s
  else s

/-- The acknowledgement that a cell from d carries (R365, R370).  Refusals come back one in a cell and in SEQ order, and a cell with none says that
none is left: what is acknowledged is decided once no earlier refusal can still come (log 14).  No package acknowledges a cell that was lost on its line, nor one
after it, before it is sent again (R404). -/
def State.acked (s : State) (d : Nat) (ack rfseq : Nat) : State :=
  let x := s.fab.dest d
  let hit (u : Unacked) : Bool := rfseq ≠ 0 && (u.seq + 1) % 2 ^ 32 == rfseq % 2 ^ 32
  let below (u : Unacked) : Bool := hit u || decide (counterDiff ack u.seq < 2 ^ 31)
  let decided (u : Unacked) : Bool := rfseq = 0 || decide (counterDiff rfseq (u.seq + 1) < 2 ^ 31)
  let come := (x.unacked.takeWhile fun u => !u.lost).filter below
  let pool := x.undecided ++ come
  let keep := x.unacked.filter fun u => !come.contains u
  let again := match x.again, keep with
    | some q, u :: _ => if counterDiff q u.seq < 2 ^ 31 then some q else some u.seq
    | _, _ => none
  let s := s.setDest d { x with unacked := keep, again := again, undecided := pool.filter fun u => !decided u }
  let s := come.foldl (fun (s : State) (u : Unacked) => s.sample 1 (s.clock - u.since) none) s
  (pool.filter decided).foldl (fun (s : State) (u : Unacked) => s.cellDone u.cell (hit u) false) s

/-! Loopback (R371) -/

/-- The first loopback cell that has entered the queue is applied and acknowledged. -/
def State.loopbackOne (s : State) : Option State :=
  match firstCell (fun c => c.dest == s.fab.self && c.entry ≤ s.clock && (c.kind == 1 || c.kind == 2)) s.fab.queue with
  | none => none
  | some c =>
    let s := { s with fab := { s.fab with queue := s.fab.queue.erase c } }
    match s.applyPosted c.op.toNat c.addr c.data (c.kind == 2 && c.last && c.step % 2 == 1) with
    | none => some (((s.fabLog 5 0 0 s.fab.pkg s.fab.pslot).sample 1 (s.clock - c.entry) none).cellDone c true false)
    | some (t, f) =>
      let t := match t.fab.find c.cmdId with
        | some x => if c.cmdId = 0 then t else t.setFab { x with flags := x.flags ||| f }
        | none => t
      some ((t.sample 1 (s.clock - c.entry) none).cellDone c false false)

def State.loopbackFrom : Nat → State → State
  | 0, s => s
  | n + 1, s => match s.loopbackOne with
    | none => s
    | some t => t.loopbackFrom n

/-- Every loopback cell that has entered the queue by now. -/
def State.loopback (s : State) : State := State.loopbackFrom s.fab.queue.length s

/-! Issuing a fabric command (R373, R374) -/

/-- The key of a command (R373): core, issue-side batch number, place in the batch. -/
def Cmd.fabKey (k : Cmd) : Nat := k.core * 2 ^ 40 + k.bno * 2 ^ 10 + k.pos
/-- The key as the CMD tag of a cell. -/
def Cmd.tag (k : Cmd) : BitVec 32 := BitVec.ofNat 32 (k.core + k.pos * 2 ^ 10 + k.bno * 2 ^ 20)

/-- A command becomes a running fabric command, or stands in for the original that it repeats (R373); the answer says which. -/
def State.fabBegin (s : State) (k : Cmd) (group : Nat) : Bool × State :=
  let s := s.setCmd { k with stage := .away }
  match s.fab.running.find? fun x => x.key == k.fabKey && (match s.cmd x.cmd with
      | some j => j.bind == k.bind
      | none => false) with
  | some x => (false, s.setFab { x with alias_ := x.alias_ ++ [k.id] })
  | none =>
    let x : FabCmd := ⟨k.id, k.fabKey, [], 0, 0, group, [], [], 0, [], 0, false, 0⟩
    (true, { s with fab := { s.fab with running := s.fab.running ++ [x] } })

/-- A block that a command's key already runs for is not carried out again (R373). -/
def State.fabHeld (s : State) (k : Cmd) : Bool :=
  s.fab.running.any fun x => x.key == k.fabKey && (match s.cmd x.cmd with
    | some j => j.bind == k.bind
    | none => false)

/-- A side of a fabric block as a copy's side, for the buffer rules (R199, R374, R376). -/
def fabSide (a buf : Nat) : Side := ⟨a, 0, false, [], 0, buf⟩

/-- Bytes of window 0 that lie outside every slice. -/
def outsideSlices (a n : Nat) : Bool := decide (2 ^ 32 < a + n) || n = 0 || ((List.range (n / 2 ^ 22 + 2)).any fun i =>
  (coreOfAddr (Nat.min (a + i * 2 ^ 22) (a + n - 1))).isNone)

/-- The slices that n bytes from a touch. -/
def slicesOf (a n : Nat) : List Nat := ((List.range (n / 2 ^ 22 + 2)).filterMap fun i => coreOfAddr (Nat.min (a + i * 2 ^ 22) (a + n - 1))).eraseDups

/-- The bytes of n bytes from a in cells of 512 (R374, R378). -/
def pieces (n : Nat) : List (Nat × Nat) := (List.range (ceilDiv n 512)).map fun i => (512 * i, Nat.min 512 (n - 512 * i))

/-- FSEND's block breaks its rules (R374). -/
def State.fsendInvalid (s : State) (k : Cmd) : Bool :=
  let d := k.block
  let src := Desc.field d 0 5
  let off := Desc.field d 8 4
  let n := Desc.field d 12 4
  let win := Desc.field d 16 1
  let buf := Desc.field d 17 1
  let op := Desc.field d 18 1
  let w := (s.core k.core).window win
  Desc.field d 5 3 ≠ 0 || Desc.field d 20 44 ≠ 0 || n = 0 || decide (2 ^ 24 < n) || win = 0 || win = 255 || decide (3 ≤ op) ||
    decide (2 ≤ Desc.field d 19 1) || decide (2 ^ 32 ≤ src) || !w.valid || decide (w.size < off + n) ||
    decide (2 ^ 32 < w.baseAddr + off + n) || (op ≠ 0 && (src % 4 ≠ 0 || off % 4 ≠ 0 || n % 4 ≠ 0)) ||
    s.bufBad (fabSide src buf) [] [(0, n)]

/-- FSEND's block has been captured (R373, R374): checks, then its cells enter the queue. -/
def State.captureFsend (s : State) (k : Cmd) : State :=
  let d := k.block
  let src := Desc.field d 0 5
  let off := Desc.field d 8 4
  let n := Desc.field d 12 4
  let buf := Desc.field d 17 1
  let w := (s.core k.core).window (Desc.field d 16 1)
  let srcBuf : Option (Nat × Nat) := if bitsOf buf 7 1 = 1 then (coreOfAddr src).map fun t => (t, bitsOf buf 0 6) else none
  if s.fabHeld k then (s.fabBegin k 0).2
  else if s.fsendInvalid k then s.failCmd k 0x02 0x10
  else if s.sideRefused k.core (slicesOf src n) false then s.failCmd k 0x06 0x04
  else if w.pod = s.fab.pod && !s.fab.livePeers.getLsbD w.pkg && w.pkg ≠ s.fab.pkg then
    (s.setCmd { k with stage := .away, status := 0x23, detail := BitVec.ofNat 8 w.pkg }).schedule s.clock prioAfter (.untimedComplete k.id)
  else if s.bufNot srcBuf .full then s.failCmd k 0x15 0
  else
    let (_, s) := s.fabBegin k 0
    let (got, s) := s.engineRead k ((List.range n).map (src + ·))
    match got with
    | none => { s with fab := { s.fab with running := s.fab.running.filter fun x => x.cmd != k.id } }.leaveCmd k
    | some bytes =>
    let s := s.engineBuf srcBuf .draining 0 0 false
    let ps := pieces n
    let cells : List OutCell := ps.zipIdx.map fun p =>
      let at_ := p.1.1
      { entry := s.clock, core := k.core, slot := 9, dest := w.pod * 64 + w.pkg, kind := 2, addr := w.baseAddr + off + at_,
        data := (bytes.drop at_).take p.1.2, op := BitVec.ofNat 8 (Desc.field d 18 1), fmt := 0, cmd := k.tag,
        step := Desc.field d 19 1 % 2, last := p.2 + 1 == ps.length, win := 0, cmdId := k.id, bind := k.bind, ready := 0 }
    let s := match s.fab.find k.id with
      | some x => s.setFab { x with waiting := cells.length }
      | none => s
    let s := { s with fab := { s.fab with queue := s.fab.queue ++ cells } }
    if w.pod = s.fab.pod && w.pkg = s.fab.pkg then s.scheduleOnce s.clock prioAfter .cellSend else s

end Sys2Proof.Machine
end

