-- ==== Sys2Proof/Machine/Collective.lean ====
section
/-! DEFINITION. Address groups and collectives (17, R375-R379): the block's checks, the cells of FRDC, FAG and FA2A as they are formed and as
they arrive, and the member's output. -/

namespace Sys2Proof.Machine

/-- What a collective command works on: its group's members by rank, own rank, and the block's fields. -/
structure Coll where
  kind : Nat
  group : Nat
  members : List Nat
  rank : Nat
  src : Nat
  count : Nat
  sfmt : Nat
  dfmt : Nat
  entry : AddrGroup
  deriving DecidableEq, Repr

def Fabric.group (f : Fabric) (a : Nat) : AddrGroup := SMap.get .init f.groups a
/-- The members of an address group, by rank (R375). -/
def AddrGroup.ranks (g : AddrGroup) : List Nat := (List.range 64).filter fun p => g.members.getLsbD p

/-- Kind (0 FRDC, 1 FAG, 2 FA2A) and address group of a collective command (R372). -/
def collOf (i : Instr) : Nat × Nat :=
  match i with
  | .frdc o => (0, (o.low.extractLsb' 16 8).toNat)
  | .fag o => (1, (o.low.extractLsb' 16 8).toNat)
  | .fa2a o => (2, (o.low.extractLsb' 16 8).toNat)
  | _ => (3, 0)

def State.coll (s : State) (k : Cmd) : Coll :=
  let (kind, a) := collOf k.instr
  let g := s.fab.group a
  { kind := kind, group := a, members := g.ranks, rank := (g.ranks.filter (· < s.fab.pkg)).length, src := Desc.field k.block 0 5,
    count := Desc.field k.block 8 4, sfmt := Desc.field k.block 12 1, dfmt := Desc.field k.block 13 1, entry := g }

def Coll.size (c : Coll) : Nat := c.members.length
/-- The member that follows in rank. -/
def Coll.next (c : Coll) : Nat := c.members.getD ((c.rank + 1) % c.size) 0
def Coll.outAt (c : Coll) (p : Nat) : Nat := SMap.get 0 c.entry.out p
def Coll.stageAt (c : Coll) (p : Nat) : Nat := SMap.get 0 c.entry.stage p
/-- Bytes of an output element of FRDC. -/
def Coll.w (c : Coll) : Nat := if c.dfmt = 2 then 2 else 4
def Coll.inW (c : Coll) : Nat := if c.sfmt = 2 then 2 else 4
/-- Chunk q (R377): its first element and the end. -/
def Coll.chunk (c : Coll) (q : Nat) : Nat × Nat :=
  let n := ceilDiv c.count c.size
  (Nat.min (q * n) c.count, Nat.min ((q + 1) * n) c.count)
/-- The chunk that holds element e. -/
def Coll.chunkOf (c : Coll) (e : Nat) : Nat := e / Nat.max 1 (ceilDiv c.count c.size)
/-- Bytes of the member's input. -/
def Coll.inBytes (c : Coll) : Nat :=
  match c.kind with
  | 0 => c.count * c.inW
  | 1 => c.count
  | _ => c.count * c.size
/-- Bytes of its output. -/
def Coll.outBytes (c : Coll) : Nat := if c.kind = 0 then c.count * c.w else c.count * c.size
def Coll.stageBytes (c : Coll) : Nat := if c.kind = 0 then c.count * 4 else 0

/-- A collective's block breaks its rules (R376). -/
def State.collInvalid (s : State) (k : Cmd) : Bool :=
  let d := k.block
  let c := s.coll k
  let me := s.fab.pkg
  let buf := Desc.field d 14 1
  let obuf := Desc.field d 15 1
  Desc.field d 5 3 ≠ 0 || Desc.field d 16 48 ≠ 0 || c.count = 0 || decide (2 ^ 24 < c.count) || bitsOf obuf 6 1 ≠ 0 ||
    (if c.kind = 0 then !([0, 2].contains c.sfmt && [0, 2].contains c.dfmt) else c.sfmt ≠ 0 || c.dfmt ≠ 0) ||
    !c.entry.valid || !c.members.contains me || decide (2 ^ 32 ≤ c.src) || outsideSlices c.src c.inBytes ||
    outsideSlices (c.outAt me) c.outBytes || (c.kind = 0 && outsideSlices (c.stageAt me) c.stageBytes) ||
    s.bufBad (fabSide c.src buf) [] [(0, c.inBytes)] || (bitsOf obuf 7 1 = 1 && s.bufBad (fabSide (c.outAt me) obuf) [] [(0, c.outBytes)])

/-- The OBUF buffer of a collective. -/
def State.collOut (s : State) (k : Cmd) : Option (Nat × Nat) :=
  let b := Desc.field k.block 15 1
  if bitsOf b 7 1 = 1 then (coreOfAddr ((s.coll k).outAt s.fab.pkg)).map fun t => (t, bitsOf b 0 6) else none

/-! Forming cells -/

/-- A cell of a collective to a member (R377, R378): its step, address there, bytes, and the first slot it may be sent in. -/
def State.collCell (s : State) (k : Cmd) (to_ op fmt step addr ready : Nat) (data : List Byte) : OutCell :=
  { entry := s.clock, core := k.core, slot := 9, dest := s.fab.inPod to_, kind := 3, addr := addr, data := data, op := BitVec.ofNat 8 op,
    fmt := BitVec.ofNat 8 fmt, cmd := k.tag, step := step, last := false, win := 0, cmdId := k.id, bind := k.bind, ready := ready }

/-- The cells that a member of FRDC or FAG sends to the next in rank, over all steps (R377, R378). -/
def Coll.total (c : Coll) : Nat :=
  let len (q : Nat) : Nat := let (a, b) := c.chunk (q % Nat.max 1 c.size); b - a
  let steps := List.range (c.size - 1)
  match c.kind with
  | 0 =>
    steps.foldl (fun n t => n + ceilDiv (len (c.rank + c.size - t)) 128 + ceilDiv (len (c.rank + 1 + c.size - t)) (if c.w = 2 then 256 else 128)) 0
  | 1 => steps.length * (pieces c.count).length
  | _ => 0

/-- Cells formed for a command: they wait for their member's announcement (R376).  The last of those to the next in rank is LAST (R364). -/
def State.addTodo (s : State) (id : Nat) (cells : List OutCell) : State :=
  match s.fab.find id with
  | none => s
  | some x =>
    let total := match s.cmd id with
      | some k => (s.coll k).total
      | none => 0
    let cells := cells.zipIdx.map fun c => { c.1 with last := c.1.last || x.formed + c.2 + 1 = total }
    let s := s.setFab { x with todo := x.todo ++ cells, waiting := x.waiting + cells.length, formed := x.formed + cells.length }
    if cells.isEmpty then s else s.scheduleOnce s.clock prioAfter (.collectiveCell id)

/-- Bytes of the member's output are written (R376, R377): the OBUF buffer is filling from the first. -/
def State.collWrite (s : State) (k : Cmd) (addr : Nat) (data : List Byte) : State :=
  if data.isEmpty then s
  else
    match s.fab.find k.id with
    | none => s
    | some x =>
      let s := if x.got = 0 then s.engineBuf (s.collOut k) .filling 6 0 false else s
      (s.setFab { x with got := x.got + data.length }).engineWrite k (data.zipIdx.map fun b => (addr + b.2, b.1))

def State.addFabFlags (s : State) (id : Nat) (f : Flags) : State :=
  match s.fab.find id with
  | none => s
  | some x => s.setFab { x with flags := x.flags ||| f }

/-- n bytes of this member's input; none where the read fails. -/
def State.collRead (s : State) (k : Cmd) (a n : Nat) : Option (List Byte) × State := s.engineRead k ((List.range n).map (a + ·))

/-- The format of an FRDC element: 0 FP32, 2 BF16 (R376). -/
def collFmt (fmt : Nat) : FloatFmt := if fmt = 2 then bf16 else fp32

/-- Input elements e0 to e1 - 1 of FRDC as FP32 (R377): exact, a NaN canonical and a signalling one with NV (R117, R119). -/
def State.collInputs (s : State) (k : Cmd) (e0 e1 : Nat) : Option (List Nat) × State :=
  let c := s.coll k
  let (got, s) := s.collRead k (c.src + e0 * c.inW) ((e1 - e0) * c.inW)
  match got with
  | none => (none, s)
  | some l =>
    let xs := (List.range (e1 - e0)).map fun i => fp32.ofVal .ne ((collFmt c.sfmt).decode (leAt l (i * c.inW) c.inW))
    (some (xs.map (·.1)), s.addFabFlags k.id (orFlags xs))

/-- A partial in this member's STAGE: one FP32 word for each element, as the last write left it. -/
def State.stageWord (s : State) (c : Coll) (e : Nat) : Nat :=
  leNat ((List.range 4).map fun j => s.latestByte (nearBase + c.stageAt s.fab.pkg + 4 * e + j))

/-- Elements e0 to e1 - 1 of a chunk that is complete here, rounded (R377): bytes and flags; none where STAGE cannot be read. -/
def State.finalBytes (s : State) (k : Cmd) (e0 e1 : Nat) : Option (List Byte × Flags) × State :=
  let c := s.coll k
  let (lost, s) := s.engineServe k false ((List.range (4 * (e1 - e0))).map (c.stageAt s.fab.pkg + 4 * e0 + ·))
  (if lost.isEmpty then some ((List.range (e1 - e0)).foldl (fun (acc : List Byte × Flags) i =>
      let v := s.stageWord c (e0 + i)
      let (r, f) := (collFmt c.dfmt).ofVal .ne (fp32.decode v)
      (acc.1 ++ leBytes c.w r, acc.2 ||| f)) ([], 0))
    else none, s)

/-- The gather cells of the chunk of element e whose elements are all final (R377): written here, and sent on. -/
def State.collFinal (s : State) (k : Cmd) (e ready : Nat) : State :=
  let c := s.coll k
  let (lo, hi) := c.chunk (c.chunkOf e)
  let u := if c.w = 2 then 256 else 128
  let a := lo + (e - lo) / u * u
  let b := Nat.min (a + u) hi
  match s.fab.find k.id with
  | none => s
  | some x =>
    let pieces := (List.range (ceilDiv (b - a) 128)).map fun i => a + 128 * i
    if !(pieces.all fun p => x.final.contains p) then s
    else match s.finalBytes k a b with
    | (none, s) => s
    | (some (data, f), s) =>
      let s := (s.collWrite k (c.outAt s.fab.pkg + a * c.w) data).addFabFlags k.id f
      if c.size ≤ 1 then s
      else s.addTodo k.id [s.collCell k c.next 0 c.dfmt c.size (c.outAt c.next + a * c.w) ready data]

/-- 128 elements from e0 have a new partial in STAGE: sent on at step t + 1, or final here (R377). -/
def State.collPartial (s : State) (k : Cmd) (t e0 : Nat) (words : List Nat) (ready : Nat) : State :=
  let c := s.coll k
  let data := words.flatMap fun w => leBytes 4 w
  if t < c.size then
    s.addTodo k.id [s.collCell k c.next 3 0 t (c.stageAt c.next + 4 * e0) ready data]
  else
    let s := s.engineWrite k (data.zipIdx.map fun b => (c.stageAt s.fab.pkg + 4 * e0 + b.2, b.1))
    match s.fab.find k.id with
    | none => s
    | some x => (s.setFab { x with final := x.final ++ [e0] }).collFinal k e0 ready

/-- The first cells of a collective that starts here: step 1, and the blocks that stay (R377, R378). -/
def State.collStart (s : State) (k : Cmd) : State :=
  let c := s.coll k
  let me := s.fab.pkg
  match c.kind with
  | 0 =>
    let (lo, hi) := c.chunk c.rank
    ((List.range (ceilDiv (hi - lo) 128)).map fun i => lo + 128 * i).foldl (fun (s : State) (e0 : Nat) =>
      match s.collInputs k e0 (Nat.min (e0 + 128) hi) with
      | (some ws, s) => s.collPartial k 1 e0 ws 0
      | (none, s) => s) s
  | 1 =>
    match s.collRead k c.src c.count with
    | (none, s) => s
    | (some l, s) =>
      let s := s.collWrite k (c.outAt me + c.rank * c.count) l
      if c.size ≤ 1 then s
      else s.addTodo k.id ((pieces c.count).map fun p =>
        s.collCell k c.next 0 0 1 (c.outAt c.next + c.rank * c.count + p.1) 0 ((l.drop p.1).take p.2))
  | _ =>
    c.members.zipIdx.foldl (fun (s : State) (m : Nat × Nat) =>
      match s.collRead k (c.src + m.2 * c.count) c.count with
      | (none, s) => s
      | (some l, s) =>
        if m.1 = me then s.collWrite k (c.outAt me + c.rank * c.count) l
        else s.addTodo k.id ((pieces c.count).map fun p =>
          { s.collCell k m.1 0 0 1 (c.outAt m.1 + c.rank * c.count + p.1) 0 ((l.drop p.1).take p.2) with last := decide (c.count ≤ p.1 + p.2) })) s

/-! Announcements (R376). `remote` holds, at announceKey a p, how many announcements of package p in address group a no command here has taken. -/

def announceKey (a p : Nat) : Nat := 2 ^ 24 + a * 64 + p

def State.putRemote (s : State) (key : Nat) (v : Nat × Nat × Nat) : State :=
  { s with fab := { s.fab with remote := SMap.put (0, 0, 0) s.fab.remote key v } }
def Fabric.remoteAt (f : Fabric) (key : Nat) : Nat × Nat × Nat := SMap.get (0, 0, 0) f.remote key

/-- An announcement of package p in group a has arrived. -/
def State.heardFrom (s : State) (a p : Nat) : State :=
  match s.fab.running.find? fun x => x.group == a && !x.done && !x.heard.contains p && (match s.cmd x.cmd with
      | some k => (collOf k.instr).1 < 3
      | none => false) with
  | some x => (s.setFab { x with heard := x.heard ++ [p] }).scheduleOnce s.clock prioAfter (.collectiveCell x.cmd)
  | none => s.putRemote (announceKey a p) ((s.fab.remoteAt (announceKey a p)).1 + 1, 0, 0)

/-- A collective's block has been captured (R373, R376): checks, absent members, then the announcement and the first cells. -/
def State.captureCollective (s : State) (k : Cmd) : State :=
  let c := s.coll k
  let me := s.fab.pkg
  let buf := Desc.field k.block 14 1
  let srcBuf : Option (Nat × Nat) := if bitsOf buf 7 1 = 1 then (coreOfAddr c.src).map fun t => (t, bitsOf buf 0 6) else none
  if s.fabHeld k then (s.fabBegin k c.group).2
  else if s.collInvalid k then s.failCmd k 0x02 0x10
  else if s.sideRefused k.core (slicesOf c.src c.inBytes) false || s.sideRefused k.core (slicesOf (c.outAt me) c.outBytes) true ||
      (c.kind = 0 && s.sideRefused k.core (slicesOf (c.stageAt me) c.stageBytes) true) then s.failCmd k 0x06 0x04
  else
    match c.members.find? fun p => p != me && !s.fab.livePeers.getLsbD p with
    | some p =>
      (s.setCmd { k with stage := .away, status := 0x23, detail := BitVec.ofNat 8 p }).schedule s.clock prioAfter (.untimedComplete k.id)
    | none =>
      if s.bufNot srcBuf .full || s.bufNot (s.collOut k) .empty then s.failCmd k 0x15 0
      else
        let (_, s) := s.fabBegin k c.group
        let s := s.engineBuf srcBuf .draining 0 0 false
        let others := c.members.filter (· != me)
        let s := s.control others ctlAnnounce (leBytes 1 c.group)
        let s := others.foldl (fun (s : State) (p : Nat) =>
          let n := (s.fab.remoteAt (announceKey c.group p)).1
          if n = 0 then s else (s.putRemote (announceKey c.group p) (n - 1, 0, 0)).heardFrom c.group p) s
        (s.collStart k).fabSettle k.id

/-- COLLECTIVE_CELL (R367, R376, R377): the cells formed for members that have announced enter the queue. -/
def execCollectiveCell (op : Nat) (s : State) : Host.Outcome State Fault Refusal :=
  match s.fab.find op with
  | none => .next s
  | some x =>
    let go (c : OutCell) : Bool := x.heard.contains (c.dest % 64)
    let cells := (x.todo.filter go).map fun c => { c with entry := s.clock }
    let s := s.setFab { x with todo := x.todo.filter fun c => !go c }
    .next { s with fab := { s.fab with queue := s.fab.queue ++ cells } }

/-! Arriving cells -/

/-- The running collective that a cell at an address belongs to: the oldest whose STAGE (partials) or OUT holds it. -/
def State.collAt (s : State) (op addr : Nat) : Option Cmd :=
  s.fab.running.findSome? fun x =>
    match s.cmd x.cmd with
    | none => none
    | some k =>
      let c := s.coll k
      let base := if op = 3 then c.stageAt s.fab.pkg else c.outAt s.fab.pkg
      let n := if op = 3 then c.stageBytes else c.outBytes
      if c.kind < 3 && !x.done && base ≤ addr && addr < base + n then some k else none

/-- A collective cell is applied (R376-R378): partials are added to this member's input; gathered bytes are written and passed on. -/
def State.collArrive (s : State) (op step addr : Nat) (data : List Byte) : State :=
  match s.collAt op addr with
  | none => s
  | some k =>
    let c := s.coll k
    let ready := s.fab.pslot + 2
    let s :=
      if op = 3 then
        let e0 := (addr - c.stageAt s.fab.pkg) / 4
        match s.collInputs k e0 (e0 + data.length / 4) with
        | (none, s) => s
        | (some ins, s) =>
          let out := ins.zipIdx.map fun y => add32 (leAt data (4 * y.2) 4) y.1
          let s := s.addFabFlags k.id (orFlags out)
          let ws := out.map (·.1)
          let s := s.engineWrite k ((ws.flatMap fun w => leBytes 4 w).zipIdx.map fun b => (c.stageAt s.fab.pkg + 4 * e0 + b.2, b.1))
          s.collPartial k (step + 1) e0 ws ready
      else
        let off := addr - c.outAt s.fab.pkg
        let s := s.collWrite k addr data
        match c.kind with
        | 0 => if step + 2 < 2 * c.size then s.addTodo k.id [s.collCell k c.next 0 c.dfmt (step + 1) (c.outAt c.next + off) ready data] else s
        | 1 => if step + 1 < c.size then s.addTodo k.id [s.collCell k c.next 0 0 (step + 1) (c.outAt c.next + off) ready data] else s
        | _ => s
    s.fabSettle k.id

end Sys2Proof.Machine
end

