-- ==== Sys2Proof/Machine/Journal.lean ====
section
/-! DEFINITION. The journal unit (18): records and their durability (R389-R394), emission (R395, R396), truncation (R397), the loss of a partner (R398,
R399), replay extracts and classes (R400, R402), and the rings kept for other packages (R390). -/

namespace Sys2Proof.Machine

def ringBytes : Nat := 2 ^ 28

def State.setJrn (s : State) (j : Journal) : State := { s with jrn := j }

/-- A 256 MiB aligned ring in the far tier that no other ring of this package uses: Vesper's choice, never the first (log 14). -/
def State.newRing (s : State) : Nat × State :=
  let (r, s) := s.freeNat
  let used := s.jrn.shadow :: s.jrn.rings.map fun x => x.2.base
  ((((List.range 2047).map fun i => (1 + (r + i) % 2047) * ringBytes).find? fun b => !used.contains b).getD ringBytes, s)

/-- The shadow ring stands from its first use (R390). -/
def State.withShadow (s : State) : State :=
  if s.jrn.shadow ≠ 0 then s
  else
    let (b, s) := s.newRing
    s.setJrn { s.jrn with shadow := b }

/-- The image of the launch that issued a command, wherever that launch stands now. -/
def State.imageFor (s : State) (k : Cmd) : Option Image := k.bind.bind fun b => s.imageAt (s.launch b).image

/-! Journal cells (KIND 4): ADDR is a ring offset; the meaning of OP is the model's (log 14): record bytes, a new TCUR, a record marked discarded, EMSEQ,
bytes of a copy, the end of a copy, INST, bytes of another package's ring, and its cursors. -/

def jcRecord : Nat := 0
def jcTcur : Nat := 1
def jcDiscard : Nat := 2
def jcEmseq : Nat := 3
def jcCopy : Nat := 4
def jcCopied : Nat := 5
def jcInst : Nat := 6
def jcRing : Nat := 7
def jcRingEnd : Nat := 8

/-- The package that journal cells go to: the one that receives a copy, else the partner while it is not lost. -/
def Journal.target (j : Journal) : Option Nat :=
  match j.copying with
  | some (q, _) => some q
  | none => if j.valid && !j.lostPartner then some j.partner else none

/-- A journal cell to package q.  It belongs to no core: the journal's cells of one cycle leave behind the cores', in the order in which the journal unit
forms them, and so in RECNO order (R394). -/
def State.jrnCellTo (s : State) (q op addr : Nat) (data : List Byte) (last : Bool) (step cmd : Nat) : State :=
  s.enqueue { bareCell s.clock (s.fab.inPod q) 4 op data with core := coreCount, addr := addr, last := last, step := step, cmdId := cmd }

/-- A journal cell to the package that the journal's cells go to. -/
def State.jrnCell (s : State) (op addr : Nat) (data : List Byte) (last : Bool) (pad : Bool) (cmd : Nat) : State :=
  match s.jrn.target with
  | none => s
  | some q => s.jrnCellTo q op addr data last (if pad then 1 else 0) cmd

/-- Bytes from ring offset o in cells of 512 (R394). -/
def State.jrnCells (s : State) (op o : Nat) (data : List Byte) (pad : Bool) : State :=
  let ps := pieces data.length
  ps.zipIdx.foldl (fun (s : State) (p : (Nat × Nat) × Nat) =>
    s.jrnCell op ((o + p.1.1) % ringBytes) ((data.drop p.1.1).take p.1.2) (p.2 + 1 == ps.length) pad 0) s

/-- Write bytes into the shadow ring at a cursor value. -/
def State.shadowWrite (s : State) (cur : Nat) (data : List Byte) : State :=
  s.addMemNow (data.zipIdx.map fun b => (s.jrn.shadow + (cur + b.2) % ringBytes, b.1))

/-! JRNL (R391-R394) -/

def jrnRlen (d : Desc) : Nat := Desc.field d 28 2
def jrnRsrc (d : Desc) : Nat := Desc.field d 32 5

/-- The block of a JRNL breaks its rules (R392). -/
def jrnlInvalid (n : Nat) (d : Desc) : Bool :=
  Desc.field d 24 4 ≠ 0 || Desc.field d 30 1 ≠ 0 || decide (2 ≤ Desc.field d 31 1) || Desc.field d 37 27 ≠ 0 || decide (16384 < jrnRlen d) ||
    decide (jrnRsrc d < sliceBase n) || decide (sliceBase n + 2 ^ 22 < jrnRsrc d + jrnRlen d) || decide (sliceBase n + 2 ^ 22 ≤ jrnRsrc d)

/-- Insert a captured JRNL: capture order, then core number (R394). -/
def State.queueJrnl (s : State) (k : Cmd) : List Nat :=
  let before := s.jrn.jrnls.filter fun i => match s.cmd i with
    | some j => decide (j.start < s.clock) || decide (j.core ≤ k.core)
    | none => true
  before ++ [k.id] ++ s.jrn.jrnls.filter fun i => !before.contains i

/-- A JRNL's block has been captured. -/
def State.captureJrnl (s : State) (k : Cmd) : State :=
  if jrnlInvalid k.core k.block then s.failCmd k 0x02 0x10
  else
    let s := s.setCmd { k with stage := .away, start := s.clock, args := k.args ++ [BitVec.ofNat 64 s.jrn.inst] }
    (s.setJrn { s.jrn with jrnls := s.queueJrnl k }).schedule s.clock prioAfter .journalRecord

/-- Entries of a replay extract in memory (R400): address of the index entry, SEQID, COUNT, offset of its records. -/
def extractIndex (mem : Memory) (a : Nat) : List (Nat × Nat × Nat × Nat) :=
  (List.range (memNat mem (a + 16) 4)).map fun i =>
    let e := a + 64 + 32 * i
    (e, memNat mem e 8, memNat mem (e + 16) 4, memNat mem (e + 20) 8)

/-- The addresses of n records one after another. -/
def recordChain (mem : Memory) : Nat → Nat → List Nat
  | 0, _ => []
  | n + 1, a => a :: recordChain mem n (a + memNat mem (a + 28) 2)

/-- CLASS of the first record of a replayed sequence (R402), and the index entries it is written into. -/
def State.replayClass (s : State) (k : Cmd) : Nat × List Nat :=
  let seqid := Desc.field k.block 0 8
  let hits := s.jrn.extracts.flatMap fun x => ((extractIndex s.mem x.2.1).filter fun e => e.2.1 == seqid).map fun e => (x.2.1, e)
  let recs := hits.flatMap fun h => recordChain s.mem h.2.2.2.1 (h.1 + h.2.2.2.2)
  let img := s.imageFor k
  let tag := match img with
    | some i => i.wdTag
    | none => 0
  let inv := match img with
    | some i => i.batchInv
    | none => false
  let a := !recs.isEmpty && inv && recs.all fun r => memNat s.mem (r + 48) 8 == tag && bitsOf (memNat s.mem (r + 31) 1) 0 1 == 1
  (if a then 1 else 2, hits.map fun h => h.2.1)

/-- The 64-byte header of a token record (R393). -/
def State.recordHeader (s : State) (k : Cmd) (len cls : Nat) : List Byte :=
  let img := s.imageFor k
  let tag := match img with
    | some i => i.wdTag
    | none => 0
  let inv := match img with
    | some i => i.batchInv
    | none => false
  leBytes 24 (Desc.field k.block 0 24) ++ leBytes 4 (k.args.getD 8 0).toNat ++ leBytes 2 len ++ leBytes 1 1 ++
    leBytes 1 ((if inv then 1 else 0) + 2 * cls) ++ leBytes 8 s.jrn.recno ++ leBytes 4 (k.launch s).lid ++ leBytes 2 k.core ++
    leBytes 1 s.fab.pkg ++ leBytes 1 s.fab.pod ++ leBytes 8 tag ++ leBytes 4 0 ++ leBytes 2 0 ++ leBytes 2 (jrnRlen k.block)

/-- A pad record's header: KIND 0 and its RECLEN (R393). -/
def padHeader (len : Nat) : List Byte := leBytes 28 0 ++ leBytes 2 len ++ leBytes 34 0

/-- The next JRNL that waits comes up. -/
def State.nextJrnl (s : State) : State := if s.jrn.jrnls.isEmpty then s else s.schedule s.clock prioAfter .journalRecord

/-- JOURNAL_RECORD (R394): the first JRNL that waits gets its place, once there is room; the record goes to the shadow ring and to the partner. -/
def execJournalRecord (s : State) : Host.Outcome State Fault Refusal :=
  match s.jrn.jrnls with
  | [] => .next s
  | id :: rest =>
    match s.cmd id with
    | none => .next (s.setJrn { s.jrn with jrnls := rest })
    | some k =>
      let s := s.withShadow
      let rlen := jrnRlen k.block
      let len := 64 * ceilDiv (64 + rlen) 64
      let s :=
        if ringBytes < s.jrn.wcur % ringBytes + len then
          let j := s.jrn
          let gap := ringBytes - j.wcur % ringBytes
          let r : Rec := ⟨j.wcur, gap, 0, 0, 0, 0, 0, 0, 0, 0, 0, 0, 0⟩
          let s := s.shadowWrite j.wcur (padHeader gap)
          let s := s.jrnCells jcRecord (j.wcur % ringBytes) (padHeader gap) true
          s.setJrn { s.jrn with wcur := j.wcur + gap, recs := s.jrn.recs ++ [r] }
        else s
      let j := s.jrn
      if ringBytes < j.wcur + len - j.tcur then .next s
      else
        let (cls, entries) : Nat × List Nat := if Desc.field k.block 31 1 = 1 then s.replayClass k else (0, [])
        let (got, s) := s.engineRead k ((List.range rlen).map (jrnRsrc k.block + ·))
        match got with
        | none => .next ((s.setJrn { s.jrn with jrnls := rest }).leaveCmd k).nextJrnl
        | some block =>
        let body := s.recordHeader k len cls ++ block ++ List.replicate (len - 64 - rlen) 0
        let d := k.block
        let r : Rec := ⟨j.wcur, len, 1, j.recno, Desc.field d 0 8, Desc.field d 8 4, Desc.field d 12 4, cls, 0, k.core, k.bno, k.id, (k.launch s).lid⟩
        let s := s.addMemNow (entries.map fun e => (e + 28, BitVec.ofNat 8 cls))
        let s := s.shadowWrite j.wcur body
        let s := s.jrnCells jcRecord (j.wcur % ringBytes) body false
        let s := s.setJrn { s.jrn with wcur := j.wcur + len, recno := j.recno + 1, recs := s.jrn.recs ++ [r], jrnls := rest }
        .next s.nextJrnl

/-- The JRNL commands whose record ends at or below a cursor value complete (R394). -/
def State.jrnDurable (s : State) (e : Nat) : State :=
  let done (r : Rec) : Bool := r.cmd ≠ 0 && decide (r.at_ + r.len ≤ e)
  let ids := (s.jrn.recs.filter done).map (·.cmd)
  let s := s.setJrn { s.jrn with recs := s.jrn.recs.map fun r => if done r then { r with cmd := 0 } else r }
  ids.foldl (fun (s : State) (id : Nat) => s.schedule s.clock prioAfter (.untimedComplete id)) s

/-- JOURNAL_ACK (R394): the partner has acknowledged every byte up to a cursor value. -/
def execJournalAck (end_ : Nat) (s : State) : Host.Outcome State Fault Refusal :=
  let s := s.setJrn { s.jrn with acur := Nat.min s.jrn.wcur (Nat.max s.jrn.acur end_) }
  .next (s.jrnDurable s.jrn.acur)

/-! EMIT (R395, R396) -/

/-- The context that an operation of tl6 stands in: its core's, or that of its pre-empted launch's saved core. -/
def State.emitCtx (s : State) (k : Cmd) : Ctx :=
  let l := k.launch s
  (if l.saved.isEmpty then s.core k.core else SMap.get Core.init l.saved k.core).ctxAt 6

/-- A record was written for a JRNL of the EMIT's core and launch in batch DEP with the SEQID, STEP and TOKEN of its block; it may have been discarded
since. -/
def Rec.serves (r : Rec) (s : State) (k : Cmd) : Bool :=
  let d := k.block
  r.kind != 0 && r.lid == (k.launch s).lid && r.core == k.core && r.batch == Desc.field d 0 8 && r.seqid == Desc.field d 8 8 &&
    r.step == Desc.field d 16 4 && r.token == Desc.field d 20 4

/-- Batch DEP holds a JRNL that matches the EMIT's block (R395): its record, or the JRNL as it waits. -/
def State.emitMatch (s : State) (k : Cmd) : Bool :=
  let d := k.block
  (s.jrn.recs ++ s.jrn.passed).any (fun r => r.serves s k) ||
    (s.jrn.jrnls.any fun i => match s.cmd i with
      | some j => j.core == k.core && j.bind == k.bind && j.bno == Desc.field d 0 8 && Desc.field j.block 0 8 == Desc.field d 8 8 &&
          Desc.field j.block 8 4 == Desc.field d 16 4 && Desc.field j.block 12 4 == Desc.field d 20 4
      | none => false)

/-- An EMIT's block has been captured (R395). -/
def State.captureEmit (s : State) (k : Cmd) : State :=
  let dep := Desc.field k.block 0 8
  let last := (s.emitCtx k).closed
  if Desc.field k.block 59 5 ≠ 0 then s.failCmd k 0x02 0x10
  else if dep = 0 || last < dep || dep + 7 < last || !s.emitMatch k then s.failCmd k 0x02 0x13
  else
    let s := s.setCmd { k with stage := .away }
    s.setJrn { s.jrn with emits := s.jrn.emits ++ [k.id] }

/-- An emission may leave (R396): the first of its core, its batch acquired, no partner lost. -/
def State.emitReady (s : State) (id : Nat) : Bool :=
  match s.cmd id with
  | none => true
  | some k =>
    (s.jrn.emits.find? fun i => match s.cmd i with
      | some j => j.core == k.core
      | none => false) == some id &&
      decide (Desc.field k.block 0 8 ≤ (s.emitCtx k).cnt) && !s.jrn.lostPartner && s.linkUp

/-- The last record that matches an EMIT. -/
def State.emitRecord (s : State) (k : Cmd) : Option Rec := ((s.jrn.passed ++ s.jrn.recs).filter fun r => r.serves s k).getLast?

/-- EMISSION_RELEASE (R396): the NOTE leaves, and its SEQ goes into the record in both rings, where TCUR has not passed it. -/
def execEmissionRelease (op : Nat) (s : State) : Host.Outcome State Fault Refusal :=
  if !s.jrn.emits.contains op || !s.emitReady op then .next s
  else
    let s := s.setJrn { s.jrn with emits := s.jrn.emits.filter (· != op) }
    match s.cmd op with
    | none => .next s
    | some k =>
      let d := k.block
      let r := s.emitRecord k
      let cls := match r with
        | some r => r.cls
        | none => 0
      let seq := s.nextSeq
      let payload := leBytes 8 (Desc.field d 8 8) ++ leBytes 4 (Desc.field d 16 4) ++ leBytes 4 (Desc.field d 20 4) ++ leBytes 4 s.jrn.inst ++
        leBytes 1 cls ++ leBytes 35 (Desc.field d 24 35)
      let s := s.sendMsg 0x85 (s.prioFlag k.bind) (2 ^ 31 + (k.bind.getD 0) * 2 ^ 32) payload (2 ^ 31)
      let s := s.setCmd { k with stage := .running, value := BitVec.ofNat 32 seq }
      match r.bind fun r => if s.jrn.tcur ≤ r.at_ then some r else none with
      | none => .next (s.schedule s.clock prioAfter (.untimedComplete op))
      | some r =>
        let s := s.setJrn { s.jrn with recs := s.jrn.recs.map fun x => if x.at_ == r.at_ then { x with emseq := seq } else x }
        let s := s.shadowWrite (r.at_ + 56) (leBytes 4 seq)
        match s.jrn.target with
        | none => .next (s.schedule s.clock prioAfter (.untimedComplete op))
        | some _ => .next (s.jrnCell jcEmseq (r.at_ % ringBytes) (leBytes 4 seq) true false op)

/-! JTRUNC (R397) -/

/-- TCUR moves over the discarded records and pads at its place. -/
def dropRecs : List Rec → Nat → Nat × List Rec
  | [], t => (t, [])
  | r :: rs, t => if r.kind = 1 then (t, r :: rs) else dropRecs rs (r.at_ + r.len)

/-- A JTRUNC's block has been captured: it acts, and completes after a free time. -/
def State.captureJtrunc (s : State) (k : Cmd) : State :=
  let d := k.block
  let seqid := Desc.field d 0 8
  let step := Desc.field d 8 4
  let retire := Desc.field d 16 1 = 1
  if decide (2 ≤ Desc.field d 16 1) || Desc.field d 17 47 ≠ 0 then s.failCmd k 0x02 0x10
  else
    let covered (r : Rec) : Bool := r.kind == 1 && r.seqid == seqid && (retire || decide (r.step ≤ step))
    let open_ (r : Rec) : Bool := r.emseq = 0 || (decide (1 ≤ counterDiff r.emseq s.link.hostAck) && decide (counterDiff r.emseq s.link.hostAck < 2 ^ 31))
    let hits := s.jrn.recs.filter covered
    let answer (s : State) (outcome n : Nat) : State :=
      let k := { k with stage := .running, detail := BitVec.ofNat 8 outcome, value := BitVec.ofNat 32 n }
      (s.setCmd k).later k
    if !retire && decide (Desc.field d 12 4 < step) then answer s 2 0
    else if hits.any open_ then answer s 1 0
    else
      let s := hits.foldl (fun (s : State) (r : Rec) =>
        (s.shadowWrite (r.at_ + 30) [2]).jrnCell jcDiscard (r.at_ % ringBytes) [] true false 0) s
      let recs := s.jrn.recs.map fun r => if covered r then { r with kind := 2 } else r
      let (t, recs) := dropRecs recs s.jrn.tcur
      let s := if t = s.jrn.tcur then s else s.jrnCell jcTcur 0 (leBytes 8 t) true false 0
      let inUse (r : Rec) : Bool := r.kind == 2 && s.binds.any fun b => b.2.lid == r.lid
      let passed := (s.jrn.passed ++ (s.jrn.recs.map fun r => if covered r then { r with kind := 2 } else r).filter fun r => decide (r.at_ < t)).filter inUse
      let s := s.setJrn { s.jrn with recs := recs, passed := passed, tcur := t }
      let s := if s.jrn.jrnls.isEmpty then s else s.schedule s.clock prioAfter .journalRecord
      answer s 0 hits.length

/-! Losing a partner (R398, R399) -/

/-- The journal's cells for a package that no longer holds it: those queued go, and those in flight keep their SEQ and carry nothing when they are sent
again (R399). -/
def State.dropJournalCells (s : State) (p : Nat) : State :=
  let d := s.fab.inPod p
  let x := s.fab.dest d
  let bare (c : OutCell) : OutCell := { c with op := BitVec.ofNat 8 jcNone, data := [], last := false, cmdId := 0 }
  let s := s.setDest d { x with unacked := x.unacked.map fun u => if u.cell.kind == 4 then { u with cell := bare u.cell } else u }
  { s with fab := { s.fab with queue := s.fab.queue.filter fun c => !(c.kind == 4 && c.dest == d) } }

/-- PARTNER_LOST (R398, R399). -/
def execPartnerLost (s : State) : Host.Outcome State Fault Refusal :=
  if s.jrn.lostPartner || !s.jrn.valid then .next s
  else .next (((s.dropJournalCells s.jrn.partner).setJrn { s.jrn with lostPartner := true }).sendEvent 0x24 [])

/-- A partner has been assigned (R389, R398, R400): INST rises, the partner hears of it, and one whose LIVEPEERS bit is clear is declared lost at once. -/
def State.partnerSet (s : State) (q : Nat) : State :=
  let inst := (s.jrn.inst + 1) % 2 ^ 32
  let s := s.setJrn { s.jrn with partner := q, valid := true, lostPartner := false, inst := inst }
  let s := s.jrnCellTo q jcInst 0 (leBytes 4 inst) true 0 0
  if s.fab.livePeers.getLsbD q then s else s.scheduleOnce s.clock prioAfter .partnerLost

/-- The journal from TCUR to WCUR goes to a new partner (R399). -/
def State.copyJournal (s : State) (q : Nat) : State :=
  let j := s.jrn
  let s := s.dropJournalCells j.partner
  let s := s.setJrn { j with copying := some (q, j.wcur) }
  let first := j.tcur % ringBytes
  let n := j.wcur - j.tcur
  let data := (List.range n).map fun i => s.latestByte (j.shadow + (first + i) % ringBytes)
  let s := s.jrnCells jcCopy first data false
  s.jrnCell jcCopied 0 (leBytes 8 j.wcur ++ leBytes 8 j.tcur) true false 0

/-- Something that the ring of package q must hold before its copy is complete is not acknowledged yet: bytes of the copy, its end, a discard (R399). -/
def Fabric.copyOpen (f : Fabric) (q : Nat) : Bool :=
  let x := f.dest (f.inPod q)
  (f.queue ++ (x.unacked ++ x.undecided).map (·.cell)).any fun c => c.dest == f.inPod q && c.kind == 4 && c.op != 0

/-- PARTNER_RESTORE (R399): Vesper names a new partner that is in LIVEPEERS, and the copy is sent; or the new partner has acknowledged the last byte, and the
discards made meanwhile. -/
def execPartnerRestore (s : State) : Host.Outcome State Fault Refusal :=
  let j := s.jrn
  match j.copying with
  | none =>
    let q := s.stim.unit
    if 64 ≤ q || q = s.fab.pkg then .fault .noSuchUnit
    else .next (if s.fab.livePeers.getLsbD q then s.copyJournal q else s)
  | some (q, e) =>
    if s.fab.copyOpen q then .next s
    else
    let s := (s.setJrn { j with acur := Nat.max j.acur e, copying := none }).partnerSet q
    let s := s.jrnDurable e
    let sent := s.cmds.filter fun k => k.stage == .running && (match k.instr with
      | .emit _ => true
      | _ => false)
    .next (sent.foldl (fun (s : State) (k : Cmd) => s.schedule s.clock prioAfter (.untimedComplete k.id)) s)

/-! Rings kept for others (R390, R400) -/

/-- The ring kept for package p; a first cell finds the ring that Vesper has allocated. -/
def State.ringFor (s : State) (p : Nat) : Ring × State :=
  let r := SMap.get .init s.jrn.rings p
  if r.base ≠ 0 then (r, s)
  else
    let (b, s) := s.newRing
    (⟨b, 0, 0, 0⟩, s)

/-- A journal cell of package p is applied (R390, R394); PRCUR moves with the LAST cell of a record, which the record's earlier cells have preceded, and PTCUR
never back.  A ring that another package hands on is that of the package named in STEP (R400). -/
def State.applyJournal (s : State) (p op addr step : Nat) (last : Bool) (data : List Byte) : State :=
  if op = jcNone then s
  else
  let p := if op = jcRing || op = jcRingEnd then step % 64 else p
  let (r, s) := s.ringFor p
  let put (s : State) (o : Nat) (data : List Byte) : State := s.addMemNow (data.zipIdx.map fun b => (r.base + (o + b.2) % ringBytes, b.1))
  let keep (s : State) (r : Ring) : State := s.setJrn { s.jrn with rings := SMap.put .init s.jrn.rings p r }
  match op with
  | 0 =>
    let cur := if step % 2 = 1 then (r.prcur / ringBytes + 1) * ringBytes else r.prcur / ringBytes * ringBytes + addr + data.length
    keep (put s addr data) { r with prcur := if last then cur else r.prcur }
  | 1 => keep s { r with ptcur := Nat.max r.ptcur (leNat data) }
  | 2 => keep (put s (addr + 30) [2]) r
  | 3 => keep (put s (addr + 56) data) r
  | 4 => keep (put s addr data) r
  | 5 => keep s { r with prcur := leAt data 0 8, ptcur := leAt data 8 8 }
  | 6 => keep s { r with inst := leNat data }
  | 7 => keep (put s addr data) r
  | 8 => keep s { r with prcur := leAt data 0 8, ptcur := leAt data 8 8, inst := leAt data 16 4 }
  | _ => s

/-- The ring of package p goes to a third package, which replaces p (R400): the bytes from PTCUR to PRCUR, then the cursors and INST. -/
def State.handRing (s : State) (p q : Nat) : State :=
  let r := SMap.get Ring.init s.jrn.rings p
  let s := (pieces (r.prcur - r.ptcur)).foldl (fun (s : State) (x : Nat × Nat) =>
    s.jrnCellTo q jcRing ((r.ptcur + x.1) % ringBytes) ((List.range x.2).map fun i => memByte s.mem (r.base + (r.ptcur + x.1 + i) % ringBytes)) false p 0) s
  s.jrnCellTo q jcRingEnd 0 (leBytes 8 r.prcur ++ leBytes 8 r.ptcur ++ leBytes 4 r.inst) true p 0

/-- The records of some kinds in a ring from cursor a up to b (R400): (SEQID, STEP, RECNO, address, RECLEN, INST). -/
def ringRecords (mem : Memory) (kinds : List Nat) (base : Nat) : Nat → Nat → Nat → List (Nat × Nat × Nat × Nat × Nat × Nat)
  | 0, _, _ => []
  | fuel + 1, a, b =>
    if b ≤ a then []
    else
      let p := base + a % ringBytes
      let len := memNat mem (p + 28) 2
      if memNat mem (p + 30) 1 = 0 then ringRecords mem kinds base fuel ((a / ringBytes + 1) * ringBytes) b
      else
        let rest := ringRecords mem kinds base fuel (a + len) b
        if kinds.contains (memNat mem (p + 30) 1) then (memNat mem p 8, memNat mem (p + 8) 4, memNat mem (p + 32) 8, p, len, memNat mem (p + 24) 4) :: rest else rest

/-- Order by SEQID, STEP, and the larger RECNO first. -/
def recBefore (a b : Nat × Nat × Nat × Nat × Nat × Nat) : Bool :=
  if a.1 ≠ b.1 then a.1 < b.1 else if a.2.1 ≠ b.2.1 then a.2.1 < b.2.1 else b.2.2.1 < a.2.2.1

def recInsert (a : Nat × Nat × Nat × Nat × Nat × Nat) : List (Nat × Nat × Nat × Nat × Nat × Nat) → List (Nat × Nat × Nat × Nat × Nat × Nat)
  | [] => [a]
  | b :: r => if recBefore a b then a :: b :: r else b :: recInsert a r

/-- One record for each SEQID and STEP. -/
def recUnique : List (Nat × Nat × Nat × Nat × Nat × Nat) → List (Nat × Nat × Nat × Nat × Nat × Nat)
  | [] => []
  | a :: r => a :: (recUnique r).filter fun b => !(b.1 == a.1 && b.2.1 == a.2.1)

/-- REPLAY_EXTRACT (R400): the lost package is the event's unit, its pod ours; the replacement is its index, and the place is Vesper's.  A package that holds
the ring and is not the replacement hands the ring on.  INST is the one that the lost package told last, or that of the last record where that is larger. -/
def execReplayExtract (s : State) : Host.Outcome State Fault Refusal :=
  let p := s.stim.unit
  if 64 ≤ p || 64 ≤ s.stim.index then .fault .noSuchUnit
  else if s.stim.index ≠ s.fab.pkg then .next (s.handRing p s.stim.index)
  else
    let r := SMap.get Ring.init s.jrn.rings p
    let records (kinds : List Nat) := ringRecords s.mem kinds r.base ((r.prcur - r.ptcur) / 64 + 1) r.ptcur r.prcur
    let all := records [1]
    let recs := recUnique (all.foldl (fun l a => recInsert a l) [])
    let ids := (recs.map (·.1)).eraseDups
    let head := 64 + 32 * ids.length
    let starts := (recs.foldl (fun (acc : List Nat × Nat) x => (acc.1 ++ [acc.2], acc.2 + x.2.2.2.2.1)) ([], head)).1
    let inst := Nat.max r.inst (((records [1, 2]).getLast?.map fun x => x.2.2.2.2.2).getD 0)
    let header := leBytes 6 p ++ leBytes 6 s.fab.pod ++ leBytes 4 inst ++ leBytes 4 ids.length ++ leBytes 44 0
    let index := ids.flatMap fun id =>
      let mine := (recs.zip starts).filter fun x => x.1.1 == id
      leBytes 8 id ++ leBytes 4 ((mine.head?.map fun x => x.1.2.1).getD 0) ++ leBytes 4 ((mine.getLast?.map fun x => x.1.2.1).getD 0) ++
        leBytes 4 mine.length ++ leBytes 8 ((mine.head?.map fun x => x.2).getD 0) ++ leBytes 4 0
    let body := recs.flatMap fun x => memBytes s.mem x.2.2.2.1 x.2.2.2.2.1
    let bytes := header ++ index ++ body
    let at_ := alignDown (s.stim.value.toNat % 2 ^ 39) 64
    let s := s.addMemNow (bytes.zipIdx.map fun b => (at_ + b.2, b.1))
    let s := s.setJrn { s.jrn with extracts := SMap.put (0, 0) s.jrn.extracts p (at_, bytes.length) }
    .next (s.sendEvent 0x25 (leBytes 8 at_ ++ leBytes 4 bytes.length ++ leBytes 1 p ++ leBytes 1 s.fab.pod ++ leBytes 1 s.fab.pkg ++ leBytes 1 0))

end Sys2Proof.Machine
end

