-- ==== Sys2Proof/Machine/Cells.lean ====
section
/-! DEFINITION. Cells on the wire (17): sending in a slot (R360, R365, R367, R383, R386, R387), receiving, reordering and acknowledging (R365, R366, R370,
R388), resending, and a package that leaves (R379, R417). -/

namespace Sys2Proof.Machine

/-! Sending -/

def State.putOut (s : State) (port lane : Nat) (c : Cell) : State :=
  { s with fab := { s.fab with out := SMap.put noCell s.fab.out (laneKey port lane) c } }

/-- The unacknowledged cell that is sent again from SEQ q on (R365), and the SEQ after it. -/
def resendFrom (q : Nat) : List Unacked → Option (Unacked × Option Nat)
  | [] => none
  | u :: r => if counterDiff u.seq q < 2 ^ 31 then some (u, r.head?.map (·.seq)) else resendFrom q r

/-- The next cell of the pair to d in a slot (R365, R367): one that is sent again, else the next of the queue while fewer than 256 are unacknowledged.  A
cell leaves in a slot that begins at its entry cycle or later (R363, R377: log 26). -/
def State.nextData (s : State) (d slot : Nat) : Option (Cell × State) :=
  let x := s.fab.dest d
  if x.held then none
  else
    match x.again with
    | some q =>
      match resendFrom q x.unacked with
      | none => none
      | some (u, more) =>
        let c := s.fab.cell u.cell u.seq slot
        let unacked := x.unacked.map fun v => if v.seq == u.seq then { v with slot := slot, via := 0, lost := false } else v
        some (c, (s.setDest d { x with unacked := unacked, again := more }).toldRefused d)
    | none =>
      if 256 ≤ x.unacked.length then none
      else
        match firstCell (fun c => c.dest == d && decide (1 ≤ c.kind.toNat) && decide (c.kind.toNat ≤ 4) && decide (c.entry ≤ s.fab.slotAt) && decide (c.ready ≤ slot))
            s.fab.queue with
        | none => none
        | some c =>
          let cell := s.fab.cell c x.next slot
          let x := { x with next := (x.next + 1) % 2 ^ 32, unacked := x.unacked ++ [⟨x.next, slot, slot, c, s.fab.slotAt, 0, false⟩] }
          let s := { s with fab := { s.fab with queue := s.fab.queue.erase c } }
          some (cell, (s.setDest d x).toldRefused d)

/-- A control cell, repair traffic or an idle cell that waits for a destination (R360). -/
def State.nextBare (s : State) (d : Nat) (kind : BitVec 8) (repair : Bool) (slot : Nat) : Option (Cell × State) :=
  match firstCell (fun c => c.dest == d && c.kind == kind && (c.kind == 5 && c.op.toNat == ctlPatch) == repair && decide (c.entry ≤ s.fab.slotAt)) s.fab.queue with
  | none => none
  | some c => some (s.fab.cell c 0 slot, ({ s with fab := { s.fab with queue := s.fab.queue.erase c } } : State).toldRefused d)

def cellHop (c : Cell) : Nat := bitsOf c.flags.toNat 2 2
/-- The egress entry a cell follows now (R387). -/
def cellEg (c : Cell) : Nat := egressOf c.egress.toNat (cellHop c)

/-- The first forwarded cell whose egress satisfies f, in ascending channel (R388). -/
def State.nextForward (s : State) (f : Nat → Bool) : Option (Cell × State) :=
  s.fab.chans.findSome? fun ch => (ch.2.find? fun c => f (cellEg c)).map fun c =>
    (c, { s with fab := { s.fab with chans := SMap.put [] s.fab.chans ch.1 (ch.2.erase c) } })

/-- The packages of other pods for which a cell waits whose first hop satisfies f: those sent again first, then in queue order. -/
def State.farDests (s : State) (f : Nat → Bool) : List Nat :=
  let go (d : Nat) : Bool := d / 64 != s.fab.pod && (let e := egressOf (s.fab.route d) 0; egValid e && f e)
  (((s.fab.dests.filter fun x => x.2.again.isSome).map (·.1)) ++ s.fab.queue.map (·.dest)).filter go

/-- The next cross-pod cell whose hop satisfies f (R386, R387): forwarded cells, then this package's own. -/
def State.nextFar (s : State) (f : Nat → Bool) (slot : Nat) : Option (Cell × State) :=
  match s.nextForward f with
  | some x => some x
  | none => (s.farDests f).findSome? fun d => match s.nextData d slot with
    | some x => some x
    | none => s.nextBare d 0 false slot

/-- An idle cell to d (R360). -/
def State.idleCell (s : State) (d slot : Nat) : Cell × State :=
  (s.fab.cell (bareCell s.clock d 0 0 []) 0 slot, s.toldRefused d)

/-- The destination of a relay-send slot (R383): that of the RELAY patch in force whose sender this package is. -/
def Fabric.relayDest (f : Fabric) (port : Nat) (m : Nat) : Option Nat :=
  (f.patches.find? fun p => p.applied && p.patch.kind == 2 && p.patch.port.toNat == port && p.patch.sender.toNat == f.pkg &&
    p.patch.relay.toNat == m).map fun p => p.patch.dest.toNat

/-- What a lane sends in a slot (R360, R383, R386): the cell, if any. -/
def State.laneCell (s : State) (port lane slot : Nat) : Option (Cell × State) :=
  if 12 ≤ port then
    match s.nextFar (fun e => egTrunk e && bitsOf e 0 2 == port - 12) slot with
    | some x => some x
    | none => some ({ noCell with src := BitVec.ofNat 16 s.fab.self, slotNo := BitVec.ofNat 16 slot }, s)
  else
    let e := bankEntry s.fab.slots port lane slot
    let w := txLine e
    if !txEn e || s.fab.faulty.contains (port, w) then none
    else if w % 64 = 0 then
      some ({ noCell with kind := 6, src := BitVec.ofNat 16 s.fab.self, dst := BitVec.ofNat 16 s.fab.self, slotNo := BitVec.ofNat 16 slot }, s)
    else
      let p := lineTarget s.fab.pkg w
      let d := s.fab.inPod p
      match txClass e with
      | 0 => some (match s.nextData d slot with
        | some x => x
        | none => s.idleCell d slot)
      | 1 => some (match s.nextBare d 5 false slot with
        | some x => x
        | none => match s.nextFar (fun e => !egTrunk e && bitsOf e 3 6 == p) slot with
          | some x => x
          | none => match s.nextBare d 5 true slot with
            | some x => x
            | none => s.idleCell d slot)
      | 2 => (s.fab.relayDest port p).bind fun t => s.nextData (s.fab.inPod t) slot
      | _ => (s.fab.relay.find? fun c => c.dst.toNat % 64 == p).map fun c =>
          (c, { s with fab := { s.fab with relay := s.fab.relay.erase c } })

/-- The line on which an own sequenced cell leaves in this slot, as `via` of Unacked holds it (R404). -/
def State.noteLine (s : State) (port lane : Nat) (c : Cell) : State :=
  let d := c.dst.toNat
  if 12 ≤ port || c.kind = 0 || 5 ≤ c.kind.toNat || c.src.toNat ≠ s.fab.self then s
  else
    let x := s.fab.dest d
    let via := port * 128 + txLine (bankEntry s.fab.slots port lane s.fab.pslot) + 1
    s.setDest d { x with unacked := x.unacked.map fun u => if u.seq = c.seq.toNat && u.slot = s.fab.pslot then { u with via := via } else u }

/-- One lane, by port x 8 + lane, sends in the slot. -/
def State.sendLane (s : State) (key : Nat) : State :=
  match s.laneCell (key / 8) (key % 8) s.fab.pslot with
  | none => s.putOut (key / 8) (key % 8) noCell
  | some (c, t) => (t.noteLine (key / 8) (key % 8) c).putOut (key / 8) (key % 8) c

/-- The lanes below n that have not sent in this slot send, in ascending port and lane order (R367). -/
def State.sendTo (n : Nat) (s : State) : State :=
  let t := ((List.range n).drop s.fab.lanes).foldl State.sendLane s
  { t with fab := { t.fab with lanes := Nat.max s.fab.lanes n } }

/-- Something waits to leave: a cell, a resend, a refusal to return. -/
def Fabric.busy (f : Fabric) : Bool :=
  f.queue.any (fun c => c.dest != f.self) || f.dests.any (fun x => x.2.again.isSome) || f.srcs.any (fun x => !x.2.refused.isEmpty) ||
    f.chans.any (fun x => !x.2.isEmpty) || !f.relay.isEmpty

/-- What the lanes send in a slot is settled at the end of its first cycle, by the queues as they stand then and by nothing that the outside does later in
the slot (R363); where nothing waits to leave they carry idle cells, which need no step. -/
def State.fixSlot (s : State) : State := if s.fab.slotAt = s.clock && s.fab.busy then s.sendTo 128 else s

/-- The fabric clock goes on by one arithmetic cycle (R361): PSLOT rises every 24 of its own. -/
def State.slotTick (s : State) : State :=
  let p := s.fab.phase + fabricStep s.freq
  let s := { s with wall := s.wall + fabricStep s.freq }
  if p < slotLength then { s with fab := { s.fab with phase := p } }
  else
    { s with fab := { s.fab with phase := p - slotLength, pslot := s.fab.pslot + 1, slotAt := s.clock, lanes := 0 } }.slotBegins

/-- CELL_SEND (R367, R371): loopback cells that have entered the queue are applied; and the outside reads what a lane sends in this slot, which is settled
from its second cycle on: of the lanes that carry idle cells those up to this one take their step. -/
def execCellSend (s : State) : Host.Outcome State Fault Refusal :=
  let s := s.loopback
  .next (if 16 ≤ s.stim.unit || 8 ≤ s.stim.index then s
    else if s.fab.slotAt = s.clock then s.nextCycle .cellSend s.stim
    else s.sendTo (laneKey s.stim.unit s.stim.index + 1))

/-- RETRANSMIT (R365): the sender sends again from the oldest unacknowledged cell on. -/
def execRetransmit (dest : Nat) (s : State) : Host.Outcome State Fault Refusal :=
  if 4096 ≤ dest then .fault .noSuchUnit
  else
    let x := s.fab.dest dest
    match x.unacked with
    | [] => .next s
    | u :: _ => if x.stale s.fab.pslot then .next (s.setDest dest { x with again := some u.seq }) else .next s

/-! Receiving -/

/-- Key of `Fabric.remote`: the slot in which the last arrival of pod group g was learned (R362). -/
def learnKey (g : Nat) : Nat := 2 ^ 20 + g

def arrivalBytes (g code value slot : Nat) : List Byte := leBytes 1 g ++ leBytes 8 code ++ leBytes 8 value ++ leBytes 8 slot

/-- A patch's first 20 bytes (R381). -/
def patchBytes (p : Patch) : List Byte :=
  leBytes 1 p.kind.toNat ++ leBytes 1 p.port.toNat ++ leBytes 1 p.line.toNat ++ leBytes 1 0 ++ leBytes 1 p.sender.toNat ++ leBytes 1 p.relay.toNat ++
    leBytes 1 p.dest.toNat ++ leBytes 1 p.home.toNat ++ leBytes 8 p.patchSlot.toNat ++ leBytes 4 p.version.toNat

/-- The patch that 64 bytes hold (R381). -/
def patchOf (l : List Byte) : Patch :=
  let b (i : Nat) : BitVec 8 := BitVec.ofNat 8 (leAt l i 1)
  ⟨b 0, b 1, b 2, b 4, b 5, b 6, b 7, BitVec.ofNat 64 (leAt l 8 8), BitVec.ofNat 32 (leAt l 16 4)⟩

/-- A control cell from package p of this pod (R360). -/
def State.controlArrive (s : State) (p op : Nat) (data : List Byte) : State :=
  match op with
  | 1 =>
    let g := leAt data 0 1
    let s := s.putRemote (podKey g p) (leAt data 1 8, leAt data 9 8, leAt data 17 8)
    s.putRemote (learnKey g) (s.fab.pslot, 0, 0)
  | 2 => s.heardFrom (leAt data 0 1) p
  | 3 =>
    let hear (x : PatchState) : PatchState :=
      if x.atHome && !x.cancelled && patchBytes x.patch == data then { x with missing := x.missing.filter (· != p) } else x
    { s with fab := { s.fab with patches := s.fab.patches.map hear } }
  | 4 =>
    let gone (x : PatchState) : Bool := x.pending && x.patch.home.toNat % 64 == p && patchBytes x.patch == data
    { s with fab := { s.fab with patches := s.fab.patches.filter fun x => !gone x } }
  | 5 => { s with inputs := ⟨s.clock, .patchReceive, { noStim with patch := patchOf data }⟩ :: s.inputs }
  | _ => s

/-- A data cell in order is applied (R366, R370, R377, R394); the answer says whether it was refused. -/
def State.cellApply (s : State) (c : Cell) : Bool × State :=
  let src := c.src.toNat
  let n := c.addr.toNat
  match c.kind.toNat with
  | 1 | 2 =>
    match s.applyPosted c.op.toNat n c.payload (c.kind == 2 && c.flags.getLsbD 0 && c.step.getLsbD 0) with
    | none => (true, s.fabLog 5 0 0 (src % 64) s.fab.pslot)
    | some (t, _) => (false, t)
  | 3 => (false, s.collArrive c.op.toNat c.step.toNat n c.payload)
  | 4 => (false, s.applyJournal (src % 64) c.op.toNat n c.step.toNat (c.flags.getLsbD 0) c.payload)
  | _ => (false, s)

/-- Cells of a source are applied in SEQ order as long as the next one is held (R365). -/
def State.drainFrom : Nat → Nat → State → State
  | 0, _, s => s
  | fuel + 1, src, s =>
    let x := s.fab.source src
    let c := SMap.get noCell x.held x.next
    if c = noCell then s
    else
      let s := s.setSource src { x with next := (x.next + 1) % 2 ^ 32, held := SMap.put noCell x.held x.next noCell }
      let (refused, s) := s.cellApply c
      let y := s.fab.source src
      let s := if refused then s.setSource src { y with refused := y.refused ++ [c.seq.toNat] } else s
      State.drainFrom fuel src s

/-- A sequenced cell for this package (R365): applied, held, or dropped.  A source of another pod gets an idle cell along its own route (R388). -/
def State.sequence (s : State) (c : Cell) : State :=
  let src := c.src.toNat % 4096
  let x := s.fab.source src
  let d := counterDiff c.seq.toNat x.next
  let s := if d ≤ 255 then State.drainFrom 257 src (s.setSource src { x with held := SMap.put noCell x.held c.seq.toNat c }) else s
  if src / 64 = s.fab.pod || s.fab.queue.any (fun q => q.dest == src && q.kind == 0) then s
  else s.enqueue (bareCell s.clock src 0 0 [])

/-- A cell that goes on (R387, R388): the next hop, or it is dropped and logged.  While its channel is full it stays in the previous hop's buffer: it
comes up here again in the next slot, as a forwarded cell and through no entry of that slot (`value` 1 of the event). -/
def State.forward (s : State) (a : CellArrival) : State :=
  let c := a.cell
  let h := cellHop c + 1
  let e := egressOf c.egress.toNat h
  let k := a.port * 4 + h
  let held := SMap.get [] s.fab.chans k
  if 3 < h || !egValid e then s.fabLog 6 a.port 0 (c.src.toNat % 64) s.fab.pslot
  else if Nat.max 1 Config.channelCells ≤ held.length then s.nextCycle .cellReceive { noStim with cell := a, value := 1 }
  else
    let c := { c with flags := (c.flags &&& 0xF3) ||| BitVec.ofNat 8 (4 * h) }
    { s with fab := { s.fab with chans := SMap.put [] s.fab.chans k (held ++ [c]) } }

/-- What a received cell does (R364, R365, R383, R387). -/
def State.receive (s : State) (a : CellArrival) : State :=
  let c := a.cell
  let e := bankEntry s.fab.slots a.port a.lane s.fab.pslot
  let plane := a.port < 12
  if s.stim.value = 1 && c.dst.toNat % 4096 ≠ s.fab.self then s.forward a
  else if plane && !rxEn e then s
  else if !a.fecOk then s.fabLog 6 a.port (if plane then rxLine e else 0) (c.src.toNat % 64) s.fab.pslot
  else if 7 ≤ c.kind.toNat || 512 < c.payload.length then s
  else if plane && rxRelay e then
    { s with fab := { s.fab with relay := s.fab.relay ++ [{ c with flags := c.flags ||| 2 }] } }
  else if c.kind = 6 then s
  else if c.dst.toNat % 4096 ≠ s.fab.self then s.forward a
  else
    let s := s.acked (c.src.toNat % 4096) c.ack.toNat c.rfseq.toNat
    match c.kind.toNat with
    | 0 => s
    | 5 => s.controlArrive (c.src.toNat % 64) c.op.toNat c.payload
    | _ => s.sequence c

/-- Another cell of this slot that came on a lower port or lane (R366). -/
def State.earlierCell (s : State) : Option Input :=
  let key (a : CellArrival) : Nat := laneKey a.port a.lane
  s.inputs.foldl (fun (b : Option Input) i =>
    if i.ev == .cellReceive && i.at_ ≤ s.clock && key i.stim.cell < (match b with
      | some j => key j.stim.cell
      | none => key s.stim.cell) then some i else b) none

/-- CELL_RECEIVE (R361, R365, R366): a cell is complete at the end of its slot; the cells of one slot are taken in ascending port and lane order, after
the slot's own sends, which were settled at its beginning. -/
def execCellReceive (s : State) : Host.Outcome State Fault Refusal :=
  if 16 ≤ s.stim.cell.port || 8 ≤ s.stim.cell.lane then .fault .noSuchUnit
  else if !s.slotEnds then .next (s.nextCycle .cellReceive s.stim)
  else
    match s.earlierCell with
    | none => .next (s.receive s.stim.cell)
    | some i => .next ({ s with inputs := ⟨s.clock, .cellReceive, s.stim⟩ :: s.inputs.erase i, stim := i.stim }.receive i.stim.cell)

/-! A package leaves (R379, R398, R417) -/

/-- The running commands that a package's absence ends: collectives of a group it belongs to (R379). -/
def State.endCollectives (s : State) (p : Nat) : State :=
  (s.fab.running.filter fun x => match s.cmd x.cmd with
    | some k => (collOf k.instr).1 < 3 && (s.fab.group x.group).members.getLsbD p
    | none => false).foldl (fun (s : State) (x : FabCmd) =>
      match s.cmd x.cmd with
      | none => s
      | some k =>
        let s := { s with fab := { s.fab with queue := s.fab.queue.filter fun c => c.cmdId != x.cmd } }
        let s := s.setFab { x with done := true, todo := [] }
        (s.setCmd { k with status := 0x23, detail := BitVec.ofNat 8 p }).schedule s.clock prioAfter (.untimedComplete k.id)) s

/-- The posted cells that copies hold back for want of allowance fail as the queued ones do (R417); they have not counted in OUTST. -/
def State.dropTodo (s : State) (d : Nat) : State :=
  s.fab.running.foldl (fun (s : State) (x : FabCmd) =>
    let gone := x.todo.filter fun c => c.dest == d && c.kind == 1
    if gone.isEmpty then s
    else
      let s := gone.foldl (fun (s : State) (c : OutCell) => match c.bind with
        | some b => s.modLaunch b fun l => { l with pwfail := l.pwfail + 1 }
        | none => s) s
      s.setFab { x with todo := x.todo.filter (fun c => !gone.contains c), waiting := x.waiting - gone.length, refused := x.refused + gone.length }) s

/-- Package p of this pod has left LIVEPEERS; the cells held for it fail, but journal cells (R417, R379, R398). -/
def State.peerLeft (s : State) (p : Nat) : State :=
  let s := { s with fab := { s.fab with livePeers := s.fab.livePeers &&& ~~~(BitVec.ofNat 64 (2 ^ p)) } }
  let d := s.fab.inPod p
  let lost (c : OutCell) : Bool := c.dest == d && c.kind != 4
  let x := s.fab.dest d
  let failed := (x.unacked.map (·.cell) ++ s.fab.queue).filter lost
  let s := { s with fab := { s.fab with queue := s.fab.queue.filter fun c => !lost c } }
  let s := s.setDest d { x with unacked := x.unacked.filter fun u => !lost u.cell, again := none, undecided := [] }
  let s := x.undecided.foldl (fun (s : State) (u : Unacked) => s.cellDone u.cell false false) s
  let s := s.dropTodo d
  let s := failed.foldl (fun (s : State) (c : OutCell) =>
    let s := match s.cmd c.cmdId with
      | some k => if c.kind == 2 then s.setCmd { k with status := 0x23, detail := BitVec.ofNat 8 p } else s
      | none => s
    s.cellDone c false true) s
  let s := s.endCollectives p
  let s := if s.jrn.copying.any (fun x => x.1 == p) then { s with jrn := { s.jrn with copying := none } } else s
  if s.jrn.valid && s.jrn.partner = p then s.scheduleOnce s.clock prioAfter .partnerLost else s

/-- PEER_LEFT (R417): `unit` is the package. -/
def execPeerLeft (s : State) : Host.Outcome State Fault Refusal :=
  if 64 ≤ s.stim.unit then .fault .noSuchUnit
  else .next (if s.stim.unit = s.fab.pkg then s else s.peerLeft s.stim.unit)

end Sys2Proof.Machine
end

