-- ==== Sys2Proof/Machine/Repair.lean ====
section
/-! DEFINITION. Line faults and repair patches (17, R380-R384; 19, R404-R406). -/

namespace Sys2Proof.Machine

/-! Line faults (R380, R404) -/

/-- The bind entries of running domains that hold cells to destination d. -/
def State.domainsTo (s : State) (d : Nat) : List Nat :=
  let cells := (s.fab.queue.filter fun c => c.dest == d) ++ (s.fab.dest d).unacked.map (·.cell)
  (s.binds.map (·.1)).filter fun b => (s.launch b).st == 3 && cells.any fun c => c.bind == some b

/-- Every place of a port's entries. -/
def places : List (Nat × Nat) := (List.range 8).flatMap fun k => (List.range 64).map fun t => (k, t)

/-- An entry of the port transmits the line (R380). -/
def Fabric.serves (f : Fabric) (port line : Nat) : Bool :=
  places.any fun p => let e := bankEntry f.slots port p.1 p.2; txEn e && txLine e = line

/-- A line fault of an earlier slot (R380, R404): log, the held queue to the destination that the line served, and the frozen domains. -/
def State.lineFault (s : State) (kind : Nat) (cause : BitVec 8) : State :=
  let port := s.stim.unit
  let line := s.stim.index
  let served := port < 12 && line % 64 ≠ 0 && s.fab.serves port line
  let peer := if served then lineTarget s.fab.pkg line else 0
  let s := s.fabLog kind port line peer s.stim.value.toNat
  let s := { s with fab := { s.fab with
    faulty := (s.fab.faulty.filter (· != (port, line))) ++ [(port, line)],
    failed := if kind = 1 then (s.fab.failed.filter (· != (port, line))) ++ [(port, line)] else s.fab.failed } }
  if !served then s
  else
    let d := s.fab.inPod peer
    let waits := !(s.fab.dest d).unacked.isEmpty || s.fab.queue.any fun c => c.dest == d
    let s := s.setDest d { s.fab.dest d with held := true }
    let s := { s with fab := { s.fab with slip := s.fab.slip || waits } }
    (s.domainsTo d).foldl (fun (s : State) (b : Nat) => s.scheduleOnce s.clock prioAfter (.freeze ⟨b, cause, BitVec.ofNat 8 port, false⟩)) s

/-- The cells that left on a plane's line in a slot are lost (R404). -/
def State.loseCells (s : State) (port line slot : Nat) : State :=
  { s with fab := { s.fab with dests := s.fab.dests.map fun x =>
    (x.1, { x.2 with unacked := x.2.unacked.map fun u => if u.slot = slot && u.via = port * 128 + line + 1 then { u with lost := true } else u }) } }

/-- A line leaves its window or fails in the slot that comes with the event; it is detected on the first cycle of the next (R404).  An event that comes
later than that is one of the slot in which it comes. -/
def State.lineEvent (s : State) (ev : Instr) (kind : Nat) (cause : BitVec 8) : Host.Outcome State Fault Refusal :=
  if 16 ≤ s.stim.unit || 72 ≤ s.stim.index then .fault .noSuchUnit
  else
    let v := s.stim.value.toNat
    let p := s.fab.pslot
    let t := s.loseCells s.stim.unit s.stim.index v
    .next (if v + 1 = p && s.fab.slotAt = s.clock then t.lineFault kind cause
      else if p ≤ v then s.nextCycle ev s.stim
      else s.nextCycle ev { s.stim with value := BitVec.ofNat 64 p })

/-- LINE_DRIFT (R380). -/
def execLineDrift (s : State) : Host.Outcome State Fault Refusal := s.lineEvent .lineDrift 0 0x21

/-- LINE_FAILURE (R380). -/
def execLineFailure (s : State) : Host.Outcome State Fault Refusal := s.lineEvent .lineFailure 1 0x22

/-- LINE_RELOCK (R380): a line that drifted locks again; one that has failed does not, before a reset (R384). -/
def execLineRelock (s : State) : Host.Outcome State Fault Refusal :=
  let port := s.stim.unit
  let line := s.stim.index
  if 16 ≤ port || 72 ≤ line then .fault .noSuchUnit
  else if s.fab.failed.contains (port, line) then .next s
  else
    let s := s.fabLog 2 port line (if port < 12 && line % 64 ≠ 0 && s.fab.serves port line then lineTarget s.fab.pkg line else 0) s.fab.pslot
    .next { s with fab := { s.fab with faulty := s.fab.faulty.filter (· != (port, line)) } }

/-! What a patch changes (R382-R384) -/

/-- A change of an entry: lane, slot, the bits it takes and their value. -/
structure Edit where
  lane : Nat
  slot : Nat
  mask : Nat
  value : Nat
  deriving DecidableEq, Repr

def txMask : Nat := 0x7F
def rxMask : Nat := 0x7F00
def txClassMask : Nat := 0x30000
def rxClassBit : Nat := 0x40000

def Edit.apply (e : Edit) (old : Nat) : Nat :=
  (BitVec.ofNat 32 old &&& ~~~(BitVec.ofNat 32 e.mask) ||| BitVec.ofNat 32 e.value).toNat

/-- Entries of a port that send (or listen) on line a take line b. -/
def relines (bank : SMap Word) (port : Nat) (tx : Bool) (a b : Nat) : List Edit :=
  (places.filter fun p => let e := bankEntry bank port p.1 p.2; (if tx then txLine e else rxLine e) == a).map fun p =>
    if tx then ⟨p.1, p.2, txMask, b⟩ else ⟨p.1, p.2, rxMask, b * 256⟩

/-- Slot s_k of a line on lane k (R383). -/
def lineSlot (w k : Nat) : Nat := (w + 64 - 8 * k % 64) % 64

/-- The rows of R383 for package me. -/
def relayEdits (p : Patch) (me : Nat) : List Edit :=
  let i := p.sender.toNat
  let m := p.relay.toNat
  let d := p.dest.toNat
  let mi := (m + 64 - i % 64) % 64
  let dm := (d + 64 - m % 64) % 64
  (List.range 7).flatMap fun k =>
    let s := lineSlot (p.line.toNat % 64) k
    let n := (s + 1) % 64
    (if me = i then [⟨k, s, 2 ^ 7, 0⟩, ⟨7, s, txMask + txClassMask, mi + 2 * 2 ^ 16⟩] else []) ++
      (if me = m then [⟨7, s, rxMask + rxClassBit, mi * 256 + rxClassBit⟩, ⟨7, n, txMask + txClassMask, dm + 3 * 2 ^ 16⟩] else []) ++
      (if me = d then [⟨k, s, 2 ^ 15, 0⟩, ⟨7, n, rxMask + rxClassBit, dm * 256⟩] else [])

/-- The entries that a SPARE moved take their default lines again (R383, R384). -/
def unspare (bank : SMap Word) (p : Patch) (me : Nat) : List Edit :=
  let w := p.line.toNat % 64
  (if me = p.sender.toNat then relines bank p.port.toNat true (64 + w) w else []) ++
    (if me = p.dest.toNat then relines bank p.port.toNat false (64 + w) w else [])

/-- The default entries where an edit stood (R384). -/
def Edit.undo (e : Edit) : Edit := { e with value := (BitVec.ofNat 32 (defaultEntry e.lane e.slot) &&& BitVec.ofNat 32 e.mask).toNat }

def samePatchLine (p q : Patch) : Bool := p.port == q.port && p.line.toNat % 64 == q.line.toNat % 64 && p.sender == q.sender

/-- What a patch changes at this package, from the active bank as it stands. -/
def Fabric.edits (f : Fabric) (p : Patch) : List Edit :=
  let me := f.pkg
  let w := p.line.toNat % 64
  match p.kind.toNat with
  | 1 =>
    (if me = p.sender.toNat then relines f.slots p.port.toNat true w (64 + w) else []) ++
      (if me = p.dest.toNat then relines f.slots p.port.toNat false w (64 + w) else [])
  | 2 => unspare f.slots p me ++ relayEdits p me
  | _ =>
    unspare f.slots p me ++
      ((f.patches.filter fun x => x.applied && x.patch.kind == 2 && samePatchLine x.patch p).flatMap fun x => (relayEdits x.patch me).map Edit.undo)

/-- A bank with edits made. -/
def editBank (port : Nat) (bank : SMap Word) (es : List Edit) : SMap Word :=
  es.foldl (fun (b : SMap Word) (e : Edit) => putEntry b port e.lane e.slot (e.apply (bankEntry b port e.lane e.slot))) bank

def distinct : List Nat → Bool
  | [] => true
  | a :: r => !r.contains a && distinct r

/-- A bank keeps R357 in the slots of a list: no two lanes of the port name one line in a direction. -/
def bankOk (port : Nat) (bank : SMap Word) (slots : List Nat) : Bool :=
  slots.all fun t =>
    distinct ((List.range 8).map fun k => txLine (bankEntry bank port k t)) && distinct ((List.range 8).map fun k => rxLine (bankEntry bank port k t))

/-- A package refuses a patch (R381, R383): its KIND, R357, or a relay's reserve slots. -/
def Fabric.refusesPatch (f : Fabric) (p : Patch) : Bool :=
  let es := f.edits p
  let port := p.port.toNat
  p.kind = 0 || decide (3 < p.kind.toNat) || decide (12 ≤ port) || !bankOk port (editBank port f.slots es) (es.map (·.slot)).eraseDups ||
    (p.kind == 2 && p.relay.toNat == f.pkg && es.any fun e => e.lane == 7 && txClass (bankEntry f.slots port 7 e.slot) ≠ 1)

/-- The packages a patch goes to (R381, R384); REVERT: those that the earlier patch changed. -/
def Fabric.targets (f : Fabric) (p : Patch) : List Nat :=
  let relays := match p.kind.toNat with
    | 2 => [p.relay.toNat]
    | 3 => (f.patches.filter fun x => x.patch.kind == 2 && samePatchLine x.patch p).map fun x => x.patch.relay.toNat
    | _ => []
  ([p.sender.toNat, p.dest.toNat] ++ relays).eraseDups

/-! The home (R381, R406) -/

/-- R406: package m may relay the line from i to d. -/
def relayOk (i d m : Nat) : Bool :=
  m != i && m != d && (m + 64 - d % 64) % 8 != 0 && (i + 127 - m % 64) % 8 != 0

/-- The home issues a patch: it sends it to the other packages that it changes, as repair traffic (R360), waits for their acknowledgements, and presents
the patch to itself where it is one of them. -/
def State.issuePatch (s : State) (p : Patch) (missed : List Nat) : State :=
  let to_ := s.fab.targets p
  let x : PatchState := ⟨p, true, to_, missed, false, false, false⟩
  let s := { s with fab := { s.fab with patches := s.fab.patches ++ [x] } }
  let s := s.control (to_.filter (· != s.fab.pkg)) ctlPatch (patchBytes p ++ List.replicate 44 0)
  if to_.contains s.fab.pkg then { s with inputs := ⟨s.clock, .patchReceive, { s.stim with patch := p, value := 0 }⟩ :: s.inputs } else s

/-- A line of a patch's sender is faulty: on a port of this package, or as another package has reported (R381). -/
def Fabric.lineBad (f : Fabric) (p : Patch) (line : Nat) : Bool :=
  if p.sender.toNat = f.pkg then f.faulty.contains (p.port.toNat, line) else f.reports.contains (p.sender.toNat, p.port.toNat, line)

/-- The spare line of a base line has failed (R382, R383). -/
def Fabric.spareFailed (f : Fabric) (p : Patch) : Bool := f.lineBad p (64 + p.line.toNat % 64)

/-- REPAIR_PATCH (R381-R384, R406): Vesper of the home issues a patch, outside its takeover windows (R350); what R381 to R384 and R406 forbid it does not
issue: a REVERT follows an earlier patch for its line, once that line has relocked. -/
def execRepairPatch (s : State) : Host.Outcome State Fault Refusal :=
  let p := s.stim.patch
  let at_ := p.patchSlot.toNat
  let live (n : Nat) : Bool := s.fab.livePeers.getLsbD n
  let ok := s.fab.home = s.fab.pkg && !(s.ctl 1).window && p.home.toNat = s.fab.pkg && 1 ≤ p.kind.toNat && p.kind.toNat ≤ 3 && p.port.toNat < 12 &&
    p.line.toNat < 64 && p.dest.toNat = lineTarget p.sender.toNat p.line.toNat && at_ % 64 = 0 && s.fab.pslot + 512 ≤ at_ &&
    (p.kind ≠ 1 || (p.line.toNat < 8 && !s.fab.spareFailed p)) &&
    (p.kind ≠ 2 || (relayOk p.sender.toNat p.dest.toNat p.relay.toNat && live p.relay.toNat && (8 ≤ p.line.toNat || s.fab.spareFailed p))) &&
    (p.kind ≠ 3 || (!s.fab.lineBad p p.line.toNat && s.fab.patches.any fun x => x.patch.kind ≠ 3 && samePatchLine x.patch p))
  .next (if ok then s.issuePatch p [] else s)

/-- PATCH_RECEIVE (R381): the package writes the entries it changes into its shadow banks and acknowledges, or refuses.  A patch for a line takes the
place of one for the same line that has not switched. -/
def execPatchReceive (s : State) : Host.Outcome State Fault Refusal :=
  let p := s.stim.patch
  let f := s.fab
  if f.refusesPatch p || !(f.targets p).contains f.pkg then .next s
  else
    let es := f.edits p
    let port := p.port.toNat
    let shadow := editBank port
      (es.foldl (fun (b : SMap Word) (e : Edit) => putEntry b port e.lane e.slot (bankEntry f.slots port e.lane e.slot)) f.shadow) es
    let home := f.patches.any fun x => x.atHome && x.patch == p
    let old := f.patches.filter fun x => !(x.pending && samePatchLine x.patch p && x.patch != p)
    let patches := if home then old.map fun x => if x.atHome && x.patch == p then { x with pending := true, missing := x.missing.filter (· != f.pkg) } else x
      else old ++ [⟨p, false, [], [], true, false, false⟩]
    let s := { s with fab := { f with shadow := shadow, patches := patches } }
    .next (if p.home.toNat = f.pkg then s else s.control [p.home.toNat % 64] ctlPatchAck (patchBytes p))

/-- The relays that R406 allows, other than one. -/
def State.relayChoices (s : State) (p : Patch) (not_ : Nat) : List Nat :=
  (List.range 64).filter fun m => m != not_ && s.fab.livePeers.getLsbD m && relayOk p.sender.toNat p.dest.toNat m

/-- The home plans a cancelled patch again, or abandons it (R381): `missing` are the packages that have not acknowledged it, `missed` those that had missed
an earlier issue. -/
def State.replan (s : State) (patch : Patch) (missing missed : List Nat) : State :=
  let live (n : Nat) : Bool := s.fab.livePeers.getLsbD n
  let slot : Word := BitVec.ofNat 64 (ceilDiv (s.fab.pslot + 512) 64 * 64)
  let relay := patch.relay.toNat
  let late := missing.filter fun n => !(patch.kind = 2 && n = relay)
  if !live patch.sender.toNat || !live patch.dest.toNat || late.any missed.contains then s
  else if patch.kind = 2 && (missing.contains relay || !live relay) then
    let all := s.relayChoices patch relay
    let (r, s) := s.freeNat
    match all[r % Nat.max 1 all.length]? with
    | none => s
    | some m => s.issuePatch { patch with relay := BitVec.ofNat 8 m, patchSlot := slot } (missed ++ late)
  else s.issuePatch { patch with patchSlot := slot } (missed ++ late)

/-- PATCH_ACK_DEADLINE (R381): an acknowledgement is missing two rotations before PATCHSLOT: the home cancels the patch
(the packages hear of it by a control cell: log 14) and plans it again, or abandons it.  While Vesper is being replaced it issues none: the patch is
planned again after its window (R350). -/
def execPatchAckDeadline (patch : Patch) (s : State) : Host.Outcome State Fault Refusal :=
  match s.fab.patches.find? fun x => x.atHome && x.patch == patch && !x.missing.isEmpty with
  | none => .next s
  | some x =>
    if s.fab.pslot + 128 < patch.patchSlot.toNat then .next s
    else
      let s := if x.cancelled then s else s.control ((s.fab.targets patch).filter (· != s.fab.pkg)) ctlPatchCancel (patchBytes patch)
      let rest := s.fab.patches.filter fun y => !(y.patch == patch && !y.applied)
      let at_ (l : List PatchState) : State := { s with fab := { s.fab with patches := l } }
      if (s.ctl 1).window then
        .next ((at_ (rest ++ [{ x with pending := false, cancelled := true }])).schedule (s.clock + 1) prioAfter (.patchAckDeadline patch))
      else .next ((at_ rest).replan patch x.missing x.missed)

/-- PATCH_SWITCH (R381-R385): the banks of the changed lanes switch; the sender's held queue is released once no faulty line that still serves the peer is
left, and sent again from its first unacknowledged cell.  A REVERT, and a RELAY at its destination, log no kind 3 (DEDUCED from the counts of R409: log 14). -/
def execPatchSwitch (patch : Patch) (s : State) : Host.Outcome State Fault Refusal :=
  match s.fab.patches.find? fun x => x.pending && x.patch == patch with
  | none => .next s
  | some _ =>
    let f := s.fab
    if f.pslot < patch.patchSlot.toNat then .next s
    else
      let es := f.edits patch
      let port := patch.port.toNat
      let lanes := (es.map (·.lane)).eraseDups
      let shadow := es.foldl (fun (b : SMap Word) (e : Edit) => putEntry b port e.lane e.slot (bankEntry f.slots port e.lane e.slot)) f.shadow
      let versions := lanes.foldl (fun (v : SMap Nat) (k : Nat) =>
        SMap.put 0 v (laneKey port k) ((SMap.get 0 v (laneKey port k) + 1) % 2 ^ 32)) f.versions
      let keep := f.patches.filter fun x => !(x.applied && samePatchLine x.patch patch)
      let mark (x : PatchState) : PatchState := if x.patch == patch then { x with pending := false, applied := true } else x
      let patches := if patch.kind = 3 then keep.filter fun x => !(x.patch == patch) else keep.map mark
      let slot := patch.patchSlot.toNat
      let s := { s with fab := { f with slots := editBank port f.slots es, shadow := shadow, versions := versions, patches := patches } }
      let quiet := patch.kind = 3 || (patch.kind = 2 && f.pkg = patch.dest.toNat)
      let s := if quiet then s else s.fabLog 3 port patch.line.toNat patch.dest.toNat slot
      if patch.sender.toNat ≠ f.pkg || patch.kind = 3 then .next s
      else
        let d := s.fab.inPod patch.dest.toNat
        let x := s.fab.dest d
        let open_ := s.fab.faulty.any fun pl => pl.1 < 12 && lineTarget f.pkg pl.2 == patch.dest.toNat && s.fab.serves pl.1 pl.2
        if open_ || !x.held then .next s
        else
          let waits := !x.unacked.isEmpty || s.fab.queue.any fun c => c.dest == d
          let s := { s with fab := { s.fab with slip := s.fab.slip || waits } }
          .next (s.setDest d { x with held := false, again := x.unacked.head?.map (·.seq) })

end Sys2Proof.Machine
end

