-- ==== Sys2Proof/Machine/Capture.lean ====
section
/-! DEFINITION. What becomes of an engine command after its issue (08, R193-R211, R217; 13, R297): the capture of its block, the start and end of
timed commands, and the completion of untimed operations. -/

namespace Sys2Proof.Machine

/-! Capture (R194) -/

/-- An untimed copy or fill has been captured: its checks (R199, R204, R211, R332); it starts after a free time. -/
def State.captureUntimedCopy (s : State) (k : Cmd) : State :=
  if s.copyInvalid k then s.failCmd k 0x02 0x10
  else
    match s.copyRefused k with
    | some d => s.failCmd k 0x06 d
    | none =>
      if (!k.isFill && s.handleInvalid k.core (cpSrc k.block).word) || s.handleInvalid k.core (cpDst k.block).word then s.failCmd k 0x19 0
      else (s.setCmd k).later k

/-- TLIFE's address has 57 bits (R217). -/
def State.captureLifetime (s : State) (k : Cmd) : State :=
  let bad := match k.instr with
    | .tlife _ => decide (2 ^ 57 ≤ Desc.field k.block 0 8)
    | _ => false
  if bad then s.failCmd k 0x02 0x10 else (s.setCmd k).later k

/-- HFLUSH and HNOTE (R297): the reserved bytes of their blocks; an HFLUSH of length 0 completes at once. -/
def State.captureHost (s : State) (k : Cmd) : State :=
  match k.instr with
  | .hflush _ =>
    if Desc.field k.block 16 48 ≠ 0 then s.failCmd k 0x02 0x10
    else if Desc.field k.block 8 8 = 0 then s.finishCmd k
    else (s.setCmd k).later k
  | _ => if Desc.field k.block 4 4 ≠ 0 || decide (2 ^ 31 ≤ Desc.field k.block 0 4) then s.failCmd k 0x02 0x10 else (s.setCmd k).later k

/-- A block has been read (R194). -/
def State.captureBlock (s : State) (k : Cmd) (d : Desc) : State :=
  let w0 := Desc.field d 0 8
  let w1 := Desc.field d 8 8
  match k.instr with
  | .cpyt _ | .cpym _ => s.captureTimedCopy (s.withBlock k d w0 w1)
  | .cpyu _ => s.captureUntimedCopy (s.withBlock k d w0 w1)
  | .cfill _ => if k.timed then s.captureTimedCopy (s.withBlock k d 0 w1) else s.captureUntimedCopy (s.withBlock k d 0 w1)
  | .amo _ | .amof _ => s.captureAtomic (s.withBlock k d w0 0)
  | .rtopk _ | .rcap _ | .rdisp _ => s.captureRouting (s.withBlock k d 0 0)
  | .tlife _ | .tdrop _ => s.captureLifetime (s.withBlock k d 0 0)
  | .fsend _ => s.captureFsend (s.withBlock k d 0 0)
  | .frdc _ | .fag _ | .fa2a _ => s.captureCollective (s.withBlock k d 0 0)
  | .jrnl _ => s.captureJrnl (s.withBlock k d 0 0)
  | .emit _ => s.captureEmit (s.withBlock k d 0 0)
  | .jtrunc _ => s.captureJtrunc (s.withBlock k d 0 0)
  | .hflush _ | .hnote _ => s.captureHost (s.withBlock k d 0 0)
  | _ => s

/-- BLOCK_CAPTURE (R194): at the bank cycle of its read the engine takes the whole block; out-of-range bytes are zero (R143). -/
def execBlockCapture (core cmd : Nat) (s : State) : Host.Outcome State Fault Refusal :=
  if 768 ≤ core then .fault .noSuchUnit
  else
    match s.cmd cmd with
    | none => .next s
    | some k =>
      if k.stage != .issued then .next s
      else
        let d := descOf ((List.range 64).map fun i =>
          if s.byteIn k.blockAddr none (k.blockAddr + i) then s.nearByte (k.blockAddr + i) else 0)
        .next (s.captureBlock k d)

/-! Timed commands (R193, R195, R201) -/

/-- TIMED_COMMAND_START (R193, R195, R196): at T_S, unless its channel is busy; no command starts on a core that is held at its arrival value, has
stopped or is frozen. -/
def execTimedCommandStart (core cmd : Nat) (s : State) : Host.Outcome State Fault Refusal :=
  if 768 ≤ core then .fault .noSuchUnit
  else
    match s.cmd cmd with
    | none => .next s
    | some k =>
      let c := s.core k.core
      let runs := match c.run, c.hold with
        | .held, some h => !h.begun
        | .running, _ | .held, none | .ended, _ => true
        | .off, _ | .waiting, _ | .frozen, _ | .stopped, _ => false
      if k.stage != .captured || !k.timed || !runs then .next s
      else if s.channelBusy k then .next (s.failCmd k 0x12 0)
      else
        match k.instr with
        | .rtopk _ | .rcap _ | .rdisp _ => .next (s.startRouting k)
        | .amo _ | .amof _ => .next (s.startAtomic k)
        | _ => .next (s.startCopy k)

/-- The named buffer of a core that still runs the command's launch: while that launch is switched out, the core belongs to another. -/
def State.ownBuf (s : State) (k : Cmd) (b : Option (Nat × Nat)) : Option (Nat × Nat) := b.filter fun x => (s.core x.1).bind == k.bind

/-- The buffers at the end of a copy (R201, R204): destinations full, the source as AFTER names. -/
def State.endBuffers (s : State) (k : Cmd) : State :=
  let s := (s.dstBufs k).foldl (fun (s : State) b => s.engineBuf (s.ownBuf k b) .full 0 0 false) s
  if k.isFill then s else s.engineBuf (s.ownBuf k (cpSrc k.block).namedBuf) (cpSrc k.block).after 0 0 false

/-- TIMED_COPY_END (R201, R215): buffers, flags and the timed record; a timed AMOF writes its result. -/
def execTimedCopyEnd (core cmd : Nat) (s : State) : Host.Outcome State Fault Refusal :=
  if 768 ≤ core then .fault .noSuchUnit
  else
    match s.cmd cmd with
    | none => .next s
    | some k =>
      if k.stage != .running || !k.timed then .next s
      else
        match k.instr with
        | .amo _ | .amof _ => .next ((s.atomicResult k).finishTimed k)
        | _ => .next ((s.endBuffers k).finishTimed k)

/-! Untimed copies (R204, R207, R328, R369) -/

/-- What holds up an untimed copy: a block that moves or a host link without a key, a translation that is absent, a word that HBM cannot correct, a host link
that fails. -/
inductive Hitch where
  | wait
  | absent (reason va : Nat)
  | bad (pa va : Nat)
  | link (va : Nat)
  deriving DecidableEq, Repr

/-- The first hitch among the places of a side. -/
def State.hitch (s : State) (read : Bool) (ps : List Place) : Option Hitch :=
  ps.findSome? fun p => match p with
    | .absent r va m => some (.absent (faultReason r m) va)
    | .moving _ => some .wait
    | .phys pa va =>
      if !s.physExists pa then some (.absent 0 va)
      else if isHost pa && s.link.down then some (.link va)
      else if isHost pa && !s.linkUp then some .wait
      else if read && isFar pa && s.badRead pa 1 then some (.bad (s.badWord pa 1) va) else none
    | _ => none

/-- The physical places of a side, for R285's count: one byte of each block. -/
def touched (ps : List Place) : List (Nat × Nat) :=
  ps.foldl (fun (l : List (Nat × Nat)) (p : Place) => match p with
    | .phys pa va => if l.any fun x => x.2 / 2 ^ 16 == va / 2 ^ 16 then l else l ++ [(pa, va)]
    | _ => l) []

/-- The first byte out of range among places (R143). -/
def firstOut (ps : List Place) : Option Nat := ps.findSome? fun p => match p with
  | .out a => some a
  | _ => none

/-- Messages for the bytes of host memory that an operation reads or writes (R339), with their FLAGS: 4,096 bytes at most in each. -/
def State.hostTraffic (s : State) (flags : Nat) (write : Bool) (bytes : List (Nat × Byte)) : State :=
  let runs := (byteRuns (bytes.filter fun b => isHost b.1)).flatMap fun r =>
    (List.range (ceilDiv r.2.length 4096)).map fun i => (r.1 + 4096 * i, (r.2.drop (4096 * i)).take 4096)
  runs.foldl (fun (s : State) (r : Nat × List Byte) =>
    if write then s.sendMsg 0x88 flags (r.1 - hostBase) r.2 0 else s.sendMsg 0x89 flags (r.1 - hostBase) (leBytes 2 r.2.length) 0) s

/-- The words of the coherent window reach it one by one, each whole (R295, R296). -/
def State.addWindow (s : State) (t op : Nat) (bytes : List (Nat × Byte)) : State :=
  let words := (bytes.map fun b => b.1 / 8).eraseDups
  words.foldl (fun (s : State) (w : Nat) =>
    let (d, s) := s.freeNat
    let vis := s.clock + d % (t - s.clock + 1)
    s.addMem vis vis op (bytes.filter fun b => b.1 / 8 == w)) s

/-- The cells of a list in which each destination's last is LAST (R364). -/
def markLast : List OutCell → List OutCell
  | [] => []
  | c :: r => { c with last := !r.any fun d => d.dest == c.dest } :: markLast r

/-- The posted cells of an untimed copy into windows 1 to 254 (R198, R369): runs of at most 512 bytes; those the window does not take are out of range.
`ends`: no beat of the copy is left. -/
def State.copyCells (s : State) (k : Cmd) (bytes : List (Nat × Byte)) (ends : Bool) : State :=
  let runs := (byteRuns bytes).flatMap fun r => (pieces r.2.length).map fun p => (r.1 + p.1, (r.2.drop p.1).take p.2)
  let c := s.core k.core
  let takes (r : Nat × List Byte) : Bool := s.windowTakes (c.window (windowOf r.1)) (r.1 % 2 ^ 32) r.2.length
  let s := match runs.find? fun r => !takes r with
    | some r => s.engineOor k r.1 true
    | none => s
  let cells : List OutCell := (runs.filter takes).map fun r =>
    let w := c.window (windowOf r.1)
    { entry := s.clock, core := k.core, slot := 9, dest := w.pod * 64 + w.pkg, kind := 1, addr := w.baseAddr + r.1 % 2 ^ 32, data := r.2, op := 0,
      fmt := 0, cmd := 0, step := 0, last := false, win := windowOf r.1, cmdId := k.id, bind := k.bind, ready := 0 }
  let cells := if ends then markLast cells else cells
  if cells.isEmpty then s
  else match s.fab.find k.id with
    | some x => s.setFab { x with waiting := x.waiting + cells.length, todo := x.todo ++ cells }
    | none => { s with fab := { s.fab with running := s.fab.running ++ [⟨k.id, 2 ^ 60 + k.id, [], cells.length, 0, 0, [], cells, 0, [], 0, false, 0⟩] } }

/-- Cells of an untimed copy enter the queue as far as the windows' allowances let them (R369). -/
def State.sendAllowed (s : State) (k : Cmd) : State :=
  match s.fab.find k.id with
  | none => s
  | some x =>
    x.todo.foldl (fun (s : State) (c : OutCell) =>
      let w := (s.core k.core).window c.win
      match s.fab.find k.id with
      | some y =>
        if w.outst < w.limit then
          let s := s.modCore k.core fun n => n.setWindow c.win { w with outst := w.outst + 1 }
          let s := (s.setFab { y with todo := y.todo.erase c }).enqueue { c with entry := s.clock }
          if c.dest = s.fab.self then s.scheduleOnce s.clock prioAfter .cellSend else s
        else s
      | none => s) s

/-- What an untimed copy has done of its beats: places read, bytes to write, flags, the first beat not yet written, and what stopped it, with the
ACCESS of a fault record. -/
structure CopyRun where
  reads : List Place
  writes : List (Place × Byte)
  flags : Flags
  beat : Nat
  stop : Option (Nat × Hitch)
  deriving DecidableEq, Repr

/-- The source bytes that beat j of an untimed copy needs: its own, and, for a block format, those of the beats of its run that hold the rest of its first and of its
last block. -/
def cpNeeds (d : Desc) (j : Nat) : List (Nat × Nat × Int) :=
  let beside (i : Nat) : List (Nat × Nat × Int) := if fmtBlock (cpDst d).fmt ≠ 0 && (cpBeatOf d i).1 = (cpBeatOf d j).1 then cpReads d i else []
  (if j = 0 then [] else beside (j - 1)) ++ cpReads d j ++ beside (j + 1)

/-- One beat of an untimed copy (R204, R207): its source is read and its bytes made, unless something holds it up. -/
def State.untimedBeat (k : Cmd) (acc : CopyRun × State) (j : Nat) : CopyRun × State :=
  let (run, s) := acc
  if run.stop.isSome then acc
  else
    let d := k.block
    let x := cpSrc d
    let ps := (if k.isFill then [] else cpNeeds d j).map fun q => (q, s.place k x.word (k.side 0) q.2.2 1)
    let (r, e0, e1) := cpBeatOf d j
    let band := (s.dstTargets k).flatMap fun m => s.bandPlaces k m r
    match s.hitch true (ps.map (·.2) ++ band) with
    | some h => ({ run with stop := some (1, h) }, s)
    | none =>
      let (lost, s) := s.engineServe k false ((ps.map (·.2) ++ band).filterMap (·.sliceAddr))
      let data := ps.foldl (fun (m : SMap (SMap Byte)) (q : (Nat × Nat × Int) × Place) =>
        SMap.put [] m q.1.1 (SMap.put 0 (SMap.get [] m q.1.1) q.1.2.1 (s.readPlace q.2))) []
      let out := s.encode k data (s.dstTargets k) r e0 e1
      let dst := s.dstPlaces k out
      match s.hitch false (dst.map (·.1)) with
      | some h => ({ run with stop := some (2, h) }, s)
      | none =>
        if !lost.isEmpty then ({ run with beat := j + 1 }, s)
        else
          ({ run with reads := run.reads ++ ps.map (·.2), writes := run.writes ++ dst, flags := run.flags ||| encodedFlags out, beat := j + 1 }, s)

/-- The bytes of an untimed copy's beats go out (R143, R204, R285, R339): each becomes visible at a cycle of its own before the answer (R328). -/
def State.untimedWrite (s : State) (k : Cmd) (run : CopyRun) : Nat × State :=
  let s := (touched run.reads ++ touched (run.writes.map (·.1))).foldl (fun (s : State) (p : Nat × Nat) => s.countAccess (k.launch s).asid p.2 p.1) s
  let s := match firstOut run.reads with
    | some a => s.engineOor k a false
    | none => s
  let s := match firstOut (run.writes.map (·.1)) with
    | some a => s.engineOor k a true
    | none => s
  let (lost, s) := s.engineServe k true (run.writes.filterMap fun p => p.1.sliceAddr)
  let kept := run.writes.filter fun p => match p.1.sliceAddr with
    | some a => !lost.contains a
    | none => true
  let s := s.hostTraffic (s.prioFlag k.bind) false (run.reads.filterMap fun q => q.memAddr.map fun a => (a, 0))
  let bytes := kept.filterMap fun p => p.1.memAddr.map fun a => (a, p.2)
  let s := s.hostTraffic (s.prioFlag k.bind) true bytes
  let coh (b : Nat × Byte) : Bool := decide (windowBase ≤ b.1) && decide (b.1 < windowBase + 2 ^ 16)
  let (w, s) := s.freeDelay
  let t := s.clock + w
  let s := s.addUntimed t k.id (bytes.filter fun b => !coh b)
  let s := s.addWindow t k.id (bytes.filter coh)
  (t, s.copyCells k (kept.filterMap fun p => match p.1 with
    | .win a => some (a, p.2)
    | _ => none) run.stop.isNone)

/-- An untimed copy or fill moves its data (R204, R207), from its first beat not yet written: what it can write it writes, and where a translation is
absent or a word cannot be corrected the driver hears of it and the copy waits.  It moves nothing where a page that is mapped by now belongs to another task (R332). -/
def State.moveUntimed (s : State) (k : Cmd) : State :=
  if s.handlesRefused k then s.failCmd k 0x06 0x05
  else
  let (run, s) := ((List.range (cpBeats k.block)).drop k.beat).foldl (State.untimedBeat k) (⟨[], [], 0, k.beat, none⟩, s)
  let (t, s) := s.untimedWrite k run
  let k := { k with start := if k.start = 0 then s.clock else k.start, beat := run.beat, flags := k.flags ||| run.flags }
  match run.stop with
  | none => (s.setCmd { k with stage := .running }).schedule t prioComplete (.untimedComplete k.id)
  | some (access, h) =>
    let s := s.setCmd k
    match h with
    | .wait => s.schedule (s.clock + 1) prioComplete (.untimedComplete k.id)
    | .absent r va => (if r = 5 then s.logTorn (k.launch s).asid va else s).copyFault k 1 r va access
    | .bad pa va => (s.hbmLog pa true).copyFault k 1 5 va access
    | .link va => s.copyFault k 1 6 va access

/-- An untimed copy of the same context that issued before k has not started (R204). -/
def State.copyBefore (s : State) (k : Cmd) : Bool :=
  s.cmds.any fun j => j.core == k.core && j.ctx == k.ctx && !j.timed && j.id < k.id && j.start = 0 && (match j.instr with
    | .cpyu _ | .cfill _ => true
    | _ => false)

/-- A side of a copy lies in HBM, for monitor 0 (R352). -/
def State.hbmCopy (s : State) (k : Cmd) : Bool :=
  let far (w : Nat) (i need : Nat) : Bool := match s.place k w (k.side i) 0 need with
    | .phys pa _ => isFar pa
    | _ => false
  (!k.isFill && far (cpSrc k.block).word 0 1) || far (cpDst k.block).word 1 2

/-- An untimed copy has written its bytes: once its posted cells are acknowledged or have failed, it completes (R204, R206). -/
def State.endUntimed (s : State) (k : Cmd) : State :=
  let finish (s : State) : State :=
    let s := (s.endBuffers k).finishCmd k
    match k.instr with
    | .cpyu _ => if s.hbmCopy k then s.sample 0 (s.clock - k.issued) none else s
    | _ => s
  match s.fab.find k.id with
  | none => finish s
  | some x =>
    if x.todo.isEmpty && x.waiting = 0 then finish { s with fab := { s.fab with running := s.fab.running.filter fun y => y.cmd != k.id } }
    else (s.sendAllowed k).schedule (s.clock + 1) prioComplete (.untimedComplete k.id)

/-! The other untimed operations -/

/-- The flags of FP32 RoundNE additions, as a free value chooses them (R115-R117): none is inexact and tiny at once, and an overflow is inexact. -/
def sumFlags (f : Nat) : Flags :=
  (if f.testBit 0 then flNV else 0) ||| if f.testBit 1 then (flNX ||| if f.testBit 2 then flOF else 0) else 0

/-- A fabric command ends (R373, R374, R379): refused or failed cells give STATUS 0x05, an absent package 0x23 with its number.  The flags of the sums
that another package's fabric unit made (R366, R127) are those of additions whose first operand this package does not hold: free ones, where at least
one cell was acknowledged as applied. -/
def State.endFabric (s : State) (k : Cmd) : State :=
  match s.fab.find k.id with
  | none => s.finishCmd k
  | some x =>
    if !x.done then s
    else match k.instr with
    | .fsend _ =>
      let w := (s.core k.core).window (Desc.field k.block 16 1)
      let (f, s) := s.freeNat
      let sums := Desc.field k.block 18 1 = 1 && !(w.pod = s.fab.pod && w.pkg = s.fab.pkg) && decide (x.refused < (pieces (Desc.field k.block 12 4)).length)
      let s := if sums then s.setFab { x with flags := x.flags ||| sumFlags f } else s
      if k.status ≠ 0 then s.fabEnd k.id k.status.toNat k.detail.toNat x.refused none
      else if x.refused ≠ 0 then s.fabEnd k.id 0x05 0 x.refused none
      else s.fabEnd k.id 0 0 0 none
    | _ => s.fabEnd k.id k.status.toNat k.detail.toNat 0 (s.collOut k)

/-- Every earlier operation of tl7 of the command's core has completed (R297). -/
def State.earlierDone (s : State) (k : Cmd) : Bool := !s.cmds.any fun j => j.core == k.core && j.ctx == 7 && !j.timed && j.id < k.id

/-- An HNOTE leaves (R297): the note carries its identifier, the bind index and the payload; VALUE gains the message's number. -/
def State.sendNote (s : State) (k : Cmd) : State :=
  let d := k.block
  let seq := s.nextSeq
  let s := s.sendMsg 0x85 (s.prioFlag k.bind) (Desc.field d 0 4 + (k.bind.getD 0) * 2 ^ 32) (leBytes 56 (Desc.field d 8 56)) (Desc.field d 0 4)
  s.finishCmd { k with value := BitVec.ofNat 32 seq }

/-- The record of a JRNL is durable, and no longer waits for it (R394). -/
def State.durable (s : State) (k : Cmd) : Bool := !s.jrn.jrnls.contains k.id && s.jrn.recs.all fun r => r.cmd != k.id

/-- The next step of an untimed operation whose time has come.  The writes that an HFLUSH covers stand in memory, where the host's reads find them (R297). -/
def State.untimedStep (s : State) (k : Cmd) : State :=
  match k.instr with
  | .cpyu _ | .cfill _ =>
    match k.stage with
    | .captured => if s.copyBefore k then s.schedule (s.clock + 1) prioComplete (.untimedComplete k.id) else s.moveUntimed k
    | .running => if s.memPend.any fun m => m.op == k.id then s.schedule (s.clock + 1) prioComplete (.untimedComplete k.id) else s.endUntimed k
    | _ => s
  | .amo _ | .amof _ => if k.stage == .running then (s.atomicResult k).finishCmd k else s
  | .tlife _ | .tdrop _ => if k.stage == .captured then (s.lifetime k).finishCmd k else s
  | .fsend _ | .frdc _ | .fag _ | .fa2a _ => if k.stage == .away then s.endFabric k else s
  | .jrnl _ => if k.stage == .away && s.durable k then (s.finishCmd k).sample 6 (s.clock - k.issued) none else s
  | .emit _ | .jtrunc _ => if k.stage == .running then s.finishCmd k else s
  | .hflush _ => if k.stage == .captured then s.finishCmd k else s
  | .hnote _ =>
    if k.stage != .captured then s
    else if s.earlierDone k && s.linkUp then s.sendNote k
    else s.schedule (s.clock + 1) prioComplete (.untimedComplete k.id)
  | _ => s

/-- UNTIMED_COMPLETE (R206): an untimed operation goes on, or leaves its batch. -/
def execUntimedComplete (op : Nat) (s : State) : Host.Outcome State Fault Refusal :=
  match s.cmd op with
  | none => .next s
  | some k => if k.timed then .next s else .next (s.untimedStep k)

end Sys2Proof.Machine
end

