-- ==== Sys2Proof/Machine/Xslot.lean ====
section
/-! DEFINITION. The X slot: translation (08, R209-R211), CSRs and counters (03, R80-R83), flags (R218), monitors (R219), timeline records
(R208), power-gate requests (10, R234, R235). -/

namespace Sys2Proof.Machine

/-! Translation -/

/-- XLAT (R209): the valid bit falls at issue; the handle comes at issue + 96.  The walk reads the tables on a free cycle between, so that an
update which passes meanwhile is seen or not (R276). -/
def opXlat (o : XOps) : Op := fun pre cur =>
  let x : BitVec 3 := o.sd.extractLsb' 0 3
  let va := pre.cur.sreg o.sa
  let at_ := pre.clock + 96
  let s := cur.modCur fun c =>
    c.setXreg x { c.xreg x with val := 0, valid := false, pend := some (at_, o.low.extractLsb' 12 2, va) }
  let (d, s) := s.freeNat
  let s := s.schedule (pre.clock + 1 + d % 96) prioXlat (.xlatResult pre.ix.core x.toNat)
  .ok (s.schedule at_ prioXlat (.xlatResult pre.ix.core x.toNat))
def execXlat (o : XOps) (s : State) : Host.Outcome State Fault Refusal := runOp (opXlat o) s

/-- XVALID (R211). -/
def opXvalid (o : XOps) : Op := fun pre cur =>
  let x := pre.cur.xreg (o.sa.extractLsb' 0 3)
  let p := o.low.getLsbD 0
  .ok (cur.writeP (o.sd.extractLsb' 0 4) (x.valid && !(p && handleAbsent x.val)) 1)
def execXvalid (o : XOps) (s : State) : Host.Outcome State Fault Refusal := runOp (opXvalid o) s

/-! CSRs (R80-R82) -/

/-- JPARTNER (R389). -/
def Journal.word (j : Journal) : Word :=
  BitVec.ofNat 64 (j.partner % 64 + (if j.valid then 2 ^ 6 else 0) + (if j.lostPartner then 2 ^ 7 else 0) + j.inst % 2 ^ 32 * 2 ^ 32)

/-- The value of a CSR of core n. -/
def State.csr (s : State) (n num : Nat) : Word :=
  let c := s.core n
  match num with
  | 0x000 => BitVec.ofNat 64 c.tcyc
  | 0x001 => BitVec.ofNat 64 n
  | 0x002 => c.slim
  | 0x003 => c.flagsA
  | 0x004 => c.flagsB
  | 0x005 => c.fevrec
  | 0x006 => c.frec
  | 0x007 => c.oorrec
  | 0x008 => c.gkey
  | 0x009 => c.bus.vwidth
  | 0x00A => c.phaseno.zeroExtend 64
  | 0x00B => s.fab.livePeers
  | 0x00C => s.jrn.word
  | _ =>
    if num < 0x048 then BitVec.ofNat 64 (c.ctxAt (ctxNo (num - 0x040))).cnt
    else
      let w := c.window (num % 0x100)
      if num < 0x200 then w.base
      else if num < 0x300 then w.peer
      else w.allow ||| BitVec.ofNat 64 (w.outst * 2 ^ 16)

/-- The CSR is RW (R80). -/
def csrRw (num : Nat) : Bool := num == 3 || num == 4 || num == 5 || num == 7 || num == 8

/-- CSRR (R82): the value at issue; a read of VWIDTH acknowledges it from the next cycle (R241). -/
def opCsrr (o : XOps) : Op := fun pre cur =>
  let s := cur.writeS o.sd (pre.csr pre.ix.core o.csr) 2
  .ok (if o.csr = 9 then s.modCur fun c => { c with bus := { c.bus with ack := true } } else s)
def execCsrr (o : XOps) (s : State) : Host.Outcome State Fault Refusal := runOp (opCsrr o) s

/-- Write a RW CSR (R7, R82): the out-of-range access of this bundle, if there is one, is recorded after the write. -/
def Core.setCsr (c : Core) (oor : Option Word) (num : Nat) (v : Word) : Core :=
  match num with
  | 3 => { c with flagsA := v &&& flagsAMask }
  | 4 => { c with flagsB := v &&& flagsBMask }
  | 5 => { c with fevrec := v &&& fevrecMask }
  | 7 =>
    let v := v &&& oorrecMask
    { c with oorrec := if v.getLsbD 41 then v else oor.getD v }
  | 8 => { c with gkey := v }
  | _ => c

/-- CSRW, CSRS and CSRC (R82): 0x03 on a register that a program may not write. -/
def csrWrite (o : XOps) (f : Word → Word → Word) : Op := fun pre cur =>
  if !csrRw o.csr then .error (trapAt pre 0x03 0)
  else .ok (cur.modCur fun c => c.setCsr cur.ix.oor o.csr (f (pre.csr pre.ix.core o.csr) (pre.cur.sreg o.sa)))

/-- CSRW (R82). -/
def opCsrw (o : XOps) : Op := csrWrite o fun _ v => v
def execCsrw (o : XOps) (s : State) : Host.Outcome State Fault Refusal := runOp (opCsrw o) s

/-- CSRS (R82). -/
def opCsrs (o : XOps) : Op := csrWrite o fun c v => c ||| v
def execCsrs (o : XOps) (s : State) : Host.Outcome State Fault Refusal := runOp (opCsrs o) s

/-- CSRC (R82). -/
def opCsrc (o : XOps) : Op := csrWrite o fun c v => c &&& ~~~v
def execCsrc (o : XOps) (s : State) : Host.Outcome State Fault Refusal := runOp (opCsrc o) s

/-! Flags, counters, records -/

/-- The slot mask of FLGR and FLGC (R218). -/
def XOps.sets (o : XOps) : BitVec 9 := o.low.extractLsb' 5 9

/-- FLGR (R218). -/
def opFlgr (o : XOps) : Op := fun pre cur => .ok (cur.writeS o.sd (pre.cur.flagsA &&& expandSets (XOps.sets o)) 2)
def execFlgr (o : XOps) (s : State) : Host.Outcome State Fault Refusal := runOp (opFlgr o) s

/-- FLGC (R218). -/
def opFlgc (o : XOps) : Op := fun pre cur =>
  let m := expandSets (XOps.sets o)
  .ok ((cur.writeS o.sd (pre.cur.flagsA &&& m) 2).modCur fun c => { c with flagsA := c.flagsA &&& ~~~m })
def execFlgc (o : XOps) (s : State) : Host.Outcome State Fault Refusal := runOp (opFlgc o) s

/-- TCR (R83). -/
def opTcr (o : XOps) : Op := fun pre cur =>
  let c := pre.cur
  let v := match (o.low.extractLsb' 12 2).toNat with
    | 0 => c.tcyc
    | 1 => c.clk
    | _ => c.cutTcyc
  .ok (cur.writeS o.sd (BitVec.ofNat 64 v) 1)
def execTcr (o : XOps) (s : State) : Host.Outcome State Fault Refusal := runOp (opTcr o) s

/-- TLRD (R208). -/
def opTlrd (o : XOps) : Op := fun pre cur =>
  let x := pre.cur.ctxAt (o.low.extractLsb' 11 3)
  .ok (cur.writeS o.sd (x.record (pre.cur.sreg o.sa).toNat) 2)
def execTlrd (o : XOps) (s : State) : Host.Outcome State Fault Refusal := runOp (opTlrd o) s

/-- MONCAP (R219): the cluster's monitors 2-5 or the package's 0-6, at issue + 1. -/
def opMoncap (o : XOps) : Op := fun pre cur =>
  let mons : List MonId :=
    if o.low.extractLsb' 12 2 = 0 then (List.range 4).map fun i => .cluster (coreCluster pre.ix.core) (2 + i)
    else (List.range 7).map fun i => .pkg i
  .ok (mons.foldl (fun (s : State) m => s.schedule (pre.clock + 1) prioComplete (.monitorCapture m)) cur)
def execMoncap (o : XOps) (s : State) : Host.Outcome State Fault Refusal := runOp (opMoncap o) s

/-! Power gates (R234, R235) -/

/-- PGATE (R234): the cluster's power controller decides at issue + 2, and the status reaches sd at issue + 4. -/
def opPgate (o : XOps) : Op := fun pre cur =>
  let req : GateReq :=
    { issuer := pre.ix.core, target := ((pre.cur.sreg o.sa).extractLsb' 0 10).toNat, wake := o.low.getLsbD 1, force := o.low.getLsbD 0,
      sd := o.sd, issued := pre.clock }
  .ok ((cur.addWrite (.later o.sd) 4).schedule (pre.clock + 2) prioAfter (.powerGateDecision req))
def execPgate (o : XOps) (s : State) : Host.Outcome State Fault Refusal := runOp (opPgate o) s

def gateCode : Gate → Nat
  | .on => 0
  | .gating => 1
  | .gated => 2
  | .waking => 3

/-- A core that had ended before this clock cycle, or holds no task (R235): END marks its region with its cycle, so that the order in which the cores of a
cycle issue does not show. -/
def Core.endedOrFree (c : Core) (clock : Nat) : Bool := (c.run == .ended && c.region.since != clock) || c.bind.isNone

/-- The state word of PGQ without its FIFO counts. -/
def State.gateWord (s : State) (issuer target : Nat) : Word :=
  let c := s.core target
  BitVec.ofNat 64 (gateCode c.gate + (if c.endedOrFree s.clock then 4 else 0) +
    (if c.bind.isSome && c.bind == (s.core issuer).bind then 8 else 0) + (s.pair (corePair target)).discard * 2 ^ 16)

/-- PGQ (R235, R248): the target is the whole of sa's core number; its counts are taken at the end of the cycle. -/
def opPgq (o : XOps) : Op := fun pre cur =>
  let t := ((pre.cur.sreg o.sa).extractLsb' 0 10).toNat
  if coreCount ≤ t || coreCluster t ≠ coreCluster pre.ix.core then .ok (cur.writeS o.sd (BitVec.ofNat 64 (2 ^ 63)) 2)
  else
    let s := cur.addWrite (.gateCounts o.sd (corePair t) (pre.gateWord pre.ix.core t)) 2
    .ok (s.scheduleOnce pre.clock prioCount .writeVisible)
def execPgq (o : XOps) (s : State) : Host.Outcome State Fault Refusal := runOp (opPgq o) s

/-- XLAT_RESULT (R209, R284): the pending translation whose cycle this is gives its handle; a walk that is late, or a block that is being moved at the walk or at
the result, gives ABSENT with reason LATE.  The walk's own time, which monitor 3 samples, is a free value. -/
def execXlatResult (core x : Nat) (s : State) : Host.Outcome State Fault Refusal :=
  if 768 ≤ core || 8 ≤ x then .fault .noSuchUnit
  else
    let r : BitVec 3 := BitVec.ofNat 3 x
    let e := (s.core core).xreg r
    match e.pend with
    | none => .next s
    | some (at_, acc, va) =>
      let asid := match s.launchOf core with
        | some l => l.asid
        | none => 0
      let w := s.walk asid va.toNat acc.toNat
      let post (s : State) (reason : Nat) : State :=
        if e.val = 0 then s.postFault ⟨none, 1, reason, asid, acc.toNat, va.toNat, core, 0xFF, ((s.core core).bind).getD 0, 0⟩ else s
      let s := match w with
        | .absent _ true => post s 4
        | .torn p => post (if e.val = 0 then s.hbmLog p true else s) 5
        | .page _ _ _ | .absent _ false => s
      let absentLate : Word := BitVec.ofNat 64 (2 ^ 63 + 3 * 2 ^ 59)
      let h : Word := if e.val ≠ 0 then e.val else if s.moving asid va.toNat then absentLate else w.handle va.toNat
      if at_ ≠ s.clock then .next (s.modCore core fun c => c.setXreg r { e with val := h })
      else
        let (late, s) := s.freeNat
        let h : Word := if late % 2 = 1 || s.moving asid va.toNat then absentLate else h
        let (time, s) := s.freeNat
        let s := s.sample 3 time (some core)
        .next (s.modCore core fun c => c.setXreg r ⟨h, true, va, none⟩)

end Sys2Proof.Machine
end

