-- ==== Sys2Proof/Machine/Cluster.lean ====
section
/-! DEFINITION. Clusters (10): Rill FIFOs (R229-R232) and power gates (R233-R235). -/

namespace Sys2Proof.Machine

/-! Rill FIFOs -/

/-- The outbound and the inbound FIFO of core n: the lower core sends up, the upper core sends down (R229). -/
def Pair.outbound (p : Pair) (n : Nat) : Rill := if coreUpper n then p.down else p.up
def Pair.inbound (p : Pair) (n : Nat) : Rill := if coreUpper n then p.up else p.down
def Pair.setOutbound (p : Pair) (n : Nat) (r : Rill) : Pair := if coreUpper n then { p with down := r } else { p with up := r }
def Pair.setInbound (p : Pair) (n : Nat) (r : Rill) : Pair := if coreUpper n then { p with up := r } else { p with down := r }

/-- The partner's gate and domain, as the detail of a Rill fault (R231). -/
def State.partnerDetail (s : State) (n : Nat) : Option (BitVec 8) :=
  let p := s.core (corePartner n)
  if p.gate != .on then some 0x01
  else if p.bind.isNone || p.bind != (s.core n).bind then some 0x02
  else none

/-- RLSEND (R231): the row is ready at issue + 3. -/
def opRlsend (o : LOps) : Op := fun pre cur =>
  let n := pre.ix.core
  match pre.partnerDetail n with
  | some d => .error (trapAt pre 0x16 d)
  | none =>
    let k := corePair n
    if ((pre.pair k).outbound n).free = 0 then .error (trapAt pre 0x16 0)
    else
      let p := cur.pair k
      let f := p.outbound n
      let f := { f with free := f.free - 1, rows := f.rows ++ [(pre.clock + 3, pre.cur.row o.row.toNat)] }
      .ok ((cur.setPair k (p.setOutbound n f)).schedule (pre.clock + 3) prioComplete (.rillEntryReady k (!coreUpper n)))
def execRlsend (o : LOps) (s : State) : Host.Outcome State Fault Refusal := runOp (opRlsend o) s

/-- RLRECV (R231): the oldest ready row goes to the selected lanes at issue + 2; the producer's slot is free at issue + 3. -/
def opRlrecv (o : LOps) : Op := fun pre cur =>
  let n := pre.ix.core
  let k := corePair n
  let f := (pre.pair k).inbound n
  match f.ready, f.rows with
  | r + 1, (_, row) :: rest =>
    let p := cur.pair k
    let g := p.inbound n
    let g := { g with ready := r, rows := rest ++ g.rows.drop f.rows.length, freed := g.freed ++ [pre.clock + 3] }
    let s := (cur.setPair k (p.setInbound n g)).schedule (pre.clock + 3) prioComplete (.rillSlotFreed k (coreUpper n))
    let view := lView o
    .ok (s.addWrite (laneWrite o.row view ((lLanes pre o).map fun i => (i, laneOf row view i))) 2)
  | _, _ => .error (trapAt pre 0x17 ((pre.partnerDetail n).getD 0))
def execRlrecv (o : LOps) (s : State) : Host.Outcome State Fault Refusal := runOp (opRlrecv o) s

/-- RLFREE (R231). -/
def opRlfree (o : LOps) : Op := fun pre cur =>
  let n := pre.ix.core
  let p := pre.pair (corePair n)
  let v := if o.mod.getLsbD 0 then (p.inbound n).ready else (p.outbound n).free
  .ok (cur.writeS o.scalar (BitVec.ofNat 64 v) 1)
def execRlfree (o : LOps) (s : State) : Host.Outcome State Fault Refusal := runOp (opRlfree o) s

/-- A pair's FIFO by direction. -/
def State.modRill (s : State) (pair : Nat) (up : Bool) (f : Rill → Rill) : State :=
  let p := s.pair pair
  s.setPair pair (if up then { p with up := f p.up } else { p with down := f p.down })

/-- RILL_ENTRY_READY (R231): the rows pushed three cycles ago or earlier can be popped. -/
def execRillEntryReady (pair : Nat) (up : Bool) (s : State) : Host.Outcome State Fault Refusal :=
  if 384 ≤ pair then .fault .noSuchUnit
  else .next (s.modRill pair up fun r => { r with ready := r.rows.countP fun x => decide (x.1 ≤ s.clock) })

/-- RILL_SLOT_FREED (R231): slots popped three cycles ago or earlier come back to the producer. -/
def execRillSlotFreed (pair : Nat) (up : Bool) (s : State) : Host.Outcome State Fault Refusal :=
  if 384 ≤ pair then .fault .noSuchUnit
  else .next (s.modRill pair up fun r =>
    { r with free := r.free + r.freed.countP (fun x => decide (x ≤ s.clock)), freed := r.freed.filter fun x => decide (s.clock < x) })

/-! Power gates -/

/-- What is left of a core that is gated (R233): registers, sequencer and counters are at reset; its buffer table and its checkpoint are kept, and what is not
in the gated datapath: its bind and place in the domain, its bus, the lent count, the fabric unit's windows, the count of SYS. -/
def Core.gated (c : Core) : Core :=
  { Core.init with
    gate := .gating, run := .ended, blank := true, bind := c.bind, bufs := c.bufs, ckpt := c.ckpt, bus := c.bus, lent := c.lent, endedAtCut := c.endedAtCut,
    mapPhase := c.mapPhase, win := c.win, triggered := c.triggered, reserve := c.reserve, reserveUsed := c.reserveUsed, sysCount := c.sysCount }

/-- The status word of a PGATE request, and the state after it (R234). -/
def State.gateDecision (s : State) (q : GateReq) : Word × State :=
  let word (code count : Nat) : Word := BitVec.ofNat 64 (code + count * 2 ^ 8)
  let t := s.core q.target
  let otherDomain := t.bind != (s.core q.issuer).bind && t.bind.any fun b => decide (3 ≤ (s.launch b).st)
  if coreCount ≤ q.target || coreCluster q.target ≠ coreCluster q.issuer || q.target = q.issuer || otherDomain then (word 3 0, s)
  else if t.gate == .gating || t.gate == .waking then (word 5 0, s)
  else if q.wake then
    if t.gate == .on then (word 4 0, s)
    else
      ((word 0 0), (s.modCore q.target fun c => { c with gate := .waking }).schedule (s.clock + 1700) prioGate (.wakeComplete q.target))
  else if t.gate == .gated then (word 4 0, s)
  else
    let k := corePair q.target
    let p := s.pair k
    let n := p.up.rows.length + p.down.rows.length
    let domainCut := t.bind.isNone || t.run == .off || (t.run == .ended && t.endedAtCut)
    if n ≠ 0 && !q.force then (word 1 n, s)
    else if !domainCut then (word 2 0, s)
    else
      let s := if q.force then
          s.setPair k { up := .init, down := .init, discard := Nat.min (p.discard + n) 0xFFFF }
        else s
      let lo := codeBase q.target
      let s := { (s.modCore q.target Core.gated) with
        mem := s.mem.filter fun e => decide (e.1 < lo) || decide (lo + 2 ^ 18 ≤ e.1) }
      (word 0 (if q.force then n else 0), s.schedule (s.clock + 64) prioGate (.gatingComplete q.target))

/-- POWER_GATE_DECISION (R234, R248): two cycles after the request; the status reaches sd two cycles later. -/
def execPowerGateDecision (req : GateReq) (s : State) : Host.Outcome State Fault Refusal :=
  if 768 ≤ req.issuer then .fault .noSuchUnit
  else
    let (w, s) := s.gateDecision req
    .next (s.learn req.issuer req.issued 10 w)

/-- GATING_COMPLETE (R233). -/
def execGatingComplete (core : Nat) (s : State) : Host.Outcome State Fault Refusal :=
  if 768 ≤ core then .fault .noSuchUnit
  else if (s.core core).gate == .gating then .next (s.modCore core fun c => { c with gate := .gated }) else .next s

/-- WAKE_COMPLETE (R233): the core is ON and ended. -/
def execWakeComplete (core : Nat) (s : State) : Host.Outcome State Fault Refusal :=
  if 768 ≤ core then .fault .noSuchUnit
  else if (s.core core).gate == .waking then .next (s.modCore core fun c => { c with gate := .on }) else .next s

end Sys2Proof.Machine
end

