-- ==== Sys2Proof/Machine/Banks.lean ====
section
/-! DEFINITION. Accesses at their links and banks (12, R261-R264; 05, R141, R146; 10, R236-R241): collisions, stamps, bus units, buffers of
remote slices. -/

namespace Sys2Proof.Machine

/-! An access that fails -/

/-- An engine command whose block could not be read: it has no effect, and leaves its batch. -/
def State.loseBlock (s : State) (id : Nat) : State :=
  match s.cmd id with
  | none => s
  | some k =>
    let s := { s with hbmGroups := s.hbmGroups.filter fun g => g.cmd != id }
    if k.timed then s.dropCmd id else s.finishCmd { k with flags := 0, status := 0, detail := 0, value := 0 }

/-- An access takes no effect (R141, R236, R237, R262, R264): with it go its other parts, and what it would have written. -/
def State.cancelAcc (s : State) (a : Acc) : State :=
  let s := { s with accs := s.accs.filter fun x => x.op != a.op }
  let now (s : State) : State :=
    { s with memPend := s.memPend.filter fun m => !(m.op == a.op && m.bank == s.clock && m.data.any fun d => a.bytes.contains (d.1 - nearBase)) }
  match a.kind with
  | .core | .matrix => s.cancel a.core a.op
  | .mrow => if a.write then now s else s.cancel a.core a.op
  | .copy | .routing =>
    let s := { s with memPend := s.memPend.filter fun m => !(m.op == a.op && decide (s.clock ≤ m.bank)) }
    { s with cmds := s.cmds.map fun k => if k.base ≤ a.op && a.op < k.base + k.span then { k with lost := a.op :: k.lost } else k }
  | .block => s.loseBlock a.op

/-- An access fails with a cause: it takes no effect, and its issuer records the fault (R419). -/
def State.failAcc (s : State) (a : Acc) (cause detail : BitVec 8) : State :=
  (s.cancelAcc a).lateFault a.core cause detail a.slot a.addr a.issued

/-! Links (R261, R262) -/

/-- The link an access stands on in this cycle. -/
def State.linkNow (s : State) (a : Acc) : Option Link := (a.hops.find? fun h => h.1 = s.clock).map (·.2)

/-- MESH_HOP (R262): requests that meet on a link go no further. -/
def execMeshHop (s : State) : Host.Outcome State Fault Refusal :=
  let here := s.accs.zipIdx.filterMap fun a => (s.linkNow a.1).map fun l => (a.1, l, a.2)
  let lost := here.filter fun x => here.any fun y => y.2.1 == x.2.1 && y.2.2 != x.2.2
  .next (lost.foldl (fun (s : State) (x : Acc × Link × Nat) => s.failAcc x.1 0x14 (BitVec.ofNat 8 x.2.1.kind)) s)

/-! At the bank (R141, R214, R236, R240, R241, R264) -/

/-- The stamp of a timed request and the width of the target's bus: what turns it away on arrival. -/
def State.arrival (s : State) (a : Acc) : Option (BitVec 8 × BitVec 8) :=
  let t := s.core a.target
  let same := t.bind.isSome && t.bind == (s.core a.core).bind
  let held := match t.run, t.hold with
    | .held, some h => h.begun
    | _, _ => false
  if a.remote && same && !held && t.gate == .on && (a.stamp + (a.cycle - a.issued)) % 2 ^ 16 != t.tcyc % 2 ^ 16 then
    some (0x11, match distOf a.core a.target with
      | .own | .sameDie => 0
      | .otherDie => 1
      | .otherStack => 2)
  else s.busRefuses a.core a.target

/-- The accesses that share a target slice and a bank; two rows of one MSAVE or MLOAD form one access there (R190). -/
def sharesBank (a b : Acc) (k : Nat) : Bool := a.target == b.target && b.banks.contains k && !(a.kind == .mrow && a.op == b.op)

/-- Two parts of one access, which fail together; the rows of an MSAVE or MLOAD are accesses of their own. -/
def Acc.together (a b : Acc) : Bool := a.op == b.op && (a.kind != .mrow || a.bytes == b.bytes)

/-- Units of a direction of a bus that a list of accesses asks for (R236). -/
def unitsOf (l : List Acc) (target : Nat) (write : Bool) : Nat :=
  (l.filter fun a => a.target == target && a.write == write).foldl (fun n a => n + a.units) 0

/-- The lowest DETAIL of 0x13 that an access meets among those of its cycle: a bank, or its direction of the bus. -/
def State.portClash (s : State) (l : List (Acc × Nat)) (x : Acc × Nat) : Option (BitVec 8) :=
  let a := x.1
  let held : List Nat := match s.routingHolds a.target with
    | some (_, bs) => bs
    | none => []
  match (List.range 16).find? fun k => a.banks.contains k && (held.contains k || l.any fun y => y.2 != x.2 && sharesBank a y.1 k) with
  | some k => some (BitVec.ofNat 8 k)
  | none =>
    if (a.units ≠ 0 || a.kind == .mrow) && (if s.half a.target then 1 else 2) < unitsOf (l.map (·.1)) a.target a.write then some (if a.write then 0x21 else 0x20) else none

/-- The routing command whose bank an access has met: it records the fault, and its outputs are no longer fixed (R214). -/
def State.hitRouting (s : State) (a : Acc) : State :=
  match s.routingHolds a.target with
  | none => s
  | some (k, bs) =>
    match (List.range 16).find? fun b => a.banks.contains b && bs.contains b with
    | none => s
    | some b => (s.setCmd { k with lost := a.op :: k.lost }).lateFault k.core 0x13 (BitVec.ofNat 8 b) 9 k.addr k.issued

/-! What an access does -/

/-- An access that has its bank and its units: parity, the code, the buffers of a remote slice (R146), and an atomic's (R155). -/
def State.serveAcc (s : State) (l : List Acc) (a : Acc) : State :=
  let (lost, s) := s.parityCheck l a
  if lost then s.failAcc a 0x1A (if a.write then 2 else 1)
  else
    let core : Bool := match a.kind with
      | .core => a.remote
      | _ => false
    if core && (if a.atom then s.inBuffer a.bytes else s.bufRefuses a.core a.write a.bytes) then s.failAcc a 0x05 0
    else
      match s.eccCheck a with
      | (some d, s) =>
        if a.write && !a.atom then s.lateFault a.core 0x1A d a.slot a.addr a.issued else s.failAcc a 0x1A d
      | (none, s) => if core && a.write && !a.atom then s.fillBufs a.core a.bytes else s

/-- BANK_ACCESS (R141): the accesses of this cycle. -/
def execBankAccess (s : State) : Host.Outcome State Fault Refusal :=
  let due := (s.accs.filter fun a => decide (a.cycle ≤ s.clock) && !(a.banks.isEmpty && a.units = 0)).zipIdx
  let s := { s with accs := s.accs.filter fun a => !decide (a.cycle ≤ s.clock) }
  let s0 := s
  let away := due.filterMap fun x => (s0.arrival x.1).map fun f => (x, f.1, f.2)
  let come := due.filter fun x => (s0.arrival x.1).isNone
  let clash := come.filterMap fun x => (s0.portClash come x).map fun d => (x, (0x13 : BitVec 8), d)
  let failed := away ++ clash
  let gone (a : Acc) : Bool := failed.any fun f => f.1.1.together a
  let live := (come.map (·.1)).filter fun a => !gone a
  let s := clash.foldl (fun (s : State) (f : (Acc × Nat) × BitVec 8 × BitVec 8) => s.hitRouting f.1.1) s
  let s := failed.foldl (fun (s : State) (f : (Acc × Nat) × BitVec 8 × BitVec 8) =>
    (if f.2.1 = 0x1B then s.widthHeard f.1.1.target f.2.2 else s).failAcc f.1.1 f.2.1 f.2.2) s
  .next (live.foldl (fun (s : State) (a : Acc) => s.serveAcc live a) s)

/-- SCRUB (R238): one word of the array is read and corrected, in a cycle that the timetable leaves free. -/
def execScrub (word : Nat) (s : State) : Host.Outcome State Fault Refusal :=
  if 2 ^ 29 ≤ word || (coreOfAddr (8 * word)).isNone then .fault .noSuchUnit else .next (s.eccRead word true).2

end Sys2Proof.Machine
end

