-- ==== Sys2Proof/Machine/Rendezvous.lean ====
section
/-! DEFINITION. The end of a rendezvous (02, R69-R72; 13, R287; 14, R312, R313; 15, R330, R334; 17, R362): what a member still waits for, the phases that
have committed, and the release; the limit of a sealed region (R64). -/

namespace Sys2Proof.Machine

/-! Members (R69, R70, R334) -/

/-- An untimed operation of core n that writes device memory has not completed. -/
def State.memberWrites (s : State) (n : Nat) : Bool :=
  s.cmds.any fun k => k.core == n && !k.timed && k.writing && k.bind == (s.core n).bind

/-- What R69 waits for in a held member: its register and row writes are visible, and its timed commands have finished. -/
def State.regsSettled (s : State) (n : Nat) : Bool :=
  let c := s.core n
  c.pend.isEmpty && c.mops.all (fun m => m.tiles.isEmpty) && c.x.toList.all (fun x => x.pend.isNone) &&
    !(s.cmds.any fun k => k.core == n && k.timed) &&
    !(s.winAcc.any fun a => a.core == n && !a.write)

/-- What R334 adds in every member of a PHASE, held or ended: its stores are visible too. -/
def State.settled (s : State) (n : Nat) : Bool :=
  s.regsSettled n && (s.core n).mops.isEmpty && !(s.memPend.any fun m => m.store == n) && !(s.winAcc.any fun a => a.core == n)

/-- An ended member counts as arrived once its untimed writes have completed (R70); at a PHASE it meets its part of R334 as well. -/
def State.endedReady (s : State) (n : Nat) (resync : Bool) : Bool :=
  (s.core n).run == .ended && !s.memberWrites n && (resync || s.settled n)

/-- A member that has arrived meets its part of R69, and at a PHASE of R334: its waits hold, and its writes and timed commands have ended. -/
def State.holdMet (s : State) (n : Nat) (h : Hold) : Bool :=
  h.waits.all (fun w => ((s.core n).ctxAt (ctxNo w.ctx)).test w.out w.value) && (if h.resync then s.regsSettled n else s.settled n)

/-- A held member can be released: TCYC has reached its arrival value too (R72). -/
def State.heldReady (s : State) (n : Nat) (h : Hold) : Bool := h.begun && s.holdMet n h

/-- The members of group g that are held in it, and whether each member has arrived and is ready, or has ended. -/
def State.heldIn (s : State) (g : Nat) : List (Nat × Hold) :=
  (s.members g).filterMap fun n => match (s.core n).hold with
    | some h => if h.group = g && !h.void then some (n, h) else none
    | none => none

def State.localReady (s : State) (g : Nat) : Bool :=
  let resync := (s.rendezvous g).any fun h => h.resync
  (s.members g).all fun n =>
    match (s.core n).hold with
    | some h => h.group == g && !h.void && s.heldReady n h
    | none => s.endedReady n resync

/-! Phase progress (R312, R313) -/

/-- A member has done its part of a task of phase k: it is past that phase, has ended, or has left that phase's PHASE and arrived at its next
one (R312). -/
def State.memberDone (s : State) (k n : Nat) : Bool :=
  let c := s.core n
  decide (k < c.phaseno.toNat) || s.endedReady n false ||
    (match c.hold with
      | some h => !h.resync && !h.void && decide (c.phaseno.toNat = k) && s.holdMet n h
      | none => false)

def State.taskDone (s : State) (l : Launch) (t : Task) : Bool := decide (t.phase < l.committed) || t.members.all (s.memberDone t.phase)

/-- How many phases of a launch have committed: those below the first that holds a task not done. -/
def State.progress (s : State) (l : Launch) : Nat :=
  let last := l.tasks.foldl (fun m t => Nat.max m (t.phase + 1)) l.committed
  l.tasks.foldl (fun m t => if s.taskDone l t then m else Nat.min m t.phase) last

/-- The phases that have committed by now: their pins are released (R312), so that Noon decides again (R307), and tensors go back to the far tier (R286). -/
def State.commit (s : State) (b : Nat) : State :=
  let l := s.launch b
  let p := s.progress l
  if p ≤ l.committed then s
  else
    let s := s.setLaunch b { l with committed := p, pins := l.pins.filter fun x => decide (p ≤ x.phase) }
    ((List.range (p - l.committed)).foldl (fun (s : State) (i : Nat) => s.tensorsOut b (l.committed + 1 + i)) s).decideSoon

/-- A launch has phases to commit. -/
def State.commitDue (s : State) (l : Launch) : Bool := decide (l.committed < s.progress l)

/-! Release -/

/-- The launch that a group belongs to. -/
def State.groupBind (s : State) (g : Nat) : Option Nat := (s.members g).findSome? fun n => (s.core n).bind

/-- The frame position that R287 asks for, when the launch owns a stack of HBM. -/
def State.onFrame (s : State) (l : Launch) (tcyc : Nat) : Bool := l.hbm == 0 || s.clock % 2176 == tcyc % 2176

/-- T_R among the members here. -/
def localTr (held : List (Nat × Hold)) : Nat := held.foldl (fun m x => Nat.max m x.2.arrival) 0

/-- The packages of a pod group (R362); none for a package group. -/
def State.podMembers (s : State) (g : Nat) : List Nat :=
  match SMap.get 0 s.fab.podMap g with
  | 0 => []
  | a + 1 => (s.fab.group a).ranks

/-- Posted writes and fabric commands of the members have been acknowledged or have failed (R362). -/
def State.podQuiet (s : State) (g : Nat) : Bool :=
  (s.members g).all fun n => (s.core n).win.all (fun w => w.2.outst = 0) &&
    !s.fab.running.any fun x => match s.cmd x.cmd with
      | some k => k.core == n
      | none => false

/-- This package's arrival at a pod group is ready to be sent. -/
def State.arrivalDue (s : State) (g : Nat) : Bool :=
  !(s.podMembers g).isEmpty && !(s.members g).isEmpty && (s.fab.remoteAt (podKey g s.fab.pkg)).1 = 0 && s.localReady g && s.podQuiet g

/-- Send this package's arrival to the others of a pod group (R362). -/
def State.sendArrival (s : State) (g : Nat) : State :=
  let held := s.heldIn g
  let h : Hold := (held.head?.map (·.2)).getD ⟨g, false, 0, 0, [], 0, true, 0, false⟩
  let code := arrivalCode h.n.toNat h.resync held.isEmpty + (if s.fab.slip then 2 ^ 35 else 0)
  let s := s.control ((s.podMembers g).filter (· != s.fab.pkg)) ctlArrival (arrivalBytes g code (localTr held) s.fab.pslot)
  s.putRemote (podKey g s.fab.pkg) (code, localTr held, s.fab.pslot)

/-- The arrivals of a pod group, when every package has sent one: T_R, and the slot at or after which the release falls (R362). -/
def State.podRelease (s : State) (g : Nat) : Option (Nat × Nat) :=
  let all := (s.podMembers g).map fun p => s.fab.remoteAt (podKey g p)
  let live := all.filter fun x => bitsOf x.1 33 1 = 0
  match live with
  | [] => none
  | x :: r =>
    if all.any (fun y => y.1 = 0) || r.any (fun y => y.1 % 2 ^ 35 != x.1 % 2 ^ 35) then none
    else
      let tr := live.foldl (fun m y => Nat.max m y.2.1) 0
      let rel := all.foldl (fun m y => Nat.max m y.2.2) 0 + 16
      let learned := (s.fab.remoteAt (learnKey g)).1
      some (tr, if rel ≤ learned then learned + 1 else rel)

/-- T_R of a group that can be released in this cycle (R69, R287, R313, R362). -/
def State.releaseAt (s : State) (g : Nat) : Option Nat :=
  let held := s.heldIn g
  match held, s.groupBind g with
  | (_, h) :: _, some b =>
    let l := s.launch b
    let ok (tr : Nat) : Bool := s.localReady g && (h.resync || l.tasks.all fun t => decide (h.n.toNat ≤ t.phase) || s.taskDone l t) && s.onFrame l tr
    if (s.podMembers g).isEmpty then
      if ok (localTr held) then some (localTr held) else none
    else
      match s.podRelease g with
      | some (tr, slot) => if slot ≤ s.fab.pslot && ok tr then some tr else none
      | none => none
  | _, _ => none

/-- A member is released (R69, R330). -/
def State.releaseCore (s : State) (n tr : Nat) (h : Hold) : State :=
  let s := if h.resync then s else s.sample 2 (s.clock - h.since) (some n)
  s.modCore n fun c =>
    let c := { c with run := .running, hold := none, tcyc := tr, nextIssue := s.clock }
    if h.resync then c else { c with phaseno := h.n, mapPhase := h.n.toNat }

/-- The arrivals of a pod group are used up, but those of packages whose members have all ended (R70, R362).  A late
release is a slip (R362), and so is one of a superstep in which cells were held or sent again, here or at a package whose arrival says so
(R384), which is logged when the next rotation begins (R408: log 14). -/
def State.clearPod (s : State) (g : Nat) : State :=
  let rel := (s.podMembers g).foldl (fun m p => Nat.max m (s.fab.remoteAt (podKey g p)).2.2) 0 + 16
  let late := rel < s.fab.pslot && rel ≤ (s.fab.remoteAt (learnKey g)).1
  let held := s.fab.slip || (s.podMembers g).any fun p => bitsOf (s.fab.remoteAt (podKey g p)).1 35 1 == 1
  let s := if late then s.fabLog 4 0 0 0 s.fab.pslot else s
  let s := { s with fab := { s.fab with slip := false, slipDue := s.fab.slipDue || (held && !late) } }
  (s.podMembers g).foldl (fun (s : State) (p : Nat) =>
    if bitsOf (s.fab.remoteAt (podKey g p)).1 33 1 = 1 then s else s.putRemote (podKey g p) (0, 0, 0)) s

/-- RENDEZVOUS_RELEASE (R69): phases commit, an arrival goes to the other packages of a pod group, or the members are released on one clock cycle. -/
def execRendezvousRelease (group : Nat) (s : State) : Host.Outcome State Fault Refusal :=
  if 256 ≤ group then .fault .noSuchUnit
  else
    match s.releaseAt group with
    | none =>
      let s := match s.groupBind group with
        | some b => s.commit b
        | none => s
      .next (if s.arrivalDue group then s.sendArrival group else s)
    | some tr =>
      let held := s.heldIn group
      let s := match s.groupBind group with
        | some b => s.commit b
        | none => s
      let s := held.foldl (fun (s : State) (x : Nat × Hold) => s.releaseCore x.1 tr x.2) s
      let s := if (s.podMembers group).isEmpty then s else s.clearPod group
      match s.groupBind group, held with
      | some b, (_, h) :: _ => .next (if h.resync then s else s.tensorsIn b h.n.toNat)
      | _, _ => .next s

/-! Sealed regions (R64, R77) -/

/-- The region of a core has been sealed for 4,096 clock cycles. -/
def State.sealedLong (s : State) (c : Core) : Bool :=
  (c.run == .running || c.run == .held) && c.region.kind == .sealed && decide (c.region.since + 4096 ≤ s.clock)

/-- SEALED_REGION_TIMEOUT (R64): 0x02 with DETAIL 0x04; FREC names the REGION that opened the region (R77). -/
def execSealedRegionTimeout (core : Nat) (s : State) : Host.Outcome State Fault Refusal :=
  if 768 ≤ core then .fault .noSuchUnit
  else
    let c := s.core core
    .next (if s.sealedLong c then (s.leaveRendezvous core).takeException core 0x02 0x04 0 c.region.addr else s)

end Sys2Proof.Machine
end

