-- ==== Sys2Proof/Machine/Freeze.lean ====
section
/-! DEFINITION. Freeze, rewind and restart of a domain (02, R74, R75; 08, R220, R416; 12, R267, R268, R271; 14, R320, R324; 19, R405), and
the stop after a program error (R12, R76, R88). -/

namespace Sys2Proof.Machine

/-! Requests -/

/-- A later request raises the kind of a stop, and never lowers it (R320, R324, R325). -/
def StopKind.rank : StopKind → Nat
  | .rewind => 0
  | .inPlace => 1
  | .variant => 2
  | .preempt => 3

/-- How a domain goes on after a stop for a cause (R75, R324, R325). -/
def stopKindOf (cause : BitVec 8) : StopKind :=
  if cause = 0x1B then .variant else if cause = 0x30 || cause = 0x31 then .inPlace else .rewind

/-- The causes that every core of the domain records (R267, R271, R289, R380); the others stand in the FREC of the core that raised them. -/
def Stop.everyCore (t : Stop) : Bool := t.cause = 0x10 || t.cause = 0x21 || t.cause = 0x22 || t.cause = 0x30 || t.cause = 0x31

/-- The causes of a rewind that every core of the domain records (R267, R380): they stop it at its next bundle boundary, ahead of a stop that waits for a
cut line, and are what its cores record then. -/
def rewindsAll (cause : BitVec 8) : Bool := cause = 0x10 || cause = 0x21 || cause = 0x22
def Stop.rewindsAll (t : Stop) : Bool := Sys2Proof.Machine.rewindsAll t.cause

def Core.active (c : Core) : Bool := c.run == .running || c.run == .held

/-- A core of the domain is in a sealed or closing region (R74). -/
def State.regionOpen (s : State) (l : Launch) : Bool :=
  l.cores.any fun n => let c := s.core n
    (c.active || c.run == .stopped) && (c.region.kind == .sealed || c.region.closing)

/-- Record a cause at bundle level in core n (R76). -/
def State.recordCause (s : State) (n : Nat) (cause detail : BitVec 8) : State :=
  s.modCore n fun c =>
    let a := match c.hold with
      | some h => h.addr
      | none => c.pc.toNat
    { c with frec := frecWord cause detail 15 (c.region.kind == .sealed) a }

/-- A core stops for its domain's freeze (R74): at a bundle boundary, or where it is held. -/
def State.freezeCore (s : State) (n : Nat) : State :=
  let s := match (s.launchOf n).bind (·.stop) with
    | some t => if t.everyCore then s.recordCause n t.cause t.detail else s
    | none => s
  s.modCore n fun c => { c with run := .frozen, hold := none }

/-! The stop: what it discards (R20, R75, R191, R220, R232, R416) -/

/-- The row is in a named range or a live tile of the checkpoint (R63, R75). -/
def Checkpoint.keepsRow (k : Checkpoint) (r : Nat) : Bool :=
  !k.entry && (k.rows.any (fun x => decide (x.1 ≤ r) && decide (r ≤ x.2)) || (decide (r < 2048) && k.tiles.getLsbD (r / 128)))

/-- The core's registers return to the checkpoint (R75); its CSRs other than those of the checkpoint stay, and so does the channel of the timed atomics that a
freeze lets complete (R220).  DESIGN CHOICE (log 46): a TRIGGER that the core
issued in the region that goes still counts as issued (R60). -/
def Core.rewind (c : Core) (k : Checkpoint) : Core :=
  { c with
    pc := BitVec.ofNat 32 k.addr, loops := k.loops, tcyc := k.tcyc, cutTcyc := k.tcyc, phaseno := k.phaseno,
    flagsA := k.flagsA, flagsB := k.flagsB, fevrec := k.fevrec, s := k.s, p := k.p,
    k := (Vector.replicate 16 (0 : Mask)).set 0 (BitVec.allOnes 512), g := k.g,
    rows := c.rows.filter fun x => k.keepsRow x.1, x := .replicate 8 ⟨0, false, 0, none⟩,
    sWr := .replicate 32 0, pWr := .replicate 16 0, gWr := .replicate 16 0,
    bufs := k.bufs, mapPhase := k.mapPhase, region := ⟨.normal, 0, k.addr, false⟩,
    pend := [], mops := [], mBusyUntil := 0, panel := none, late := none, hold := none, chan := c.chan.filter fun x => x.1 = 7 }

/-- A context returns to the checkpoint's batch numbers (R416): later batches go, the batch open at the cut line is open again. -/
def Ctx.rewind (x : Ctx) (closed : Nat) (cur : Batch) : Ctx :=
  Ctx.settle { x with closed := closed, cur := cur, expired := Nat.min closed x.lastExpired, batches := x.batches.filter (fun b => decide (b.1 ≤ closed)), cnt := Nat.min x.cnt closed }

def Core.rewindCtx (c : Core) (k : Checkpoint) : Core :=
  { c with ctx := Vector.ofFn fun i => (c.ctx[i.val]'(i.isLt)).rewind (k.closed.getD i.val 0) (k.opens.getD i.val .empty) }

/-- The core returns to a cut line: it had not ended before that line (R61, R247) and is not gated (R234). -/
def Core.returns (c : Core) : Bool := c.gate == .on && !(c.run == .ended && c.endedAtCut) && c.run != .off && c.run != .waiting

/-- The timed command goes on at a freeze: an atomic whose start has passed (R220). -/
def Cmd.survives (k : Cmd) : Bool :=
  !k.timed || match k.instr with
    | .amo _ | .amof _ => k.stage == .running
    | _ => false

/-- An untimed operation after the stop (R416): kept in the batch it joined, or detached. -/
def Cmd.afterStop (k : Cmd) (q : Checkpoint) : Cmd :=
  if q.taken ≤ k.issued then { k with batch := .detached }
  else
    match k.batch with
    | .num m => if q.closed.getD k.ctx 0 < m then { k with batch := .opn } else k
    | _ => k

/-- The engines of a domain at its stop (R191, R220): what is cancelled, with the writes that have not reached their banks. -/
def State.stopEngines (s : State) (l : Launch) : State :=
  let mine (n : Nat) : Bool := l.cores.contains n
  let gone := s.cmds.filter fun k => k.bind == some l.bind && !k.survives
  let ops := l.cores.flatMap fun n => (s.core n).mops.map (·.id)
  let drops (op : Nat) : Bool := ops.contains op || gone.any fun k => op == k.id || (decide (k.base ≤ op) && decide (op < k.base + k.span))
  let engine (a : Acc) : Bool := match a.kind with
    | .core => false
    | .block => drops a.op
    | .copy | .matrix | .mrow | .routing => true
  { s with
    cmds := (s.cmds.filter fun k => k.bind != some l.bind || k.survives).map fun k =>
      if k.bind != some l.bind || k.timed || !(s.core k.core).returns then k
      else
        match (s.core k.core).ckpt with
        | some q => k.afterStop q
        | none => k,
    accs := s.accs.filter fun a => !(mine a.core && engine a),
    memPend := s.memPend.filter fun m => !(drops m.op && decide (s.clock < m.bank)),
    hbmGroups := s.hbmGroups.filter fun g => gone.all fun k => g.cmd != k.id }

/-- The FIFOs of the domain's pairs are emptied (R232); DISCARD stays. -/
def State.emptyPairs (s : State) (l : Launch) : State :=
  ((l.cores.map corePair).eraseDups).foldl (fun (s : State) (k : Nat) =>
    s.setPair k { s.pair k with down := .init, up := .init }) s

/-- The pending rendezvous of this package's domain is forgotten; arrivals of other packages stand (R74, R405). -/
def State.forgetArrivals (s : State) (l : Launch) : State :=
  (s.groups.filter fun g => g.2.1 == l.lid).foldl (fun (s : State) g => s.putRemote (podKey g.1 s.fab.pkg) (0, 0, 0)) s

/-- The cores of a domain that have ended record the cause that every core of it records (R267, R271, R380); one that has been gated has no FREC. -/
def State.recordEnded (s : State) (l : Launch) (t : Stop) : State :=
  if t.everyCore then
    (l.cores.filter fun n => (s.core n).run == .ended && !(s.core n).blank).foldl (fun (s : State) (n : Nat) => s.recordCause n t.cause t.detail) s
  else s

/-- The stop of a domain takes effect (R74, R75): every core that returns to the cut line is rewound. -/
def State.stopDomain (s : State) (b : Nat) (t : Stop) : State :=
  let l := s.launch b
  let s := s.recordEnded l t
  let s := ((s.stopEngines l).emptyPairs l).forgetArrivals l
  let s := l.cores.foldl (fun (s : State) (n : Nat) =>
    let c := s.core n
    match c.ckpt with
    | some q => if c.returns then s.setCore n { (c.rewind q).rewindCtx q with run := .frozen } else s
    | none => s) s
  let l := { l with stop := some { t with stopped := true, at_ := s.clock }, st := if t.kind == .inPlace then 4 else l.st }
  let s := s.setLaunch b l
  if t.kind == .preempt then s.scheduleOnce s.clock prioAfter (.preemption b) else s

/-- The stop takes effect once every core of the domain has stopped; a domain whose cores have all ended goes on to its completion. -/
def State.settleStop (s : State) (b : Nat) : State :=
  let l := s.launch b
  match l.stop with
  | none => s
  | some t =>
    if t.stopped || l.ending.isSome || l.cores.any (fun n => (s.core n).active) then s
    else if l.cores.all fun n => (s.core n).run == .ended then s.setLaunch b { l with stop := none }
    else s.stopDomain b t

/-- A stop that waits for nothing but its settling (for the scan). -/
def State.settleDue (s : State) (l : Launch) : Bool :=
  match l.stop with
  | none => false
  | some t => !t.stopped && l.ending.isNone && !l.cores.any (fun n => (s.core n).active)

/-- The core that has stopped for a cause of its own, with its TCYC. -/
def State.raiser (s : State) (l : Launch) (cause : BitVec 8) : Nat × Nat :=
  match l.cores.find? fun n => (s.core n).run == .stopped && (s.core n).frec.extractLsb' 0 8 == cause with
  | some n => (n, (s.core n).tcyc)
  | none => (0xFFFF, 0)

/-- A request for a stop of the domain of a launch that runs or is frozen (R74, R320, R324): at the next bundle boundary, where held cores
stop at once, or at the next cut line.  DESIGN CHOICE (log 46): a second request that finds no region open any more, while the first waits for the cut
line, stops the cores that are left at their next bundle boundary, unless both wait for a cut line by their own kind. -/
def State.requestStop (s : State) (b : Nat) (kind : StopKind) (cause detail : BitVec 8) (atCut : Bool) (from_ : Nat) : State :=
  let l := s.launch b
  if !(l.st = 3 || l.st = 4) || l.ending.isSome then s
  else
    match l.stop with
    | none =>
      let t : Stop := ⟨cause, detail, kind, atCut || s.regionOpen l, false, from_, (s.raiser l cause).1, (s.raiser l cause).2, s.clock⟩
      let s := s.setLaunch b { l with stop := some t }
      let s := if t.atCut then s
        else l.cores.foldl (fun (s : State) (n : Nat) => if (s.core n).run == .held then s.freezeCore n else s) s
      s.settleStop b
    | some o =>
      let up := decide (o.kind.rank < kind.rank)
      let t : Stop := if up then { o with kind := kind, core := (s.raiser l cause).1, tcyc := (s.raiser l cause).2 } else o
      let t : Stop := if (up && (o.stopped || !o.rewindsAll)) || (!o.stopped && rewindsAll cause && !o.rewindsAll) then
          { t with cause := cause, detail := detail }
        else t
      let t := { t with from_ := Nat.max o.from_ from_ }
      if o.stopped then
        let s := s.setLaunch b { l with stop := some t, st := if t.kind == .inPlace then 4 else l.st }
        let s := if up && t.everyCore then
            (l.cores.foldl (fun (s : State) (n : Nat) => if (s.core n).run == .frozen then s.recordCause n cause detail else s) s).recordEnded l t
          else s
        if up && kind == .preempt then s.scheduleOnce s.clock prioAfter (.preemption b) else s
      else
        let t := { t with atCut := (atCut && o.atCut) || s.regionOpen l }
        let s := s.setLaunch b { l with stop := some t }
        let s := if t.atCut then s
          else l.cores.foldl (fun (s : State) (n : Nat) => if (s.core n).run == .held then s.freezeCore n else s) s
        s.settleStop b

/-- FREEZE (R74): a slip (0x10) that meets a sealed region ends the launch; every core records it, an issuing one at its bundle boundary (R74, R267, R318). -/
def execFreeze (req : FreezeReq) (s : State) : Host.Outcome State Fault Refusal :=
  if 64 ≤ req.bind then .fault .noSuchUnit
  else
    let l := s.launch req.bind
    let sealed := l.cores.filter fun n => (s.core n).active && (s.core n).region.kind == .sealed
    if !(l.st = 3 || l.st = 4) || l.ending.isSome then .next s
    else if req.cause = 0x10 && !sealed.isEmpty then
      .next (l.cores.foldl (fun (s : State) (n : Nat) =>
        let c := s.core n
        let a := match c.hold with
          | some h => h.addr
          | none => c.pc.toNat
        if c.active || (c.run == .ended && !c.blank) then s.lateFault n req.cause req.detail 15 a s.clock else s) s)
    else
      let from_ := if req.cause = 0x21 || req.cause = 0x22 then s.fab.pslot + 2 else 0
      .next ((s.requestStop req.bind (stopKindOf req.cause) req.cause req.detail req.atCut from_).settleStop req.bind)

/-! Restart (R75, R271, R287, R405, R416) -/

/-- The HBM stack needs more refresh than the reserve holds (R289). -/
def State.refreshExceeds (s : State) (st : Nat) : Bool :=
  let need := (SMap.get .init s.hbm st).need
  decide (2 ≤ need) || (need == 1 && decide (s.freq < 16))

/-- Nothing holds the domain any more: its stacks are cool, its HBM stacks refresh within the reserve, no crossing realigns. -/
def State.unheld (s : State) (l : Launch) : Bool :=
  (l.cores.map coreStack).all (fun k => (s.stackAt k).critical.isEmpty && (s.stackAt k).realign.isNone) &&
    (List.range 8).all fun h => !(l.hbm.testBit h) || !s.refreshExceeds h

/-- An event of the outside for this cycle is a frequency step that still waits for domains to stop (R268). -/
def State.stepWaits (s : State) : Bool :=
  s.inputs.any fun i => decide (i.at_ ≤ s.clock) && (i.ev == .frequencyStepDown || i.ev == .frequencyStepUp)

/-- TCYC of the cut line that the domain returns to. -/
def State.cutLine (s : State) (l : Launch) : Nat :=
  ((l.cores.find? fun n => (s.core n).run == .frozen).map fun n => (s.core n).tcyc).getD 0

/-- The domain restarts in this cycle. -/
def State.restartDue (s : State) (l : Launch) : Bool :=
  match l.stop with
  | none => false
  | some t =>
    t.stopped && (t.kind == .rewind || t.kind == .inPlace) && (l.st = 3 || l.st = 4 || (l.st = 2 && l.resume)) && l.ending.isNone && s.unheld l && !s.stepWaits &&
      l.cores.all (fun n => (s.core n).run != .frozen || (s.core n).gate == .on) &&
      !(s.cmds.any fun k => k.bind == some l.bind && k.batch == .detached && !(s.fab.running.any fun x => x.cmd == k.id)) &&
      (t.from_ = 0 || (s.clock = s.fab.slotAt && decide (t.from_ ≤ s.fab.pslot))) && s.onFrame l (s.cutLine l)

/-- A core issues its cut marker again in this cycle (R75): buffers and flags as the checkpoint has them by now. -/
def State.restartCore (s : State) (n : Nat) : State :=
  let c := s.core n
  if c.run == .ended then s.setCore n { c with late := none }
  else if c.run != .frozen then s
  else
    let d := match c.ckpt with
      | some q => c.rewind q
      | none => c
    let entry : Bool := match c.ckpt with
      | some q => q.entry
      | none => false
    let s := s.setCore n { d with run := .running, nextIssue := s.clock, endedAtCut := false, ctx := d.ctx.map Ctx.settle }
    if entry then s.busSwaps n else s

/-- RESTART (R75): the return from a recoverable fault; a launch that runs again can be pre-empted (R319), so Noon decides. -/
def execRestart (bind : Nat) (s : State) : Host.Outcome State Fault Refusal :=
  if 64 ≤ bind then .fault .noSuchUnit
  else
    let l := s.launch bind
    if !s.restartDue l then .next s
    else .next (l.cores.foldl (fun (s : State) (n : Nat) => s.restartCore n) (s.setLaunch bind { l with stop := none, st := 3, resume := false })).decideSoon

/-! The stop after a program error (R12, R76, R88, R318) -/

/-- The stack reserve is granted (R88): the new LIMIT of the core.  DESIGN CHOICE (log 46): a core's second stack-limit fault is counted for that core in
its launch, and nothing is granted when another core has stopped in the same 64 cycles. -/
def State.grantReserve (s : State) (l : Launch) (e : Ending) : Option Nat :=
  let c := s.core e.core
  let limit := bitsOf c.slim.toNat 0 22
  let b := c.bufs.foldl (fun (m : Nat) x => if x.2.decl && decide (x.2.offset + 64 * x.2.size ≤ limit) then Nat.max m (x.2.offset + 64 * x.2.size) else m) 0
  let others := l.cores.any fun n => n != e.core && (s.core n).run == .stopped
  if bitsOf e.frec.toNat 0 8 = 4 && c.reserve ≠ 0 && !c.reserveUsed && !others && decide (b + c.reserve ≤ limit) && decide (c.reserve < limit)
  then some (limit - c.reserve) else none

/-- The cores that have a slip to record and have reached no bundle boundary in the 64 cycles record it where they stop, and the lowest core of all is the
one named (R318). -/
def State.slipStops (s : State) (l : Launch) (e : Ending) : Ending × State :=
  let detail : BitVec 8 := e.frec.extractLsb' 8 8
  let slips := if bitsOf e.frec.toNat 0 8 = 0x10 && e.fseq = 0 then l.cores.filter fun n => (s.core n).active && (s.core n).late.any fun f => f.cause = 0x10 else []
  let s := slips.foldl (fun (s : State) (n : Nat) => s.recordCause n 0x10 detail) s
  match slips.find? fun n => decide (n < e.core) with
  | some n => ({ e with core := n, frec := (s.core n).frec, tcyc := (s.core n).tcyc }, s)
  | none => (e, s)

/-- DOMAIN_STOP (R76): 64 cycles after a program error the rest of the domain stops, and the launch goes to its end; where the stack reserve
is granted, the domain rewinds and goes on (R88). -/
def execDomainStop (bind : Nat) (s : State) : Host.Outcome State Fault Refusal :=
  if 64 ≤ bind then .fault .noSuchUnit
  else
    let l := s.launch bind
    match l.ending with
    | none => .next s
    | some e =>
      if !(l.st = 3 || l.st = 4 || l.st = 6) then .next s
      else
        match (if l.st = 6 then none else s.grantReserve l e) with
        | some limit =>
          let t : Stop := ⟨0, 0, .rewind, false, false, 0, 0xFFFF, 0, s.clock⟩
          let s := s.modCore e.core fun c =>
            { c with slim := BitVec.ofNat 64 (limit + c.slim.toNat / 2 ^ 22 * 2 ^ 22), reserveUsed := true }
          let s := s.setLaunch bind { l with ending := none, stop := some t }
          let s := l.cores.foldl (fun (s : State) (n : Nat) => if (s.core n).active then s.freezeCore n else s) s
          .next (s.settleStop bind)
        | none =>
          let (e, s) := s.slipStops l e
          let s := l.cores.foldl (fun (s : State) (n : Nat) =>
            let c := s.core n
            if c.active || c.run == .frozen then s.setCore n { c with run := .stopped, hold := none } else s) s
          .next (s.setLaunch bind { l with stop := none, st := 6, ending := some e })

end Sys2Proof.Machine
end

