-- ==== Sys2Proof/Machine/Stack.lean ====
section
/-! DEFINITION. The die stacks' clock, power and temperature (12, R266-R271) and the reset of the package (10, R240). -/

namespace Sys2Proof.Machine

/-! Domains of a stack -/

/-- The bind entries in use. -/
def State.launches (s : State) : List Launch := s.binds.map (·.2)

def Launch.inStack (l : Launch) (k : Nat) : Bool := l.cores.any fun n => coreStack n == k

/-- Ask for the freeze of every launch that satisfies f, in this cycle. -/
def State.freezeAll (s : State) (cause detail : BitVec 8) (atCut : Bool) (f : Launch → Bool) : State :=
  (s.launches.filter fun l => (l.st = 3 || l.st = 4) && f l).foldl (fun (s : State) (l : Launch) =>
    s.scheduleOnce s.clock prioAfter (.freeze ⟨l.bind, cause, detail, atCut⟩)) s

/-- The crossings of a stack are realigned in 1,700 cycles (R266, R267). -/
def State.realign (s : State) (k : Nat) : State :=
  let e := s.clock + 1700
  (s.setStack k { s.stackAt k with realign := some e }).scheduleOnce e prioComplete (.realignmentComplete k)

/-! Crossings -/

/-- Cycles after a stretch in which an occupancy can differ from 2: fewer than lie between two stretches (R266). -/
def stretchSpacing : Nat := 64

/-- The key of a crossing (R265): its kind as in DETAIL of R267, its number among those of its kind. -/
def crossingKey (kind num : Nat) : Nat := num * 8 + kind

/-- The occupancy of a crossing of stack k in this cycle (R266): as its pointers stand, moved by one for a few cycles as the last stretch passes it; a
realignment since leaves nothing of that. -/
def State.occupancy (s : State) (k kind num : Nat) : Nat :=
  let x := s.stackAt k
  let at_ := SMap.get 2 x.occ (crossingKey kind num)
  match x.droop with
  | none => at_
  | some d =>
    if d + stretchSpacing ≤ s.clock || d < x.aligned then at_
    else match Config.droopMoves k (crossingKey kind num) (s.clock - d) with
      | 0 => at_
      | 1 => at_ + 1
      | _ => at_ - 1

/-- A clock period is stretched (R4): wall time, and with it the fabric clock, go on by a free part of a period more than its cycle has. -/
def State.stretch (s : State) : State :=
  let (d, s) := s.freeNat
  let x := 1 + d % fabricStep s.freq
  { s with wall := s.wall + x, fab := { s.fab with phase := s.fab.phase + x } }

/-- DROOP_STRETCH (R4, R266, R271, R352): Dusk's stretch, never within 64 cycles of the last, where it waits; `value` is the depth that monitor 4 samples,
`index` the cluster of the stack whose sensor saw the droop.  No cycle count changes. -/
def execDroopStretch (s : State) : Host.Outcome State Fault Refusal :=
  if 2 ≤ s.stim.unit || 24 ≤ s.stim.index then .fault .noSuchUnit
  else
    let k := s.stim.unit
    let x := s.stackAt k
    let near := match x.droop with
      | some d => decide (s.clock < d + stretchSpacing)
      | none => false
    if near then .next (s.nextCycle .droopStretch s.stim)
    else
      let s := (s.setStack k { x with droop := some s.clock }).stretch
      .next (if s.gap 4 then s
        else [MonId.pkg 4, .cluster (24 * k + s.stim.index) 4].foldl (fun (s : State) (m : MonId) =>
          s.setMon (MonId.key m) ((s.mon (MonId.key m)).sample s.stim.value.toNat)) s)

/-- The kind of crossing that a link is part of (R265): a mesh link within a cluster is none. -/
def Link.crossing (l : Link) : Option Nat :=
  let pos := l.num / 4 % 192
  if l.kind = 2 then some 1
  else if l.kind = 3 then some 3
  else
    let edge := match l.num % 4 with
      | 0 => pos % 24 % 4 == 3
      | 1 => pos % 24 % 4 == 0
      | 2 => pos / 24 % 2 == 1
      | _ => pos / 24 % 2 == 0
    if edge then some 0 else none

/-- The link lies in stack k: a bridge row in both. -/
def Link.inStack (l : Link) (k : Nat) : Bool :=
  if l.kind = 3 then true else if l.kind = 2 then l.num / 384 == k else l.num / 1536 == k

/-- An access stands in a crossing of a kind in one of the stacks (R267): on a link of it, or about to cross a vertical bus there; what a Rill holds goes with
the rewind. -/
def State.inCrossing (s : State) (kind : Nat) (ks : List Nat) (a : Acc) : Bool :=
  if kind = 2 then a.cycle == s.clock + 1 && ks.contains (coreStack a.target) && !a.banks.isEmpty
  else (s.linkNow a).any fun l => l.crossing == some kind && ks.any l.inStack

/-- CLOCK_CROSSING_SLIP (R267): `index` is the kind of crossing, 3 the bridge, which concerns both stacks, `value` its number among those of its kind.  What
stands in the crossings of that kind is discarded, of the domains that the slip freezes. -/
def execClockCrossingSlip (s : State) : Host.Outcome State Fault Refusal :=
  if 2 ≤ s.stim.unit || 5 ≤ s.stim.index then .fault .noSuchUnit
  else
    let kind := s.stim.index
    let key := crossingKey kind s.stim.value.toNat
    let ks := if kind = 3 then [0, 1] else [s.stim.unit]
    let hit (l : Launch) : Bool := l.st = 3 && ks.any l.inStack
    let s := ks.foldl (fun (s : State) (k : Nat) => (s.setStack k { s.stackAt k with occ := SMap.put 2 (s.stackAt k).occ key 0 }).realign k) s
    let lost := s.accs.filter fun a => s.inCrossing kind ks a && (s.launchOf a.core).any hit
    let s := lost.foldl State.cancelAcc s
    .next (s.freezeAll 0x10 (BitVec.ofNat 8 kind) false hit)

/-- REALIGNMENT_COMPLETE (R266, R267): every crossing of the stack stands at 2 again. -/
def execRealignmentComplete (stack : Nat) (s : State) : Host.Outcome State Fault Refusal :=
  if 2 ≤ stack then .fault .noSuchUnit
  else
    let x := s.stackAt stack
    .next (match x.realign with
      | some e => if e ≤ s.clock then s.setStack stack { x with realign := none, occ := [], aligned := s.clock } else s
      | none => s)

/-! Refresh (R289) -/

/-- A stack of HBM that needs more refresh than the reserve holds freezes every launch that owns it. -/
def State.refreshFreeze (s : State) : State :=
  s.freezeAll 0x30 0x40 true fun l => (List.range 8).any fun h => l.hbm.testBit h && s.refreshExceeds h

/-- HBM_REFRESH (R289): a bank refreshes in its reserved window; nothing that a program or the host reads changes. -/
def execHbmRefresh (stack pc bank : Nat) (s : State) : Host.Outcome State Fault Refusal :=
  if 8 ≤ stack || 64 ≤ pc || 16 ≤ bank then .fault .noSuchUnit else .next s

/-- DOUBLED_REFRESH (R289): a stack's need changes: 0 single, 1 doubled, 2 more than doubled. -/
def execDoubledRefresh (stack need : Nat) (s : State) : Host.Outcome State Fault Refusal :=
  if 8 ≤ stack || 3 ≤ need then .fault .noSuchUnit
  else
    let s := { s with hbm := SMap.put .init s.hbm stack { SMap.get HbmStack.init s.hbm stack with need := need } }
    .next s.refreshFreeze

/-! Frequency (R268) -/

/-- What falls on a wall time comes on other cycles after a step (R285, R306): a queue's ageing is looked at now, the interval of 1 ms goes on. -/
def State.retime (s : State) (old : Nat) : State :=
  let hot := s.agenda.filter fun a => a.ev == .hotnessInterval
  let s := { s with agenda := s.agenda.filter fun a => a.ev != .hotnessInterval }
  let s := hot.foldl (fun (s : State) (a : Agenda) => s.schedule (s.clock + s.cyclesFor ((a.at_ - s.clock) * fabricStep old)) a.prio a.ev) s
  (s.queues.filter fun x => !x.2.words.isEmpty).foldl (fun (s : State) x => s.scheduleOnce s.clock prioAfter (.queueAgeing x.1)) s

/-- A step to k x 53.125 MHz waits until Dusk is not being replaced (R350) and no domain runs, asking each for a stop at its next cut line; then the roots relock (R268). -/
def State.frequencyStep (s : State) (k : Nat) (ev : Instr) : State :=
  let running := s.launches.filter fun l => l.cores.any fun n => (s.core n).active
  if (s.ctl 2).window then s.nextCycle ev s.stim
  else if running.isEmpty then
    ((({ s with freq := k }.realign 0).realign 1).refreshFreeze).retime s.freq
  else
    let s := running.foldl (fun (s : State) (l : Launch) =>
      match l.stop with
      | none => s.scheduleOnce s.clock prioAfter (.freeze ⟨l.bind, 0, 0, true⟩)
      | some _ => s) s
    s.nextCycle ev s.stim

/-- FREQUENCY_STEP_DOWN (R268, R271): `index` is the new k, 8 to 16. -/
def execFrequencyStepDown (s : State) : Host.Outcome State Fault Refusal :=
  if s.stim.index < 8 || 16 < s.stim.index then .fault .noSuchUnit
  else .next (if s.stim.index < s.freq then s.frequencyStep s.stim.index .frequencyStepDown else s)

/-- FREQUENCY_STEP_UP (R268, R271). -/
def execFrequencyStepUp (s : State) : Host.Outcome State Fault Refusal :=
  if s.stim.index < 8 || 16 < s.stim.index then .fault .noSuchUnit
  else .next (if s.freq < s.stim.index then s.frequencyStep s.stim.index .frequencyStepUp else s)

/-! Critical limits (R271, R324) -/

/-- A critical limit of a stack: every domain with a core there stops in place at its next cut line. -/
def State.criticalLimit (s : State) (k : Nat) (cause : BitVec 8) : State :=
  let x := s.stackAt k
  let s := s.setStack k { x with critical := if x.critical.contains cause then x.critical else x.critical ++ [cause] }
  s.freezeAll cause 0 true fun l => l.inStack k

/-- THERMAL_FREEZE (R271). -/
def execThermalFreeze (s : State) : Host.Outcome State Fault Refusal :=
  if 2 ≤ s.stim.unit then .fault .noSuchUnit else .next (s.criticalLimit s.stim.unit 0x30)

/-- POWER_FREEZE (R271). -/
def execPowerFreeze (s : State) : Host.Outcome State Fault Refusal :=
  if 2 ≤ s.stim.unit then .fault .noSuchUnit else .next (s.criticalLimit s.stim.unit 0x31)

/-! Temperatures (R271, R352) -/

/-- A step of the frequency that Dusk asks for, by one place (log 23). -/
def State.askStep (s : State) (up : Bool) : State :=
  let k := if up then s.freq + 1 else s.freq - 1
  if k < 8 || 16 < k then s
  else { s with inputs := insertInput ⟨s.clock + 1, if up then .frequencyStepUp else .frequencyStepDown, { noStim with index := k }⟩ s.inputs }

/-- What is measured as c of stack k (a cluster's hottest region, or 48: its current) stands above its limit (`hot`), or too near it for a step up (`near`):
1 ms above the limit asks for a step down, and 10 ms in which nothing in the package is near its limit asks for a step up. -/
def State.limitAt (s : State) (k c : Nat) (hot near : Bool) : State :=
  let y := s.stackAt k
  let warm := (y.warm.filter (· ≠ c)) ++ if near then [c] else []
  let since := SMap.get 0 y.above c
  let due := hot && since ≠ 0 && decide (since - 1 + 1000 * microsecond ≤ s.wall)
  let above := SMap.put 0 y.above c (if !hot then 0 else if since = 0 || due then s.wall + 1 else since)
  let s := s.setStack k { y with above := above, warm := warm, cool := if warm.isEmpty && y.warm.isEmpty then y.cool else s.wall }
  let s := if due then s.askStep false else s
  let cold := [0, 1].all fun j => let z := s.stackAt j; z.warm.isEmpty && decide (z.cool + 10000 * microsecond ≤ s.wall)
  if cold && s.freq < 16 then
    [0, 1].foldl (fun (s : State) (j : Nat) => s.setStack j { s.stackAt j with cool := s.wall }) (s.askStep true)
  else s

/-- A cluster's hottest region stands at x: from the critical level on the stack freezes. -/
def State.heatAt (s : State) (c x : Nat) : State :=
  let k := c / 24
  let y := s.stackAt k
  let s := s.limitAt k c (decide (y.limit < x)) (decide (y.limit ≤ x + 80))
  if y.crit ≤ x then s.criticalLimit k 0x30 else s

/-- The current of stack k stands at x, in the unit of Dusk's limit for it (R271). -/
def State.currentAt (s : State) (k x : Nat) : State :=
  let y := s.stackAt k
  let hot := y.amps ≠ 0 && decide (y.amps < x)
  s.limitAt k 48 hot hot

/-- A cluster's hottest region stands at v, in 1/16 °C: one outside -20 to 125 °C raises the alarm of R354 as it comes there. -/
def State.temperatureAlarm (s : State) (c : Nat) (v : Int) : State :=
  let out : Bool := decide (v < -320) || decide (2000 < v)
  let was := s.sec.outside.contains c
  let s := { s with sec := { s.sec with outside := if out then (if was then s.sec.outside else s.sec.outside ++ [c]) else s.sec.outside.filter (· != c) } }
  if out && !was then s.nextCycle .securityAlarm { noStim with index := 2 } else s

/-- MONITOR_SAMPLE (R352): the physical world gives a monitor a value; a cluster's temperature, which may be below 0, has the effects of R271 and R354 too. -/
def execMonitorSample (s : State) : Host.Outcome State Fault Refusal :=
  if MonId.exists_ s.stim.mon then
    let k := MonId.key s.stim.mon
    let v := s.stim.value.toInt
    let x := v.toNat
    let s := if s.gap (MonId.quantity s.stim.mon) then s else s.setMon k ((s.mon k).sample x)
    .next (match s.stim.mon with
      | .cluster c 5 => (s.heatAt c x).temperatureAlarm c v
      | _ => s)
  else .fault .noSuchUnit

/-- FREEZE_RELEASE (R324): Dusk releases the stack; the domains restart when their conditions hold. -/
def execFreezeRelease (s : State) : Host.Outcome State Fault Refusal :=
  if 2 ≤ s.stim.unit then .fault .noSuchUnit
  else .next (s.setStack s.stim.unit { s.stackAt s.stim.unit with critical := [] })

/-! Reset -/

/-- What a reset without a passed lane test leaves of a bus (R240). -/
def Bus.afterReset (b : Bus) : Bus := { b with ack := false, marked := [], count := [], degraded := false }

/-- RESET (R240, R266): every register at its reset value; a width below full stays unless the lane test passes.  The package's own numbers,
what the outside is still to do, and the free values not yet used are no registers. -/
def execReset (laneTest : Bool) (s : State) : Host.Outcome State Fault Refusal :=
  let r := State.reset
  .next { r with
    cores := if laneTest then [] else
      s.cores.foldl (fun (m : SMap Core) x => SMap.put Core.init m x.1 { Core.init with bus := x.2.bus.afterReset }) [],
    fab := { r.fab with pkg := s.fab.pkg, pod := s.fab.pod, livePeers := BitVec.ofNat 64 (2 ^ s.fab.pkg) },
    inputs := s.inputs.map fun i => { i with at_ := i.at_ - (s.clock + 1) },
    freeCount := s.freeCount }

end Sys2Proof.Machine
end

