-- ==== Sys2Proof/Machine/PackageMem.lean ====
section
/-! DEFINITION. The rest of package memory (13): the update ring (R276), the resolution of device faults (R281), and the coherent window (R295, R296,
R303, R304, R341). -/

namespace Sys2Proof.Machine

/-! The update ring (R276) -/

/-- A live extent table pins a page that this PTE maps (R276, R279). -/
def State.pinnedPte (s : State) (ptea : Nat) : Bool :=
  s.binds.any fun kl => kl.2.pins.any fun p => match s.walk kl.2.asid p.va 0 with
    | .page a _ _ => a == ptea
    | .absent _ _ | .torn _ => false

/-- The next update record is looked at after a time that the device does not fix. -/
def State.updateLater (s : State) : State :=
  let (d, s) := s.freeDelay
  s.scheduleOnce (s.clock + d) prioAfter .updateRecord

/-- UPDATE_RECORD (R276): the oldest record that waits is applied, refused, or held while a pin stands. -/
def execUpdateRecord (s : State) : Host.Outcome State Fault Refusal :=
  let m := s.mmb
  if m.uqTail = m.uqDone then .next s
  else
    let a := ringBase m.upd + 32 * (m.uqDone % ringSize m.upd)
    let ptea := memNat s.mem a 8
    let flags := memNat s.mem (a + 25) 1
    let status : Nat :=
      if ptea % 8 ≠ 0 || !isFar ptea || 2 ≤ flags then 2
      else if flags = 0 && memNat s.mem ptea 8 ≠ memNat s.mem (a + 8) 8 then 1 else 0
    if status ≠ 2 && s.pinnedPte ptea then .next s.updateLater
    else
      let new := if status = 0 then (leBytes 8 (memNat s.mem (a + 16) 8)).zipIdx.map fun b => (ptea + b.2, b.1) else []
      let s := s.addMemNow (new ++ [(a + 28, BitVec.ofNat 8 status)])
      let s : State := { s with mmb := { m with uqDone := (m.uqDone + 1) % 2 ^ 32 } }
      .next (if s.mmb.uqTail = s.mmb.uqDone then s else s.updateLater)

/-! Ageing (R306) -/

/-- The full AGE periods of wall time that the head has spent as head (0 where AGE is 0). -/
def State.agePeriods (s : State) (x : Queue) : Nat := (s.wall - x.headWall) / (x.age * microsecond)

/-- The next drop of a queue's level, where there is one. -/
def State.ageNext (s : State) (q : Nat) : State :=
  let x := s.queue q
  if x.words.isEmpty || x.prio ≤ 1 || x.age = 0 || x.level ≤ 1 then s
  else s.scheduleOnce (s.clock + s.cyclesFor (x.headWall + (s.agePeriods x + 1) * (x.age * microsecond) - s.wall)) prioAfter (.queueAgeing q)

/-- A queue has a new head: its level starts from PRIO. -/
def State.newHead (s : State) (q : Nat) : State :=
  let x := s.queue q
  (s.setQueue q { x with headSince := s.clock, headWall := s.wall, level := x.prio }).ageNext q

/-! The driver resolves a device fault (R207, R281) -/

/-- A launch ends for a reason of the package's, not of a core: its cores stop, a pre-empted one leaves its queue (R281, R318). -/
def State.endWith (s : State) (b : Nat) (e : Ending) : State :=
  let l := s.launch b
  if l.st = 0 || l.ending.isSome then s
  else if l.st = 3 || l.st = 4 || l.st = 6 then
    (s.setLaunch b { l with ending := some e }).scheduleOnce s.clock prioAfter (.domainStop b)
  else
    let q := s.queue l.queue
    let s := if (q.words.head?.map (·.resume)) == some (some b) then ((s.setQueue l.queue { q with words := q.words.drop 1 }).newHead l.queue).decideSoon
      else s.setQueue l.queue { q with words := q.words.filter fun w => w.resume != some b }
    let s := l.cores.foldl (fun (s : State) (n : Nat) =>
      if (s.core n).bind == some b && (s.core n).run == .waiting then s.modCore n fun c => { c with run := .off } else s) s
    s.setLaunch b { l with ending := some e, st := 6 }

/-- The driver writes a fault's SEQ with UNRES (R273, R281): a retry, which translates afresh (R207, R210), or the end of
the launch; an unknown SEQ is ignored. -/
def State.resolveFault (s : State) (seq : Nat) (unres : Bool) : State :=
  match s.devFaults.find? fun f => f.seq == some seq with
  | none => s
  | some f =>
    let s := { s with devFaults := s.devFaults.erase f }
    if unres then
      let s := if f.cmd = 0 then s else s.dropCmd f.cmd
      s.endWith f.bind ⟨if f.source = 0 then 3 else 2, 0, 0xFFFF, seq, 0⟩
    else if f.cmd = 0 then
      if f.source = 0 then (s.scheduleOnce s.clock prioAfter (.dispatch f.bind)).scheduleOnce s.clock prioAfter (.resume f.bind) else s
    else
      match s.cmd f.cmd with
      | none => s
      | some k =>
        let k := { k with stage := .captured, args := k.args.set 6 1 }
        let s := s.setCmd k
        match k.instr with
        | .amo _ | .amof _ =>
          let (d, s) := s.freeDelay
          s.schedule (s.clock + d) prioComplete (.atomicApply k.id)
        | _ => s.later k

/-- FAULT_RETRY (R281): `value` is the SEQ. -/
def execFaultRetry (s : State) : Host.Outcome State Fault Refusal := .next (s.resolveFault (bitsOf s.stim.value.toNat 0 32) false)

/-- FAULT_UNRESOLVABLE (R281). -/
def execFaultUnresolvable (s : State) : Host.Outcome State Fault Refusal := .next (s.resolveFault (bitsOf s.stim.value.toNat 0 32) true)

/-! The coherent window (R295, R296) -/

/-- WINDOW_SAMPLE (R295, R296): the device accesses that reach the window in this cycle.  Two to one bank raise 0x13; loads return what stood before
the stores; a store to LAUNCH presents a launch word (R303). -/
def execWindowSample (s : State) : Host.Outcome State Fault Refusal :=
  let due := s.winAcc.filter fun a => decide (a.cycle ≤ s.clock)
  let old := { s with winAcc := s.winAcc.filter fun a => !decide (a.cycle ≤ s.clock) }
  let clash (a : WinAcc) : Bool := due.any fun b => b.op != a.op && b.off / 4096 == a.off / 4096
  .next (due.foldl (fun (s : State) (a : WinAcc) =>
    if clash a then (s.unlearn a.core a.issued a.slot).lateFault a.core 0x13 0x40 a.slot a.addr a.issued
    else if !a.write then
      let l := old.windowRead a.off a.len
      let v : Word := if a.sext then BitVec.ofInt 64 (signed (8 * a.len) (leNat l)) else BitVec.ofNat 64 (leNat l)
      s.learn a.core a.issued a.slot v
    else if a.off < 0x200 then s.schedule s.clock prioAfter (.launchWord (a.off / 8) (BitVec.ofNat 64 a.data) (.core a.core))
    else s.addMemNow ((leBytes a.len a.data).zipIdx.map fun b => (windowBase + a.off + b.2, b.1))) old)

end Sys2Proof.Machine
end

