-- ==== Sys2Proof/Machine/Sched.lean ====
section
/-! DEFINITION. Launch words, queues and Noon's decisions (14, R299, R303-R307, R310, R315, R316, R319), and the answer to a host message (16, R339,
R340). -/

namespace Sys2Proof.Machine

/-! Answers to the host (R339-R341) -/

/-- A host message has been processed: its entry in the received list, and ACK or NAK. -/
def State.answer (s : State) (seq typ outcome key : Nat) (flags : Nat := 0) : State :=
  let s := { s with link := { s.link with received := SMap.put .none s.link.received (seq % 256) ⟨seq, typ, outcome, key, flags⟩ } }
  s.sendMsg (if outcome = 0 then 0x81 else 0x82) flags (seq + outcome * 2 ^ 32) (leBytes 8 key) 0

/-! Images (R299) -/

/-- A launch of the slot is queued, bound or pre-empted. -/
def State.slotUsed (s : State) (slot : Nat) : Bool :=
  (s.queues.any fun q => q.2.words.any fun w => w.image == slot) || s.launches.any (fun l => l.st ≠ 0 && l.image == slot)

/-- IMAGE_LOAD (R299): Dawn loads the far-tier bytes into a slot that no launch uses, or refuses them, and the slot stays empty; length 0 unloads.
Between Dawn's takeover (R350) it waits. -/
def execImageLoad (slot addr len : Nat) (s : State) : Host.Outcome State Fault Refusal :=
  if 256 ≤ slot then .fault .noSuchUnit
  else if (s.ctl 3).window then .next (s.schedule (s.clock + 1) prioAfter (.imageLoad slot addr len))
  else if s.slotUsed slot then .next s
  else
    let i : Image := ⟨if addr + len ≤ 2 ^ 39 then memBytes s.mem addr len else []⟩
    .next { s with images := SMap.put ⟨[]⟩ s.images slot (if i.ok then i else ⟨[]⟩) }

/-! Ageing (R306) -/

/-- The level of a head that has waited so long. -/
def State.agedLevel (s : State) (x : Queue) : Nat :=
  if x.age = 0 || x.prio ≤ 1 then x.prio else Nat.max 1 (x.prio - s.agePeriods x)

/-- QUEUE_AGEING (R306). -/
def execQueueAgeing (q : Nat) (s : State) : Host.Outcome State Fault Refusal :=
  if 64 ≤ q then .fault .noSuchUnit
  else
    let x := s.queue q
    if x.words.isEmpty then .next s
    else
      let lv := s.agedLevel x
      let t := (s.setQueue q { x with level := lv }).ageNext q
      .next (if lv = x.level then t else t.decideSoon)

/-! Launch words (R303, R305) -/

/-- A patch record's entries written over a parameter block, or none where the record is malformed (R305). -/
def patchBlock (blk : List Byte) (hdr : Nat) (ents : List Nat) : Option (List Byte) :=
  let n := bitsOf hdr 0 6
  if hdr / 2 ^ 6 ≠ 0 || n = 0 then none
  else (List.range n).foldl (fun (b : Option (List Byte)) (i : Nat) =>
    match b with
    | none => none
    | some l =>
      let o := ents.getD (2 * i) 0
      if o % 8 ≠ 0 || l.length < o + 8 then none
      else some (l.take o ++ leBytes 8 (ents.getD (2 * i + 1) 0) ++ l.drop (o + 8))) (some blk)

/-- The words of a parameter block and its patch record that HBM cannot correct. -/
def State.paramTorn (s : State) (off len : Nat) (patched : Bool) : List Nat :=
  let p := s.paramBase + off + ceilDiv len 64 * 64
  (if len = 0 then [] else s.badIn (s.paramBase + off) len) ++ if patched then s.badIn p (8 + 16 * bitsOf (memNat s.mem p 8) 0 6) else []

/-- The parameter copy of a word whose block has len bytes at offset off of the arena, or the reason of refusal (R305).  DESIGN CHOICE (log 29): a block that HBM cannot
correct is refused as one beyond the arena is. -/
def State.paramCopy (s : State) (off len : Nat) (patched : Bool) : Except Nat (List Byte) :=
  let arena := Config.arenaBytes
  let blk := memBytes s.mem (s.paramBase + off) len
  let p := off + ceilDiv len 64 * 64
  let hdr := memNat s.mem (s.paramBase + p) 8
  if arena < off + len || !(s.paramTorn off len patched).isEmpty then .error 7
  else if !patched then .ok blk
  else if arena < p + 8 || arena < p + 8 + 16 * bitsOf hdr 0 6 then .error 7
  else
    match patchBlock blk hdr ((List.range 126).map fun i => memNat s.mem (s.paramBase + p + 8 + 8 * i) 8) with
    | none => .error 8
    | some b => .ok b

/-- The next LID (R305). -/
def State.takeLid (s : State) : Nat × State := (s.nextLid, { s with nextLid := if s.nextLid = 2 ^ 32 - 1 then 1 else s.nextLid + 1 })

def State.takeLids (s : State) : Nat → List Nat × State
  | 0 => ([], s)
  | n + 1 =>
    let (a, s) := s.takeLid
    let (r, s) := State.takeLids s n
    (a :: r, s)

/-- Where the parameter block of a launch word lies in the arena, its length, and whether a patch record follows (R305). -/
def State.wordParam (s : State) (w : Word) : Nat × Nat × Bool :=
  let v := w.toNat
  let len := match s.imageAt (bitsOf v 0 8) with
    | none => 0
    | some i =>
      let sv := bitsOf v 8 8
      Config.paramLength (i.section 9) (match (if bitsOf v 62 2 = 1 then i.graphTable[sv]? else none) with
        | some e => e.nodes.headD 0
        | none => sv)
  (bitsOf v 36 26 * 64, len, bitsOf v 22 1 == 1)

/-- The checks of a launch word, in the order of R305: the reason of refusal, or the image, the graph entry and the parameter copy. -/
def State.checkWord (s : State) (q : Nat) (w : Word) : Except Nat (Option GraphEntry × List Byte) :=
  let v := w.toNat
  let kind := bitsOf v 62 2
  let x := s.queue q
  if bitsOf v 16 6 ≠ q || 2 ≤ kind || bitsOf v 23 13 ≠ 0 then .error 1
  else if !x.enabled then .error 2
  else if 8 ≤ x.words.length then .error 3
  else
    match s.imageAt (bitsOf v 0 8) with
    | none => .error 4
    | some i =>
      let sv := bitsOf v 8 8
      let g := if kind = 1 then i.graphTable[sv]? else none
      if (if kind = 0 then decide (i.svecs.length ≤ sv) else g.isNone) then .error 5
      else if 100000 < i.cutMax && x.prio = 0 then .error 6
      else
        let (off, len, patched) := s.wordParam w
        (s.paramCopy off len patched).map fun c => (g, c)

def Graph.none : Graph := ⟨0, 0, 0, [], [], [], []⟩

/-- Present a launch word to a queue (R303, R305, R316): the reason (0 accepted), the LID, and the state after. -/
def State.present (s : State) (q : Nat) (w : Word) : Nat × Nat × State :=
  match s.checkWord q w with
  | .error r =>
    let (off, len, patched) := s.wordParam w
    let s := if r = 7 then (s.paramTorn off len patched).foldl (fun (s : State) (a : Nat) => s.hbmLog a true) s else s
    (r, 0, s.setQueue q { s.queue q with lastCode := r })
  | .ok (g, copy) =>
    let image := bitsOf w.toNat 0 8
    let sv := bitsOf w.toNat 8 8
    let (lids, s) := s.takeLids (match g with
      | some e => e.nodes.length
      | none => 1)
    let lid := lids.headD 0
    let (gid, s) := s.fresh
    let s := match g with
      | some _ => { s with graphs := SMap.put Graph.none s.graphs gid ⟨q, image, sv, lids, [], [], []⟩ }
      | none => s
    let x := s.queue q
    let word : QWord := ⟨lid, image, sv, copy, if g.isSome then some gid else none, none, s.wall, false⟩
    let s := s.setQueue q { x with words := x.words ++ [word], lastCode := 0, lastLid := lid }
    (0, lid, (if x.words.isEmpty then s.newHead q else s).decideSoon)

/-- LAUNCH_WORD (R305): a word that reaches the accept logic; the host hears of it. -/
def execLaunchWord (q : Nat) (w : Word) (src : WordSource) (s : State) : Host.Outcome State Fault Refusal :=
  if 64 ≤ q then .fault .noSuchUnit
  else
    let (r, key, s) := s.present q w
    match src with
    | .host seq => .next (s.answer seq.toNat 0x01 r key (if (s.queue q).prio = 0 then 1 else 0))
    | .core _ => .next s

/-! Noon (R307, R310, R316, R319) -/

/-- A head that asks for resources: queue, level, word, the node of a replay (index), start vector, LID, core entries, groups, HBM stacks. -/
structure Want where
  q : Nat
  lv : Nat
  word : QWord
  node : Option Nat
  svec : Nat
  lid : Nat
  entries : List CoreEntry
  groups : List Nat
  hbm : Nat
  deriving DecidableEq, Repr

def Want.cores (w : Want) : List Nat := w.entries.map (·.core)

/-- The launch bound last from a queue has neither fired its trigger nor ended (R307). -/
def State.prevWaits (s : State) (x : Queue) : Bool := x.blockedBy ≠ 0 && s.launches.any fun l => l.st ≠ 0 && l.lid == x.blockedBy && !l.triggered

/-- What replays have reached: a node whose launch is gone has fired and completed (R60, R316); a replay whose nodes have completed retires. -/
def State.refreshGraphs (s : State) : State :=
  let live (lid : Nat) : Option Launch := s.launches.find? fun l => l.st ≠ 0 && l.lid == lid
  let gs : SMap Graph := s.graphs.map fun kg =>
    let g := kg.2
    (kg.1, { g with fired := g.bound.filter (fun n => match live n with
                      | some l => l.triggered
                      | none => true),
                    done := g.bound.filter fun n => (live n).isNone })
  { s with graphs := gs.filter fun kg => kg.2.done.length < kg.2.lids.length }

/-- The node of a replay that is to be bound next (R316): the first that is eligible. -/
def State.graphNode (s : State) (x : Queue) (gid : Nat) (g : Graph) (e : GraphEntry) : Option Nat :=
  if e.excl && s.graphs.any (fun kg => kg.1 < gid && kg.2.image == g.image && kg.2.entry == g.entry) then none
  else (List.range g.lids.length).find? fun k =>
    let ps := (List.range k).filter fun j => (e.preds.getD k 0).testBit j
    !g.bound.contains (g.lids.getD k 0) && (if ps.isEmpty then !s.prevWaits x else ps.all fun j => g.fired.contains (g.lids.getD j 0))

/-- The eligible head of a queue (R307), without the test of CUTMAX. -/
def State.wantOf (s : State) (q : Nat) : Option Want :=
  let x := s.queue q
  match x.words with
  | [] => none
  | w :: _ =>
    match s.imageAt w.image with
    | none => none
    | some i =>
      let mk (node : Option Nat) (sv lid : Nat) : Want :=
        ⟨q, x.elevel, w, node, sv, lid, i.entries sv, i.groupTable.map (·.1), Config.hbmMask lid % 256⟩
      match w.resume, w.graph with
      | some b, _ => some { mk none w.svec w.lid with hbm := (s.launch b).hbm }
      | none, none => if s.prevWaits x then none else some (mk none w.svec w.lid)
      | none, some gid =>
        let g := SMap.get Graph.none s.graphs gid
        match i.graphTable[g.entry]? with
        | none => none
        | some e => (s.graphNode x gid g e).map fun k => mk (some k) (e.nodes.getD k 0) (g.lids.getD k 0)

/-- The image of a head has too long a CUTMAX for level 0 (R307). -/
def State.cutTooLong (s : State) (w : Want) : Bool :=
  (s.queue w.q).prio = 0 && match s.imageAt w.word.image with
    | some i => decide (100000 < i.cutMax)
    | none => false

/-- The groups that a launch holds (R310, R314): those its image declares. -/
def State.groupsHeld (s : State) (l : Launch) : List Nat :=
  match s.imageAt l.image with
  | some i => i.groupTable.map (·.1)
  | none => []

/-- The bind entries of the launches that hold what a head needs (R310). -/
def State.holders (s : State) (w : Want) : List Nat :=
  let own (b : Nat) : Bool := w.word.resume == some b
  let byCore := w.cores.filterMap fun n => (s.core n).bind
  let others := s.launches.filter fun l => l.st ≠ 0 && !own l.bind &&
    ((s.groupsHeld l).any (fun g => w.groups.contains g) || (l.st ≠ 5 && l.hbm &&& w.hbm ≠ 0))
  (byCore ++ others.map (·.bind)).eraseDups

/-- Banks of core n that are lent hold pinned pages of a launch other than the one named (R310). -/
def State.lentPinned (s : State) (n : Nat) (own : Option Nat) : Bool :=
  let k := (s.core n).lent
  s.launches.any fun l => own != some l.bind && l.pins.any fun p => meets p.pa p.size (nearBase + sliceBase n + (16 - k) * 2 ^ 18) (k * 2 ^ 18)

/-- Something other than a launch stands in the way: no free bind entry, a bus that is off (R325), a lent count that cannot change. -/
def State.blocked (s : State) (w : Want) : Bool :=
  (w.word.resume.isNone && (List.range 64).all fun b => (s.launch b).st ≠ 0) ||
    w.entries.any fun e => (s.core e.core).bus.wstate == 2 || ((s.core e.core).lent ≠ e.lend && s.lentPinned e.core w.word.resume)

/-- Two heads need a core, group or stack in common. -/
def Want.shares (a b : Want) : Bool := a.cores.any (fun n => b.cores.contains n) || a.groups.any (fun g => b.groups.contains g) || a.hbm &&& b.hbm ≠ 0

/-- The rank of a head (R307): level, then the distance from the queue after the one bound last at that level. -/
def State.rank (s : State) (w : Want) : Nat := w.lv * 64 + (w.q + 64 - SMap.get 0 s.lastBound w.lv) % 64

def insertWant (s : State) (w : Want) : List Want → List Want
  | [] => [w]
  | x :: r => if s.rank w < s.rank x then w :: x :: r else x :: insertWant s w r

/-- A launch that is running or frozen can be pre-empted; any other holder is waited for (R319). -/
def State.preemptible (s : State) (b : Nat) : Bool :=
  let l := s.launch b
  (l.st = 3 || l.st = 4) && l.ending.isNone

/-- The head that is bound now, if there is one, and the launches to pre-empt for the first head (R307, R319). -/
def State.choose (s : State) : List Want → List Want → Option Want × List Nat
  | [], _ => (none, [])
  | w :: r, before =>
    if before.any fun b => b.shares w then s.choose r (before ++ [w])
    else
      let hs := s.holders w
      if hs.isEmpty && !s.blocked w then (some w, [])
      else
        let out := if before.isEmpty && hs.all fun b => decide (w.lv < (s.launch b).level) then hs.filter fun b => s.preemptible b else []
        let (c, _) := s.choose r (before ++ [w])
        (c, out)

/-- The wall time by which the first bundle of a word of level 0 is promised (R355): 20 µs from acceptance where it is bound at once, 300 µs where Noon has
pre-empted for it; no promise for the later nodes of a replay. -/
def State.promised (s : State) (w : Want) : Option Nat :=
  if w.lv ≠ 0 || (w.word.graph.any fun gid => !(SMap.get Graph.none s.graphs gid).bound.isEmpty) then none
  else if w.word.preempt then some (w.word.since + 300 * microsecond)
  else if w.word.since = s.wall then some (w.word.since + 20 * microsecond) else none

/-- The wall time by which dispatch of a launch with a promise (R355) must be done: what START still waits for then is the wakes and the frame (R233, R287). -/
def State.dueOf (s : State) (l : Launch) : Option Nat :=
  l.due.map fun t => t - ((if l.cores.any fun n => (s.core n).gate != .on then 1764 else 0) + (if l.hbm = 0 then 0 else 2175)) * fabricStep s.freq

/-- The time that dispatch takes for a step is free (log 11), but a promise bounds it (R355): half of what is left, so that the next step has time too. -/
def State.dispatchDelay (s : State) (l : Launch) : Nat × State :=
  match s.dueOf l with
  | none => s.freeDelay
  | some t =>
    let (d, s) := s.freeNat
    (1 + d % Nat.max 1 ((t - s.wall) / fabricStep s.freq / 2), s)

/-- The launch is bound (R308, R310): its entry, its cores; dispatch takes it up after a time that the device does not fix. -/
def State.bindWant (s : State) (w : Want) : State :=
  let x := s.queue w.q
  let lv := w.lv
  let s := { s with lastBound := SMap.put 0 s.lastBound lv ((w.q + 1) % 64) }
  let rest := x.words.drop 1
  match w.word.resume with
  | some b =>
    let l := s.launch b
    let s := s.setLaunch b { l with st := 1, level := lv, resume := true, waiting := true }
    let s := l.cores.foldl (fun (s : State) (n : Nat) => s.modCore n fun c =>
      { c with bind := some b, run := .waiting, win := (SMap.get Core.init l.saved n).win }) s
    let s := (s.setQueue w.q { x with words := rest }).newHead w.q
    let (d, s) := s.freeDelay
    s.schedule (s.clock + d) prioAfter (.resume b)
  | none =>
    let b := ((List.range 64).find? fun b => (s.launch b).st = 0).getD 0
    match s.imageAt w.word.image with
    | none => s
    | some i =>
      let cores := (List.range coreCount).filter fun n => w.cores.contains n
      let tasks := i.tasks w.svec
      let half := i.variantFor w.svec cores && cores.any fun n => (s.core n).bus.wstate == 1
      let first := match w.word.graph with
        | some gid => ((SMap.get Graph.none s.graphs gid).lids).headD 0
        | none => w.lid
      let copy := Config.copyPage first % 2 ^ 27 * 2 ^ 12
      let l : Launch :=
        { Launch.free with
          bind := b, st := 1, lid := w.lid, image := w.word.image, svec := w.svec, queue := w.q, asid := Config.asidOf w.lid % 256,
          half := half, hbm := w.hbm, extab := Config.tablePage w.lid % 2 ^ 27 * 2 ^ 12, ctxa := Config.areaPage w.lid % 2 ^ 27 * 2 ^ 12,
          pcopy := copy, plen := w.word.pcopy.length, cores := cores, tasks := tasks, strict := i.strict, determ := i.determ, batchInv := i.batchInv, level := lv, waiting := true,
          due := s.promised w }
      let s := s.setLaunch b l
      let s := s.addMemNow (w.word.pcopy.zipIdx.map fun y => (copy + y.2, y.1))
      let s := cores.foldl (fun (s : State) (n : Nat) => s.modCore n fun c => { c with bind := some b, run := .waiting, win := [] }) s
      let s := match w.word.graph with
        | none => (s.setQueue w.q { x with words := rest, blockedBy := w.lid }).newHead w.q
        | some gid =>
          let g := SMap.get Graph.none s.graphs gid
          let g := ({ g with bound := g.bound ++ [w.lid] } : Graph)
          let s := { s with graphs := SMap.put Graph.none s.graphs gid g }
          if g.bound.length = g.lids.length then (s.setQueue w.q { x with words := rest, blockedBy := w.lid }).newHead w.q
          else (s.setQueue w.q { x with blockedBy := w.lid }).newHead w.q
      let (d, s) := s.dispatchDelay l
      s.schedule (s.clock + d) prioAfter (.dispatch b)

/-- The head of a queue is one that Noon has pre-empted for (R355). -/
def State.preemptFor (s : State) (q : Nat) : State :=
  let x := s.queue q
  match x.words with
  | w :: r => s.setQueue q { x with words := { w with preempt := true } :: r }
  | [] => s

/-- A replay whose word leaves its queue has no further nodes (R307, R316). -/
def State.withdrawReplay (s : State) (w : QWord) : State :=
  match w.graph with
  | none => s
  | some gid =>
    let g := SMap.get Graph.none s.graphs gid
    { s with graphs := if g.bound.isEmpty then s.graphs.filter fun x => x.1 ≠ gid else SMap.put Graph.none s.graphs gid { g with lids := g.bound } }

/-- One decision: a head that fails the test of CUTMAX alone is removed, and a pre-empted launch so removed ends (DESIGN CHOICE, log 46: with
STATUS 3); else a head is bound, or launches are asked to yield.  The answer says
whether another decision is due. -/
def State.decideOnce (s : State) : Bool × State :=
  let wants := (List.range 64).filterMap s.wantOf
  match wants.find? s.cutTooLong with
  | some w =>
    let x := s.queue w.q
    let s := (s.setQueue w.q { x with words := x.words.drop 1, lastCode := 6 }).withdrawReplay w.word
    let s := match w.word.resume with
      | some b => s.endWith b ⟨3, 0, 0xFFFF, 0, 0⟩
      | none => s
    (true, s.newHead w.q)
  | none =>
    let sorted := wants.foldl (fun (l : List Want) w => insertWant s w l) []
    let (w, out) := s.choose sorted []
    let s := out.foldl (fun (s : State) (b : Nat) => s.requestStop b .preempt 0 0 false 0) s
    let s := match sorted with
      | first :: _ => if out.isEmpty then s else s.preemptFor first.q
      | [] => s
    match w with
    | some w => (true, s.bindWant w)
    | none => (false, s)

def State.decideAll : Nat → State → State
  | 0, s => s
  | fuel + 1, s =>
    match s.decideOnce with
    | (true, t) => State.decideAll fuel t.refreshGraphs
    | (false, t) => t

/-- BIND_DECISION (R307): Noon decides until no head can be bound; in its takeover window it makes no decision (R350). -/
def execBindDecision (s : State) : Host.Outcome State Fault Refusal :=
  if (s.ctl 0).window then .next s else .next (State.decideAll 1024 s.refreshGraphs)

end Sys2Proof.Machine
end

