-- ==== Sys2Proof/Machine/Bind.lean ====
section
/-! DEFINITION. Dispatch (14, R311, R333; 13, R279, R280), the start, completion and report of a launch (R317, R318), pre-emption and resumption (R320-R323),
the half-width variant (R325). -/

namespace Sys2Proof.Machine

/-! Code stores and variants (R14, R325) -/

/-- Memory without the n bytes at a. -/
def clearRange (m : Memory) (a n : Nat) : Memory := m.filter fun e => decide (e.1 < a) || decide (a + n ≤ e.1)

/-- The n bytes at src copied to dst, with all that was there. -/
def copyRange (m : Memory) (src dst n : Nat) : Memory :=
  let l := m.filter fun e => decide (src ≤ e.1) && decide (e.1 < src + n)
  memWriteAll (clearRange m dst n) (l.map fun e => (dst + (e.1 - src), e.2))

/-- The code block of core n for a launch. -/
def Launch.code (l : Launch) (i : Image) (n : Nat) : List Byte :=
  let plain := ((i.code.find? fun x => x.1 == n).map (·.2)).getD []
  if l.half then ((Config.variantOf (i.section 7) l.svec n).map (·.1)).getD plain else plain

/-- Fill core n's code store; the bytes beyond the block are zero (R14). -/
def State.loadCode (s : State) (l : Launch) (i : Image) (n : Nat) : State :=
  let s := { s with mem := clearRange s.mem (codeBase n) (2 ^ 18) }
  s.addMemNow (((l.code i n).take (2 ^ 18)).zipIdx.map fun b => (codeBase n + b.2, b.1))

/-- The half-width marker of core n for the cut line at a TCYC (R325). -/
def halfMarker (i : Image) (svec n tcyc : Nat) : Option Nat :=
  (Config.variantOf (i.section 7) svec n).bind fun v => (v.2.find? fun x => x.1 == tcyc).map (·.2.2)

/-! The steps of dispatch (R311) -/

/-- What preparing a launch meets: it is done, it waits, a range faults, tasks overlap. -/
inductive Prep (α : Type) where
  | ok (x : α)
  | moves (l : List (Nat × Nat × Nat))
  | fault (reason va access : Nat)

/-- A gated core is woken (R233, R311). -/
def State.wakeCore (s : State) (n : Nat) : State :=
  if (s.core n).gate == .gated then (s.modCore n fun c => { c with gate := .waking }).schedule (s.clock + 1700) prioGate (.wakeComplete n) else s

/-- Near blocks in the banks that core n gives back when its lent count falls to k (R269), those of moves that have begun among them. -/
def State.returned (s : State) (n k : Nat) : List (Nat × Nat) :=
  let now := (s.core n).lent
  let lo := (nearBase + sliceBase n + (16 - now) * 2 ^ 18) / 2 ^ 16
  let inside (f : Nat) : Bool := decide (lo ≤ f) && decide (f < lo + 4 * (now - k))
  if now ≤ k then []
  else ((s.nearBlocks.filter fun x => inside x.1).map fun x => (x.2.1 - 1, x.2.2)) ++
    (s.moves.filter fun m => !m.ptes.isEmpty && inside (m.new / 2 ^ 16)).map fun m => (m.asid, m.va)

/-- A page that a range needs: virtual and physical address, size, PTE. -/
structure RangePage where
  va : Nat
  pa : Nat
  size : Nat
  pte : Word
  deriving DecidableEq, Repr

/-- The pages from va up to stop, or REASON and address of the first that is absent (R275, R279). -/
def State.pagesFrom (s : State) (asid need stop : Nat) : Nat → Nat → Except (Nat × Nat) (List RangePage)
  | 0, _ => .ok []
  | fuel + 1, va =>
    if stop ≤ va then .ok []
    else
      match s.walk asid va need with
      | .absent r m => .error (faultReason r m, va)
      | .torn _ => .error (5, va)
      | .page _ e lv =>
        let size := 2 ^ (12 + 9 * lv)
        let pa := pteAddr e lv va
        if !s.physExists pa then .error (0, va)
        else
          let base := va / size * size
          (s.pagesFrom asid need stop fuel (base + size)).map fun r => ⟨base, pa - va % size, size, e⟩ :: r

/-- The physical address that NEARCORE gives to a virtual address of the range, plus the range's first address (R279): offset o of the range lies at
offset o of the core's lent banks. -/
def State.nearTarget (s : State) (r : RangeRec) (va : Nat) : Nat := nearBase + sliceBase r.near + (16 - (s.core r.near).lent) * 2 ^ 18 + va

/-- A declared range: its pages, or what it must wait for (R279): moves of the pages that lie wrong.  DEDUCED (log 30): a page with MIG that the engine cannot move
now (a block that R283 does not let move, MIGEN clear) is waited for; in host memory nothing is moved. -/
def State.prepRange (s : State) (asid : Nat) (r : RangeRec) : Prep (List RangePage) :=
  let placed := r.hint = 2 && r.near ≠ 0xFFFF
  if placed && (coreCount ≤ r.near || (s.core r.near).lent * 2 ^ 18 < r.len) then .fault 7 r.va r.mode
  else
    match s.pagesFrom asid r.mode (r.va + r.len) (r.len / 4096 + 2) r.va with
    | .error (reason, va) => .fault reason va r.mode
    | .ok ps =>
      let tier := r.hint - 1
      let inPlace (p : RangePage) : Bool :=
        r.hint = 0 || (tierOf p.pa == tier && (!placed || p.pa + r.va == s.nearTarget r p.va))
      let fixed (p : RangePage) : Bool := r.hint = 3 || !p.pte.getLsbD 6 || (placed && r.va % 2 ^ 16 ≠ 0)
      let bad := ps.filter fun p => !inPlace p
      match bad.find? fixed with
      | some p => .fault (if tierOf p.pa = tier || (r.hint ≠ 3 && p.pte.getLsbD 6) then 7 else 3) p.va r.mode
      | none =>
        match bad with
        | [] => .ok ps
        | p :: _ =>
          if r.hint = 2 && !placed && s.freeFrames.isEmpty then .fault 7 p.va r.mode
          else .moves ((bad.filter fun p => s.mmb.migen && (s.blockPtes asid p.va).isSome).map fun p =>
            (p.va, tier, if placed then s.nearTarget r (p.va / 2 ^ 16 * 2 ^ 16) - r.va else 0))

/-- Every range of every task, in order; two that NEARCORE puts into the same frames of one core do not both fit (R279). -/
def State.prepRanges (s : State) (asid : Nat) : List (Nat × Nat × RangeRec) → Prep (List (Nat × Nat × RangeRec × List RangePage))
  | [] => .ok []
  | (j, e, r) :: rest =>
    match rest.find? fun x => r.hint = 2 && r.near ≠ 0xFFFF && x.2.2.hint = 2 && x.2.2.near = r.near && x.2.2.va ≠ r.va with
    | some x => .fault 7 x.2.2.va x.2.2.mode
    | none =>
    match s.prepRange asid r with
    | .fault c va a => .fault c va a
    | .moves l => .moves l
    | .ok ps =>
      match s.prepRanges asid rest with
      | .ok l => .ok ((j, e, r, ps) :: l)
      | .moves l => .moves l
      | .fault c va a => .fault c va a

/-- Two tasks of one phase declare ranges that meet, one of them writable, by virtual address (R311) or by frame (R333). -/
def rangesClash (tasks : List Task) (l : List (Nat × Nat × RangeRec × List RangePage)) : Bool :=
  let phase (j : Nat) : Nat := ((tasks[j]?).map (·.phase)).getD 0
  l.any fun x => l.any fun y =>
    decide (x.1 < y.1) && phase x.1 == phase y.1 && (x.2.2.1.mode / 2 == 1 || y.2.2.1.mode / 2 == 1) &&
      (meets x.2.2.1.va x.2.2.1.len y.2.2.1.va y.2.2.1.len || x.2.2.2.any fun p => y.2.2.2.any fun q => meets p.pa p.size q.pa q.size)

/-- The page vector of a range: one frame address for each page of its smallest size (R280). -/
def pageVector (r : RangeRec) (ps : List RangePage) : Nat × List Nat :=
  let p := ps.foldl (fun m q => Nat.min m q.size) (2 ^ 30)
  let base := r.va / p * p
  (if p = 2 ^ 12 then 0 else if p = 2 ^ 21 then 1 else 2,
   (List.range (ceilDiv (r.va + r.len - base) p)).map fun k =>
     let a := base + k * p
     match ps.find? fun q => decide (q.va ≤ a) && decide (a < q.va + q.size) with
     | some q => q.pa + (a - q.va)
     | none => 0)

/-- The extent tables and page vectors (R280): bytes to write, from the free place of the vectors on. -/
def extentBytes (extab vec : Nat) : List (Nat × Nat × RangeRec × List RangePage) → List (Nat × Byte)
  | [] => []
  | (j, e, r, ps) :: rest =>
    let (psize, v) := pageVector r ps
    let tier := ((ps.head?).map fun p => tierOf p.pa).getD 0
    let entry := leBytes 8 r.va ++ leBytes 8 r.len ++ leBytes 1 r.mode ++ leBytes 1 (128 + tier) ++ leBytes 1 psize ++ leBytes 5 0 ++ leBytes 8 vec
    let at_ := extab + 2048 * j + 32 * e
    (entry.zipIdx.map fun b => (at_ + b.2, b.1)) ++ ((v.flatMap fun a => leBytes 8 a).zipIdx.map fun b => (vec + b.2, b.1)) ++
      extentBytes extab (vec + 8 * v.length) rest

/-- The checkpoint of task start (R65): the whole entry state. -/
def entryCheckpoint (c : Core) : Checkpoint :=
  { entry := true, taken := 0, addr := c.pc.toNat, loops := [], tcyc := 0, phaseno := 0, flagsA := 0, flagsB := 0, fevrec := 0, s := c.s, p := c.p, g := c.g,
    rows := [], tiles := 0, bufs := c.bufs, closed := List.replicate 8 0, opens := List.replicate 8 .empty, mapPhase := 0, awaits := [] }

/-- The buffer table of core n (R144): a buffer whose bytes the image initialises starts full. -/
def planBufs (i : Image) (n : Nat) : SMap Buf :=
  (i.plan n).zipIdx.foldl (fun (m : SMap Buf) x =>
    SMap.put .undeclared m x.2 ⟨x.1.1, x.1.2 / 64, if i.fills n x.1.1 x.1.2 then .full else .empty, true, 0, 0, false⟩) []

/-- The state that a task starts with on a core (R15, R79, R80, R302); the gate, the bus, the windows and the count of SYS are not the task's. -/
def State.taskCore (s : State) (l : Launch) (i : Image) (e : CoreEntry) : Core :=
  let c := s.core e.core
  let base := sliceBase e.core
  let regs : Vector Word 32 := Vector.ofFn fun r =>
    if r.val = 0 then BitVec.ofNat 64 (base + e.param) else if r.val = 28 then BitVec.ofNat 64 (base + e.gp)
    else if r.val = 31 then BitVec.ofNat 64 (base + e.stack) else 0
  let streams := i.section 4
  let place := Config.streamPlace streams e.core
  let descs : Vector Desc 16 := Vector.ofFn fun k =>
    if i.has 4 then descOf ((streams.drop (place + 64 * k.val)).take 64) else 0
  let entry := if l.half then (halfMarker i l.svec e.core 0).getD e.entry else e.entry
  let d : Core :=
    { Core.init with
      run := .waiting, bind := some l.bind, gate := c.gate, lent := c.lent, win := c.win, sysCount := c.sysCount,
      bus := { c.bus with degraded := false, ack := if l.half then true else c.bus.ack },
      pc := BitVec.ofNat 32 (entry % 2 ^ 18), s := regs, g := descs, slim := BitVec.ofNat 64 (e.limit % 2 ^ 22), bufs := planBufs i e.core,
      reserve := e.reserve }
  { d with ckpt := some (entryCheckpoint d) }

/-- Dispatch fills what a launch needs (R311, steps 4-6): tables, code, data, parameter copies, groups, registers. -/
def State.fillLaunch (s : State) (l : Launch) (i : Image) (rs : List (Nat × Nat × RangeRec × List RangePage)) (copy : List Byte) : State :=
  let table := (List.range l.tasks.length).flatMap fun j => (List.range 2048).map fun k => (l.extab + 2048 * j + k, (0 : Byte))
  let s := s.addMemNow (table ++ extentBytes l.extab (Config.vectorPage l.lid % 2 ^ 27 * 2 ^ 12) rs)
  let pins := rs.flatMap fun x => x.2.2.2.map fun p =>
    let r := x.2.2.1
    let lo := Nat.max r.va p.va
    (⟨x.1, ((l.tasks[x.1]?).map (·.phase)).getD 0, p.va, p.pa, p.size, r.mode, p.pa + (lo - p.va), Nat.min (r.va + r.len) (p.va + p.size) - lo⟩ : Pin)
  let s := s.setLaunch l.bind { l with pins := pins, waiting := false }
  let s := { s with groups := i.groupTable.foldl (fun (m : SMap (Nat × List Nat)) g => SMap.put (0, []) m g.1 (l.lid, g.2)) s.groups }
  (i.entries l.svec).foldl (fun (s : State) (e : CoreEntry) =>
    let s := s.loadCode l i e.core
    let at_ := sliceBase e.core
    let data := (i.data.filter fun b => b.core == e.core).flatMap fun b => b.bytes.zipIdx.map fun x => (at_ + b.off + x.2, x.1)
    let s := s.storeSlices (data ++ copy.zipIdx.map fun x => (at_ + e.param + x.2, x.1))
    s.setCore e.core (s.taskCore l i e)) s

/-- A bind reads far-tier memory that HBM cannot correct (R293): its stacks log the words, and the bind waits for the driver as a pin does (R281). -/
def State.bindTorn (s : State) (bind : Nat) (words : List Nat) : State :=
  (words.foldl (fun (s : State) (w : Nat) => s.hbmLog w true) s).postFault ⟨none, 0, 5, (s.launch bind).asid, 1, words.headD 0, 0xFFFF, 0xFF, bind, 0⟩

/-- DISPATCH (R311): CORES against the domain of the start vector (R309), gates, lent counts, ranges, overlaps, tables and contents; what it must wait for brings it here again. -/
def execDispatch (bind : Nat) (s : State) : Host.Outcome State Fault Refusal :=
  if 64 ≤ bind then .fault .noSuchUnit
  else
    let l := s.launch bind
    if !(l.st = 1 || l.st = 2) || !l.waiting || l.resume then .next s
    else
      match s.imageAt l.image with
      | none => .next s
      | some i =>
        let l := { l with st := 2 }
        let s := s.setLaunch bind l
        let es := i.entries l.svec
        if l.cores != (List.range coreCount).filter fun n => es.any fun e => e.core == n then .next (s.endWith bind ⟨3, 0, 0xFFFF, 0, 0⟩)
        else if es.any fun e => (s.core e.core).gate == .gating then .next (s.schedule (s.clock + 1) prioAfter (.dispatch bind))
        else
          let s := l.cores.foldl State.wakeCore s
          let back := es.flatMap fun e => s.returned e.core e.lend
          if !back.isEmpty then
            let s := back.foldl (fun (s : State) (x : Nat × Nat) => s.requestMove (.ask x.1 x.2 0 0 .dispatch (s.dueOf l))) s
            let (d, s) := s.dispatchDelay l
            .next (s.schedule (s.clock + d) prioAfter (.dispatch bind))
          else
            let s := es.foldl (fun (s : State) (e : CoreEntry) => s.modCore e.core fun c => { c with lent := e.lend }) s
            let ranges := l.tasks.zipIdx.flatMap fun t => (i.taskRanges t.1).zipIdx.map fun r => (t.2, r.2, r.1)
            match s.prepRanges l.asid ranges with
            | .fault reason va access => .next ((if reason = 5 then s.logTorn l.asid va else s).postFault ⟨none, 0, reason, l.asid, access, va, 0xFFFF, 0xFF, bind, 0⟩)
            | .moves ms =>
              let s := ms.foldl (fun (s : State) (m : Nat × Nat × Nat) =>
                let other := ((s.nearBlocks.find? fun x => x.1 == m.2.2 / 2 ^ 16).map (·.2)).getD (0, 0)
                let s := if m.2.2 ≠ 0 && other ≠ (0, 0) && other ≠ (l.asid + 1, m.1 / 2 ^ 16 * 2 ^ 16) then
                  s.requestMove (.ask (other.1 - 1) other.2 0 0 .dispatch (s.dueOf l)) else s
                s.requestMove (.ask l.asid m.1 m.2.1 (m.2.2 / 2 ^ 16 * 2 ^ 16) .dispatch (s.dueOf l))) s
              let (d, s) := s.dispatchDelay l
              .next (s.schedule (s.clock + d) prioAfter (.dispatch bind))
            | .ok rs =>
              let torn := s.badIn l.pcopy l.plen
              if !torn.isEmpty && l.plen ≠ 0 then .next (s.bindTorn bind torn)
              else if rangesClash l.tasks rs then .next (s.endWith bind ⟨3, BitVec.ofNat 64 0x06, 0xFFFF, 0, 0⟩)
              else .next (s.fillLaunch l i rs (memBytes s.mem l.pcopy l.plen))

/-! Start (R311, R287) -/

/-- START falls on this cycle. -/
def State.startDue (s : State) (l : Launch) : Bool :=
  l.st = 2 && !l.waiting && !l.resume && l.ending.isNone && l.cores.all (fun n => (s.core n).gate == .on) && s.unheld l &&
    (l.hbm == 0 || s.clock % 2176 == 0)

/-- LAUNCH_START (R311): every core issues its entry bundle with TCYC 0; task start is a cut line (R65). -/
def execLaunchStart (bind : Nat) (s : State) : Host.Outcome State Fault Refusal :=
  if 64 ≤ bind then .fault .noSuchUnit
  else
    let l := s.launch bind
    if !s.startDue l then .next s
    else
      let s := (s.setLaunch bind { l with st := 3, start := s.clock }).emptyPairs l
      .next ((l.cores.foldl (fun (s : State) (n : Nat) =>
        let s := s.modCore n fun c =>
          { c with run := .running, nextIssue := s.clock, tcyc := 0, ckpt := c.ckpt.map fun k => { k with taken := s.clock } }
        s.busSwaps n) s).decideSoon)

/-! The end of a launch (R317, R318) -/

/-- Every core has ended, and nothing else is in the way of completion. -/
def State.allEnded (s : State) (l : Launch) : Bool := l.cores.all fun n => (s.core n).run == .ended

/-- Core n as it stands for a launch: the core itself, or what has been saved of it (R320). -/
def State.coreFor (s : State) (l : Launch) (n : Nat) : Core := if (s.core n).bind == some l.bind then s.core n else SMap.get Core.init l.saved n

/-- Untimed operations and posted writes of a launch that have not ended (R317). -/
def State.launchBusy (s : State) (l : Launch) : Bool :=
  (s.cmds.any fun k => k.bind == some l.bind && !k.timed) || l.cores.any fun n => (s.coreFor l n).win.any fun w => w.2.outst ≠ 0

/-- Completion is due, or its first part: STATE 6 once every core has ended. -/
def State.completeDue (s : State) (l : Launch) : Bool :=
  (l.st = 3 && l.stop.isNone && l.ending.isNone && s.allEnded l) || (l.st = 6 && !s.launchBusy l)

/-- The completion report (R318). -/
def State.reportBytes (s : State) (l : Launch) : List Byte :=
  let e := l.ending.getD ⟨0, 0, 0xFFFF, 0, 0⟩
  leBytes 4 l.lid ++ leBytes 1 e.status ++ leBytes 3 0 ++ leBytes 8 e.frec.toNat ++ leBytes 2 e.core ++ leBytes 2 0 ++ leBytes 4 e.fseq ++
    leBytes 8 e.tcyc ++ leBytes 8 s.clock ++ leBytes 4 l.pwfail ++ leBytes 20 0

/-- Everything a launch holds is released, and the report goes to the host (R317); a bus that waits for a swap swaps now (R239). -/
def State.completeLaunch (s : State) (l : Launch) : State :=
  let mine := l.cores.filter fun n => (s.core n).bind == some l.bind
  let s := mine.foldl (fun (s : State) (n : Nat) => (s.modCore n fun c => { c with bind := none, run := .off, hold := none }).busSwaps n) s
  let s := { s with groups := s.groups.filter (fun g => g.2.1 != l.lid),
                    hbmGroups := s.hbmGroups.filter fun g => !mine.contains g.core }
  let s := s.dropTensors fun t => t.bind == l.bind
  let report := s.reportBytes l
  let s := s.setLaunch l.bind Launch.free
  (s.sendMsg 0x84 (if l.level = 0 then 1 else 0) l.lid report l.lid).decideSoon

/-- LAUNCH_COMPLETE (R317). -/
def execLaunchComplete (bind : Nat) (s : State) : Host.Outcome State Fault Refusal :=
  if 64 ≤ bind then .fault .noSuchUnit
  else
    let l := s.launch bind
    if !s.completeDue l then .next s
    else
      let l := { l with st := 6 }
      .next (if s.launchBusy l then s.setLaunch bind l else s.completeLaunch l)

/-! The context area (R321, R322) -/

/-- The literal entries b to b + 6 of a cut marker (R63), unused ones 0. -/
def State.markerLits (s : State) (n : Nat) (q : Checkpoint) : List Nat :=
  match q.entry, decodeBundle (fun p => BitVec.ofNat 32 (memNat s.mem (codeBase n + p) 4)) q.addr with
  | false, .ok b =>
    match b.slots.findSome? fun x => match x.2 with
      | .region _ lb nr => some (lb.toNat, nr.toNat)
      | _ => none with
    | some (lb, nr) => (List.range 7).map fun k => if k < 3 + nr then (b.lits.getD (lb + k) 0).toNat else 0
    | none => List.replicate 7 0
  | _, _ => List.replicate 7 0

/-- Timeline records of a context: the last 8 of its batches, then the timed one (R208). -/
def Ctx.records (x : Ctx) : List Word :=
  let done := x.completed
  let l := (done.drop (done.length - 8)).map x.record
  l ++ List.replicate (8 - l.length) 0 ++ [x.timed]

/-- The register part of a core record (R322). -/
def State.registerPart (s : State) (n : Nat) (c : Core) (q : Checkpoint) : List Byte :=
  let w (x : Word) : List Byte := leBytes 8 x.toNat
  let levels := c.loops.reverse.map fun l =>
    leBytes 4 l.count.toNat ++ leBytes 4 l.index.toNat ++ leBytes 4 l.start.toNat ++ leBytes 4 (match l.replay with
      | some r => r.blockEnd
      | none => l.last.toNat)
  leBytes 8 q.addr ++ leBytes 8 q.tcyc ++ leBytes 8 c.phaseno.toNat ++ w c.flagsA ++ w c.flagsB ++ w c.fevrec ++
    w c.frec ++ w c.oorrec ++ w c.slim ++ w c.gkey ++
    c.ctx.toList.flatMap (fun x => leBytes 8 x.cnt) ++ c.ctx.toList.flatMap (fun x => leBytes 8 x.closed) ++
    levels.flatten ++ List.replicate (16 * (6 - c.loops.length)) 0 ++ leBytes 1 c.loops.length ++ leBytes 7 0 ++
    c.s.toList.flatMap w ++ leBytes 2 c.p.toNat ++ leBytes 6 0 ++ c.g.toList.flatMap (fun d => leBytes 64 d.toNat) ++
    (List.range 64).flatMap (fun b => w (c.buf b).word) ++ (s.markerLits n q).flatMap (fun v => leBytes 4 v) ++ leBytes 4 0 ++
    c.ctx.toList.flatMap (fun x => x.records.flatMap w) ++ leBytes 8 c.clk ++ leBytes 1368 0

/-- The banks of a slice that are saved (R321): those of buffers, initialised data and the stack, which goes down to the core's LIMIT (R85, R88). -/
def savedBanks (i : Image) (e : CoreEntry) (slim : Word) : List Nat :=
  let low := Nat.min e.limit (bitsOf slim.toNat 0 22)
  let bufs := (i.plan e.core).map fun b => b.1 / 2 ^ 18
  let data := (i.data.filter fun b => b.core == e.core).flatMap fun b => (List.range 16).filter fun k => meets b.off b.len (k * 2 ^ 18) (2 ^ 18)
  let stack := (List.range 16).filter fun k => meets low (e.stack - low) (k * 2 ^ 18) (2 ^ 18)
  (List.range 16).filter fun k => bufs.contains k || data.contains k || stack.contains k

/-- The rows of a core record, in order (R321): ranges, then live tiles. -/
def Checkpoint.savedRows (q : Checkpoint) : List Nat :=
  q.rows.flatMap (fun r => (List.range (r.2 + 1 - r.1)).map fun k => r.1 + k) ++
    ((List.range 16).filter fun t => q.tiles.getLsbD t).flatMap fun t => (List.range 128).map fun k => 128 * t + k

/-- A core record in the context area: its offset, the core, its checkpoint, and the banks that it holds. -/
structure AreaRec where
  off : Nat
  core : Nat
  q : Checkpoint
  banks : List Nat
  deriving DecidableEq, Repr

/-- Where the rows of a record begin, and its banks. -/
def AreaRec.rowsAt (r : AreaRec) : Nat := r.off + 4096
def AreaRec.banksAt (r : AreaRec) : Nat := r.off + 4096 + 512 * r.q.savedRows.length

/-- The core records of a launch, one after another (R321). -/
def areaPlan (i : Image) (l : Launch) : List AreaRec :=
  let es := i.entries l.svec
  let start := 64 + 8 * l.cores.length
  (l.cores.foldl (fun (acc : Nat × List AreaRec) (n : Nat) =>
    let c := SMap.get Core.init l.saved n
    match es.find? fun e => e.core == n, c.ckpt with
    | some e, some q =>
      let r : AreaRec := ⟨acc.1, n, q, savedBanks i e c.slim⟩
      (r.banksAt + 2 ^ 18 * r.banks.length, acc.2 ++ [r])
    | _, _ => acc) (start, [])).2

/-- TCYC of the domain's latest cut line: that of the checkpoints, of which a core that ended before it keeps an earlier one (R247). -/
def cutTcycOf (l : Launch) : Nat := l.cores.foldl (fun (m : Nat) (n : Nat) =>
  match (SMap.get Core.init l.saved n).ckpt with
  | some q => Nat.max m q.tcyc
  | none => m) 0

/-- Header, directory and register parts of the context area (R321, R322). -/
def State.areaRegisters (s : State) (i : Image) (l : Launch) : List (Nat × Byte) :=
  let plan := areaPlan i l
  let tcyc := cutTcycOf l
  let head := leBytes 4 l.lid ++ leBytes 4 0 ++ leBytes 4 (l.committed - 1) ++ leBytes 4 0 ++ leBytes 8 tcyc ++ leBytes 8 (if l.triggered then 1 else 0) ++
    leBytes 2 l.cores.length ++ leBytes 30 0 ++ plan.flatMap fun x => leBytes 8 x.off
  let parts := plan.flatMap fun x =>
    (s.registerPart x.core (SMap.get Core.init l.saved x.core) x.q).zipIdx.map fun b => (l.ctxa + x.off + b.2, b.1)
  head.zipIdx.map (fun b => (l.ctxa + b.2, b.1)) ++ parts

/-- The rest of the area: rows, tiles and banks (R321). -/
def State.saveArea (s : State) (i : Image) (l : Launch) : State :=
  let plan := areaPlan i l
  let rows := plan.flatMap fun x => (x.q.savedRows.zipIdx).flatMap fun r =>
    (leBytes 512 ((SMap.get Core.init l.saved x.core).row r.1).toNat).zipIdx.map fun b => (l.ctxa + x.rowsAt + 512 * r.2 + b.2, b.1)
  let s := s.addMemNow (s.areaRegisters i l ++ rows)
  { s with mem := plan.foldl (fun (m : Memory) x => x.banks.zipIdx.foldl (fun (m : Memory) (k : Nat × Nat) =>
      copyRange m (nearBase + sliceBase x.core + k.1 * 2 ^ 18) (l.ctxa + x.banksAt + k.2 * 2 ^ 18) (2 ^ 18)) m) s.mem }

/-- The words of the banks to be saved that cannot be corrected (R238); the others are corrected as they are read. -/
def State.scanBanks (s : State) (i : Image) (l : Launch) : List Nat × State :=
  (areaPlan i l).foldl (fun (acc : List Nat × State) x => x.banks.foldl (fun (acc : List Nat × State) k =>
    let (bad, s) := acc.2.scanWords (sliceBase x.core + k * 2 ^ 18) (2 ^ 18)
    (acc.1 ++ bad, s)) acc) ([], s)

/-- The first byte past the context area of a launch. -/
def areaEnd (i : Image) (l : Launch) : Nat := (areaPlan i l).foldl (fun m x => Nat.max m (l.ctxa + x.banksAt + 2 ^ 18 * x.banks.length)) (l.ctxa + 64)

/-- The saved banks return to their slices (R323). -/
def State.restoreBanks (s : State) (i : Image) (l : Launch) : State :=
  let s := (areaPlan i l).foldl (fun (s : State) x => x.banks.foldl (fun (s : State) k => s.freshWords (sliceBase x.core + k * 2 ^ 18) (2 ^ 18)) s) s
  { s with mem := (areaPlan i l).foldl (fun (m : Memory) x => x.banks.zipIdx.foldl (fun (m : Memory) (k : Nat × Nat) =>
      copyRange m (l.ctxa + x.banksAt + k.2 * 2 ^ 18) (nearBase + sliceBase x.core + k.1 * 2 ^ 18) (2 ^ 18)) m) s.mem }

/-- A buffer-descriptor entry from the word that BUFQ gives it (R145). -/
def bufOfWord (v : Nat) : Buf :=
  { offset := bitsOf v 0 22, size := bitsOf v 22 13, st := match bitsOf v 35 2 with
      | 0 => .empty
      | 1 => .filling
      | 2 => .full
      | _ => .draining,
    decl := bitsOf v 37 1 == 1, filler := bitsOf v 38 10, fkind := BitVec.ofNat 4 (bitsOf v 48 4), held := bitsOf v 52 1 == 1 }

/-- A context as the area holds it (R208, R322): TLCNT, the last closed number, the records of its last 8 batches and of the timed command. -/
def Ctx.restored (x : Ctx) (cnt closed : Nat) (recs : List Word) : Ctx :=
  let last := x.completed.drop (x.completed.length - 8)
  { x with
    cnt := cnt, closed := closed, timed := recs.getD 8 0,
    batches := (last.zip recs).foldl (fun (m : SMap Batch) y =>
      SMap.put .empty m y.1 { SMap.get .empty m y.1 with status := y.2.extractLsb' 0 8, detail := y.2.extractLsb' 8 8, value := y.2.extractLsb' 32 32 }) x.batches }

/-- A core as its record in the context area gives it (R321-R323): the register part at address a, the rows after it; what the record does not hold stays
as the stop left it. -/
def State.restoreCore (s : State) (a : Nat) (q : Checkpoint) (c : Core) : Core :=
  let at_ (o n : Nat) : Nat := memNat s.mem (a + o) n
  let w (o : Nat) : Word := BitVec.ofNat 64 (at_ o 8)
  let level (i : Nat) : LoopLevel :=
    let o := 208 + 16 * i
    let v (w k : Nat) : BitVec w := BitVec.ofNat w (at_ (o + 4 * k) 4)
    match c.loops.reverse[i]? with
    | some l => { l with count := v 32 0, index := v 32 1, start := v 18 2, last := if l.replay.isSome then l.last else v 18 3,
                         replay := l.replay.map fun r => { r with blockEnd := at_ (o + 12) 4 } }
    | none => ⟨v 32 0, v 32 1, v 18 2, v 18 3, none⟩
  let loops := ((List.range (at_ 304 1)).map level).reverse
  let regs : Vector Word 32 := Vector.ofFn fun i => w (312 + 8 * i.val)
  let preds : BitVec 16 := BitVec.ofNat 16 (at_ 568 2)
  let descs : Vector Desc 16 := Vector.ofFn fun i => BitVec.ofNat 512 (at_ (576 + 64 * i.val) 64)
  let bufs : SMap Buf := (List.range 64).foldl (fun (m : SMap Buf) b => SMap.put .undeclared m b (bufOfWord (at_ (1600 + 8 * b) 8))) []
  let q : Checkpoint :=
    { q with addr := at_ 0 8, tcyc := at_ 8 8, phaseno := BitVec.ofNat 32 (at_ 16 8), flagsA := w 24, flagsB := w 32, fevrec := w 40, loops := loops,
             s := regs, p := preds, g := descs, bufs := bufs, closed := (List.range 8).map fun i => at_ (144 + 8 * i) 8 }
  { c with
    pc := BitVec.ofNat 32 q.addr, tcyc := q.tcyc, cutTcyc := q.tcyc, phaseno := q.phaseno, flagsA := q.flagsA, flagsB := q.flagsB, fevrec := q.fevrec,
    frec := w 48, oorrec := w 56, slim := w 64, gkey := w 72, loops := loops, s := regs, p := preds, g := descs, bufs := bufs, clk := at_ 2720 8,
    ctx := Vector.ofFn fun i => (c.ctx[i.val]'(i.isLt)).restored (at_ (80 + 8 * i.val) 8) (at_ (144 + 8 * i.val) 8) ((List.range 9).map fun k => w (2144 + 72 * i.val + 8 * k)),
    rows := q.savedRows.zipIdx.foldl (fun (m : SMap Row) r => SMap.put 0 m r.1 (BitVec.ofNat 4096 (at_ (4096 + 512 * r.2) 512))) c.rows,
    ckpt := some q }

/-- Every core of a launch as the area gives it. -/
def State.restoreCores (s : State) (i : Image) (l : Launch) : SMap Core :=
  (areaPlan i l).foldl (fun (m : SMap Core) r => SMap.put Core.init m r.core (s.restoreCore (l.ctxa + r.off) r.q (SMap.get Core.init l.saved r.core))) l.saved

/-! Pre-emption and resumption (R320, R323) -/

/-- A core as it is saved: its `clk` counter as it stood at the stop, so many cycles ago (R322). -/
def Core.savedAt (c : Core) (since : Nat) : Core := { c with clk := c.clk - since }

/-- PREEMPTION (R320): once the domain has stopped and its stores in flight have landed, it is saved, its cores and stacks are free, and it is
the head of its queue again; a bank word that cannot be corrected ends it with STATUS 8 (log 31); for a launch that is saved already, the area takes up what has completed since, also once it is bound again (R323). -/
def execPreemption (bind : Nat) (s : State) : Host.Outcome State Fault Refusal :=
  if 64 ≤ bind then .fault .noSuchUnit
  else
    let l := s.launch bind
    match s.imageAt l.image, l.stop with
    | some i, none => .next (if !l.saved.isEmpty && (l.st = 5 || l.st = 1 || l.st = 2) then s.addMemNow (s.areaRegisters i l) else s)
    | some i, some t =>
      if !(l.st = 3 || l.st = 4) || t.kind != .preempt || !t.stopped || l.ending.isSome then .next s
      else if s.memPend.any fun m => l.cores.contains m.store then .next (s.scheduleOnce (s.clock + 1) prioAfter (.preemption bind))
      else
        let saved : SMap Core := l.cores.foldl (fun (m : SMap Core) (n : Nat) => SMap.put Core.init m n ((s.core n).savedAt (s.clock - t.at_))) []
        match s.scanBanks i { l with saved := saved } with
        | (_ :: _, s) => .next (s.endWith bind ⟨8, 0, 0xFFFF, 0, 0⟩)
        | ([], s) =>
        let l := { l with st := 5, saved := saved, stop := none, resume := true }
        let s := (s.setLaunch bind l).saveArea i l
        let s := l.cores.foldl (fun (s : State) (n : Nat) => (s.modCore n fun c => { c with bind := none, run := .off }).busSwaps n) s
        let x := s.queue l.queue
        let w : QWord := ⟨l.lid, l.image, l.svec, [], none, some bind, s.wall, false⟩
        .next (((s.setQueue l.queue { x with words := w :: x.words }).newHead l.queue).decideSoon)
    | none, _ => .next s

/-- RESUME (R323): code stores, banks, core records, all from the context area; the domain then restarts at its cut line (R287).  With a core at half width it
goes on with the variant (R325); DEDUCED (log 31): where the cut map misses its cut line, it ends with STATUS 4. -/
def execResume (bind : Nat) (s : State) : Host.Outcome State Fault Refusal :=
  if 64 ≤ bind then .fault .noSuchUnit
  else
    let l := s.launch bind
    match s.imageAt l.image with
    | none => .next s
    | some i =>
      if !(l.st = 1 || l.st = 2) || !l.waiting || !l.resume then .next s
      else if l.cores.any fun n => (s.core n).gate == .gating then
        .next ((s.setLaunch bind { l with st := 2 }).schedule (s.clock + 1) prioAfter (.resume bind))
      else
        let back := (i.entries l.svec).flatMap fun e => s.returned e.core e.lend
        if !back.isEmpty then
          let s := back.foldl (fun (s : State) (x : Nat × Nat) => s.requestMove (.ask x.1 x.2 0 0 .dispatch none)) (s.setLaunch bind { l with st := 2 })
          let (d, s) := s.freeDelay
          .next (s.schedule (s.clock + d) prioAfter (.resume bind))
        else if s.badRead l.ctxa (areaEnd i l - l.ctxa) then .next ((s.setLaunch bind { l with st := 2 }).bindTorn bind (s.badIn l.ctxa (areaEnd i l - l.ctxa)))
        else
          let cores := s.restoreCores i l
          let mapped := l.cores.all fun n => (SMap.get Core.init cores n).ckpt.any fun q => q.entry || (halfMarker i l.svec n q.tcyc).isSome
          let half := l.half || (i.variantFor l.svec l.cores && l.cores.any fun n => (s.core n).bus.wstate == 1)
          if half && !l.half && !mapped then .next (s.endWith bind ⟨4, 0, 0xFFFF, 0, 0⟩)
          else
          let t : Stop := ⟨0, 0, .rewind, false, true, 0, 0xFFFF, 0, s.clock⟩
          let s := s.restoreBanks i l
          let turned := half && !l.half
          let l := { l with st := 2, waiting := false, half := half, stop := some t }
          let s := (s.setLaunch bind { l with saved := [] }).emptyPairs l
          .next ((i.entries l.svec).foldl (fun (s : State) (e : CoreEntry) =>
            let n := e.core
            let c := s.core n
            let o := SMap.get Core.init cores n
            let ck := o.ckpt.map fun q => if turned then { q with addr := (halfMarker i l.svec n q.tcyc).getD q.addr } else q
            let s := (s.loadCode l i n).setCore n
              { o with bind := some bind, gate := c.gate, bus := { c.bus with degraded := false, ack := if half then true else c.bus.ack },
                       lent := e.lend, win := c.win, sysCount := c.sysCount, ckpt := ck,
                       endedAtCut := o.endedAtCut || o.run == .ended }
            s.wakeCore n) s)

/-! The half-width variant (R325) -/

/-- A variant decision is due: the domain has stopped for 0x1B. -/
def variantDue (l : Launch) : Bool :=
  match l.stop with
  | some t => (l.st = 3 || l.st = 4) && t.stopped && t.kind == .variant && l.ending.isNone
  | none => false

/-- VARIANT_REBIND (R325): reload every code store with the variant and go on at its markers, or end the launch with STATUS 4. -/
def execVariantRebind (bind : Nat) (s : State) : Host.Outcome State Fault Refusal :=
  if 64 ≤ bind then .fault .noSuchUnit
  else
    let l := s.launch bind
    match l.stop, s.imageAt l.image with
    | some t, some i =>
      if !variantDue l then .next s
      else
        let moved := l.cores.filter fun n => (s.core n).run == .frozen
        let found := i.variantFor l.svec l.cores && l.cores.all (fun n => (s.core n).bus.wstate ≠ 2) &&
          moved.all fun n => (halfMarker i l.svec n (s.core n).tcyc).isSome
        if !found then
          let frec := if t.core < coreCount then (s.core t.core).frec else 0
          .next (s.endWith bind ⟨4, frec, t.core, 0, t.tcyc⟩)
        else
          let hot := l.cores.any fun n => !(s.stackAt (coreStack n)).critical.isEmpty
          let l := { l with half := true, stop := some { t with kind := if hot then .inPlace else .rewind }, st := if hot then 4 else l.st }
          let s := l.cores.foldl (fun (s : State) (n : Nat) =>
            (s.loadCode l i n).modCore n fun c => { c with bus := { c.bus with ack := true, degraded := false } }) (s.setLaunch bind l)
          .next (moved.foldl (fun (s : State) (n : Nat) => s.modCore n fun c =>
            let a := (halfMarker i l.svec n c.tcyc).getD c.pc.toNat
            { c with pc := BitVec.ofNat 32 a, ckpt := c.ckpt.map fun q => { q with addr := a } }) s)
    | some t, none => .next (if variantDue l then s.endWith bind ⟨4, 0, t.core, 0, t.tcyc⟩ else s)
    | none, _ => .next s

end Sys2Proof.Machine
end

