-- ==== Sys2Proof/Machine/Firmware.lean ====
section
/-! DEFINITION. The controllers and the replacement of their firmware (16, R344-R350). -/

namespace Sys2Proof.Machine

/-! What the controllers show: bind and group tables (R308, R314) -/

/-- Bit n of word j is set for each core n of the list. -/
def coreMask (l : List Nat) (j : Nat) : Word := l.foldl (fun (w : Word) (n : Nat) => if n / 64 = j then w ||| BitVec.ofNat 64 (2 ^ (n % 64)) else w) 0

/-- Word o of a bind-table entry (R308), 20 words. -/
def Launch.word (l : Launch) (o : Nat) : Word :=
  match o with
  | 0 => BitVec.ofNat 64 (l.lid % 2 ^ 32 + l.image % 2 ^ 8 * 2 ^ 32 + l.svec % 2 ^ 8 * 2 ^ 40 + l.queue % 2 ^ 8 * 2 ^ 48 + l.st % 2 ^ 8 * 2 ^ 56)
  | 1 => BitVec.ofNat 64 (l.tasks.length % 2 ^ 16 + l.asid % 2 ^ 8 * 2 ^ 16 + (if l.half then 2 ^ 24 else 0) + (if l.resume then 2 ^ 25 else 0) +
      l.hbm % 2 ^ 8 * 2 ^ 32)
  | 2 => BitVec.ofNat 64 l.start
  | 3 => BitVec.ofNat 64 l.extab
  | 4 => BitVec.ofNat 64 l.ctxa
  | 5 => BitVec.ofNat 64 l.pcopy
  | 6 => 0
  | 7 => 0
  | _ => coreMask l.cores (o - 8)

/-- Word o of a group-table entry (R314), 16 words. -/
def State.groupWord (s : State) (g o : Nat) : Word :=
  let x := SMap.get (0, []) s.groups g
  if o = 0 then BitVec.ofNat 64 (x.1 % 2 ^ 32 + (if x.1 ≠ 0 then 2 ^ 32 else 0))
  else if o < 4 then 0 else coreMask x.2 (o - 4)

/-! Hand-over records (R347, R348) -/

/-- A list of bytes, cut or filled with zeros to n. -/
def fitTo (n : Nat) (l : List Byte) : List Byte := l.take n ++ List.replicate (n - l.length) 0

/-- The patches that the home has issued and that have not switched: their slot is still to come, here or at the packages that they change, or they are to be
planned again. -/
def Fabric.pending (f : Fabric) : List PatchState :=
  (f.patches.filter fun x => x.atHome && !x.applied && (x.pending || x.cancelled || decide (f.pslot < x.patch.patchSlot.toNat))).take 32

/-- A patch in its format of 64 bytes (R381). -/
def patchRecord (p : Patch) : List Byte := fitTo 64 (patchBytes p)

/-- The request to load an image that waits for Dawn: address, length, slot (log 14). -/
def State.pendingLoad (s : State) : List Byte :=
  match s.agenda.findSome? fun a => match a.ev with
    | .imageLoad slot addr len => some (leBytes 8 addr ++ leBytes 4 len ++ leBytes 4 slot)
    | _ => none with
  | some l => l
  | none => List.replicate 16 0

/-- One entry of the partners section: this package's journal stands at its own number, the rings it holds at the others' (log 14). -/
def State.partnerEntry (s : State) (p : Nat) : List Byte :=
  let entry (pkg st a b : Nat) : List Byte := leBytes 1 pkg ++ leBytes 1 st ++ leBytes 6 0 ++ leBytes 8 a ++ leBytes 8 b
  let j := s.jrn
  if p = s.fab.pkg then entry j.partner ((if j.valid then 1 else 0) + (if j.lostPartner then 2 else 0)) j.wcur j.acur
  else
    let r := SMap.get .init j.rings p
    if r.base = 0 then entry 0 0 0 0 else entry s.fab.pkg 1 r.prcur r.prcur

/-- The monitors in block order: the clusters', then the package's. -/
def monitorOrder : List MonId :=
  ((List.range 48).flatMap fun c => (List.range 4).map fun m => .cluster c (m + 2)) ++ (List.range 7).map fun m => .pkg m

/-- The sections of controller k's record (R348): type and content. -/
def State.recordSections (s : State) (k : Nat) : List (Nat × List Byte) :=
  match k with
  | 0 =>
    [(1, ((List.range 64).flatMap fun q => leBytes 8 (s.queue q).headSince ++ leBytes 1 (s.queue q).elevel ++ leBytes 7 0) ++
        (List.range 8).flatMap fun lv => leBytes 1 ((SMap.get 0 s.lastBound lv + 63) % 64)),
     (2, (List.range 64).flatMap fun b => (List.range 20).flatMap fun o => leBytes 8 ((s.launch b).word o).toNat),
     (3, (List.range 256).flatMap fun g => leBytes 4 (SMap.get (0, []) s.groups g).1)]
  | 1 =>
    [(4, leBytes 8 (unsignedOf 64 ((s.fab.slotAt : Int) - 24 * s.fab.pslot)) ++ (List.range 128).flatMap fun i => leBytes 4 (SMap.get 0 s.fab.versions i)),
     (5, leBytes 4 s.fab.pending.length ++ leBytes 4 0 ++ s.fab.pending.flatMap fun x => patchRecord x.patch),
     (6, (List.range 64).flatMap fun p => s.partnerEntry p)]
  | 2 => [(7, monitorOrder.flatMap fun m => leBytes 8 ((s.mon (MonId.key m)).word 0).toNat)]
  | _ => [(8, leBytes 4 s.link.epoch ++ leBytes 4 s.sec.alarmCfg ++ s.pendingLoad)]

/-- Directory and sections of a record (R347). -/
def recordTail (secs : List (Nat × List Byte)) : List Byte :=
  let base := 64 + 16 * secs.length
  let (dir, body) := secs.foldl (fun (x : List Byte × List Byte) (sec : Nat × List Byte) =>
    (x.1 ++ leBytes 2 sec.1 ++ leBytes 2 0 ++ leBytes 4 (base + x.2.length) ++ leBytes 4 sec.2.length ++ leBytes 4 0, x.2 ++ sec.2)) ([], [])
  dir ++ body

/-- The bytes of a record (R347). -/
def recordBytes (k schema gen clock : Nat) (secs : List (Nat × List Byte)) : List Byte :=
  let tail := recordTail secs
  leBytes 4 0x48444E48 ++ leBytes 2 schema ++ leBytes 1 k ++ leBytes 1 0 ++ leBytes 8 gen ++ leBytes 8 clock ++ leBytes 2 secs.length ++ leBytes 6 0 ++
    fitTo 32 (Config.sha3_256 tail) ++ tail

/-- The schema that the active image writes: WSCHEMA of its header (R345, R349); the image of manufacture writes schema 1 (log 14: an image goes on with
WSCHEMA after COMMIT, and the sections are those of schema 1 whatever the number). -/
def Ctl.writes (c : Ctl) : Nat := if c.image.isEmpty then 1 else leAt c.image 20 2

/-- The active image writes a record, RECORD0 and RECORD1 alternately (R347). -/
def State.writeRecord (s : State) (k : Nat) : State :=
  let c := s.ctl k
  let gen := c.gen + 1
  let r := recordBytes k c.writes gen s.clock (s.recordSections k)
  s.setCtl k (if gen % 2 = 1 then { c with gen := gen, record0 := r } else { c with gen := gen, record1 := r })

/-- The record that a controller wrote last no longer says how its state stands (R347); in a takeover window nobody writes one (R350). -/
def State.recordStale (s : State) (k : Nat) : Bool :=
  let c := s.ctl k
  let last := if c.gen % 2 = 1 then c.record0 else c.record1
  !c.window && last.drop 64 != recordTail (s.recordSections k)

/-- How often the active images look at their state (R347: within 10 µs of a change at any frequency of R268). -/
def recordPeriod : Nat := 4250

/-- The records are kept current (R347). -/
def State.keepRecords (s : State) : State :=
  if s.clock % recordPeriod ≠ 0 then s
  else ((List.range 4).filter s.recordStale).foldl (fun (s : State) (k : Nat) => s.scheduleOnce s.clock prioAfter (.handoverRecordWrite k)) s

/-- HANDOVER_RECORD_WRITE (R347). -/
def execHandoverRecordWrite (ctl : Nat) (s : State) : Host.Outcome State Fault Refusal :=
  if 4 ≤ ctl then .fault .noSuchUnit else .next (s.writeRecord ctl)

/-- The end of a record's last section. -/
def recordEnd (r : List Byte) : Nat :=
  (List.range (leAt r 24 2)).foldl (fun (m : Nat) (i : Nat) => Nat.max m (leAt r (68 + 16 * i) 4 + leAt r (72 + 16 * i) 4)) 64

/-- The record's digest checks (R347). -/
def recordChecks (r : List Byte) : Bool := fitTo 32 (Config.sha3_256 ((r.take (recordEnd r)).drop 64)) == (r.drop 32).take 32

/-- The valid record: the one with the higher GEN whose digest checks (R347). -/
def Ctl.validRecord (c : Ctl) : Option (List Byte) :=
  match [c.record0, c.record1].filter fun r => 64 ≤ r.length && recordChecks r with
  | [] => none
  | [a] => some a
  | a :: b :: _ => some (if leAt a 8 8 < leAt b 8 8 then b else a)

/-! Images (R345) -/

/-- The image in the standby hart's memory: the bytes up to the last that was staged. -/
def Ctl.stagedImage (c : Ctl) : List Byte := (List.range c.stagedLen).map fun i => SMap.get 0 c.staged i

/-- The active image reads records of a schema (R345). -/
def Ctl.canRead (c : Ctl) (k schema : Nat) : Bool :=
  if c.image.isEmpty then Config.factoryReads k schema else decide (leAt c.image 16 2 ≤ schema) && decide (schema ≤ leAt c.image 18 2)

/-- SCHEMA of the active image's current record; before it has written one, the schema that it writes. -/
def Ctl.schema (c : Ctl) : Nat :=
  match c.validRecord with
  | some r => leAt r 4 2
  | none => c.writes

/-- Dawn accepts the staged image (R345). -/
def Ctl.accepts (c : Ctl) (k : Nat) : Bool :=
  let b := c.stagedImage
  64 ≤ b.length && leAt b 0 4 == 0x57464C44 && leAt b 5 3 == 0 && leAt b 22 42 == 0 &&
    Config.signatureOk b && leAt b 4 1 == k && decide (Config.versionFloor k ≤ leAt b 8 8) && c.canRead k (leAt b 20 2) &&
    decide (leAt b 16 2 ≤ c.schema) && decide (c.schema ≤ leAt b 18 2)

/-! Replacement (R349, R350) -/

/-- CMD STAGE: the standby hart halts and its memory is staged; given again, Dawn checks the image, when Dawn answers requests. -/
def State.cmdStage (s : State) (k : Nat) : State :=
  let c := s.ctl k
  if c.st = 0 then s.setCtl k { c with st := 1, staged := [], stagedLen := 0 }
  else if c.st ≠ 1 then s
  else if (s.ctl 3).window then s.nextCycle .stage { noStim with unit := k, value := 1 }
  else if c.accepts k then s.setCtl k { c with st := 2 }
  else (s.setCtl k { c with st := 0 }).sendEvent evStageRefused (leBytes 1 k)

/-- CMD COMMIT: Dawn loads the other hart with the new image, when Dawn answers requests, and it becomes standby. -/
def State.cmdCommit (s : State) (k : Nat) : State :=
  let c := s.ctl k
  if c.st ≠ 3 then s
  else if (s.ctl 3).window then s.nextCycle .commit { noStim with unit := k }
  else s.setCtl k { c with st := 0, old := [] }

/-- An update is abandoned: a STAGE and a COMMIT that wait for Dawn go with it. -/
def State.dropUpdate (s : State) (k : Nat) : State :=
  { s with inputs := s.inputs.filter fun i => !(i.stim.unit == k && ((i.ev == .stage && i.stim.value == 1) || i.ev == .commit)) }

/-- The takeover window of a controller closes (R350); Noon decides again. -/
def State.closeWindow (s : State) (k : Nat) : State :=
  if !(s.ctl k).window then s
  else
    let s := s.setCtl k { s.ctl k with window := false }
    if k = 0 then s.decideSoon else s

/-- Rollback (R349): old runs again from the valid record. -/
def State.rollback (s : State) (k : Nat) : State :=
  let c := s.ctl k
  let s := s.closeWindow k
  let d : Ctl := { c with st := 0, active := !c.active, image := c.old, old := [], rollbacks := (c.rollbacks + 1) % 2 ^ 32, lastRb := s.clock,
                          deadline := none, window := false }
  (s.setCtl k d).sendEvent evRollback (leBytes 1 k)

/-- CMD ABORT. -/
def State.cmdAbort (s : State) (k : Nat) : State :=
  let c := s.ctl k
  if c.st = 3 then (s.dropUpdate k).rollback k
  else if c.st = 1 || c.st = 2 then (s.setCtl k { c with st := 0 }).dropUpdate k
  else s

/-- Arm the watchdog. -/
def State.armWatchdog (s : State) (k : Nat) : State :=
  let c := s.ctl k
  let d := s.clock + c.wdog
  (s.setCtl k { c with deadline := some d }).schedule d prioAfter (.watchdogExpiry k)

/-- A write of HEARTBEAT by the active hart: the watchdog is armed again, and a takeover window ends (R349, R350). -/
def State.heartbeat (s : State) (k : Nat) (v : Word) : State :=
  ((s.setCtl k { s.ctl k with beat := v }).armWatchdog k).closeWindow k

/-- The monitors that controller k feeds skip a window (R350). -/
def State.countGaps (s : State) (k : Nat) : State :=
  (monitorOrder.filter fun m => feeder (MonId.quantity m) == some k).foldl (fun (s : State) (m : MonId) =>
    let x := s.mon (MonId.key m)
    s.setMon (MonId.key m) { x with gaps := sat32 (x.gaps + 1) }) s

/-- The new image takes over at a quiescent point of old: old's final record, ACTIVE, the watchdog (R349, R350). -/
def State.takeOver (s : State) (k : Nat) : State :=
  let s := s.writeRecord k
  let c := s.ctl k
  ((s.setCtl k { c with st := 3, active := !c.active, old := c.image, image := c.stagedImage, window := true }).countGaps k).armWatchdog k

/-- STAGE (R349): `unit` is the controller. -/
def execStage (s : State) : Host.Outcome State Fault Refusal := if 4 ≤ s.stim.unit then .fault .noSuchUnit else .next (s.cmdStage s.stim.unit)

/-- COMMIT (R349). -/
def execCommit (s : State) : Host.Outcome State Fault Refusal := if 4 ≤ s.stim.unit then .fault .noSuchUnit else .next (s.cmdCommit s.stim.unit)

/-- ABORT (R349). -/
def execAbort (s : State) : Host.Outcome State Fault Refusal := if 4 ≤ s.stim.unit then .fault .noSuchUnit else .next (s.cmdAbort s.stim.unit)

/-- TAKEOVER (R349): Vesper's quiescent points are boundaries of patch slots, at multiples of 64 (R381); the other controllers' lie between steps of the model. -/
def execTakeover (s : State) : Host.Outcome State Fault Refusal :=
  let k := s.stim.unit
  if 4 ≤ k then .fault .noSuchUnit
  else if (s.ctl k).st ≠ 2 then .next s
  else if k = 1 && (s.clock ≠ s.fab.slotAt || s.fab.pslot % 64 ≠ 0) then .next (s.nextCycle .takeover s.stim)
  else .next (s.takeOver k)

/-- HEARTBEAT (R349): `value` is what the active hart writes. -/
def execHeartbeat (s : State) : Host.Outcome State Fault Refusal :=
  if 4 ≤ s.stim.unit then .fault .noSuchUnit else .next (s.heartbeat s.stim.unit s.stim.value)

/-- WATCHDOG_EXPIRY (R349): a rollback in TAKEN; elsewhere the active hart starts again, and an update under way is abandoned. -/
def execWatchdogExpiry (ctl : Nat) (s : State) : Host.Outcome State Fault Refusal :=
  if 4 ≤ ctl then .fault .noSuchUnit
  else
    let c := s.ctl ctl
    match c.deadline with
    | none => .next s
    | some d =>
      if s.clock < d then .next s
      else if c.st = 3 then .next ((s.dropUpdate ctl).rollback ctl)
      else .next (((s.setCtl ctl { c with st := 0, deadline := none }).dropUpdate ctl).closeWindow ctl)

end Sys2Proof.Machine
end

