-- ==== Sys2Proof/Machine/Mgmt.lean ====
section
/-! DEFINITION. The management space (16, R343) and the blocks behind it: scheduler (R308, R314), memory management (R273, R294), clusters (R243-R245),
controllers (R346), monitors (R353), security and the alarm (R354); and the registers of Vesper's own space. -/

namespace Sys2Proof.Machine

/-! Security (R354) -/

/-- A write of RPTREQ: DONE is cleared, and Dawn builds the report in its time. -/
def State.requestReport (s : State) : State :=
  let (d, s) := s.freeDelay
  let s := { s with sec := { s.sec with done := false } }
  s.schedule (s.clock + d) prioAfter .reportWritten

/-- RPTREQ (R354). -/
def execRptreq (s : State) : Host.Outcome State Fault Refusal := .next s.requestReport

/-- The report without its signature. -/
def State.reportBody (s : State) : List Byte :=
  let nonce := (List.range 4).flatMap fun i => leBytes 8 (SMap.get 0 s.sec.nonce i).toNat
  let slots := s.images.filter fun x => !x.2.bytes.isEmpty
  let image (k : Nat) : List Byte := if (s.ctl k).image.isEmpty then Config.factoryImage k else (s.ctl k).image
  nonce ++ leBytes 8 s.clock ++ leBytes 2 slots.length ++ leBytes 6 0 ++
    ((List.range 4).flatMap fun k => fitTo 64 (Config.sha3_512 (image k))) ++
    slots.flatMap fun x => leBytes 1 x.1 ++ leBytes 7 0 ++ fitTo 64 (Config.sha3_512 x.2.bytes)

/-- REPORT_WRITTEN (R354): the signed report goes to RPTADDR; without an identity key none can be signed.  In Dawn's takeover window it waits (R350). -/
def execReportWritten (s : State) : Host.Outcome State Fault Refusal :=
  if (s.ctl 3).window then .next (s.schedule (s.clock + 1) prioAfter .reportWritten)
  else if !s.sec.idKey then .next s
  else
    let a := s.sec.rptAddr
    if a % 4096 ≠ 0 || 2 ^ 39 < a + 32768 then .next { s with sec := { s.sec with badAddr := true } }
    else
      let body := s.reportBody
      let r := body ++ fitTo 4627 (Config.sign body)
      let s := s.addMemNow (r.zipIdx.map fun b => (a + b.2, b.1))
      .next { s with sec := { s.sec with done := true, badAddr := false, rptLen := r.length, digest := fitTo 64 (Config.sha3_512 r) } }

/-- The level of a trigger: 0 tamper, 1 glitch, 2 temperature; 0 reads as 1. -/
def Sec.level (x : Sec) (t : Nat) : Nat := Nat.max 1 (bitsOf x.alarmCfg (2 * t) 2)

/-- ALARMCFG as it reads. -/
def Sec.alarmWord (x : Sec) : Nat := x.level 0 + x.level 1 * 4 + x.level 2 * 16

/-- Untimed operations of a bind entry are abandoned (R354). -/
def State.abandon (s : State) (b : Nat) : State :=
  let gone := (s.cmds.filter fun k => k.bind == some b && !k.timed).map (·.id)
  let keep (l : List Nat) : List Nat := l.filter fun i => !gone.contains i
  { s with
    cmds := s.cmds.filter fun k => !gone.contains k.id,
    sysWait := keep s.sysWait, sysOut := keep s.sysOut,
    devFaults := s.devFaults.filter fun f => f.cmd = 0 || !gone.contains f.cmd,
    fab := { s.fab with running := s.fab.running.filter (fun x => !gone.contains x.cmd), queue := s.fab.queue.filter fun c => c.cmdId = 0 || c.win ≠ 0 || !gone.contains c.cmdId },
    jrn := { s.jrn with jrnls := keep s.jrn.jrnls, emits := keep s.jrn.emits } }

/-- A running domain stops at once, without a rewind, and its launch ends with STATUS 7 (R354). -/
def State.haltLaunch (s : State) (l : Launch) : State :=
  if l.st < 2 || l.st = 5 then s
  else
    let s := l.cores.foldl (fun (s : State) (n : Nat) => if (s.core n).bind == some l.bind then
        s.modCore n fun c => { c with run := if c.run == .ended then .ended else .stopped, hold := none, late := none }
      else s) s
    (s.abandon l.bind).pumpSys.setLaunch l.bind
      { l with st := 6, stop := none, waiting := false, ending := some (l.ending.getD ⟨7, 0, 0xFFFF, 0, 0⟩) }

/-- SECURITY_ALARM (R354): `index` is the trigger.  Level 1 logs the alarm and sends an EVENT; level 2 also halts every domain and zeroises the session keys; level 3 also
erases the identity key. -/
def execSecurityAlarm (s : State) : Host.Outcome State Fault Refusal :=
  let t := s.stim.index
  if 3 ≤ t then .fault .noSuchUnit
  else
    let lv := s.sec.level t
    let s := if lv < 2 then s
      else
        let s := { s with link := { s.link with keyed := false } }
        s.launches.foldl (fun (s : State) (l : Launch) => s.haltLaunch (s.launch l.bind)) s
    let s := if lv < 3 then s else { s with sec := { s.sec with idKey := false } }
    let s := { s with sec := { s.sec with alarms := s.sec.alarms ++ [(s.clock, t, lv)] } }
    .next (s.sendEvent evAlarm (leBytes 1 t ++ leBytes 1 lv))

/-! Reading -/

/-- A core of a cluster by its cluster-local number (R228). -/
def clusterCore (c i : Nat) : Nat :=
  c / 24 * 384 + i / 8 * 192 + (c % 24 / 6 * 2 + i % 8 / 4) * 24 + c % 6 * 4 + i % 4

/-- 8 bytes of a memory-management register (R273, R294). -/
def State.mmbWord (s : State) (a : Nat) : Word :=
  let m := s.mmb
  if a < 0x800 then m.asid (a / 8)
  else if 0x1000 ≤ a && a < 0x2000 then SMap.get 0 (SMap.get .init s.hbm ((a - 0x1000) / 0x200)).log (a % 0x200 / 8)
  else match a with
    | 0x800 => m.upd
    | 0x808 => BitVec.ofNat 64 m.uqTail
    | 0x810 => BitVec.ofNat 64 m.uqDone
    | 0x818 => m.fault
    | 0x820 => BitVec.ofNat 64 m.frHead
    | 0x828 => BitVec.ofNat 64 m.frTail
    | 0x838 => m.mig
    | 0x840 => BitVec.ofNat 64 m.mlHead
    | 0x848 => BitVec.ofNat 64 m.mlTail
    | 0x850 => m.cfg
    | _ => 0

/-- 8 bytes of a monitor's registers (R353). -/
def Monitor.at_ (m : Monitor) (a : Nat) : Word := if a < 0x100 then m.word (a / 8) else SMap.get 0 m.cap ((a - 0x100) / 8)

/-- 8 bytes of cluster c's block (R243-R245, R352). -/
def State.clusterWord (s : State) (c a : Nat) : Word :=
  let k := s.cluster c
  if a = 0 then BitVec.ofNat 64 (k.limit + k.rwin * 2 ^ 4)
  else if a < 0x48 then BitVec.ofNat 64 (s.pair (corePair (clusterCore c ((a - 8) / 8)))).discard
  else if a < 0xC8 then
    let b := (s.core (clusterCore c ((a - 0x48) / 8))).bus
    BitVec.ofNat 64 (b.health.toNat + b.wstate * 2 ^ 34)
  else if a = 0xC8 then BitVec.ofNat 64 (k.vbhead + k.vblost * 2 ^ 4)
  else if a < 0x100 then 0
  else if a < 0x180 then SMap.get 0 k.vblog ((a - 0x100) / 8)
  else if 0x800 ≤ a then (s.mon (MonId.key (.cluster c (2 + (a - 0x800) / 0x200)))).at_ (a % 0x200)
  else if c % 24 ≠ 0 then 0
  else
    let x := s.stackAt (c / 24)
    if a = 0x3F8 then BitVec.ofNat 64 (x.eccHead + x.eccLost * 2 ^ 32)
    else if 0x400 ≤ a && a < 0x600 then SMap.get 0 x.ecc ((a - 0x400) / 8) else 0

/-- 8 bytes of controller k's block (R346). -/
def State.ctlWord (s : State) (k a : Nat) : Word :=
  let c := s.ctl k
  if 0xC000 ≤ a then BitVec.ofNat 64 (leAt c.record1 (a - 0xC000) 8)
  else if 0x8000 ≤ a then BitVec.ofNat 64 (leAt c.record0 (a - 0x8000) 8)
  else match a with
    | 0x000 => BitVec.ofNat 64 (c.st + if c.active then 8 else 0)
    | 0x010 => BitVec.ofNat 64 c.wdog
    | 0x018 => c.beat
    | 0x020 => BitVec.ofNat 64 c.rollbacks
    | 0x028 => BitVec.ofNat 64 c.lastRb
    | 0x030 => BitVec.ofNat 64 c.page
    | _ => 0

/-- 8 bytes of the security block (R354). -/
def State.secWord (s : State) (a : Nat) : Word :=
  let x := s.sec
  if a < 0x20 then SMap.get 0 x.nonce (a / 8)
  else if 0x100 ≤ a && a < 0x140 then BitVec.ofNat 64 (leAt x.digest (a - 0x100) 8)
  else match a with
    | 0x020 => BitVec.ofNat 64 x.rptAddr
    | 0x030 => BitVec.ofNat 64 ((if x.done then 1 else 0) + (if x.badAddr then 2 else 0) + x.rptLen * 2 ^ 32)
    | 0x040 => BitVec.ofNat 64 x.alarmWord
    | _ => 0

/-- The offset lies in a block of R343. -/
def mgmtExists (a : Nat) : Bool :=
  decide (a < 0x50000) || (decide (0x80000 ≤ a) && decide (a < 0xB0000)) || (decide (0x100000 ≤ a) && decide (a < 0x151000)) ||
    (decide (0x160000 ≤ a) && decide (a < 0x170000))

/-- The 8 bytes at an aligned offset; where a block has no register, 0. -/
def State.mgmtWord (s : State) (a : Nat) : Word :=
  if a < 0x2800 then (s.launch (a / 160)).word (a % 160 / 8)
  else if a < 0x4000 then 0
  else if a < 0xC000 then s.groupWord ((a - 0x4000) / 128) (a % 128 / 8)
  else if a = 0xC000 then BitVec.ofNat 64 s.paramBase
  else if a < 0x40000 then 0
  else if a < 0x50000 then s.mmbWord (a - 0x40000)
  else if a < 0x80000 then 0
  else if a < 0xB0000 then s.clusterWord ((a - 0x80000) / 0x1000) (a % 0x1000)
  else if a < 0x100000 then 0
  else if a < 0x140000 then s.ctlWord ((a - 0x100000) / 0x10000) (a % 0x10000)
  else if a < 0x140E00 then (s.mon (MonId.key (.pkg ((a - 0x140000) / 0x200)))).at_ (a % 0x200)
  else if a < 0x150000 then 0
  else if a < 0x151000 then s.secWord (a - 0x150000)
  else 0

/-- 8 bytes at any offset. -/
def State.mgmtBytes (s : State) (a : Nat) : List Byte :=
  let lo := a / 8 * 8
  ((leBytes 8 (s.mgmtWord lo).toNat ++ leBytes 8 (s.mgmtWord (lo + 8)).toNat).drop (a - lo)).take 8

/-- A management-space read has returned a record of a vertical-bus log (R243). -/
def State.markRead (s : State) (a : Nat) : State :=
  let o := a % 0x1000
  if 0x80000 ≤ a && a < 0xB0000 && 0x100 ≤ o && o < 0x180 then
    let c := (a - 0x80000) / 0x1000
    let k := s.cluster c
    let j := (o - 0x100) / 8
    if k.vbread.contains j then s else s.setCluster c { k with vbread := k.vbread ++ [j] }
  else s

/-! Writing.  A write brings a value and the bits that it covers. -/

def mergeWord (old v m : Word) : Word := (old &&& ~~~m) ||| (v &&& m)
def mergeNat (old : Nat) (v m : Word) : Nat := (mergeWord (BitVec.ofNat 64 old) v m).toNat

def State.mmbPut (s : State) (a : Nat) (v m : Word) : State :=
  let x := s.mmb
  let ring (old : Word) : Word := mergeWord old v m &&& 0x000F_FFFF_FFFF_F00F
  if a < 0x800 then
    if s.launches.any fun l => l.st ≠ 0 && l.asid == a / 8 then s
    else { s with mmb := { x with asids := SMap.put 0 x.asids (a / 8) (mergeWord (x.asid (a / 8)) v m &&& 0x000F_FFFF_FFFF_F001) } }
  else match a with
    | 0x800 => { s with mmb := { x with upd := ring x.upd } }
    | 0x808 => { s with mmb := { x with uqTail := mergeNat x.uqTail v m % 2 ^ 32 } }.updateLater
    | 0x818 => { s with mmb := { x with fault := ring x.fault } }.scheduleOnce s.clock prioAfter .faultRecord
    | 0x828 => { s with mmb := { x with frTail := mergeNat x.frTail v m % 2 ^ 32 } }.scheduleOnce s.clock prioAfter .faultRecord
    | 0x830 => s.resolveFault (bitsOf (v &&& m).toNat 0 32) ((v &&& m).getLsbD 32)
    | 0x838 => { s with mmb := { x with mig := ring x.mig } }
    | 0x848 => { s with mmb := { x with mlTail := mergeNat x.mlTail v m % 2 ^ 32 } }
    | 0x850 => { s with mmb := { x with cfg := mergeWord x.cfg v m &&& 0xFF01 } }
    | _ => s

/-- A write of a monitor's CFG (R353): the fields, then CAP, then CLR. -/
def State.monPut (s : State) (k a : Nat) (v m : Word) : State :=
  if a ≠ 0 then s
  else
    let x := s.mon k
    let x : Monitor := { x with cfg := mergeWord x.cfg v m &&& 0x133F }
    let x := if (v &&& m).getLsbD 14 then x.capture else x
    s.setMon k (if (v &&& m).getLsbD 13 then x.clear else x)

def State.clusterPut (s : State) (c a : Nat) (v m : Word) : State :=
  let k := s.cluster c
  if a = 0 then
    let w := mergeNat (k.rlim + k.rwin * 2 ^ 4) v m
    s.setCluster c { k with rlim := bitsOf w 0 4, rwin := bitsOf w 4 28 }
  else if a < 0x48 then
    let p := corePair (clusterCore c ((a - 8) / 8))
    let x := s.pair p
    s.setPair p { x with discard := (BitVec.ofNat 64 x.discard &&& ~~~(v &&& m)).toNat }
  else if a = 0xC8 then s.setCluster c { k with vblost := (BitVec.ofNat 64 k.vblost &&& ~~~((v &&& m) >>> 4)).toNat }
  else if 0x800 ≤ a then s.monPut (MonId.key (.cluster c (2 + (a - 0x800) / 0x200))) (a % 0x200) v m
  else s

/-- A write to controller k's block, by the host or by a hart (R346). -/
def State.ctlPut (s : State) (k a : Nat) (v m : Word) (hart : Bool) : State :=
  let c := s.ctl k
  if 0x1000 ≤ a && a < 0x5000 then
    if hart || c.st ≠ 1 then s
    else
      let o := 16384 * c.page + (a - 0x1000)
      let bytes := (leBytes 8 v.toNat).zipIdx.filter fun b => m.getLsbD (8 * b.2)
      s.setCtl k { c with staged := SMap.putAll 0 c.staged (bytes.map fun b => (o + b.2, b.1)),
                            stagedLen := bytes.foldl (fun (n : Nat) (b : Byte × Nat) => Nat.max n (o + b.2 + 1)) c.stagedLen }
  else if a = 0x018 then if hart then s.heartbeat k (mergeWord c.beat v m) else s
  else if hart then s
  else match a with
    | 0x008 =>
      match bitsOf (v &&& m).toNat 0 3 with
      | 1 => s.cmdStage k
      | 2 => s.cmdCommit k
      | 3 => s.cmdAbort k
      | _ => s
    | 0x010 => s.setCtl k { c with wdog := mergeNat c.wdog v m % 2 ^ 32 }
    | 0x030 => s.setCtl k { c with page := mergeNat c.page v m % 2 ^ 7 }
    | _ => s

/-- A write of the host to the security block: the report's DONE answers the present NONCE only. -/
def State.secPut (s : State) (a : Nat) (v m : Word) : State :=
  let x := s.sec
  if a < 0x20 then
    let n := mergeWord (SMap.get 0 x.nonce (a / 8)) v m
    { s with sec := { x with nonce := SMap.put 0 x.nonce (a / 8) n, done := x.done && n == SMap.get 0 x.nonce (a / 8) } }
  else match a with
    | 0x020 => { s with sec := { x with rptAddr := mergeNat x.rptAddr v m % 2 ^ 52 } }
    | 0x028 => if (v &&& m).getLsbD 0 then s.requestReport else s
    | 0x040 => { s with sec := { x with alarmCfg := mergeNat x.alarmCfg v m % 2 ^ 6 } }
    | _ => s

/-- A write at an aligned offset of the management space (R343). -/
def State.mgmtPut (s : State) (a : Nat) (v m : Word) (hart : Bool) : State :=
  if m = 0 then s
  else if a = 0xC000 then { s with paramBase := mergeNat s.paramBase v m }
  else if 0x40000 ≤ a && a < 0x50000 then s.mmbPut (a - 0x40000) v m
  else if 0x80000 ≤ a && a < 0xB0000 then s.clusterPut ((a - 0x80000) / 0x1000) (a % 0x1000) v m
  else if 0x100000 ≤ a && a < 0x140000 then s.ctlPut ((a - 0x100000) / 0x10000) (a % 0x10000) v m hart
  else if 0x140000 ≤ a && a < 0x140E00 then s.monPut (MonId.key (.pkg ((a - 0x140000) / 0x200))) (a % 0x200) v m
  else if 0x150000 ≤ a && a < 0x151000 then (if hart then s else s.secPut (a - 0x150000) v m)
  else s

/-- A write of 8 bytes at any offset. -/
def State.mgmtStore (s : State) (a : Nat) (v : Word) (hart : Bool) : State :=
  let lo := a / 8 * 8
  let k := 8 * (a - lo)
  let s := s.mgmtPut lo (v <<< k) (BitVec.allOnes 64 <<< k) hart
  if k = 0 then s else s.mgmtPut (lo + 8) (v >>> (64 - k)) (BitVec.allOnes 64 >>> (64 - k)) hart

/-! REGISTER_WRITE: registers of the management space, written by a controller, of Vesper's own space, and what the physical world does to memory and
links -/

/-- An aligned word of an address group's entry (R375). -/
def AddrGroup.put (g : AddrGroup) (off : Nat) (v : Word) : AddrGroup :=
  if off = 0 then { g with members := v }
  else if off = 8 then { g with valid := v.getLsbD 0 }
  else if off < 16 || off % 8 ≠ 0 then g
  else
    let n := (off - 16) / 8
    { g with out := SMap.put 0 g.out n (bitsOf v.toNat 0 32), stage := SMap.put 0 g.stage n (bitsOf v.toNat 32 32) }

/-- Vesper assigns a partner, or takes it away (R389, R390): a package of the pod and never this one; INST rises at each assignment, and a shadow ring
stands.  A partner that finds records in the journal receives them first (R399). -/
def State.assignPartner (s : State) (v : Word) : Option State :=
  let q := bitsOf v.toNat 0 6
  if !v.getLsbD 6 then some (s.setJrn { s.jrn with partner := q, valid := false })
  else if q = s.fab.pkg then none
  else
    let s := s.withShadow
    let j := s.jrn
    if j.wcur ≠ 0 && !(j.valid && !j.lostPartner && j.partner = q) then some (s.copyJournal q)
    else some (s.partnerSet q)

/-- A value for a register (R343, R368, R375, R387, R389). -/
def State.putReg (s : State) (r : MgmtReg) (v : Word) : Option State :=
  let win (n w : Nat) (f : Window → Window) : Option State :=
    if 768 ≤ n || w = 0 || 255 ≤ w then none
    else some (s.modCore n fun c => { c with win := SMap.put .init c.win w (f (c.window w)) })
  match r with
  | .mgmt off => if mgmtExists off then some (s.mgmtStore off v true) else none
  | .mgmtRead off => if mgmtExists off then some ((s.markRead off).markRead (off + 7)) else none
  | .winBase n w => win n w fun x => { x with base := v &&& ~~~0x3F }
  | .winPeer n w => win n w fun x => { x with peer := v &&& 0x1FFF }
  | .winAllow n w => win n w fun x => { x with allow := v &&& 0x1FF }
  | .livePeers =>
    let gone := (List.range 64).filter fun p => s.fab.livePeers.getLsbD p && !v.getLsbD p && p != s.fab.pkg
    let s := gone.foldl (fun (s : State) (p : Nat) => s.peerLeft p) s
    some { s with fab := { s.fab with livePeers := v ||| BitVec.ofNat 64 (2 ^ s.fab.pkg) } }
  | .podGroup g => if 256 ≤ g then none else some { s with fab := { s.fab with podMap := SMap.put 0 s.fab.podMap g (bitsOf v.toNat 0 8) } }
  | .addrGroup a off =>
    if 64 ≤ a || 528 ≤ off then none
    else some { s with fab := { s.fab with groups := SMap.put .init s.fab.groups a ((s.fab.group a).put off v) } }
  | .path i => if 4096 ≤ i then none else some { s with fab := { s.fab with path := SMap.put 0 s.fab.path i v } }
  | .partnerPkg => s.assignPartner v
  | .podTime n => if 24 ≤ n then none else some { s with fab := { s.fab with pslot := v.toNat, slotAt := s.clock, phase := n * 720720, lanes := 0 } }
  | .lineReport =>
    let r := s.stim.report
    let x := (r.sender, r.port, r.line)
    if 64 ≤ r.sender || 12 ≤ r.port || 72 ≤ r.line then none
    else some { s with fab := { s.fab with reports := (s.fab.reports.filter (· != x)) ++ (if r.relocked then [] else [x]) } }
  | .hostLink => some { s with link := { s.link with down := v.getLsbD 0 } }
  | .thermalLimits k =>
    if 2 ≤ k then none else some (s.setStack k { s.stackAt k with limit := bitsOf v.toNat 0 16, crit := bitsOf v.toNat 16 16, amps := bitsOf v.toNat 32 32 })
  | .stackCurrent k => if 2 ≤ k then none else some (s.currentAt k v.toNat)
  | .home => some { s with fab := { s.fab with home := bitsOf v.toNat 0 6 } }
  | .hostMem a => if isHost a && isHost (a + 7) then some (s.addMemNow ((leBytes 8 v.toNat).zipIdx.map fun b => (a + b.2, b.1))) else none
  | .bitFlip w b =>
    if 2 ^ 29 ≤ w || 72 ≤ b then none else some { s with flips := SMap.put 0 s.flips w (SMap.get 0 s.flips w ^^^ 2 ^ b) }
  | .parityError n g wr bad => if 768 ≤ n || 34 ≤ g then none else some { s with parity := s.parity ++ [⟨n, g, wr, bad⟩] }
  | .hbmError st a bad =>
    if !isFar a || hbmStackOf a ≠ st then none
    else some (if bad then { s with badWords := s.badWords ++ [a / 8 * 8] } else s.hbmLog a false)

/-- REGISTER_WRITE (R343): a register with no behaviour of its own takes a value. -/
def execRegisterWrite (s : State) : Host.Outcome State Fault Refusal :=
  match s.putReg s.stim.reg s.stim.value with
  | some t => .next t
  | none => .fault .noSuchUnit

end Sys2Proof.Machine
end

