-- ==== Sys2Proof/Machine/Scalar.lean ====
section
/-! DEFINITION. The S slot: scalar integer, floating-point and memory instructions (03, R89-R103). -/

namespace Sys2Proof.Machine

/-! Shared forms -/

/-- An integer instruction: under its predicate, sd gets f sa sb after lat cycles (R89, R91). -/
def aluOp (o : SOps) (lat : Nat) (f : Word → Word → Word) : Op := fun pre cur =>
  if pre.cur.holds o.p then .ok (cur.writeS o.sd (f (pre.cur.sreg o.sa) (pre.srcInt o.src)) lat) else .ok cur

/-- A compare: the predicate named by sd bits 22:19 (R93). -/
def cmpOp (o : SOps) (f : Word → Word → Bool) : Op := fun pre cur =>
  if pre.cur.holds o.p then
    .ok (cur.writeP (o.sd.extractLsb' 0 4) (f (pre.cur.sreg o.sa) (pre.srcInt o.src)) 1)
  else .ok cur

/-- The conditions of CMP and CMPU (R93), from equal and less. -/
def cmpCond (code : BitVec 3) (eq lt : Bool) : Bool :=
  match code.toNat with
  | 0 => eq
  | 1 => !eq
  | 2 => lt
  | 3 => !lt
  | 4 => lt || eq
  | _ => !(lt || eq)

/-- Division of R92: quotient toward zero, remainder with the dividend's sign. -/
def divSigned (a b : Word) : Word := if b = 0 then BitVec.allOnes 64 else BitVec.ofInt 64 (a.toInt.tdiv b.toInt)
def remSigned (a b : Word) : Word := if b = 0 then a else BitVec.ofInt 64 (a.toInt.tmod b.toInt)
def divUnsigned (a b : Word) : Word := if b = 0 then BitVec.allOnes 64 else BitVec.ofNat 64 (a.toNat / b.toNat)
def remUnsigned (a b : Word) : Word := if b = 0 then a else BitVec.ofNat 64 (a.toNat % b.toNat)

/-- Leading zeros of R95: 64 for 0. -/
def clzWord (a : Word) : Word := BitVec.ofNat 64 (64 - bitLen a.toNat)
def popWord (a : Word) : Word := BitVec.ofNat 64 ((List.range 64).countP fun i => a.getLsbD i)

/-- Bit fields of R95: sb gives pos in bits 5:0 and width - 1 in bits 13:8. -/
def bfPos (b : Word) : Nat := bitsOf b.toNat 0 6
def bfWidth (b : Word) : Nat := bitsOf b.toNat 8 6 + 1

def bfxWord (sgn : Bool) (a b : Word) : Word :=
  let pos := bfPos b
  let w := bfWidth b
  let f := a.toNat / 2 ^ pos % 2 ^ w
  let top := Nat.min w (64 - pos)
  if sgn then BitVec.ofInt 64 (signed top f) else BitVec.ofNat 64 f

def bfiWord (old a b : Word) : Word :=
  let m := BitVec.ofNat 64 ((2 ^ bfWidth b - 1) * 2 ^ bfPos b)
  (old &&& ~~~m) ||| ((a <<< bfPos b) &&& m)

/-- Extension widths of SEXT and ZEXT (R95). -/
def extWidth (code : BitVec 3) : Nat := if code = 0 then 8 else if code = 1 then 16 else 32

/-- Halves of a P2 pair (R96): the low word is operand 0. -/
def loHalf (w : Word) : Nat := bitsOf w.toNat 0 32
def hiHalf (w : Word) : Nat := bitsOf w.toNat 32 32

/-- An FP instruction (R96): f on each half, codes in, code and flags out; the flags are raised with the result. -/
def fpOp (o : SOps) (lat : Nat) (f : Nat → Nat → Nat → Nat × Flags) : Op := fun pre cur =>
  if pre.cur.holds o.p then
    let a := pre.cur.sreg o.sa
    let b := pre.srcFp o.src
    let d := pre.cur.sreg o.sd
    let lo := f (loHalf a) (loHalf b) (loHalf d)
    let hi := if o.mod.getLsbD 0 then f (hiHalf a) (hiHalf b) (hiHalf d) else (0, 0)
    .ok (cur.writeS o.sd (BitVec.ofNat 64 (lo.1 + hi.1 * 2 ^ 32)) lat (lo.2 ||| hi.2))
  else .ok cur

/-- The rounding mode of modifier bits 2:1 (R96). -/
def sopRnd (o : SOps) : Rnd := rndOf (o.mod.extractLsb' 1 2).toNat

/-- FCMP of one half (R98): the condition before inversion, and its flag. -/
def fcmpHalf (cc : Nat) (a b : Nat) : Bool × Flags :=
  let r := (fp32.decode a).rel (fp32.decode b)
  match cc with
  | 0 => (r.eq, if r.sig then flNV else 0)
  | 1 => (r.lt, if r.un then flNV else 0)
  | 2 => (r.lt || r.eq, if r.un then flNV else 0)
  | _ => (r.un, if r.sig then flNV else 0)

/-- FSGN of one half (R99). -/
def fsgnHalf (kind : Nat) (a b : Nat) : Nat :=
  let sa := bitsOf a 31 1
  let sb := bitsOf b 31 1
  let sg := match kind with
    | 0 => sb
    | 1 => 1 - sb
    | _ => (sa + sb) % 2
  a % 2 ^ 31 + sg * 2 ^ 31

/-- FCVT (R100): the 64-bit result and its flags. -/
def fcvtWord (kind : Nat) (mode : Rnd) (a : Word) : Word × Flags :=
  let v := fp32.decode (loHalf a)
  let toInt (lo hi : Int) : Word × Flags :=
    let (i, fl) := intOfVal mode lo hi v
    (BitVec.ofInt 64 i, fl)
  let fromInt (i : Int) : Word × Flags :=
    let (c, fl) := fp32.ofVal mode (Val.ofInt i)
    (BitVec.ofNat 64 c, fl)
  let narrow (f : FloatFmt) : Word × Flags :=
    let (c, fl) := f.ofVal mode v
    (BitVec.ofNat 64 c, fl)
  let widen (f : FloatFmt) : Word × Flags :=
    let (c, fl) := fp32.ofVal mode (f.decode (bitsOf a.toNat 0 16))
    (BitVec.ofNat 64 c, fl)
  match kind with
  | 0 => toInt (-(2 ^ 31)) (2 ^ 31 - 1)
  | 1 => toInt 0 (2 ^ 32 - 1)
  | 2 => toInt (-(2 ^ 63)) (2 ^ 63 - 1)
  | 3 => toInt 0 (2 ^ 64 - 1)
  | 4 => fromInt (signed 32 (loHalf a))
  | 5 => fromInt (loHalf a)
  | 6 => fromInt a.toInt
  | 7 => fromInt a.toNat
  | 8 => narrow bf16
  | 9 => widen bf16
  | 10 => narrow fp16
  | _ => widen fp16

/-! Scalar memory (R101-R103) -/

/-- Width in bytes of the size code (R101). -/
def sopSize (o : SOps) : Nat := 2 ^ (o.mod.extractLsb' 0 2).toNat

/-- The effective address: sa plus the sign-extended offset, aligned down (R101). -/
def scalarEa (s : State) (o : SOps) : Nat := alignDown (s.cur.sreg o.sa + s.srcInt o.src).toNat (sopSize o)

/-- The value a load of n bytes gives: zero- or sign-extended (R101). -/
def loadWord (sgn : Bool) (l : List Byte) : Word :=
  if sgn then BitVec.ofInt 64 (signed (8 * l.length) (leNat l)) else BitVec.ofNat 64 (leNat l)

/-- An access that is out of range as a whole: dropped and recorded, or 0x07 in strict mode (R143). -/
def allOor (pre cur : State) (ea : Nat) (write : Bool) : Except Trap State :=
  if pre.strict pre.ix.core then .error { trapAt pre 0x07 0 with oor := some (oorWord ea write pre.ix.slot pre.cur.tcyc) }
  else .ok (cur.recordOor write (some ea))

/-- The latency of an own-slice load (R102).  DESIGN CHOICE (log 46): a load that reaches no slice (bits 63:40 of its address nonzero, a window of 1 to 254, a
core index of 192 to 255) writes its 0 at this latency; one of window 255 beyond its 64 KiB writes its 0 at issue + 48, as one inside does (R103). -/
def ownLat (s : State) : Nat := s.rowLat s.ix.core s.ix.core

/-- SLD and SLDS (R101-R103). -/
def loadOp (o : SOps) (sgn : Bool) : Op := fun pre cur =>
  if !pre.cur.holds o.p then .ok cur
  else
    let ea := scalarEa pre o
    let n := (sopSize o)
    if 2 ^ 40 ≤ ea then (allOor pre cur ea false).map fun t => t.writeS o.sd 0 (ownLat pre)
    else if windowOf ea = 255 then
      if ea % 2 ^ 32 < 2 ^ 16 then .ok (cur.windowAccess (ea % 2 ^ 16) n false 0 o.sd sgn)
      else (allOor pre cur ea false).map fun t => t.writeS o.sd 0 48
    else if windowOf ea ≠ 0 then (allOor pre cur ea false).map fun t => t.writeS o.sd 0 (ownLat pre)
    else
      let r : Req := ⟨ea, n, false, none⟩
      match pre.checkReq r (List.range n) with
      | .error t => .error t
      | .ok oor =>
        let (op, s) := cur.beginAccess r oor 0 ((pre.liveBytes r (List.range n)).map (·.2))
        .ok (s.writeS o.sd (loadWord sgn (pre.readReq r)) (pre.rowLat pre.ix.core (reqTarget pre.ix.core r)) 0 op)

/-- The stack check (R87). -/
def stackFault (s : State) (ea : Nat) : Bool :=
  let lim := bitsOf s.cur.slim.toNat 0 22
  lim ≠ 0 && decide (ea < 2 ^ 32) && coreOfAddr ea == some s.ix.core && decide (ea % 2 ^ 22 < lim)

/-- What a core's store cannot write in the coherent window (R303, R341): offsets 0x200-0x3FFF, and a LAUNCH register with anything but an
aligned 8-byte write. -/
def windowRefuses (off n : Nat) : Bool := decide (off < 0x4000) && (decide (0x200 ≤ off) || n ≠ 8)

/-- A store to the launch area that presents no launch word: dropped and recorded, or 0x07 in strict mode; LASTCODE tells of it in either case (R303). -/
def badLaunchOp (pre cur : State) (ea : Nat) : Except Trap State :=
  match allOor pre cur ea true with
  | .ok t => .ok (t.badLaunch (ea % 2 ^ 16))
  | .error t => .error { t with launch := some (ea % 2 ^ 16) }

/-- SST (R101-R103). -/
def storeOp (o : SOps) : Op := fun pre cur =>
  if !pre.cur.holds o.p then .ok cur
  else
    let ea := scalarEa pre o
    let n := (sopSize o)
    let v := (pre.cur.sreg o.sd).toNat
    if 2 ^ 40 ≤ ea then allOor pre cur ea true
    else if windowOf ea = 255 then
      if 2 ^ 16 ≤ ea % 2 ^ 32 then allOor pre cur ea true
      else if windowRefuses (ea % 2 ^ 16) n then badLaunchOp pre cur ea
      else .ok (cur.windowAccess (ea % 2 ^ 16) n true (v % 2 ^ (8 * n)) 0 false)
    else if windowOf ea ≠ 0 then cur.postWrite pre ea n [(0, leBytes n v)]
    else if stackFault pre ea then .error (trapAt pre 0x04 0)
    else
      let r : Req := ⟨ea, n, true, none⟩
      match pre.checkReq r (List.range n) with
      | .error t => .error t
      | .ok oor => .ok (cur.storeReq pre r (List.range n) oor 0 (leBytes n v)).2

/-! The instructions -/

/-- ADD (R91). -/
def opAdd (o : SOps) : Op := aluOp o 1 fun a b => a + b

def execAdd (o : SOps) (s : State) : Host.Outcome State Fault Refusal := runOp (opAdd o) s

/-- SUB (R91). -/
def opSub (o : SOps) : Op := aluOp o 1 fun a b => a - b

def execSub (o : SOps) (s : State) : Host.Outcome State Fault Refusal := runOp (opSub o) s

/-- MUL (R91). -/
def opMul (o : SOps) : Op := aluOp o 3 fun a b => a * b

def execMul (o : SOps) (s : State) : Host.Outcome State Fault Refusal := runOp (opMul o) s

/-- MULH (R91). -/
def opMulh (o : SOps) : Op := aluOp o 3 fun a b => BitVec.ofInt 64 (a.toInt * b.toInt / 2 ^ 64)

def execMulh (o : SOps) (s : State) : Host.Outcome State Fault Refusal := runOp (opMulh o) s

/-- MULHU (R91). -/
def opMulhu (o : SOps) : Op := aluOp o 3 fun a b => BitVec.ofNat 64 (a.toNat * b.toNat / 2 ^ 64)

def execMulhu (o : SOps) (s : State) : Host.Outcome State Fault Refusal := runOp (opMulhu o) s

/-- DIV (R92). -/
def opDiv (o : SOps) : Op := aluOp o 24 divSigned

def execDiv (o : SOps) (s : State) : Host.Outcome State Fault Refusal := runOp (opDiv o) s

/-- DIVU (R92). -/
def opDivu (o : SOps) : Op := aluOp o 24 divUnsigned

def execDivu (o : SOps) (s : State) : Host.Outcome State Fault Refusal := runOp (opDivu o) s

/-- REM (R92). -/
def opRem (o : SOps) : Op := aluOp o 24 remSigned

def execRem (o : SOps) (s : State) : Host.Outcome State Fault Refusal := runOp (opRem o) s

/-- REMU (R92). -/
def opRemu (o : SOps) : Op := aluOp o 24 remUnsigned

def execRemu (o : SOps) (s : State) : Host.Outcome State Fault Refusal := runOp (opRemu o) s

/-- AND (R91). -/
def opAnd (o : SOps) : Op := aluOp o 1 fun a b => a &&& b

def execAnd (o : SOps) (s : State) : Host.Outcome State Fault Refusal := runOp (opAnd o) s

/-- OR (R91). -/
def opOr (o : SOps) : Op := aluOp o 1 fun a b => a ||| b

def execOr (o : SOps) (s : State) : Host.Outcome State Fault Refusal := runOp (opOr o) s

/-- XOR (R91). -/
def opXor (o : SOps) : Op := aluOp o 1 fun a b => a ^^^ b

def execXor (o : SOps) (s : State) : Host.Outcome State Fault Refusal := runOp (opXor o) s

/-- ANDN (R91). -/
def opAndn (o : SOps) : Op := aluOp o 1 fun a b => a &&& ~~~b

def execAndn (o : SOps) (s : State) : Host.Outcome State Fault Refusal := runOp (opAndn o) s

/-- SHL (R91). -/
def opShl (o : SOps) : Op := aluOp o 1 fun a b => a <<< (b.toNat % 64)

def execShl (o : SOps) (s : State) : Host.Outcome State Fault Refusal := runOp (opShl o) s

/-- SHR (R91). -/
def opShr (o : SOps) : Op := aluOp o 1 fun a b => a >>> (b.toNat % 64)

def execShr (o : SOps) (s : State) : Host.Outcome State Fault Refusal := runOp (opShr o) s

/-- SAR (R91). -/
def opSar (o : SOps) : Op := aluOp o 1 fun a b => a.sshiftRight (b.toNat % 64)

def execSar (o : SOps) (s : State) : Host.Outcome State Fault Refusal := runOp (opSar o) s

/-- ROT (R91). -/
def opRot (o : SOps) : Op := aluOp o 1 fun a b => a.rotateLeft (b.toNat % 64)

def execRot (o : SOps) (s : State) : Host.Outcome State Fault Refusal := runOp (opRot o) s

/-- MIN (R91). -/
def opMin (o : SOps) : Op := aluOp o 1 fun a b => if b.slt a then b else a

def execMin (o : SOps) (s : State) : Host.Outcome State Fault Refusal := runOp (opMin o) s

/-- MAX (R91). -/
def opMax (o : SOps) : Op := aluOp o 1 fun a b => if a.slt b then b else a

def execMax (o : SOps) (s : State) : Host.Outcome State Fault Refusal := runOp (opMax o) s

/-- MINU (R91). -/
def opMinu (o : SOps) : Op := aluOp o 1 fun a b => if b.ult a then b else a

def execMinu (o : SOps) (s : State) : Host.Outcome State Fault Refusal := runOp (opMinu o) s

/-- MAXU (R91). -/
def opMaxu (o : SOps) : Op := aluOp o 1 fun a b => if a.ult b then b else a

def execMaxu (o : SOps) (s : State) : Host.Outcome State Fault Refusal := runOp (opMaxu o) s

/-- CMP (R93). -/
def opCmp (o : SOps) : Op := cmpOp o fun a b => cmpCond o.mod (a == b) (a.slt b)

def execCmp (o : SOps) (s : State) : Host.Outcome State Fault Refusal := runOp (opCmp o) s

/-- CMPU (R93). -/
def opCmpu (o : SOps) : Op := cmpOp o fun a b => cmpCond o.mod (a == b) (a.ult b)

def execCmpu (o : SOps) (s : State) : Host.Outcome State Fault Refusal := runOp (opCmpu o) s

/-- SEL (R94). -/
def opSel (o : SOps) : Op := fun pre cur =>
  if pre.cur.holds o.p then
    let v := if pre.cur.preg (0#1 ++ o.mod) then pre.cur.sreg o.sa else pre.srcInt o.src
    .ok (cur.writeS o.sd v 1)
  else .ok cur

def execSel (o : SOps) (s : State) : Host.Outcome State Fault Refusal := runOp (opSel o) s

/-- MOV (R94). -/
def opMov (o : SOps) : Op := aluOp o 1 fun _ b => b

def execMov (o : SOps) (s : State) : Host.Outcome State Fault Refusal := runOp (opMov o) s

/-- LIT (R94). -/
def opLit (o : SOps) : Op := fun pre cur =>
  if pre.cur.holds o.p then
    let i := o.src.field.toNat
    let v : Word := match o.mod.toNat with
      | 0 => (BitVec.ofNat 32 (pre.lit i)).signExtend 64
      | 1 => BitVec.ofNat 64 (pre.lit i)
      | 2 => BitVec.ofNat 64 (pre.lit64 i)
      | _ => BitVec.ofNat 64 (pre.lit i * 2 ^ 32 + loHalf (pre.cur.sreg o.sd))
    .ok (cur.writeS o.sd v 1)
  else .ok cur

def execLit (o : SOps) (s : State) : Host.Outcome State Fault Refusal := runOp (opLit o) s

/-- CLZ (R95). -/
def opClz (o : SOps) : Op := aluOp o 1 fun a _ => clzWord a

def execClz (o : SOps) (s : State) : Host.Outcome State Fault Refusal := runOp (opClz o) s

/-- POPC (R95). -/
def opPopc (o : SOps) : Op := aluOp o 1 fun a _ => popWord a

def execPopc (o : SOps) (s : State) : Host.Outcome State Fault Refusal := runOp (opPopc o) s

/-- BFX (R95). -/
def opBfx (o : SOps) : Op := aluOp o 1 fun a b => bfxWord (o.mod.getLsbD 0) a b

def execBfx (o : SOps) (s : State) : Host.Outcome State Fault Refusal := runOp (opBfx o) s

/-- BFI (R95). -/
def opBfi (o : SOps) : Op := fun pre cur =>
  if pre.cur.holds o.p then
    .ok (cur.writeS o.sd (bfiWord (pre.cur.sreg o.sd) (pre.cur.sreg o.sa) (pre.srcInt o.src)) 1)
  else .ok cur

def execBfi (o : SOps) (s : State) : Host.Outcome State Fault Refusal := runOp (opBfi o) s

/-- SEXT (R95). -/
def opSext (o : SOps) : Op := aluOp o 1 fun a _ => BitVec.ofInt 64 (signed (extWidth o.mod) a.toNat)

def execSext (o : SOps) (s : State) : Host.Outcome State Fault Refusal := runOp (opSext o) s

/-- ZEXT (R95). -/
def opZext (o : SOps) : Op := aluOp o 1 fun a _ => BitVec.ofNat 64 (a.toNat % 2 ^ extWidth o.mod)

def execZext (o : SOps) (s : State) : Host.Outcome State Fault Refusal := runOp (opZext o) s

/-- FADD (R97). -/
def opFadd (o : SOps) : Op := fpOp o 4 fun a b _ => fp32.add (sopRnd o) a b

def execFadd (o : SOps) (s : State) : Host.Outcome State Fault Refusal := runOp (opFadd o) s

/-- FSUB (R97). -/
def opFsub (o : SOps) : Op := fpOp o 4 fun a b _ => fp32.sub (sopRnd o) a b

def execFsub (o : SOps) (s : State) : Host.Outcome State Fault Refusal := runOp (opFsub o) s

/-- FMUL (R97). -/
def opFmul (o : SOps) : Op := fpOp o 4 fun a b _ => fp32.mul (sopRnd o) a b

def execFmul (o : SOps) (s : State) : Host.Outcome State Fault Refusal := runOp (opFmul o) s

/-- FFMA (R97). -/
def opFfma (o : SOps) : Op := fpOp o 4 fun a b d => fp32.fma (sopRnd o) a b d

def execFfma (o : SOps) (s : State) : Host.Outcome State Fault Refusal := runOp (opFfma o) s

/-- FMIN (R97). -/
def opFmin (o : SOps) : Op := fpOp o 4 fun a b _ => fp32.minmax false false a b

def execFmin (o : SOps) (s : State) : Host.Outcome State Fault Refusal := runOp (opFmin o) s

/-- FMAX (R97). -/
def opFmax (o : SOps) : Op := fpOp o 4 fun a b _ => fp32.minmax true false a b

def execFmax (o : SOps) (s : State) : Host.Outcome State Fault Refusal := runOp (opFmax o) s

/-- FMINP (R97). -/
def opFminp (o : SOps) : Op := fpOp o 4 fun a b _ => fp32.minmax false true a b

def execFminp (o : SOps) (s : State) : Host.Outcome State Fault Refusal := runOp (opFminp o) s

/-- FMAXP (R97). -/
def opFmaxp (o : SOps) : Op := fpOp o 4 fun a b _ => fp32.minmax true true a b

def execFmaxp (o : SOps) (s : State) : Host.Outcome State Fault Refusal := runOp (opFmaxp o) s

/-- FCMP (R98). -/
def opFcmp (o : SOps) : Op := fun pre cur =>
  if pre.cur.holds o.p then
    let a := pre.cur.sreg o.sa
    let b := pre.srcFp o.src
    let cc := (o.mod.extractLsb' 1 2).toNat
    let (x, f) := fcmpHalf cc (loHalf a) (loHalf b)
    let (y, g) := if o.mod.getLsbD 0 then fcmpHalf cc (hiHalf a) (hiHalf b) else (true, 0)
    let inv := o.sd.getLsbD 4
    let r := if o.mod.getLsbD 0 then (x != inv) && (y != inv) else x != inv
    .ok (cur.writeP (o.sd.extractLsb' 0 4) r 4 (f ||| g))
  else .ok cur

def execFcmp (o : SOps) (s : State) : Host.Outcome State Fault Refusal := runOp (opFcmp o) s

/-- FSGN (R99). -/
def opFsgn (o : SOps) : Op := fpOp o 4 fun a b _ => (fsgnHalf (o.mod.extractLsb' 1 2).toNat a b, 0)

def execFsgn (o : SOps) (s : State) : Host.Outcome State Fault Refusal := runOp (opFsgn o) s

/-- FCVT (R100). -/
def opFcvt (o : SOps) : Op := fun pre cur =>
  if pre.cur.holds o.p then
    let (v, f) := fcvtWord o.src.field.toNat (sopRnd o) (pre.cur.sreg o.sa)
    .ok (cur.writeS o.sd v 4 f)
  else .ok cur

def execFcvt (o : SOps) (s : State) : Host.Outcome State Fault Refusal := runOp (opFcvt o) s

/-- FDIV (R97). -/
def opFdiv (o : SOps) : Op := fpOp o 14 fun a b _ => fp32.div (sopRnd o) a b

def execFdiv (o : SOps) (s : State) : Host.Outcome State Fault Refusal := runOp (opFdiv o) s

/-- FSQRT (R97). -/
def opFsqrt (o : SOps) : Op := fpOp o 14 fun a _ _ => fp32.sqrt (sopRnd o) a

def execFsqrt (o : SOps) (s : State) : Host.Outcome State Fault Refusal := runOp (opFsqrt o) s

/-- SLD (R101). -/
def opSld (o : SOps) : Op := loadOp o false

def execSld (o : SOps) (s : State) : Host.Outcome State Fault Refusal := runOp (opSld o) s

/-- SLDS (R101). -/
def opSlds (o : SOps) : Op := loadOp o true

def execSlds (o : SOps) (s : State) : Host.Outcome State Fault Refusal := runOp (opSlds o) s

/-- SST (R101). -/
def opSst (o : SOps) : Op := storeOp o

def execSst (o : SOps) (s : State) : Host.Outcome State Fault Refusal := runOp (opSst o) s

end Sys2Proof.Machine
end

