-- ==== Sys2Proof/Machine/Host.lean ====
section
/-! DEFINITION. The Niulo link (16, R337-R342, R351; 13, R298): messages of the host, their answers, SYS requests, and key exchange. -/

namespace Sys2Proof.Machine

/-! Hearing a message (R338-R342) -/

/-- The answer to a duplicate (R340): the recorded one, the data of a read from the messages held, with DUP beside the
PRIO0 that it carried. -/
def State.answerAgain (s : State) (n : Nat) : State :=
  let l := s.link
  let e := SMap.get .none l.received (n % 256)
  let dup := 2 ^ 40
  if e.seq = n && (e.typ ≠ 0 || e.outcome ≠ 0) then
    match l.sent.find? fun m => m.2.typ == 0x83 && m.2.arg == n && e.outcome == 0 && (e.typ == 2 || e.typ == 4 || e.typ == 6) with
    | some m => s.sendMsg 0x83 (2 + e.flags) n m.2.payload 0
    | none => s.sendMsg (if e.outcome = 0 then 0x81 else 0x82) (2 + e.flags) (n + e.outcome * 2 ^ 32 + dup) (leBytes 8 e.key) 0
  else s.sendMsg 0x82 2 (n + 0x10 * 2 ^ 32 + dup) (leBytes 8 ((l.lastRx + 1) % 2 ^ 32)) 0

/-- A message of type typ that the host presents: a failed tag or a missing key discards it (R342); the next number is processed, an earlier one answered
again, another one refused (R340); a malformed header, LEN among its fields (R338), is refused with
0x11 (R339). -/
def State.hear (s : State) (typ : Nat) (body : State → State) : State :=
  let m := s.stim.msg
  let n := m.seq.toNat
  let t := m.typ.toNat
  let l := s.link
  let next := (l.lastRx + 1) % 2 ^ 32
  if !m.tagOk || !l.keyed || (t ≠ typ && 1 ≤ t && t ≤ 10) then s
  else if n = next then
    let s := { s with link := { l with lastRx := n } }
    if t ≠ typ || 4 ≤ m.flags.toNat || 4096 < m.payload.length || m.len.toNat ≠ m.payload.length then s.answer n t 0x11 0 else body s
  else if counterDiff l.lastRx n < 2 ^ 31 then s.answerAgain n
  else s.sendMsg 0x82 0 (n + 0x10 * 2 ^ 32) (leBytes 8 next) 0

/-- Number, ARG and payload of the message being heard. -/
def State.msgSeq (s : State) : Nat := s.stim.msg.seq.toNat
def State.msgArg (s : State) : Nat := s.stim.msg.arg.toNat
def State.msgData (s : State) : List Byte := s.stim.msg.payload

/-- ACK, or NAK with a reason, without a KEY. -/
def State.reply (s : State) (typ outcome : Nat) (flags : Nat := 0) : State := s.answer s.msgSeq typ outcome 0 flags

/-- A read is answered by its data (R339). -/
def State.replyData (s : State) (typ : Nat) (data : List Byte) (flags : Nat := 0) : State :=
  let n := s.msgSeq
  let s := { s with link := { s.link with received := SMap.put .none s.link.received (n % 256) ⟨n, typ, 0, 0, flags⟩ } }
  s.sendMsg 0x83 flags n data 0

/-- FLAGS of the answer to an access of the launch area at a window offset: PRIO0 where it serves a queue of level 0 (R338, R303). -/
def State.queueFlag (s : State) (off : Nat) : Nat := if off < 0x600 && (s.queue (off % 0x200 / 8)).prio = 0 then 1 else 0

/-! The coherent window (R296, R303, R304, R341) -/

/-- A byte of QCFG (R304). -/
def State.putQcfg (s : State) (o : Nat) (b : Byte) : State :=
  let q := (o - 0x200) / 8
  let k := 8 * (o % 8)
  let x := s.queue q
  s.setQueue q { x with cfg := mergeWord x.cfg (BitVec.ofNat 64 b.toNat <<< k) (0xFF <<< k) &&& 0xFFFF_000F }

/-- A queue whose QCFG has been written: its level by the new fields, at Noon's next decision. -/
def State.queueSet (s : State) (q : Nat) : State :=
  let x := s.queue q
  ((s.setQueue q { x with level := s.agedLevel x }).ageNext q).decideSoon

/-- WWRITE (R339). -/
def State.hearWwrite (s : State) : State :=
  let off := s.msgArg
  let data := s.msgData
  let n := data.length
  if n ≠ 1 && n ≠ 2 && n ≠ 4 && n ≠ 8 then s.reply 1 0x11
  else if 2 ^ 16 < off + n then s.reply 1 0x13
  else if off < 0x200 then
    if off % 8 = 0 && n = 8 then s.schedule s.clock prioAfter (.launchWord (off / 8) (BitVec.ofNat 64 (leNat data)) (.host s.stim.msg.seq))
    else ((s.badLaunch off).badLaunch (off + n - 1)).reply 1 0x01 (s.queueFlag off)
  else if off + n ≤ 0x400 then
    let s := data.zipIdx.foldl (fun (s : State) (b : Byte × Nat) => s.putQcfg (off + b.2) b.1) s
    let s := s.queueSet ((off - 0x200) / 8)
    (if (off + n - 1) / 8 = off / 8 then s else s.queueSet ((off + n - 1 - 0x200) / 8)).reply 1 0 (s.queueFlag off)
  else if 0x4000 ≤ off then (s.addMemNow (data.zipIdx.map fun b => (windowBase + off + b.2, b.1))).reply 1 0
  else s.reply 1 0x13 (s.queueFlag off)

def execWwrite (s : State) : Host.Outcome State Fault Refusal := .next (s.hear 1 State.hearWwrite)

/-- WREAD (R339). -/
def State.hearWread (s : State) : State :=
  match s.msgData with
  | [n] => if 2 ^ 16 < s.msgArg + n.toNat then s.reply 2 0x13 else s.replyData 2 (s.windowRead s.msgArg n.toNat) (s.queueFlag s.msgArg)
  | _ => s.reply 2 0x11

def execWread (s : State) : Host.Outcome State Fault Refusal := .next (s.hear 2 State.hearWread)

/-! The management space (R343) -/

/-- Every byte of 8 at the offset lies in a block. -/
def mgmtSpan (a : Nat) : Bool := mgmtExists a && mgmtExists (a + 7)

/-- MGMTW (R339). -/
def State.hearMgmtw (s : State) : State :=
  if s.msgData.length ≠ 8 then s.reply 3 0x11
  else if !mgmtSpan s.msgArg then s.reply 3 0x13
  else (s.mgmtStore s.msgArg (BitVec.ofNat 64 (leNat s.msgData)) false).reply 3 0

def execMgmtw (s : State) : Host.Outcome State Fault Refusal := .next (s.hear 3 State.hearMgmtw)

/-- MGMTR (R339). -/
def State.hearMgmtr (s : State) : State :=
  let a := s.msgArg
  if !s.msgData.isEmpty then s.reply 4 0x11
  else if !mgmtSpan a then s.reply 4 0x13
  else ((s.markRead a).markRead (a + 7)).replyData 4 (s.mgmtBytes a)

def execMgmtr (s : State) : Host.Outcome State Fault Refusal := .next (s.hear 4 State.hearMgmtr)

/-! Device memory (R298, R339) -/

/-- n bytes at a physical address of the device (host memory is no part of it). -/
def State.devSpan (s : State) (a n : Nat) : Bool := (List.range n).all fun i => s.physExists (a + i) && !isHost (a + i)

/-- MEMW (R298): the bytes wait for INVAL. -/
def State.hearMemw (s : State) : State :=
  let a := s.msgArg
  let data := s.msgData
  if !s.devSpan a data.length then s.reply 5 0x13
  else
    let s := { s with link := { s.link with hostWrites := s.link.hostWrites ++ data.zipIdx.map fun (b : Byte × Nat) => (a + b.2, b.1) } }
    s.reply 5 0

def execMemw (s : State) : Host.Outcome State Fault Refusal := .next (s.hear 5 State.hearMemw)

/-- A byte as the host reads it: its own last write, else memory. -/
def State.hostByte (s : State) (a : Nat) : Byte :=
  match s.link.hostWrites.reverse.find? fun b => b.1 == a with
  | some b => b.2
  | none => memByte s.mem a

/-- MEMR (R339). -/
def State.hearMemr (s : State) : State :=
  let a := s.msgArg
  if s.msgData.length ≠ 2 || 4096 < leNat s.msgData then s.reply 6 0x11
  else if !s.devSpan a (leNat s.msgData) then s.reply 6 0x13
  else s.replyData 6 ((List.range (leNat s.msgData)).map fun i => s.hostByte (a + i))

def execMemr (s : State) : Host.Outcome State Fault Refusal := .next (s.hear 6 State.hearMemr)

/-- The host's writes so far become readable by the device. -/
def State.takeHostWrites (s : State) : State :=
  let w := s.link.hostWrites
  let s := s.addMemNow w
  { s with link := { s.link with hostWrites := [] } }

/-- INVAL (R298). -/
def State.hearInval (s : State) : State :=
  if s.msgData.length ≠ 16 then s.reply 7 0x11
  else
    let s := s.takeHostWrites
    { s with link := { s.link with invSeq := s.msgSeq } }.reply 7 0

def execInval (s : State) : Host.Outcome State Fault Refusal := .next (s.hear 7 State.hearInval)

/-! RESEND, SYSDONE, HACK -/

/-- RESEND (R340): the held messages from a number on are repeated, before the answer takes the place of the oldest; the entries that stand for older
ones read STATE 2. -/
def State.hearResend (s : State) : State :=
  let l := s.link
  let first := s.msgArg % 2 ^ 32
  let d := counterDiff l.lastTx first
  if !s.msgData.isEmpty then s.reply 8 0x11
  else if 2 ^ 31 ≤ d then s.reply 8 0
  else
    let numbers := (List.range (Nat.min (d + 1) 256)).map fun i => (l.lastTx + 2 ^ 32 - (Nat.min (d + 1) 256 - 1) + i) % 2 ^ 32
    let held := (numbers.map fun n => (n, SMap.get .none l.sent (n % 256))).filterMap fun x => if x.2.seq == x.1 && x.2.typ ≠ 0 then some x.2 else none
    let old := (List.range (Nat.min (d + 1 - 256) 256)).map fun i => (first + i) % 256
    let sent := old.foldl (fun (m : SMap SentMsg) (i : Nat) => SMap.put .none m i { SMap.get .none m i with st := 2 }) l.sent
    { s with link := { l with again := held, sent := sent } }.reply 8 0

def execResend (s : State) : Host.Outcome State Fault Refusal := .next (s.hear 8 State.hearResend)

/-- SYSDONE (R351): the request with this bind index, core and tag completes; the service's writes are visible by then. -/
def State.hearSysdone (s : State) : State :=
  let a := s.msgArg
  let hit := s.sysOut.findSome? fun id => (s.cmd id).bind fun k =>
    if k.bind.getD 0 = bitsOf a 0 8 && k.core = bitsOf a 8 10 && (k.args.getD 11 0).toNat % 2 ^ 16 = bitsOf a 18 16 then some k else none
  if s.msgData.length ≠ 4 then s.reply 9 0x11
  else
    match hit with
    | none => s.reply 9 0x12
    | some k =>
      let v := BitVec.ofNat 32 (leNat s.msgData)
      let s := s.takeHostWrites
      let s := { s with sysOut := s.sysOut.filter (· != k.id) }
      ((s.finishCmd { k with value := v }).reply 9 0 (s.prioFlag k.bind)).pumpSys

def execSysdone (s : State) : Host.Outcome State Fault Refusal := .next (s.hear 9 State.hearSysdone)

/-- HACK (R339, R341). -/
def State.hearHack (s : State) : State :=
  let l := s.link
  let top := s.msgArg % 2 ^ 32
  let sent : SMap SentMsg := l.sent.map fun e => (e.1, if counterDiff top e.2.seq < 2 ^ 31 then { e.2 with st := 1 } else e.2)
  if !s.msgData.isEmpty then s.reply 10 0x11 else { s with link := { l with hostAck := top, sent := sent } }.reply 10 0

def execHack (s : State) : Host.Outcome State Fault Refusal := .next (s.hear 10 State.hearHack)

/-! Keys (R342, R354) -/

/-- KEY_EXCHANGE (R342): a fresh key, the next epoch; what waited is sent.  Dawn signs the key, which it cannot in its takeover window (R350) or without the
identity key (R354). -/
def execKeyExchange (s : State) : Host.Outcome State Fault Refusal :=
  if !s.sec.idKey then .next s
  else if (s.ctl 3).window then .next (s.nextCycle .keyExchange s.stim)
  else
    let l := s.link
    let s := { s with link := { l with epoch := (l.epoch + 1) % 2 ^ 31, used := 0, keyed := true, waiting := [] } }
    .next (l.waiting.foldl (fun (s : State) (m : SentMsg) => s.sendMsg m.typ m.flags m.arg m.payload m.key) s)

end Sys2Proof.Machine
end

