-- ==== Sys2Proof/Machine/Clock.lean ====
section
/-! DEFINITION. The order of one clock cycle (R16, inventory Timing): the events of the cycle, then the issues, then what follows
them, and the tick to the next cycle; and where a test word is placed for the next step to run. -/

namespace Sys2Proof.Machine

/-- What a step does: run an instruction or step of the part from a state, or only move on. -/
inductive Pick where
  | run (ev : Instr) (s : State)
  | move (s : State)
  deriving DecidableEq, Repr

/-- The cores that issue a bundle in this cycle (R16), in ascending order. -/
def State.dueCores (s : State) : List Nat :=
  (s.cores.filter fun kc => kc.2.run == .running && kc.2.gate == .on && decide (kc.2.nextIssue ≤ s.clock)).map (·.1)

/-- One clock cycle of a core (R72): TCYC stands while the core is held from its arrival value on, and where nothing runs; `clk`
counts the cycles bound to a launch that has started (R83); neither counts in a core that holds the reset state (R233). -/
def Core.tick (c : Core) : Core :=
  if c.blank then c else
  let c := { c with clk := if c.bind.isSome && c.run != Run.off && c.run != Run.waiting then c.clk + 1 else c.clk }
  match c.run, c.hold with
  | .running, _ => { c with tcyc := c.tcyc + 1 }
  | .ended, _ | .stopped, _ => if c.bind.isSome then { c with tcyc := c.tcyc + 1 } else c
  | .held, some h =>
    if h.begun then c
    else { c with tcyc := c.tcyc + 1, hold := some { h with begun := decide (h.arrival ≤ c.tcyc + 1) } }
  | _, _ => c

/-- The next clock cycle begins, the fabric clock goes on (R361), and the hand-over records are looked at (R347); at the end of a slot's first cycle its
cells are settled (R363). -/
def State.tick (s : State) : State :=
  let s := s.fixSlot
  State.keepRecords <| State.slotTick { s with clock := s.clock + 1, stage := .events, cores := s.cores.map fun kc => (kc.1, kc.2.tick) }

/-- What a launch is ready for in this cycle: its stop settles, it is bound again with the half-width variant, restarts, starts, or ends. -/
def State.launchScan (s : State) (l : Launch) : Option Instr :=
  if (l.st = 3 || l.st = 4) && s.settleDue l then
    l.stop.map fun t => .freeze ⟨l.bind, t.cause, t.detail, t.atCut⟩
  else if variantDue l then some (.variantRebind l.bind)
  else if s.restartDue l then some (.restart l.bind)
  else if s.startDue l then some (.launchStart l.bind)
  else if s.completeDue l then some (.launchComplete l.bind)
  else none

/-- A group whose members can be released, whose phases commit, or whose arrival is to be sent. -/
def State.groupDue (s : State) (g : Nat) : Bool :=
  (s.releaseAt g).isSome || s.arrivalDue g || (match s.groupBind g with
    | some b => s.commitDue (s.launch b)
    | none => false)

/-- A step of the part that a condition of the state calls for in this cycle, if there is one. -/
def State.scan (s : State) : Option Instr :=
  match s.groups.find? fun g => s.groupDue g.1 with
  | some g => some (.rendezvousRelease g.1)
  | none =>
    match s.jrn.emits.find? fun e => s.emitReady e with
    | some e => some (.emissionRelease e)
    | none => s.launches.findSome? s.launchScan

/-- The first event on the agenda that falls on this cycle with a place below the bound, and the state without it. -/
def State.popAgenda (s : State) (bound : Nat) : Option (Instr × State) :=
  match s.agenda with
  | [] => none
  | a :: r => if a.at_ ≤ s.clock && a.prio < bound then some (a.ev, { s with agenda := r, stim := noStim }) else none

/-- The first event of the outside that falls on this cycle, and the state with what comes with it. -/
def State.popInput (s : State) : Option (Instr × State) :=
  match s.inputs with
  | [] => none
  | i :: r => if i.at_ ≤ s.clock then some (i.ev, { s with inputs := r, stim := i.stim }) else none

/-- After the issues of a cycle: a region that has been sealed for 4,096 cycles and that no bundle of this cycle has closed (R64); a launch whose last
core has ended in this cycle, or whose last operation has: it completes in this cycle (R317). -/
def State.endScan (s : State) : Option Instr :=
  match s.cores.find? fun c => s.sealedLong c.2 with
  | some c => some (.sealedRegionTimeout c.1)
  | none => (s.launches.find? fun l => s.completeDue l).map fun l => .launchComplete l.bind

/-- The next thing that happens (inventory, Timing). -/
def State.pick (s : State) : Pick :=
  match s.stage with
  | .events =>
    match s.popAgenda 100 with
    | some (ev, t) => .run ev t
    | none =>
      match s.scan with
      | some ev => .run ev { s with stim := noStim }
      | none => .move { s with stage := .issue s.dueCores }
  | .issue [] => .move { s with stage := .after }
  | .issue (c :: cs) => .run (.bundleIssue c) { s with stage := .issue cs }
  | .after =>
    match s.popAgenda 1000 with
    | some (ev, t) => .run ev t
    | none =>
      match s.endScan with
      | some ev => .run ev { s with stim := noStim }
      | none =>
        match s.popInput with
        | some (ev, t) => .run ev t
        | none => .move s.tick

/-- The 32-bit word at address a of core n's code store (R14). -/
def State.codeWord (s : State) (n a : Nat) : BitVec 32 := BitVec.ofNat 32 (memNat s.mem (codeBase n + a) 4)

/-- The slot in which a table word stands: the one in which decodeTableWord reads it. -/
def tableSlot (nbits w : Nat) : Nat :=
  if nbits ≤ 32 then
    let w := BitVec.ofNat 32 w
    if (decodeC w).isSome then 0 else if (decodeS w).isSome then 1 else if (decodeA w).isSome then 2 else 10
  else
    let w := BitVec.ofNat 64 w
    if (decodeL w).isSome then 3 else if (decodeV w).isSome then 4 else if (decodeM w).isSome then 8 else 9

/-- The bytes of a bundle that holds one slot word, with seven zero literals (R21, R22), a replay header for REPLAY (R25). -/
def tableBundle (nbits w : Nat) : List Byte :=
  let slot := tableSlot nbits w
  let bk := match decodeTableWord nbits w with
    | some (.replay _ _ _) => 1
    | _ => 0
  leBytes 4 (2 ^ slot + 7 * 2 ^ 11 + bk * 2 ^ 14) ++ leBytes (if nbits ≤ 32 then 4 else 8) w ++ leBytes 28 0

/-- Place a table word as the next bundle of core 0, which issues next. -/
def State.placeWord (s : State) (nbits w : Nat) : State :=
  let c := s.core 0
  let s := { s with
    mem := memWriteAll s.mem ((tableBundle nbits w).zipIdx.map fun (b, i) => (codeBase 0 + i, b)),
    stage := .issue [0] }
  s.setCore 0 { c with run := .running, pc := 0, gate := .on, late := none, nextIssue := s.clock }

end Sys2Proof.Machine
end

