-- ==== Sys2Proof/Machine/Streams.lean ====
section
/-! DEFINITION. The A slot: stream registers set, moved, loaded and stored (05, R136-R139). -/

namespace Sys2Proof.Machine

/-- A change of stream g, visible at issue + 1 (R136). -/
def streamOp (g : BitVec 4) (c : GChange) : Op := fun _ cur => .ok (cur.addWrite (.g g c) 1)

/-- GSET (R137): BASE takes a 64-bit literal pair. -/
def opGset (g f : BitVec 4) (l : BitVec 3) : Op := fun pre cur =>
  let v := if f = 2 then pre.lit64 l.toNat else pre.lit l.toNat
  .ok (cur.addWrite (.g g (.field f (BitVec.ofNat 64 v))) 1)
def execGset (g f : BitVec 4) (l : BitVec 3) (s : State) : Host.Outcome State Fault Refusal := runOp (opGset g f l) s

/-- GSETS (R137). -/
def opGsets (g f : BitVec 4) (sa : BitVec 5) : Op := fun pre cur =>
  .ok (cur.addWrite (.g g (.field f (pre.cur.sreg sa))) 1)
def execGsets (g f : BitVec 4) (sa : BitVec 5) (s : State) : Host.Outcome State Fault Refusal := runOp (opGsets g f sa) s

/-- The effective address of GLD and GST (R138). -/
def descEa (s : State) (sa : BitVec 5) (off : BitVec 11) : Nat :=
  alignDown (s.cur.sreg sa + BitVec.ofInt 64 (64 * off.toInt)).toNat 64

/-- GLD (R138): the stream is written at the target's row-load latency. -/
def opGld (g : BitVec 4) (sa : BitVec 5) (off : BitVec 11) : Op := fun pre cur =>
  let r : Req := ⟨descEa pre sa off, 64, false, none⟩
  let sel := List.range 64
  match pre.checkReq r sel with
  | .error t => .error t
  | .ok oor =>
    let (op, s) := cur.beginAccess r oor 0 ((pre.liveBytes r sel).map (·.2))
    let lat := pre.rowLat pre.ix.core (reqTarget pre.ix.core r)
    .ok (s.addWrite (.g g (.load (descOf (pre.readReq r)))) lat 0 op)
def execGld (g : BitVec 4) (sa : BitVec 5) (off : BitVec 11) (s : State) : Host.Outcome State Fault Refusal := runOp (opGld g sa off) s

/-- GST (R138): the stream as read at issue. -/
def opGst (g : BitVec 4) (sa : BitVec 5) (off : BitVec 11) : Op := fun pre cur =>
  let r : Req := ⟨descEa pre sa off, 64, true, none⟩
  let sel := List.range 64
  match pre.checkReq r sel with
  | .error t => .error t
  | .ok oor => .ok (cur.storeReq pre r sel oor 0 (descBytes (pre.cur.greg g))).2
def execGst (g : BitVec 4) (sa : BitVec 5) (off : BitVec 11) (s : State) : Host.Outcome State Fault Refusal := runOp (opGst g sa off) s

/-- GADV (R139). -/
def opGadv (g : BitVec 4) (carry : Bool) (l : BitVec 2) (n : BitVec 16) : Op := streamOp g (.adv l.toNat n.toInt carry)
def execGadv (g : BitVec 4) (carry : Bool) (l : BitVec 2) (n : BitVec 16) (s : State) : Host.Outcome State Fault Refusal :=
  runOp (opGadv g carry l n) s

/-- GRST (R139). -/
def opGrst (g : BitVec 4) : Op := streamOp g .rst
def execGrst (g : BitVec 4) (s : State) : Host.Outcome State Fault Refusal := runOp (opGrst g) s

/-- GPOS (R139). -/
def opGpos (g : BitVec 4) (l : BitVec 2) (v : BitVec 16) : Op := streamOp g (.pos l.toNat v.toNat)
def execGpos (g : BitVec 4) (l : BitVec 2) (v : BitVec 16) (s : State) : Host.Outcome State Fault Refusal := runOp (opGpos g l v) s

/-- GMAP (R139): a binding of 6 is illegal. -/
def opGmap (g : BitVec 4) (l : BitVec 2) (b : BitVec 3) : Op := streamOp g (.map l.toNat b)
def execGmap (g : BitVec 4) (l : BitVec 2) (b : BitVec 3) (s : State) : Host.Outcome State Fault Refusal := runOp (opGmap g l b) s

end Sys2Proof.Machine
end

