-- ==== Sys2Proof/Machine/Vector.lean ====
section
/-! DEFINITION. The vector slots V0-V3: lane arithmetic, conversions, reductions, permutes, lane masks (06, R156-R174). -/

namespace Sys2Proof.Machine

/-! Operands -/

def vView (o : VOps) : Nat := o.view.toNat
def vRnd (o : VOps) : Rnd := rndOf o.rnd.toNat
def vRow (s : State) (r : BitVec 11) : Row := s.cur.row r.toNat
/-- Lane i is selected (R156). -/
def vSel (s : State) (o : VOps) (i : Nat) : Bool := (s.cur.kreg o.mask).getLsbD i
def vLanes (s : State) (o : VOps) : List Nat := (List.range (viewLanes (vView o))).filter (vSel s o)

/-- The broadcast literal as a lane of a view (R30): a pair in f32x2. -/
def litLane (s : State) (o : VOps) : Nat :=
  let i := (o.vb.extractLsb' 0 3).toNat
  if vView o = 0 then s.lit64 i else s.lit i % 2 ^ viewBits (vView o)

/-- Lane i of vb, or the literal (R30). -/
def bLane (s : State) (o : VOps) (i : Nat) : Nat := if o.lit then litLane s o else laneOf (vRow s o.vb) (vView o) i

/-- The low 4 bits of a field name a mask, the low 5 a scalar (R157). -/
def maskOf (f : BitVec 11) : BitVec 4 := f.extractLsb' 0 4
def scalarOf (f : BitVec 11) : BitVec 5 := f.extractLsb' 0 5

/-- The effect of a lane-wise instruction: values and flags of the lanes written, after lat cycles. -/
def vWrite (cur : State) (o : VOps) (lat : Nat) (l : List (Nat × Nat × Flags)) : Except Trap State :=
  .ok (cur.addWrite (laneWrite o.vd (vView o) (l.map fun x => (x.1, x.2.1))) lat (l.foldl (fun f x => f ||| x.2.2) 0))

/-- A lane-wise instruction on the selected lanes. -/
def laneOp (o : VOps) (lat : Nat) (f : State → Nat → Nat × Flags) : Op := fun pre cur =>
  vWrite cur o lat ((vLanes pre o).map fun i => (i, f pre i))

/-- Fit of R159: wrap to the lane width, or saturate with SV. -/
def fitInt (w : Nat) (sat : Bool) (v : Int) : Nat × Flags :=
  if sat then
    let lo : Int := -(2 ^ (w - 1) : Int)
    let hi : Int := 2 ^ (w - 1) - 1
    if v < lo then (unsignedOf w lo, flSV) else if hi < v then (unsignedOf w hi, flSV) else (unsignedOf w v, 0)
  else (unsignedOf w v, 0)

def pairLo (x : Nat) : Nat := x % 2 ^ 32
def pairHi (x : Nat) : Nat := x / 2 ^ 32 % 2 ^ 32
def pairOf (s c : Nat) : Nat := s + c * 2 ^ 32
def flip32 (x : Nat) : Nat := (x + 2 ^ 31) % 2 ^ 32

/-- An addition of pairs (R159, C view). -/
def pairAdd (a b : Nat) : Nat × Flags :=
  let (p, f) := twoSumFold (pairLo a) (pairHi a) (pairLo b)
  let (q, g) := twoSumFold p.1 p.2 (pairHi b)
  (pairOf q.1 q.2, f ||| g)

/-- Arithmetic of R159 by view class: exact integers, floating point, pairs. -/
def byClass (o : VOps) (int : Int → Int → Int → Int) (flt : FloatFmt → Rnd → Nat → Nat → Nat → Nat × Flags)
    (pair : Nat → Nat → Nat × Flags) : Nat → Nat → Nat → Nat × Flags := fun a b c =>
  let view := vView o
  let w := viewBits view
  if view = 0 then pair a b
  else if viewInt view then fitInt w o.sat (int (signed w a) (signed w b) (signed w c))
  else flt (viewFloat view) (vRnd o) a b c

/-- Arithmetic on va and vb. -/
def arith2 (o : VOps) (int : Int → Int → Int → Int) (flt : FloatFmt → Rnd → Nat → Nat → Nat → Nat × Flags)
    (pair : Nat → Nat → Nat × Flags) : Op :=
  laneOp o 4 fun s i => byClass o int flt pair (laneOf (vRow s o.va) (vView o) i) (bLane s o i) 0

/-- Arithmetic on va, vb and vc. -/
def arith3 (o : VOps) (int : Int → Int → Int → Int) (flt : FloatFmt → Rnd → Nat → Nat → Nat → Nat × Flags) : Op :=
  laneOp o 4 fun s i =>
    byClass o int flt (fun a _ => (a, 0)) (laneOf (vRow s o.va) (vView o) i) (bLane s o i) (laneOf (vRow s o.vc) (vView o) i)

/-- The code with its sign bit inverted. -/
def FloatFmt.flip (f : FloatFmt) (c : Nat) : Nat :=
  let b := 2 ^ (f.ew + f.mw)
  if c / b % 2 = 1 then c - b else c + b

/-- Minimum or maximum of two lanes of a view (R118, R159). -/
def laneMinMax (view : Nat) (uns max prop : Bool) (a b : Nat) : Nat × Flags :=
  let w := viewBits view
  if view = 0 then
    let x := pairVal .ne (pairLo a) (pairHi a)
    let y := pairVal .ne (pairLo b) (pairHi b)
    let f := x.sigFlag ||| y.sigFlag
    if x.isNan && y.isNan then (nan32, f)
    else if x.isNan then (if prop then nan32 else b, f)
    else if y.isNan then (if prop then nan32 else a, f)
    else (if (if max then x.before y else y.before x) then b else a, f)
  else if viewInt view then
    let lt (p q : Nat) : Bool := if uns then decide (p < q) else decide (signed w p < signed w q)
    (if (if max then lt a b else lt b a) then b else a, 0)
  else (viewFloat view).minmax max prop a b

/-- VMIN and its kin (R159). -/
def minmaxOp (o : VOps) (max prop : Bool) : Op :=
  laneOp o 4 fun s i => laneMinMax (vView o) (o.vc.getLsbD 0) max prop (laneOf (vRow s o.va) (vView o) i) (bLane s o i)

/-! Arithmetic (R159) -/

/-- VADD (R159). -/
def opVadd (o : VOps) : Op := arith2 o (fun a b _ => a + b) (fun f m a b _ => f.add m a b) pairAdd
def execVadd (o : VOps) (s : State) : Host.Outcome State Fault Refusal := runOp (opVadd o) s

/-- VSUB (R159). -/
def opVsub (o : VOps) : Op := arith2 o (fun a b _ => a - b) (fun f m a b _ => f.sub m a b)
  fun a b => pairAdd a (pairOf (flip32 (pairLo b)) (flip32 (pairHi b)))
def execVsub (o : VOps) (s : State) : Host.Outcome State Fault Refusal := runOp (opVsub o) s

/-- VMUL (R159). -/
def opVmul (o : VOps) : Op := arith2 o (fun a b _ => a * b) (fun f m a b _ => f.mul m a b) fun a _ => (a, 0)
def execVmul (o : VOps) (s : State) : Host.Outcome State Fault Refusal := runOp (opVmul o) s

/-- VFMA (R159). -/
def opVfma (o : VOps) : Op := arith3 o (fun a b c => a * b + c) fun f m a b c => f.fma m a b c
def execVfma (o : VOps) (s : State) : Host.Outcome State Fault Refusal := runOp (opVfma o) s

/-- VFMS (R159). -/
def opVfms (o : VOps) : Op := arith3 o (fun a b c => a * b - c) fun f m a b c => f.fma m a b (f.flip c)
def execVfms (o : VOps) (s : State) : Host.Outcome State Fault Refusal := runOp (opVfms o) s

/-- VFNMA (R159). -/
def opVfnma (o : VOps) : Op := arith3 o (fun a b c => c - a * b) fun f m a b c => f.fma m (f.flip a) b c
def execVfnma (o : VOps) (s : State) : Host.Outcome State Fault Refusal := runOp (opVfnma o) s

/-- VMIN (R159). -/
def opVmin (o : VOps) : Op := minmaxOp o false false
def execVmin (o : VOps) (s : State) : Host.Outcome State Fault Refusal := runOp (opVmin o) s

/-- VMAX (R159). -/
def opVmax (o : VOps) : Op := minmaxOp o true false
def execVmax (o : VOps) (s : State) : Host.Outcome State Fault Refusal := runOp (opVmax o) s

/-- VMINP (R159): vc is zero. -/
def opVminp (o : VOps) : Op := minmaxOp o false true
def execVminp (o : VOps) (s : State) : Host.Outcome State Fault Refusal := runOp (opVminp o) s

/-- VMAXP (R159). -/
def opVmaxp (o : VOps) : Op := minmaxOp o true true
def execVmaxp (o : VOps) (s : State) : Host.Outcome State Fault Refusal := runOp (opVmaxp o) s

/-- VABS (R159): pairs change both signs together; floating point clears the sign bit. -/
def opVabs (o : VOps) : Op := laneOp o 4 fun s i =>
  let view := vView o
  let a := laneOf (vRow s o.va) view i
  if view = 0 then (if pairLo a / 2 ^ 31 = 1 then pairOf (flip32 (pairLo a)) (flip32 (pairHi a)) else a, 0)
  else if viewInt view then fitInt (viewBits view) o.sat (signed (viewBits view) a).natAbs
  else (a % 2 ^ (viewBits view - 1), 0)
def execVabs (o : VOps) (s : State) : Host.Outcome State Fault Refusal := runOp (opVabs o) s

/-- VNEG (R159). -/
def opVneg (o : VOps) : Op := laneOp o 4 fun s i =>
  let view := vView o
  let a := laneOf (vRow s o.va) view i
  if view = 0 then (pairOf (flip32 (pairLo a)) (flip32 (pairHi a)), 0)
  else if viewInt view then fitInt (viewBits view) o.sat (-(signed (viewBits view) a))
  else ((viewFloat view).flip a, 0)
def execVneg (o : VOps) (s : State) : Host.Outcome State Fault Refusal := runOp (opVneg o) s

/-! Compare and select (R160, R161) -/

/-- The condition of VCMP on two lanes, with its NV. -/
def vcmpLane (view cc a b : Nat) : Bool × Flags :=
  let w := viewBits view
  if viewInt view then
    let eq := a == b
    let lt := if 8 ≤ cc then decide (a < b) else decide (signed w a < signed w b)
    let gt := !eq && !lt
    (match cc with
      | 0 => eq
      | 1 => !eq
      | 2 | 8 => lt
      | 3 | 9 => !gt
      | 4 | 10 => gt
      | _ => !lt, 0)
  else
    let r := (laneVal .ne view a).rel (laneVal .ne view b)
    let nv : Flags := if 2 ≤ cc && cc ≤ 5 then (if r.un then flNV else 0) else if r.sig then flNV else 0
    (match cc with
      | 0 => r.eq
      | 1 => !r.eq
      | 2 => r.lt
      | 3 => r.lt || r.eq
      | 4 => r.gt
      | 5 => r.gt || r.eq
      | 6 => r.un
      | _ => !r.un, nv)

/-- A mask from the bits of a list. -/
def maskBits (l : List Nat) : Mask := BitVec.ofNat 512 (l.foldl (fun a i => a + 2 ^ i) 0)

/-- VCMP (R160): unselected bits below the lane count keep their values, bits from the lane count on become 0. -/
def opVcmp (o : VOps) : Op := fun pre cur =>
  let view := vView o
  let res := (vLanes pre o).map fun i => (i, vcmpLane view o.vc.toNat (laneOf (vRow pre o.va) view i) (bLane pre o i))
  let on := (res.filter fun x => x.2.1).map (·.1)
  let keep := (List.range (viewLanes view)).filter fun i => !vSel pre o i
  .ok (cur.addWrite (.k (maskOf o.vd) (maskBits on) (~~~(maskBits keep))) 4 (res.foldl (fun f x => f ||| x.2.2) 0))
def execVcmp (o : VOps) (s : State) : Host.Outcome State Fault Refusal := runOp (opVcmp o) s

/-- VSEL (R161). -/
def opVsel (o : VOps) : Op := laneOp o 2 fun s i =>
  (if (s.cur.kreg (maskOf o.vc)).getLsbD i then laneOf (vRow s o.va) (vView o) i else bLane s o i, 0)
def execVsel (o : VOps) (s : State) : Host.Outcome State Fault Refusal := runOp (opVsel o) s

/-! Bitwise operations and shifts (R162) -/

def bitOp (o : VOps) (f : Nat → Nat → Nat) : Op := laneOp o 2 fun s i => (f (laneOf (vRow s o.va) (vView o) i) (bLane s o i), 0)

/-- VAND (R162). -/
def opVand (o : VOps) : Op := bitOp o fun a b => a &&& b
def execVand (o : VOps) (s : State) : Host.Outcome State Fault Refusal := runOp (opVand o) s

/-- VOR (R162). -/
def opVor (o : VOps) : Op := bitOp o fun a b => a ||| b
def execVor (o : VOps) (s : State) : Host.Outcome State Fault Refusal := runOp (opVor o) s

/-- VXOR (R162). -/
def opVxor (o : VOps) : Op := bitOp o fun a b => a ^^^ b
def execVxor (o : VOps) (s : State) : Host.Outcome State Fault Refusal := runOp (opVxor o) s

/-- VNOT (R162). -/
def opVnot (o : VOps) : Op := laneOp o 2 fun s i => (2 ^ viewBits (vView o) - 1 - laneOf (vRow s o.va) (vView o) i, 0)
def execVnot (o : VOps) (s : State) : Host.Outcome State Fault Refusal := runOp (opVnot o) s

/-- VSHL (R162): a count of the width or more gives 0. -/
def opVshl (o : VOps) : Op := bitOp o fun a n => if viewBits (vView o) ≤ n then 0 else a * 2 ^ n
def execVshl (o : VOps) (s : State) : Host.Outcome State Fault Refusal := runOp (opVshl o) s

/-- VSHR (R162). -/
def opVshr (o : VOps) : Op := bitOp o fun a n => if viewBits (vView o) ≤ n then 0 else a / 2 ^ n
def execVshr (o : VOps) (s : State) : Host.Outcome State Fault Refusal := runOp (opVshr o) s

/-- VSAR (R162): a count of the width or more gives all sign bits. -/
def opVsar (o : VOps) : Op := bitOp o fun a n =>
  let w := viewBits (vView o)
  unsignedOf w (signed w a / (2 ^ Nat.min n (w - 1) : Int))
def execVsar (o : VOps) (s : State) : Host.Outcome State Fault Refusal := runOp (opVsar o) s

/-! Moves and lane access (R163) -/

/-- VMOV (R163). -/
def opVmov (o : VOps) : Op := laneOp o 2 fun s i => (laneOf (vRow s o.va) (vView o) i, 0)
def execVmov (o : VOps) (s : State) : Host.Outcome State Fault Refusal := runOp (opVmov o) s

/-- VFILL (R163). -/
def opVfill (o : VOps) : Op := laneOp o 2 fun s _ =>
  (if o.lit then litLane s o else (s.cur.sreg (scalarOf o.va)).toNat % 2 ^ viewBits (vView o), 0)
def execVfill (o : VOps) (s : State) : Host.Outcome State Fault Refusal := runOp (opVfill o) s

/-- VIOTA (R163). -/
def opViota (o : VOps) : Op := laneOp o 2 fun s i =>
  let start : Int := if o.lit then signed 32 (s.lit (o.vb.extractLsb' 0 3).toNat) else 0
  let view := vView o
  if viewInt view then fitInt (viewBits view) o.sat (start + i) else
    let (c, f) := (viewFloat view).ofVal (vRnd o) (.ofInt (start + i))
    (c, f &&& (flNX ||| flSV))
def execViota (o : VOps) (s : State) : Host.Outcome State Fault Refusal := runOp (opViota o) s

/-- VEXT (R163): a scalar write with the V slot's index. -/
def opVext (o : VOps) : Op := fun pre cur =>
  .ok (cur.writeS (scalarOf o.vd) (BitVec.ofNat 64 (laneOf (vRow pre o.va) (vView o) o.vc.toNat)) 2)
def execVext (o : VOps) (s : State) : Host.Outcome State Fault Refusal := runOp (opVext o) s

/-- VINS (R163). -/
def opVins (o : VOps) : Op := fun pre cur =>
  vWrite cur o 2 [(o.vc.toNat, (pre.cur.sreg (scalarOf o.va)).toNat % 2 ^ viewBits (vView o), 0)]
def execVins (o : VOps) (s : State) : Host.Outcome State Fault Refusal := runOp (opVins o) s

/-! Conversions and quantisation (R164-R167) -/

/-- The source lane of destination lane d in part h of a conversion, if d belongs to the part (R164). -/
def cvtSource (view src h d : Nat) : Option Nat :=
  let ld := viewLanes view
  let ls := viewLanes src
  let n := Nat.min ld ls
  if ls ≤ ld then (if h * n ≤ d && d < h * n + n then some (d - h * n) else none)
  else if d < n then some (h * n + d) else none

/-- A conversion of one lane: between equal views only NaN changes (R164). -/
def cvtLane (view src : Nat) (mode : Rnd) (x : Nat) : Nat × Flags :=
  let v := laneVal mode src x
  if view = src && !v.isNan then (x, 0) else laneOfVal view mode v

/-- VCVT and VCVTS, with the rounding mode of each destination lane. -/
def cvtOp (o : VOps) (mode : State → Nat → Rnd) : Op := fun pre cur =>
  let view := vView o
  let src := (o.vc.extractLsb' 0 3).toNat
  let h := (o.vc.extractLsb' 3 3).toNat
  vWrite cur o 5 ((vLanes pre o).filterMap fun d =>
    (cvtSource view src h d).map fun e => (d, cvtLane view src (mode pre d) (laneOf (vRow pre o.va) src e)))

/-- VCVT (R164). -/
def opVcvt (o : VOps) : Op := cvtOp o fun _ _ => vRnd o
def execVcvt (o : VOps) (s : State) : Host.Outcome State Fault Refusal := runOp (opVcvt o) s

/-- VCVTS (R165): the draw of lane d with counter sc and GKEY. -/
def opVcvts (o : VOps) : Op := cvtOp o fun s d => .st (rndWord (s.cur.sreg (scalarOf o.vb)) s.cur.gkey d)
def execVcvts (o : VOps) (s : State) : Host.Outcome State Fault Refusal := runOp (opVcvts o) s

/-- A list in runs of n elements; the first argument bounds the number of runs. -/
def blocksOf {α : Type} : Nat → Nat → List α → List (List α)
  | 0, _, _ => []
  | fuel + 1, n, l => if l.isEmpty then [] else l.take n :: blocksOf fuel n (l.drop n)

/-- The codes, scale bytes and flags of VQNT (R166). -/
def vqntCodes (fmt : Nat) (mode : Rnd) (band : Nat) (xs : List Val) : List Nat × List Nat × Flags :=
  let blk := fmtBlock fmt
  if blk = 0 then
    let out := xs.map fun v => (elemOf fmt).ofVal mode v
    (out.map (·.1), [], orFlags out)
  else
    (blocksOf xs.length blk xs).foldl (fun (a : List Nat × List Nat × Flags) b =>
      let (sc, codes, f) := if blk = 8 then quantDL fmt (fun _ => mode) (bf16.decode band) b else quantMX fmt (fun _ => mode) b
      (a.1 ++ codes, a.2.1 ++ [sc], a.2.2 ||| f)) ([], [], 0)

/-- VQNT (R166): the whole row is written. -/
def opVqnt (o : VOps) : Op := fun pre cur =>
  let view := vView o
  let fmt := o.vc.toNat
  let xs := (lanesOf (vRow pre o.va) view).map (laneVal (vRnd o) view)
  let (codes, scales, flags) := vqntCodes fmt (vRnd o) (laneOf (vRow pre o.vb) 3 0) xs
  let lo := leNat (packCodes fmt codes)
  let hi := leNat (scales.map (BitVec.ofNat 8))
  .ok (cur.addWrite (.row o.vd (BitVec.ofNat 4096 (lo + hi * 2 ^ 2048)) (BitVec.allOnes 512)) 5 flags)
def execVqnt (o : VOps) (s : State) : Host.Outcome State Fault Refusal := runOp (opVqnt o) s

/-- VFOLD (R167). -/
def opVfold (o : VOps) : Op := fun pre cur =>
  let h := o.vc.toNat
  vWrite cur o 5 ((List.range 64).filterMap fun j =>
    if vSel pre o (64 * h + j) then some (64 * h + j, laneOfVal (vView o) (vRnd o) (laneVal (vRnd o) 0 (laneOf (vRow pre o.va) 0 j))) else none)
def execVfold (o : VOps) (s : State) : Host.Outcome State Fault Refusal := runOp (opVfold o) s

/-- VSPLIT (R167): pairs are written, so the mask's lanes are those of f32x2. -/
def opVsplit (o : VOps) : Op := fun pre cur =>
  let out := ((List.range 64).filter (vSel pre o)).map fun j =>
    (j, laneOfVal 0 .ne (laneVal .ne (vView o) (laneOf (vRow pre o.va) (vView o) (64 * o.vc.toNat + j))))
  .ok (cur.addWrite (laneWrite o.vd 0 (out.map fun x => (x.1, x.2.1))) 5 (out.foldl (fun f x => f ||| x.2.2) 0))
def execVsplit (o : VOps) (s : State) : Host.Outcome State Fault Refusal := runOp (opVsplit o) s

/-! Special functions (R168, R169) -/

def specialOp (o : VOps) (f : FloatFmt → Nat → Nat × Flags) : Op :=
  laneOp o 12 fun s i => f (viewFloat (vView o)) (laneOf (vRow s o.va) (vView o) i)

/-- VEXP2 (R168). -/
def opVexp2 (o : VOps) : Op := specialOp o exp2F
def execVexp2 (o : VOps) (s : State) : Host.Outcome State Fault Refusal := runOp (opVexp2 o) s

/-- VLOG2 (R168). -/
def opVlog2 (o : VOps) : Op := specialOp o log2F
def execVlog2 (o : VOps) (s : State) : Host.Outcome State Fault Refusal := runOp (opVlog2 o) s

/-- VRCP (R168). -/
def opVrcp (o : VOps) : Op := specialOp o rcpF
def execVrcp (o : VOps) (s : State) : Host.Outcome State Fault Refusal := runOp (opVrcp o) s

/-- VRSQ (R168). -/
def opVrsq (o : VOps) : Op := specialOp o rsqF
def execVrsq (o : VOps) (s : State) : Host.Outcome State Fault Refusal := runOp (opVrsq o) s

/-- VSQRT (R168). -/
def opVsqrt (o : VOps) : Op := specialOp o sqrtF
def execVsqrt (o : VOps) (s : State) : Host.Outcome State Fault Refusal := runOp (opVsqrt o) s

/-- VTANH (R169). -/
def opVtanh (o : VOps) : Op := specialOp o (seqF tanh32)
def execVtanh (o : VOps) (s : State) : Host.Outcome State Fault Refusal := runOp (opVtanh o) s

/-- VSIGM (R169). -/
def opVsigm (o : VOps) : Op := specialOp o (seqF sigm32)
def execVsigm (o : VOps) (s : State) : Host.Outcome State Fault Refusal := runOp (opVsigm o) s

/-- VGELU (R169). -/
def opVgelu (o : VOps) : Op := specialOp o (seqF gelu32)
def execVgelu (o : VOps) (s : State) : Host.Outcome State Fault Refusal := runOp (opVgelu o) s

/-! Reductions and scans (R170, R171) -/

/-- One level of the reduction tree: neighbours joined. -/
def joinLevel {α : Type} (op : α → α → α) : List (Option α) → List (Option α)
  | a :: b :: r =>
    (match a, b with
      | some x, some y => some (op x y)
      | some x, none => some x
      | none, y => y) :: joinLevel op r
  | l => l

/-- The tree of R170: n levels. -/
def joinTree {α : Type} (op : α → α → α) : Nat → List (Option α) → Option α
  | 0, l => l.headD none
  | n + 1, l => joinTree op n (joinLevel op l)

/-- The selected lanes of va as nodes of the tree. -/
def treeNodes {α : Type} (s : State) (o : VOps) (f : Nat → α) : List (Option α) :=
  (List.range (viewLanes (vView o))).map fun i => if vSel s o i then some (f (laneOf (vRow s o.va) (vView o) i)) else none

/-- A result in the first bytes of vd, of w bits (R170): none leaves vd as it stands. -/
def headWrite (cur : State) (o : VOps) (lat w : Nat) (r : Option (Nat × Flags)) : Except Trap State :=
  match r with
  | none => .ok (cur.addWrite (.row o.vd 0 0) lat)
  | some (v, f) =>
    let (row, m) := buildRow [(0, w, v)]
    .ok (cur.addWrite (.row o.vd row m) lat f)

/-- VRSUM (R170). -/
def opVrsum (o : VOps) : Op := fun pre cur =>
  let view := vView o
  let lanes := (vLanes pre o).map (laneOf (vRow pre o.va) view)
  if lanes.isEmpty then headWrite cur o 9 32 none
  else if view = 0 then
    headWrite cur o 9 64 (some (lanes.foldl (fun (a : Nat × Flags) x =>
      let (r, f) := pairAdd a.1 x
      (r, a.2 ||| f)) (0, 0)))
  else if viewInt view then
    headWrite cur o 9 32 (some (fitInt 32 (o.sat && view == 2) ((lanes.map (signed (viewBits view))).foldl (· + ·) 0)))
  else
    let op (p q : Nat × Flags) : Nat × Flags :=
      let (r, f) := fp32.add (vRnd o) p.1 q.1
      (r, p.2 ||| q.2 ||| f)
    headWrite cur o 9 32 (joinTree op 9 (treeNodes pre o fun x => fp32.ofVal (vRnd o) (laneVal (vRnd o) view x)))
def execVrsum (o : VOps) (s : State) : Host.Outcome State Fault Refusal := runOp (opVrsum o) s

/-- VRMAX, VRMIN and VRAMAX: lanes through g, then the tree.  DESIGN CHOICE (log 46): where one lane alone is selected nothing is compared, and a NaN there
passes with its bits and raises no NV. -/
def reduceOp (o : VOps) (g : Nat → Nat) (op : Nat → Nat → Nat × Flags) : Op := fun pre cur =>
  let join (p q : Nat × Flags) : Nat × Flags :=
    let (r, f) := op p.1 q.1
    (r, p.2 ||| q.2 ||| f)
  headWrite cur o 9 (viewBits (vView o)) (joinTree join 9 (treeNodes pre o fun x => (g x, 0)))

/-- VRMAX (R170). -/
def opVrmax (o : VOps) : Op := reduceOp o id (laneMinMax (vView o) (o.vc.getLsbD 0) true false)
def execVrmax (o : VOps) (s : State) : Host.Outcome State Fault Refusal := runOp (opVrmax o) s

/-- VRMIN (R170). -/
def opVrmin (o : VOps) : Op := reduceOp o id (laneMinMax (vView o) (o.vc.getLsbD 0) false false)
def execVrmin (o : VOps) (s : State) : Host.Outcome State Fault Refusal := runOp (opVrmin o) s

/-- VRAMAX (R170): magnitudes; integer magnitudes are unsigned. -/
def opVramax (o : VOps) : Op :=
  let view := vView o
  let w := viewBits view
  reduceOp o (fun x => if viewInt view then (signed w x).natAbs else x % 2 ^ (w - 1)) (laneMinMax view true true false)
def execVramax (o : VOps) (s : State) : Host.Outcome State Fault Refusal := runOp (opVramax o) s

/-- One step of a scan (R171). -/
def scanStep (o : VOps) (acc x : Nat) : Nat × Flags :=
  let view := vView o
  if view = 0 then pairAdd acc x
  else if view = 2 then fitInt 32 o.sat (signed 32 acc + signed 32 x)
  else fp32.add (vRnd o) acc x

/-- VSCAN (R171): vc bit 0 selects the exclusive form. -/
def opVscan (o : VOps) : Op := fun pre cur =>
  let ex := o.vc.getLsbD 0
  let (_, out) := (vLanes pre o).foldl (fun (a : Nat × List (Nat × Nat × Flags)) i =>
    let (r, f) := scanStep o a.1 (laneOf (vRow pre o.va) (vView o) i)
    (r, a.2 ++ [(i, if ex then a.1 else r, f)])) (0, [])
  vWrite cur o 9 out
def execVscan (o : VOps) (s : State) : Host.Outcome State Fault Refusal := runOp (opVscan o) s

/-! Permutes (R172) -/

def permOp (o : VOps) (f : State → Nat → Nat) : Op := laneOp o 3 fun s i => (f s i, 0)

def aLane (s : State) (o : VOps) (i : Nat) : Nat := laneOf (vRow s o.va) (vView o) i

/-- VPERM (R172): the index is the low word of a pair. -/
def opVperm (o : VOps) : Op := permOp o fun s i => aLane s o (laneOf (vRow s o.vb) (vView o) i % 2 ^ 32 % viewLanes (vView o))
def execVperm (o : VOps) (s : State) : Host.Outcome State Fault Refusal := runOp (opVperm o) s

/-- VROT (R172). -/
def opVrot (o : VOps) : Op := permOp o fun s i => aLane s o ((i + o.vc.toNat) % viewLanes (vView o))
def execVrot (o : VOps) (s : State) : Host.Outcome State Fault Refusal := runOp (opVrot o) s

/-- VBCL (R172). -/
def opVbcl (o : VOps) : Op := permOp o fun s _ => aLane s o o.vc.toNat
def execVbcl (o : VOps) (s : State) : Host.Outcome State Fault Refusal := runOp (opVbcl o) s

/-- VZIP (R172). -/
def opVzip (o : VOps) : Op := permOp o fun s i =>
  let j := (if o.vc.getLsbD 0 then viewLanes (vView o) / 2 else 0) + i / 2
  if i % 2 = 0 then aLane s o j else laneOf (vRow s o.vb) (vView o) j
def execVzip (o : VOps) (s : State) : Host.Outcome State Fault Refusal := runOp (opVzip o) s

/-- VUNZP (R172). -/
def opVunzp (o : VOps) : Op := permOp o fun s i =>
  let n := viewLanes (vView o)
  let j := 2 * i + (if o.vc.getLsbD 0 then 1 else 0)
  if j < n then aLane s o j else laneOf (vRow s o.vb) (vView o) (j - n)
def execVunzp (o : VOps) (s : State) : Host.Outcome State Fault Refusal := runOp (opVunzp o) s

/-! Random bits (R173) -/

/-- A draw as a lane of a view (R173): the low bits, or an exact fraction in [0, 1). -/
def drawLane (view r : Nat) : Nat :=
  match view with
  | 1 => (fp32.ofVal .ne (.fin false (r / 2 ^ 8) (-24))).1
  | 4 => (fp16.ofVal .ne (.fin false (r / 2 ^ 21) (-11))).1
  | 3 => (bf16.ofVal .ne (.fin false (r / 2 ^ 24) (-8))).1
  | _ => r % 2 ^ viewBits view

/-- VRNG (R173). -/
def opVrng (o : VOps) : Op := laneOp o 9 fun s i => (drawLane (vView o) (rndWord (s.cur.sreg (scalarOf o.va)) s.cur.gkey i), 0)
def execVrng (o : VOps) (s : State) : Host.Outcome State Fault Refusal := runOp (opVrng o) s

/-! Lane masks (R174) -/

def maskOp (o : VOps) (f : Mask → Mask → Mask) : Op := fun pre cur =>
  .ok (cur.addWrite (.k (maskOf o.vd) (f (pre.cur.kreg (maskOf o.va)) (pre.cur.kreg (maskOf o.vb))) (BitVec.allOnes 512)) 1)

/-- KAND (R174). -/
def opKand (o : VOps) : Op := maskOp o fun a b => a &&& b
def execKand (o : VOps) (s : State) : Host.Outcome State Fault Refusal := runOp (opKand o) s

/-- KOR (R174). -/
def opKor (o : VOps) : Op := maskOp o fun a b => a ||| b
def execKor (o : VOps) (s : State) : Host.Outcome State Fault Refusal := runOp (opKor o) s

/-- KXOR (R174). -/
def opKxor (o : VOps) : Op := maskOp o fun a b => a ^^^ b
def execKxor (o : VOps) (s : State) : Host.Outcome State Fault Refusal := runOp (opKxor o) s

/-- KNOT (R174). -/
def opKnot (o : VOps) : Op := maskOp o fun a _ => ~~~a
def execKnot (o : VOps) (s : State) : Host.Outcome State Fault Refusal := runOp (opKnot o) s

/-- KPOP (R174). -/
def opKpop (o : VOps) : Op := fun pre cur =>
  let m := pre.cur.kreg (maskOf o.va)
  headWrite cur o 2 32 (some ((List.range (viewLanes (vView o))).countP fun i => m.getLsbD i, 0))
def execKpop (o : VOps) (s : State) : Host.Outcome State Fault Refusal := runOp (opKpop o) s

/-- A lane counts as nonzero (R174). -/
def laneNonzero (view x : Nat) : Bool := if viewInt view then x != 0 else !(laneVal .ne view x).isZero

/-- KSET from a row (R174). -/
def opKset (o : VOps) : Op := fun pre cur =>
  let view := vView o
  let on := (List.range (viewLanes view)).filter fun i => laneNonzero view (laneOf (vRow pre o.va) view i)
  .ok (cur.addWrite (.k (maskOf o.vd) (maskBits on) (BitVec.allOnes 512)) 2)
def execKset (o : VOps) (s : State) : Host.Outcome State Fault Refusal := runOp (opKset o) s

/-- KSET from a literal (R174). -/
def opKsetImm (o : VOps) : Op := fun pre cur =>
  let n := Nat.min (pre.lit (o.vb.extractLsb' 0 3).toNat) 512
  .ok (cur.addWrite (.k (maskOf o.vd) (maskBits (List.range n)) (BitVec.allOnes 512)) 1)
def execKsetImm (o : VOps) (s : State) : Host.Outcome State Fault Refusal := runOp (opKsetImm o) s

end Sys2Proof.Machine
end

