-- ==== Sys2Proof/Machine/Issue.lean ====
section
/-! DEFINITION. The issue of a bundle (01, R8, R16, R42-R45; 02, R51, R62, R64, R67, R74): the meaning of each slot's instruction, and what the
sequencer does with the bundle as a whole. -/

namespace Sys2Proof.Machine

/-- A step of the part stands in no slot. -/
def noOp : Op := fun _ cur => .ok cur

/-- The meaning of an instruction inside a bundle. -/
def slotOp : Instr → Op
  | .b p off => opB p off
  | .call p off => opCall p off
  | .calli p sa => opCalli p sa
  | .ret p sa => opRet p sa
  | .loop sa e => opLoop sa e
  | .loopLit l e => opLoopLit l e
  | .brkl p n off => opBrkl p n off
  | .lidx p sd d => opLidx p sd d
  | .region kind b nr => opRegion kind b nr
  | .phase g l w j => opPhase g l w j
  | .resync g w j => opResync g w j
  | .trigger p => opTrigger p
  | .trap p code => opTrap p code
  | .sys p code => opSys p code
  | .replay l st d => opReplay l st d
  | .pand p o => opPand p o
  | .por p o => opPor p o
  | .pxor p o => opPxor p o
  | .pget p sd h => opPget p sd h
  | .pset p sa h => opPset p sa h
  | .tltest p t r => opTltest p t r
  | .tltestLit p t l => opTltestLit p t l
  | .add o => opAdd o
  | .sub o => opSub o
  | .mul o => opMul o
  | .mulh o => opMulh o
  | .mulhu o => opMulhu o
  | .div o => opDiv o
  | .divu o => opDivu o
  | .rem o => opRem o
  | .remu o => opRemu o
  | .and o => opAnd o
  | .or o => opOr o
  | .xor o => opXor o
  | .andn o => opAndn o
  | .shl o => opShl o
  | .shr o => opShr o
  | .sar o => opSar o
  | .rot o => opRot o
  | .min o => opMin o
  | .max o => opMax o
  | .minu o => opMinu o
  | .maxu o => opMaxu o
  | .cmp o => opCmp o
  | .cmpu o => opCmpu o
  | .sel o => opSel o
  | .mov o => opMov o
  | .lit o => opLit o
  | .clz o => opClz o
  | .popc o => opPopc o
  | .bfx o => opBfx o
  | .bfi o => opBfi o
  | .sext o => opSext o
  | .zext o => opZext o
  | .fadd o => opFadd o
  | .fsub o => opFsub o
  | .fmul o => opFmul o
  | .ffma o => opFfma o
  | .fmin o => opFmin o
  | .fmax o => opFmax o
  | .fminp o => opFminp o
  | .fmaxp o => opFmaxp o
  | .fcmp o => opFcmp o
  | .fsgn o => opFsgn o
  | .fcvt o => opFcvt o
  | .fdiv o => opFdiv o
  | .fsqrt o => opFsqrt o
  | .sld o => opSld o
  | .slds o => opSlds o
  | .sst o => opSst o
  | .gset g f l => opGset g f l
  | .gsets g f sa => opGsets g f sa
  | .gld g sa off => opGld g sa off
  | .gst g sa off => opGst g sa off
  | .gadv g carry l n => opGadv g carry l n
  | .grst g => opGrst g
  | .gpos g l v => opGpos g l v
  | .gmap g l b => opGmap g l b
  | .vld o => opVld o
  | .vst o => opVst o
  | .vlda o => opVlda o
  | .vsta o => opVsta o
  | .vgth o => opVgth o
  | .vsct o => opVsct o
  | .vldb o => opVldb o
  | .bufset o => opBufset o
  | .bufq o => opBufq o
  | .atom o => opAtom o
  | .rlsend o => opRlsend o
  | .rlrecv o => opRlrecv o
  | .rlfree o => opRlfree o
  | .vadd o => opVadd o
  | .vsub o => opVsub o
  | .vmul o => opVmul o
  | .vfma o => opVfma o
  | .vfms o => opVfms o
  | .vfnma o => opVfnma o
  | .vmin o => opVmin o
  | .vmax o => opVmax o
  | .vminp o => opVminp o
  | .vmaxp o => opVmaxp o
  | .vabs o => opVabs o
  | .vneg o => opVneg o
  | .vcmp o => opVcmp o
  | .vsel o => opVsel o
  | .vand o => opVand o
  | .vor o => opVor o
  | .vxor o => opVxor o
  | .vnot o => opVnot o
  | .vshl o => opVshl o
  | .vshr o => opVshr o
  | .vsar o => opVsar o
  | .vmov o => opVmov o
  | .vfill o => opVfill o
  | .viota o => opViota o
  | .vext o => opVext o
  | .vins o => opVins o
  | .vcvt o => opVcvt o
  | .vcvts o => opVcvts o
  | .vqnt o => opVqnt o
  | .vfold o => opVfold o
  | .vsplit o => opVsplit o
  | .vexp2 o => opVexp2 o
  | .vlog2 o => opVlog2 o
  | .vrcp o => opVrcp o
  | .vrsq o => opVrsq o
  | .vsqrt o => opVsqrt o
  | .vtanh o => opVtanh o
  | .vsigm o => opVsigm o
  | .vgelu o => opVgelu o
  | .vrsum o => opVrsum o
  | .vrmax o => opVrmax o
  | .vrmin o => opVrmin o
  | .vramax o => opVramax o
  | .vscan o => opVscan o
  | .vperm o => opVperm o
  | .vrot o => opVrot o
  | .vbcl o => opVbcl o
  | .vzip o => opVzip o
  | .vunzp o => opVunzp o
  | .vrng o => opVrng o
  | .kand o => opKand o
  | .kor o => opKor o
  | .kxor o => opKxor o
  | .knot o => opKnot o
  | .kpop o => opKpop o
  | .kset o => opKset o
  | .ksetImm o => opKsetImm o
  | .mma o => opMma o
  | .mzero o => opMzero o
  | .mfold o => opMfold o
  | .msave o => opMsave o
  | .mload o => opMload o
  | .mpre o => opMpre o
  | .mtrn o => opMtrn o
  | .cpyt o => opCpyt o
  | .cpyu o => opCpyu o
  | .cpym o => opCpym o
  | .cfill o => opCfill o
  | .cseal o => opCseal o
  | .amo o => opAmo o
  | .amof o => opAmof o
  | .rtopk o => opRtopk o
  | .rcap o => opRcap o
  | .rdisp o => opRdisp o
  | .tlife o => opTlife o
  | .tdrop o => opTdrop o
  | .fsend o => opFsend o
  | .frdc o => opFrdc o
  | .fag o => opFag o
  | .fa2a o => opFa2a o
  | .jrnl o => opJrnl o
  | .emit o => opEmit o
  | .jtrunc o => opJtrunc o
  | .hflush o => opHflush o
  | .hnote o => opHnote o
  | .xlat o => opXlat o
  | .xvalid o => opXvalid o
  | .csrr o => opCsrr o
  | .csrw o => opCsrw o
  | .csrs o => opCsrs o
  | .csrc o => opCsrc o
  | .flgr o => opFlgr o
  | .flgc o => opFlgc o
  | .tcr o => opTcr o
  | .pgate o => opPgate o
  | .pgq o => opPgq o
  | .moncap o => opMoncap o
  | .tlrd o => opTlrd o
  | .bundleIssue _ => noOp
  | .sealedRegionTimeout _ => noOp
  | .rendezvousRelease _ => noOp
  | .freeze _ => noOp
  | .restart _ => noOp
  | .domainStop _ => noOp
  | .retryWindowExpiry _ _ => noOp
  | .scrub _ => noOp
  | .mmaOperandClaim _ _ _ _ => noOp
  | .matrixWriteComplete _ _ => noOp
  | .msaveRowClaim _ _ _ => noOp
  | .blockCapture _ _ => noOp
  | .timedCommandStart _ _ => noOp
  | .copyBeat _ _ _ _ => noOp
  | .timedCopyEnd _ _ => noOp
  | .untimedComplete _ => noOp
  | .xlatResult _ _ => noOp
  | .routingComplete _ _ => noOp
  | .atomicApply _ => noOp
  | .hbmGroup _ _ _ => noOp
  | .hbmRefresh _ _ _ => noOp
  | .rillEntryReady _ _ => noOp
  | .rillSlotFreed _ _ => noOp
  | .powerGateDecision _ => noOp
  | .gatingComplete _ => noOp
  | .wakeComplete _ => noOp
  | .realignmentComplete _ => noOp
  | .migrationMove _ => noOp
  | .launchWord _ _ _ => noOp
  | .queueAgeing _ => noOp
  | .preemption _ => noOp
  | .dispatch _ => noOp
  | .launchStart _ => noOp
  | .launchComplete _ => noOp
  | .resume _ => noOp
  | .variantRebind _ => noOp
  | .imageLoad _ _ _ => noOp
  | .watchdogExpiry _ => noOp
  | .handoverRecordWrite _ => noOp
  | .monitorClear _ => noOp
  | .monitorCapture _ => noOp
  | .retransmit _ => noOp
  | .collectiveCell _ => noOp
  | .patchAckDeadline _ => noOp
  | .patchSwitch _ => noOp
  | .journalAck _ => noOp
  | .emissionRelease _ => noOp
  | .reset _ => noOp
  | .doubledRefresh _ _ => noOp
  | .endTask => opEndTask
  | .writeVisible => noOp
  | .bankAccess => noOp
  | .meshHop => noOp
  | .droopStretch => noOp
  | .clockCrossingSlip => noOp
  | .frequencyStepDown => noOp
  | .frequencyStepUp => noOp
  | .thermalFreeze => noOp
  | .powerFreeze => noOp
  | .freezeRelease => noOp
  | .hotnessInterval => noOp
  | .updateRecord => noOp
  | .faultRecord => noOp
  | .faultRetry => noOp
  | .faultUnresolvable => noOp
  | .windowSample => noOp
  | .bindDecision => noOp
  | .wwrite => noOp
  | .wread => noOp
  | .mgmtw => noOp
  | .mgmtr => noOp
  | .memw => noOp
  | .memr => noOp
  | .inval => noOp
  | .resend => noOp
  | .sysdone => noOp
  | .hack => noOp
  | .keyExchange => noOp
  | .stage => noOp
  | .commit => noOp
  | .abort => noOp
  | .takeover => noOp
  | .heartbeat => noOp
  | .monitorSample => noOp
  | .rptreq => noOp
  | .reportWritten => noOp
  | .securityAlarm => noOp
  | .registerWrite => noOp
  | .cellSend => noOp
  | .cellReceive => noOp
  | .peerLeft => noOp
  | .lineDrift => noOp
  | .lineFailure => noOp
  | .lineRelock => noOp
  | .repairPatch => noOp
  | .patchReceive => noOp
  | .journalRecord => noOp
  | .partnerLost => noOp
  | .partnerRestore => noOp
  | .replayExtract => noOp

/-! Row reads (R43) -/

/-- The rows that an instruction reads through the counted ports at its issue (R43). -/
def rowReads : Instr → List (BitVec 11)
  | .vadd o | .vsub o | .vmul o | .vmin o | .vmax o | .vminp o | .vmaxp o | .vand o | .vor o | .vxor o | .vshl o | .vshr o | .vsar o
  | .vcmp o | .vsel o | .vperm o | .vzip o | .vunzp o => if o.lit then [o.va] else [o.va, o.vb]
  | .vfma o | .vfms o | .vfnma o => if o.lit then [o.va, o.vc] else [o.va, o.vb, o.vc]
  | .vabs o | .vneg o | .vnot o | .vmov o | .vext o | .vcvt o | .vcvts o | .vfold o | .vsplit o | .vexp2 o | .vlog2 o | .vrcp o | .vrsq o
  | .vsqrt o | .vtanh o | .vsigm o | .vgelu o | .vrsum o | .vrmax o | .vrmin o | .vramax o | .vscan o | .vrot o | .vbcl o | .kset o => [o.va]
  | .vqnt o => if o.vc = 18 || o.vc = 19 then [o.va, o.vb] else [o.va]
  | .vst o | .vsta o | .atom o | .rlsend o => [o.row]
  | .vgth o => [o.off.extractLsb' 13 11]
  | .vsct o => [o.row, o.off.extractLsb' 13 11]
  | _ => []

def bankOf (r : BitVec 11) : Nat := r.toNat % 4

/-- The first slot that reads a bank read more than four times (R42, R45). -/
def readExcess (slots : List (Nat × Instr)) : Option Nat :=
  let reads := slots.flatMap fun x => (rowReads x.2).map fun r => (x.1, bankOf r)
  (reads.find? fun x => decide (4 < (reads.filter fun y => y.2 == x.2).length)).map (·.1)

/-! The bundle -/

/-- The order in which one of several causes of a bundle is recorded (R42). -/
def Trap.before (a b : Trap) : Bool :=
  let rank (t : Trap) : Nat := if t.cause = 0x01 then 0 else if t.cause = 0x02 then 1 else 2
  if rank a ≠ rank b then rank a < rank b
  else if a.slot ≠ b.slot then a.slot < b.slot
  else if a.cause ≠ b.cause then a.cause.toNat < b.cause.toNat
  else a.detail.toNat < b.detail.toNat

def firstTrap (l : List Trap) : Option Trap :=
  l.foldl (fun (b : Option Trap) t => match b with
    | none => some t
    | some u => some (if t.before u then t else u)) none

/-- The bundle crosses the end of the replay block it stands in (R67). -/
def replayCross (loops : List LoopLevel) (a len : Nat) : Bool :=
  match loops with
  | l :: _ => match l.replay with
    | some r => decide (l.start.toNat ≤ a) && decide (a < r.blockEnd) && decide (r.blockEnd < a + len)
    | none => false
  | [] => false

def inReplay (loops : List LoopLevel) (a : Nat) : Bool :=
  match loops with
  | l :: _ => match l.replay with
    | some r => decide (l.start.toNat ≤ a) && decide (a < r.blockEnd)
    | none => false
  | [] => false

/-- A control instruction (R31), which the scalar ALU and FP instructions that slot C also holds (R27, R28) are not. -/
def isControl : Instr → Bool
  | .b _ _ | .call _ _ | .calli _ _ | .ret _ _ | .loop _ _ | .loopLit _ _ | .brkl _ _ _ | .lidx _ _ _ | .region _ _ _ | .phase _ _ _ _ | .resync _ _ _
  | .trigger _ | .endTask | .trap _ _ | .sys _ _ | .replay _ _ _ | .pand _ _ | .por _ _ | .pxor _ _ | .pget _ _ _ | .pset _ _ _ | .tltest _ _ _
  | .tltestLit _ _ _ => true
  | _ => false

/-- An instruction may stand in a replay block: any but a control instruction other than PAND, POR and PXOR (R67). -/
def replayAllows : Nat × Instr → Bool
  | (_, .pand _ _) | (_, .por _ _) | (_, .pxor _ _) => true
  | (_, i) => !isControl i

def isCut : Instr → Bool
  | .region k _ _ => k == 2
  | _ => false

/-- Run the slots in ascending order from the state before the bundle (R8, R42): the state after them, and the causes they raise.  DESIGN CHOICE (log 46): an
effect beside a REGION or END is judged by the region that the C slot leaves (R62). -/
def runSlots (pre : State) (slots : List (Nat × Instr)) : State × List Trap :=
  slots.foldl (fun (acc : State × List Trap) x =>
    let at_ (s : State) : State := { s with ix := { s.ix with slot := x.1 } }
    match slotOp x.2 (at_ pre) (at_ acc.1) with
    | .ok s => (s, acc.2)
    | .error t => (acc.1, acc.2 ++ [t])) (pre, [])

/-- What follows the slots: the loop-end test unless control was transferred (R48, R51), the next address, and the next issue (R16). -/
def State.finishBundle (s : State) : State :=
  let next := s.clock + 1 + s.ix.idle
  if s.ix.transfer then s.modCur fun c => { c with pc := BitVec.ofNat 32 s.ix.next, nextIssue := next }
  else
    let (loops, back) := loopEnd s.ix.addr s.ix.len s.cur.loops
    let s := s.modCur fun c => { c with loops := loops, nextIssue := next }
    match back with
    | none => s.modCur fun c => { c with pc := BitVec.ofNat 32 s.after }
    | some l =>
      let s := { s with ix := { s.ix with slot := 15 } }.backEdge l
      s.modCur fun c => { c with pc := l.start.zeroExtend 32 }

/-- The bundle as a whole (R42): its own causes beside those of its slots. -/
def bundleTraps (c : Core) (a : Nat) (b : Bundle) : List Trap :=
  let cross : List Trap := if replayCross c.loops a b.len then [⟨0x01, 0x07, 15, none, none⟩] else []
  let control : List Trap := if inReplay c.loops a then
      (b.slots.filter fun x => !replayAllows x).map fun x => ⟨0x02, 0x07, x.1, none, none⟩
    else []
  let closing : List Trap := if c.region.closing && !b.slots.any (fun x => isCut x.2) then [⟨0x02, 0x03, 15, none, none⟩] else []
  let ports : List Trap := match readExcess b.slots with
    | some k => [⟨0x13, 0, k, none, none⟩]
    | none => []
  cross ++ control ++ closing ++ ports

/-- The state in which core n issues bundle b. -/
def State.atBundle (s : State) (n : Nat) (b : Bundle) : State :=
  { s with ix := ⟨n, (s.core n).pc.toNat, b.len, b.idle, b.lits, 0, false, 0, none⟩ }

/-- A bundle whose slot k is the lowest that does not decode raises 0x02 there, unless one of its legal instructions or the bundle as a whole
has a cause that R42 records before it: 0x01, or 0x02 at a lower slot. -/
def State.rejectBundle (s : State) (k : Nat) (b : Bundle) : State :=
  let traps := bundleTraps (s.core s.ix.core) s.ix.addr b ++ (runSlots s b.slots).2
  s.takeTrap ((firstTrap (⟨0x02, 0, k, none, none⟩ :: traps)).getD ⟨0x02, 0, k, none, none⟩)

/-- Issue a decoded bundle of core n at address a: the cause it raises, or its effects.  A core whose domain is to stop at its cut line runs a
marker's REGION alone, and stops (R74). -/
def State.issueBundle (s : State) (b : Bundle) : State :=
  let n := s.ix.core
  let c := s.core n
  let (t, causes) := runSlots s b.slots
  match firstTrap (bundleTraps c s.ix.addr b ++ causes) with
  | some x => s.takeTrap x
  | none =>
    let stops := (s.launchOf n).bind fun l => l.stop.bind fun x => if x.atCut && !x.stopped && l.ending.isNone then some l.bind else none
    match stops, b.slots.any fun x => isCut x.2 with
    | some l, true => ((runSlots s (b.slots.filter fun x => isCut x.2)).1.freezeCore n).settleStop l
    | _, _ => t.finishBundle.pumpSys

/-- The 32-bit word at address a of core n's code store (R14). -/
def State.headerAt (s : State) (n a : Nat) : BitVec 32 := BitVec.ofNat 32 (memNat s.mem (codeBase n + a) 4)

/-- BUNDLE_ISSUE (R16, R42): a core stops at its bundle boundary for a fault found after issue (R419) or for a freeze (R74), or issues; a core that is held or has
ended stops for such a fault in the cycle in which it is found. -/
def execBundleIssue (core : Nat) (s : State) : Host.Outcome State Fault Refusal :=
  if 768 ≤ core then .fault .noSuchUnit
  else
    let c := s.core core
    if c.run == .held || c.run == .ended || c.run == .waiting then .next (s.settleLate core)
    else if c.run != .running || c.gate != .on || s.clock < c.nextIssue then .next s
    else
      match c.late with
      | some f => .next (s.takeException core f.cause f.detail f.slot f.addr)
      | none =>
        match (s.launchOf core).bind fun l => l.stop.bind fun x => if !x.atCut && !x.stopped && l.ending.isNone then some l.bind else none with
        | some l => .next ((s.freezeCore core).settleStop l)
        | none =>
          let a := c.pc.toNat
          match decodeBundle (s.headerAt core) a with
          | .error .illegalBundle => .next (s.takeException core 0x01 0 15 a)
          | .error (.illegalInstruction k b) => .next ((s.atBundle core b).rejectBundle k b)
          | .ok b => .next ((s.atBundle core b).issueBundle b)

end Sys2Proof.Machine
end

