-- ==== Sys2Proof/Machine/Visible.lean ====
section
/-! DEFINITION. What becomes visible at a cycle (R18, R19): buffer states (R147), bytes of memory (R326, R327), registers with their collisions
(R19, R133), write ports (R43, R45), and flags (R127). -/

namespace Sys2Proof.Machine

/-! Buffers and memory -/

/-- One change of a buffer's state (R147). -/
def State.applyBuf (s : State) (b : BufPend) : State :=
  let e := (s.core b.core).buf b.buf
  if e.decl then s.modCore b.core fun c => c.setBuf b.buf { e with st := b.st, fkind := b.fkind, filler := b.filler, held := b.held } else s

/-- The changes of buffers that are due: those of engines last (R147). A store's change from empty to filling and a BUFSET of the same
bundle apply in slot order, so the BUFSET stands: the spec orders only engines, and this is the model's choice (log 46). -/
def State.applyBufs (s : State) : State :=
  let due := s.bufPend.filter fun b => decide (b.due ≤ s.clock)
  let s := { s with bufPend := s.bufPend.filter fun b => !decide (b.due ≤ s.clock) }
  (due.filter (fun b => !b.engine) ++ due.filter (·.engine)).foldl State.applyBuf s

/-- Insert a write into a list in the write order (R327), after those of the same bank cycle. -/
def insertMem (m : MemPend) : List MemPend → List MemPend
  | [] => [m]
  | x :: r => if m.bank < x.bank then m :: x :: r else x :: insertMem m r

/-- One byte of a write: it is lost where a later write of the write order is visible already (R327). -/
def applyByte (bank : Nat) (acc : Memory × SMap Nat) (x : Nat × Byte) : Memory × SMap Nat :=
  if SMap.get 0 acc.2 x.1 ≤ bank then (memWriteByte acc.1 x.1 x.2, SMap.put 0 acc.2 x.1 bank) else acc

/-- The memory writes that are due (R326, R327). -/
def State.applyMem (s : State) : State :=
  let due := (s.memPend.filter fun m => decide (m.vis ≤ s.clock)).foldl (fun (l : List MemPend) m => insertMem m l) []
  let rest := s.memPend.filter fun m => !decide (m.vis ≤ s.clock)
  let (mem, recent) := due.foldl (fun (acc : Memory × SMap Nat) m => m.data.foldl (applyByte m.bank) acc) (s.mem, s.memRecent)
  { s with mem := mem, memPend := rest,
           memRecent := recent.filter fun x => rest.any fun m => decide (m.bank < x.2) && m.data.any fun d => d.1 == x.1 }

/-! Registers -/

/-- The register a write names: file and number; a change of a stream other than a GLD has its own order (R133). -/
def RegWrite.key (w : RegWrite) : Option (Nat × Nat) :=
  match w with
  | .s r _ | .gateCounts r _ _ | .later r => some (0, r.toNat)
  | .p r _ => some (1, r.toNat)
  | .k r _ _ => some (2, r.toNat)
  | .row r _ _ => some (3, r.toNat)
  | .g r (.load _) => some (4, r.toNat)
  | .g _ _ | .none => Option.none

/-- A write is issued later than another, or in the same cycle from a slot no lower (R19). -/
def PendWrite.after (a b : PendWrite) : Bool := if a.issued ≠ b.issued then b.issued < a.issued else b.slot ≤ a.slot

/-- The winners among writes of one cycle, and whether some write has lost (R19).  DESIGN CHOICE (log 46): two writes to p0, or to k0, collide like
those to any register, although both are discarded. -/
def resolveWrite (acc : List PendWrite × Bool) (w : PendWrite) : List PendWrite × Bool :=
  match acc.1.find? fun v => v.w.key == w.w.key with
  | none => (acc.1 ++ [w], acc.2)
  | some v => (if w.after v then acc.1.map (fun x => if x == v then w else x) else acc.1, true)

/-- A write to a row marks the matrix instructions in flight that will write its tile (R188). -/
def Core.touchTile (c : Core) (r : Nat) : Core :=
  { c with mops := c.mops.map fun m => if m.tiles.contains (r / 128) then { m with hit := true } else m }

/-- A write takes effect; writes to p0 and k0 are discarded (R78). -/
def Core.applyWrite (c : Core) (w : PendWrite) : Core :=
  match w.w with
  | .s r v => { c.setSreg r v with sWr := c.sWr.set r.toNat w.issued r.isLt }
  | .p r v =>
    if r = 0 then c
    else
      let bit : BitVec 16 := BitVec.ofNat 16 (2 ^ r.toNat)
      { c with p := if v then c.p ||| bit else c.p &&& ~~~bit, pWr := c.pWr.set r.toNat w.issued r.isLt }
  | .k r v m => if r = 0 then c else { c with k := c.k.set r.toNat ((c.kreg r &&& ~~~m) ||| (v &&& m)) r.isLt }
  | .row r v m => (c.setRow r.toNat (mergeRow (c.row r.toNat) v m)).touchTile r.toNat
  | .g r x => { c.setGreg r (x.apply (c.greg r)) with gWr := c.gWr.set r.toNat w.issued r.isLt }
  | .gateCounts _ _ _ | .later _ | .none => c

def PendWrite.isRow (w : PendWrite) : Bool :=
  match w.w with
  | .row _ _ _ => true
  | _ => false

/-- The bank of the accumulator file that a row write uses (R43). -/
def PendWrite.bank (w : PendWrite) : Option Nat :=
  match w.w with
  | .row r _ _ => some (r.toNat % 4)
  | _ => none

/-- The changes of a stream that the A slot and loops make, of one place in R133's order. -/
def PendWrite.place (w : PendWrite) : Option Nat :=
  match w.w with
  | .g _ x => some x.order
  | _ => none

/-- The writes that count against a bank's two ports in this cycle, when they are more than two (R43, R45): the recorded one. -/
def portExcess (due : List PendWrite) (bank : Nat) : Option PendWrite :=
  let ws := due.filter fun w => w.bank == some bank
  if ws.length ≤ 2 then none
  else ws.foldl (fun (b : Option PendWrite) w => match b with
    | none => some w
    | some v => some (if w.after v then w else v)) none

/-- A GLD that arrives at stream r meets a change of kind 2 or 3 among `rest` (R133): one that moves something of the stream as the GLD, and
then the changes of kind 2, leave it. -/
def meetsLoad (rest : List PendWrite) (r : BitVec 4) (d : Desc) : Bool :=
  let mine := rest.filterMap fun w => match w.w with
    | .g q x => if q = r then some x else none
    | _ => none
  let d := (mine.filter fun x => x.order == 1).foldl (fun d x => x.apply d) d
  mine.any fun x => x.order == 1 || x.moves d

/-- The writes of a cycle on one core: winners, then the changes of streams in their order (R133); and whether WCOL is set. -/
def orderWrites (due : List PendWrite) : List PendWrite × Bool :=
  let rest := due.filter fun w => w.place == some 1 || w.place == some 2
  let (wins, lost) := (due.filter fun w => w.w.key.isSome).foldl resolveWrite ([], false)
  let met := wins.any fun v => match v.w with
    | .g r (.load d) => meetsLoad rest r d
    | _ => false
  (wins ++ rest.filter (fun w => w.place == some 1) ++ rest.filter (fun w => w.place == some 2), lost || met)

/-- Insert by slot (R127).  DESIGN CHOICE (log 46): of two events of one slot that become visible on one cycle the one issued earlier is recorded first. -/
def insertSlot (w : PendWrite) : List PendWrite → List PendWrite
  | [] => [w]
  | x :: r => if w.slot < x.slot then w :: x :: r else x :: insertSlot w r

/-- The counts of a PGQ are taken after the issues of its cycle (R235, R248). -/
def State.countGate (s : State) (w : PendWrite) : PendWrite :=
  match w.w with
  | .gateCounts r k v =>
    let p := s.pair k
    { w with w := .s r (v ||| BitVec.ofNat 64 (p.up.rows.length * 2 ^ 4 + p.down.rows.length * 2 ^ 9)) }
  | _ => w

/-- The register writes of core n that are due. -/
def State.applyRegs (s : State) (n : Nat) : State :=
  let c := s.core n
  let pend := c.pend.map s.countGate
  let due := pend.filter fun w => decide (w.due ≤ s.clock)
  let c := { c with pend := pend.filter fun w => !decide (w.due ≤ s.clock) }
  let excess := [0, 1, 2, 3].filterMap (portExcess due)
  let live := if excess.isEmpty then due else due.filter fun w => !w.isRow
  let (ws, collide) := orderWrites live
  let c := ws.foldl Core.applyWrite c
  let c := if collide then c.collide else c
  let c := (due.foldl (fun (l : List PendWrite) w => insertSlot w l) []).foldl (fun (c : Core) w => c.raise w.flags w.slot w.addr w.stamp) c
  excess.foldl (fun (s : State) w => s.lateFault n 0x13 0 w.slot w.addr w.issued) (s.setCore n c)

/-- WRITE_VISIBLE (R18): what is due at this cycle becomes visible. -/
def execWriteVisible (s : State) : Host.Outcome State Fault Refusal :=
  let s := s.applyBufs.applyMem
  .next (((s.cores.filter fun kc => !kc.2.pend.isEmpty).map (·.1)).foldl State.applyRegs s)

end Sys2Proof.Machine
end

