-- ==== Sys2Proof/Machine/Dispatch.lean ====
section
/-! DEFINITION. The meaning of every instruction and step, one arm each. -/

namespace Sys2Proof.Machine

def exec (i : Instr) (s : State) : Host.Outcome State Fault Refusal :=
  match i with
  | .b p off => Sys2Proof.Machine.execB p off s
  | .call p off => Sys2Proof.Machine.execCall p off s
  | .calli p sa => Sys2Proof.Machine.execCalli p sa s
  | .ret p sa => Sys2Proof.Machine.execRet p sa s
  | .loop sa e => Sys2Proof.Machine.execLoop sa e s
  | .loopLit l e => Sys2Proof.Machine.execLoopLit l e s
  | .brkl p n off => Sys2Proof.Machine.execBrkl p n off s
  | .lidx p sd d => Sys2Proof.Machine.execLidx p sd d s
  | .region kind b nr => Sys2Proof.Machine.execRegion kind b nr s
  | .phase g l w j => Sys2Proof.Machine.execPhase g l w j s
  | .resync g w j => Sys2Proof.Machine.execResync g w j s
  | .trigger p => Sys2Proof.Machine.execTrigger p s
  | .trap p code => Sys2Proof.Machine.execTrap p code s
  | .sys p code => Sys2Proof.Machine.execSys p code s
  | .replay l st d => Sys2Proof.Machine.execReplay l st d s
  | .pand p o => Sys2Proof.Machine.execPand p o s
  | .por p o => Sys2Proof.Machine.execPor p o s
  | .pxor p o => Sys2Proof.Machine.execPxor p o s
  | .pget p sd h => Sys2Proof.Machine.execPget p sd h s
  | .pset p sa h => Sys2Proof.Machine.execPset p sa h s
  | .tltest p t r => Sys2Proof.Machine.execTltest p t r s
  | .tltestLit p t l => Sys2Proof.Machine.execTltestLit p t l s
  | .add o => Sys2Proof.Machine.execAdd o s
  | .sub o => Sys2Proof.Machine.execSub o s
  | .mul o => Sys2Proof.Machine.execMul o s
  | .mulh o => Sys2Proof.Machine.execMulh o s
  | .mulhu o => Sys2Proof.Machine.execMulhu o s
  | .div o => Sys2Proof.Machine.execDiv o s
  | .divu o => Sys2Proof.Machine.execDivu o s
  | .rem o => Sys2Proof.Machine.execRem o s
  | .remu o => Sys2Proof.Machine.execRemu o s
  | .and o => Sys2Proof.Machine.execAnd o s
  | .or o => Sys2Proof.Machine.execOr o s
  | .xor o => Sys2Proof.Machine.execXor o s
  | .andn o => Sys2Proof.Machine.execAndn o s
  | .shl o => Sys2Proof.Machine.execShl o s
  | .shr o => Sys2Proof.Machine.execShr o s
  | .sar o => Sys2Proof.Machine.execSar o s
  | .rot o => Sys2Proof.Machine.execRot o s
  | .min o => Sys2Proof.Machine.execMin o s
  | .max o => Sys2Proof.Machine.execMax o s
  | .minu o => Sys2Proof.Machine.execMinu o s
  | .maxu o => Sys2Proof.Machine.execMaxu o s
  | .cmp o => Sys2Proof.Machine.execCmp o s
  | .cmpu o => Sys2Proof.Machine.execCmpu o s
  | .sel o => Sys2Proof.Machine.execSel o s
  | .mov o => Sys2Proof.Machine.execMov o s
  | .lit o => Sys2Proof.Machine.execLit o s
  | .clz o => Sys2Proof.Machine.execClz o s
  | .popc o => Sys2Proof.Machine.execPopc o s
  | .bfx o => Sys2Proof.Machine.execBfx o s
  | .bfi o => Sys2Proof.Machine.execBfi o s
  | .sext o => Sys2Proof.Machine.execSext o s
  | .zext o => Sys2Proof.Machine.execZext o s
  | .fadd o => Sys2Proof.Machine.execFadd o s
  | .fsub o => Sys2Proof.Machine.execFsub o s
  | .fmul o => Sys2Proof.Machine.execFmul o s
  | .ffma o => Sys2Proof.Machine.execFfma o s
  | .fmin o => Sys2Proof.Machine.execFmin o s
  | .fmax o => Sys2Proof.Machine.execFmax o s
  | .fminp o => Sys2Proof.Machine.execFminp o s
  | .fmaxp o => Sys2Proof.Machine.execFmaxp o s
  | .fcmp o => Sys2Proof.Machine.execFcmp o s
  | .fsgn o => Sys2Proof.Machine.execFsgn o s
  | .fcvt o => Sys2Proof.Machine.execFcvt o s
  | .fdiv o => Sys2Proof.Machine.execFdiv o s
  | .fsqrt o => Sys2Proof.Machine.execFsqrt o s
  | .sld o => Sys2Proof.Machine.execSld o s
  | .slds o => Sys2Proof.Machine.execSlds o s
  | .sst o => Sys2Proof.Machine.execSst o s
  | .gset g f l => Sys2Proof.Machine.execGset g f l s
  | .gsets g f sa => Sys2Proof.Machine.execGsets g f sa s
  | .gld g sa off => Sys2Proof.Machine.execGld g sa off s
  | .gst g sa off => Sys2Proof.Machine.execGst g sa off s
  | .gadv g carry l n => Sys2Proof.Machine.execGadv g carry l n s
  | .grst g => Sys2Proof.Machine.execGrst g s
  | .gpos g l v => Sys2Proof.Machine.execGpos g l v s
  | .gmap g l b => Sys2Proof.Machine.execGmap g l b s
  | .vld o => Sys2Proof.Machine.execVld o s
  | .vst o => Sys2Proof.Machine.execVst o s
  | .vlda o => Sys2Proof.Machine.execVlda o s
  | .vsta o => Sys2Proof.Machine.execVsta o s
  | .vgth o => Sys2Proof.Machine.execVgth o s
  | .vsct o => Sys2Proof.Machine.execVsct o s
  | .vldb o => Sys2Proof.Machine.execVldb o s
  | .bufset o => Sys2Proof.Machine.execBufset o s
  | .bufq o => Sys2Proof.Machine.execBufq o s
  | .atom o => Sys2Proof.Machine.execAtom o s
  | .rlsend o => Sys2Proof.Machine.execRlsend o s
  | .rlrecv o => Sys2Proof.Machine.execRlrecv o s
  | .rlfree o => Sys2Proof.Machine.execRlfree o s
  | .vadd o => Sys2Proof.Machine.execVadd o s
  | .vsub o => Sys2Proof.Machine.execVsub o s
  | .vmul o => Sys2Proof.Machine.execVmul o s
  | .vfma o => Sys2Proof.Machine.execVfma o s
  | .vfms o => Sys2Proof.Machine.execVfms o s
  | .vfnma o => Sys2Proof.Machine.execVfnma o s
  | .vmin o => Sys2Proof.Machine.execVmin o s
  | .vmax o => Sys2Proof.Machine.execVmax o s
  | .vminp o => Sys2Proof.Machine.execVminp o s
  | .vmaxp o => Sys2Proof.Machine.execVmaxp o s
  | .vabs o => Sys2Proof.Machine.execVabs o s
  | .vneg o => Sys2Proof.Machine.execVneg o s
  | .vcmp o => Sys2Proof.Machine.execVcmp o s
  | .vsel o => Sys2Proof.Machine.execVsel o s
  | .vand o => Sys2Proof.Machine.execVand o s
  | .vor o => Sys2Proof.Machine.execVor o s
  | .vxor o => Sys2Proof.Machine.execVxor o s
  | .vnot o => Sys2Proof.Machine.execVnot o s
  | .vshl o => Sys2Proof.Machine.execVshl o s
  | .vshr o => Sys2Proof.Machine.execVshr o s
  | .vsar o => Sys2Proof.Machine.execVsar o s
  | .vmov o => Sys2Proof.Machine.execVmov o s
  | .vfill o => Sys2Proof.Machine.execVfill o s
  | .viota o => Sys2Proof.Machine.execViota o s
  | .vext o => Sys2Proof.Machine.execVext o s
  | .vins o => Sys2Proof.Machine.execVins o s
  | .vcvt o => Sys2Proof.Machine.execVcvt o s
  | .vcvts o => Sys2Proof.Machine.execVcvts o s
  | .vqnt o => Sys2Proof.Machine.execVqnt o s
  | .vfold o => Sys2Proof.Machine.execVfold o s
  | .vsplit o => Sys2Proof.Machine.execVsplit o s
  | .vexp2 o => Sys2Proof.Machine.execVexp2 o s
  | .vlog2 o => Sys2Proof.Machine.execVlog2 o s
  | .vrcp o => Sys2Proof.Machine.execVrcp o s
  | .vrsq o => Sys2Proof.Machine.execVrsq o s
  | .vsqrt o => Sys2Proof.Machine.execVsqrt o s
  | .vtanh o => Sys2Proof.Machine.execVtanh o s
  | .vsigm o => Sys2Proof.Machine.execVsigm o s
  | .vgelu o => Sys2Proof.Machine.execVgelu o s
  | .vrsum o => Sys2Proof.Machine.execVrsum o s
  | .vrmax o => Sys2Proof.Machine.execVrmax o s
  | .vrmin o => Sys2Proof.Machine.execVrmin o s
  | .vramax o => Sys2Proof.Machine.execVramax o s
  | .vscan o => Sys2Proof.Machine.execVscan o s
  | .vperm o => Sys2Proof.Machine.execVperm o s
  | .vrot o => Sys2Proof.Machine.execVrot o s
  | .vbcl o => Sys2Proof.Machine.execVbcl o s
  | .vzip o => Sys2Proof.Machine.execVzip o s
  | .vunzp o => Sys2Proof.Machine.execVunzp o s
  | .vrng o => Sys2Proof.Machine.execVrng o s
  | .kand o => Sys2Proof.Machine.execKand o s
  | .kor o => Sys2Proof.Machine.execKor o s
  | .kxor o => Sys2Proof.Machine.execKxor o s
  | .knot o => Sys2Proof.Machine.execKnot o s
  | .kpop o => Sys2Proof.Machine.execKpop o s
  | .kset o => Sys2Proof.Machine.execKset o s
  | .ksetImm o => Sys2Proof.Machine.execKsetImm o s
  | .mma o => Sys2Proof.Machine.execMma o s
  | .mzero o => Sys2Proof.Machine.execMzero o s
  | .mfold o => Sys2Proof.Machine.execMfold o s
  | .msave o => Sys2Proof.Machine.execMsave o s
  | .mload o => Sys2Proof.Machine.execMload o s
  | .mpre o => Sys2Proof.Machine.execMpre o s
  | .mtrn o => Sys2Proof.Machine.execMtrn o s
  | .cpyt o => Sys2Proof.Machine.execCpyt o s
  | .cpyu o => Sys2Proof.Machine.execCpyu o s
  | .cpym o => Sys2Proof.Machine.execCpym o s
  | .cfill o => Sys2Proof.Machine.execCfill o s
  | .cseal o => Sys2Proof.Machine.execCseal o s
  | .amo o => Sys2Proof.Machine.execAmo o s
  | .amof o => Sys2Proof.Machine.execAmof o s
  | .rtopk o => Sys2Proof.Machine.execRtopk o s
  | .rcap o => Sys2Proof.Machine.execRcap o s
  | .rdisp o => Sys2Proof.Machine.execRdisp o s
  | .tlife o => Sys2Proof.Machine.execTlife o s
  | .tdrop o => Sys2Proof.Machine.execTdrop o s
  | .fsend o => Sys2Proof.Machine.execFsend o s
  | .frdc o => Sys2Proof.Machine.execFrdc o s
  | .fag o => Sys2Proof.Machine.execFag o s
  | .fa2a o => Sys2Proof.Machine.execFa2a o s
  | .jrnl o => Sys2Proof.Machine.execJrnl o s
  | .emit o => Sys2Proof.Machine.execEmit o s
  | .jtrunc o => Sys2Proof.Machine.execJtrunc o s
  | .hflush o => Sys2Proof.Machine.execHflush o s
  | .hnote o => Sys2Proof.Machine.execHnote o s
  | .xlat o => Sys2Proof.Machine.execXlat o s
  | .xvalid o => Sys2Proof.Machine.execXvalid o s
  | .csrr o => Sys2Proof.Machine.execCsrr o s
  | .csrw o => Sys2Proof.Machine.execCsrw o s
  | .csrs o => Sys2Proof.Machine.execCsrs o s
  | .csrc o => Sys2Proof.Machine.execCsrc o s
  | .flgr o => Sys2Proof.Machine.execFlgr o s
  | .flgc o => Sys2Proof.Machine.execFlgc o s
  | .tcr o => Sys2Proof.Machine.execTcr o s
  | .pgate o => Sys2Proof.Machine.execPgate o s
  | .pgq o => Sys2Proof.Machine.execPgq o s
  | .moncap o => Sys2Proof.Machine.execMoncap o s
  | .tlrd o => Sys2Proof.Machine.execTlrd o s
  | .bundleIssue core => Sys2Proof.Machine.execBundleIssue core s
  | .sealedRegionTimeout core => Sys2Proof.Machine.execSealedRegionTimeout core s
  | .rendezvousRelease group => Sys2Proof.Machine.execRendezvousRelease group s
  | .freeze req => Sys2Proof.Machine.execFreeze req s
  | .restart bind => Sys2Proof.Machine.execRestart bind s
  | .domainStop bind => Sys2Proof.Machine.execDomainStop bind s
  | .retryWindowExpiry core group => Sys2Proof.Machine.execRetryWindowExpiry core group s
  | .scrub word => Sys2Proof.Machine.execScrub word s
  | .mmaOperandClaim core op step isB => Sys2Proof.Machine.execMmaOperandClaim core op step isB s
  | .matrixWriteComplete core op => Sys2Proof.Machine.execMatrixWriteComplete core op s
  | .msaveRowClaim core op row => Sys2Proof.Machine.execMsaveRowClaim core op row s
  | .blockCapture core cmd => Sys2Proof.Machine.execBlockCapture core cmd s
  | .timedCommandStart core cmd => Sys2Proof.Machine.execTimedCommandStart core cmd s
  | .copyBeat core cmd beat dst => Sys2Proof.Machine.execCopyBeat core cmd beat dst s
  | .timedCopyEnd core cmd => Sys2Proof.Machine.execTimedCopyEnd core cmd s
  | .untimedComplete op => Sys2Proof.Machine.execUntimedComplete op s
  | .xlatResult core x => Sys2Proof.Machine.execXlatResult core x s
  | .routingComplete core cmd => Sys2Proof.Machine.execRoutingComplete core cmd s
  | .atomicApply op => Sys2Proof.Machine.execAtomicApply op s
  | .hbmGroup core cmd item => Sys2Proof.Machine.execHbmGroup core cmd item s
  | .hbmRefresh stack pc bank => Sys2Proof.Machine.execHbmRefresh stack pc bank s
  | .rillEntryReady pair up => Sys2Proof.Machine.execRillEntryReady pair up s
  | .rillSlotFreed pair up => Sys2Proof.Machine.execRillSlotFreed pair up s
  | .powerGateDecision req => Sys2Proof.Machine.execPowerGateDecision req s
  | .gatingComplete core => Sys2Proof.Machine.execGatingComplete core s
  | .wakeComplete core => Sys2Proof.Machine.execWakeComplete core s
  | .realignmentComplete stack => Sys2Proof.Machine.execRealignmentComplete stack s
  | .migrationMove move => Sys2Proof.Machine.execMigrationMove move s
  | .launchWord q w src => Sys2Proof.Machine.execLaunchWord q w src s
  | .queueAgeing q => Sys2Proof.Machine.execQueueAgeing q s
  | .preemption bind => Sys2Proof.Machine.execPreemption bind s
  | .dispatch bind => Sys2Proof.Machine.execDispatch bind s
  | .launchStart bind => Sys2Proof.Machine.execLaunchStart bind s
  | .launchComplete bind => Sys2Proof.Machine.execLaunchComplete bind s
  | .resume bind => Sys2Proof.Machine.execResume bind s
  | .variantRebind bind => Sys2Proof.Machine.execVariantRebind bind s
  | .imageLoad slot addr len => Sys2Proof.Machine.execImageLoad slot addr len s
  | .watchdogExpiry ctl => Sys2Proof.Machine.execWatchdogExpiry ctl s
  | .handoverRecordWrite ctl => Sys2Proof.Machine.execHandoverRecordWrite ctl s
  | .monitorClear mon => Sys2Proof.Machine.execMonitorClear mon s
  | .monitorCapture mon => Sys2Proof.Machine.execMonitorCapture mon s
  | .retransmit dest => Sys2Proof.Machine.execRetransmit dest s
  | .collectiveCell op => Sys2Proof.Machine.execCollectiveCell op s
  | .patchAckDeadline patch => Sys2Proof.Machine.execPatchAckDeadline patch s
  | .patchSwitch patch => Sys2Proof.Machine.execPatchSwitch patch s
  | .journalAck end_ => Sys2Proof.Machine.execJournalAck end_ s
  | .emissionRelease op => Sys2Proof.Machine.execEmissionRelease op s
  | .reset laneTest => Sys2Proof.Machine.execReset laneTest s
  | .doubledRefresh stack need => Sys2Proof.Machine.execDoubledRefresh stack need s
  | .endTask => Sys2Proof.Machine.execEndTask s
  | .writeVisible => Sys2Proof.Machine.execWriteVisible s
  | .bankAccess => Sys2Proof.Machine.execBankAccess s
  | .meshHop => Sys2Proof.Machine.execMeshHop s
  | .droopStretch => Sys2Proof.Machine.execDroopStretch s
  | .clockCrossingSlip => Sys2Proof.Machine.execClockCrossingSlip s
  | .frequencyStepDown => Sys2Proof.Machine.execFrequencyStepDown s
  | .frequencyStepUp => Sys2Proof.Machine.execFrequencyStepUp s
  | .thermalFreeze => Sys2Proof.Machine.execThermalFreeze s
  | .powerFreeze => Sys2Proof.Machine.execPowerFreeze s
  | .freezeRelease => Sys2Proof.Machine.execFreezeRelease s
  | .hotnessInterval => Sys2Proof.Machine.execHotnessInterval s
  | .updateRecord => Sys2Proof.Machine.execUpdateRecord s
  | .faultRecord => Sys2Proof.Machine.execFaultRecord s
  | .faultRetry => Sys2Proof.Machine.execFaultRetry s
  | .faultUnresolvable => Sys2Proof.Machine.execFaultUnresolvable s
  | .windowSample => Sys2Proof.Machine.execWindowSample s
  | .bindDecision => Sys2Proof.Machine.execBindDecision s
  | .wwrite => Sys2Proof.Machine.execWwrite s
  | .wread => Sys2Proof.Machine.execWread s
  | .mgmtw => Sys2Proof.Machine.execMgmtw s
  | .mgmtr => Sys2Proof.Machine.execMgmtr s
  | .memw => Sys2Proof.Machine.execMemw s
  | .memr => Sys2Proof.Machine.execMemr s
  | .inval => Sys2Proof.Machine.execInval s
  | .resend => Sys2Proof.Machine.execResend s
  | .sysdone => Sys2Proof.Machine.execSysdone s
  | .hack => Sys2Proof.Machine.execHack s
  | .keyExchange => Sys2Proof.Machine.execKeyExchange s
  | .stage => Sys2Proof.Machine.execStage s
  | .commit => Sys2Proof.Machine.execCommit s
  | .abort => Sys2Proof.Machine.execAbort s
  | .takeover => Sys2Proof.Machine.execTakeover s
  | .heartbeat => Sys2Proof.Machine.execHeartbeat s
  | .monitorSample => Sys2Proof.Machine.execMonitorSample s
  | .rptreq => Sys2Proof.Machine.execRptreq s
  | .reportWritten => Sys2Proof.Machine.execReportWritten s
  | .securityAlarm => Sys2Proof.Machine.execSecurityAlarm s
  | .registerWrite => Sys2Proof.Machine.execRegisterWrite s
  | .cellSend => Sys2Proof.Machine.execCellSend s
  | .cellReceive => Sys2Proof.Machine.execCellReceive s
  | .peerLeft => Sys2Proof.Machine.execPeerLeft s
  | .lineDrift => Sys2Proof.Machine.execLineDrift s
  | .lineFailure => Sys2Proof.Machine.execLineFailure s
  | .lineRelock => Sys2Proof.Machine.execLineRelock s
  | .repairPatch => Sys2Proof.Machine.execRepairPatch s
  | .patchReceive => Sys2Proof.Machine.execPatchReceive s
  | .journalRecord => Sys2Proof.Machine.execJournalRecord s
  | .partnerLost => Sys2Proof.Machine.execPartnerLost s
  | .partnerRestore => Sys2Proof.Machine.execPartnerRestore s
  | .replayExtract => Sys2Proof.Machine.execReplayExtract s

end Sys2Proof.Machine
end

