-- ==== Sys2Proof/Machine/Step.lean ====
section
/-! DEFINITION. One step of the package: the next thing that happens in the clock cycle. -/

namespace Sys2Proof.Machine

/-- One step: run what `State.pick` says, or move on within the cycle or to the next. -/
def step (s : State) : Host.Outcome State Fault Refusal :=
  match s.pick with
  | .run ev t => exec ev t
  | .move t => .next t

/-- s with a word of the opcode table placed as the bundle that the next step issues (log 10). -/
def State.withFetchWord (s : State) (nbits w : Nat) : State := s.placeWord nbits w

end Sys2Proof.Machine
end

