-- ==== Sys2Proof/Certificates/Slice0/Obligations.lean ====
section
/-! DEFINITION. The statements for the provers, with the vocabulary they share.  Each says which numbered rules of spec/ it formalises; where one
rests on the model's own choice it names the log entry (notes/assumptions). -/

open Sys2Proof Sys2Proof.Machine

namespace Sys2Proof.Claim

/-- Memory and the map of cores are in canonical form: the invariant of `Obligations.CanonicalKept`, true of `State.reset`. -/
def Canon (s : State) : Prop := Memory.wf s.mem = true ∧ SMap.wf Core.init s.cores = true

/-- The write in flight that an instruction being issued leaves: its latency, flags and access (R18). -/
def inFlight (s : State) (w : RegWrite) (lat : Nat) (flags : BitVec 6) (acc : Nat) : PendWrite :=
  { due := s.clock + lat, issued := s.clock, slot := s.ix.slot, addr := s.ix.addr, stamp := s.cur.tcyc, w := w, flags := flags, acc := acc }

/-- Between s and t only the issuing core and the agenda differ. -/
def OnlyIssuer (s t : State) : Prop :=
  t = { s with cores := t.cores, agenda := t.agenda } ∧ ∀ k, k ≠ s.ix.core → t.core k = s.core k

/-- Between s and t the issuing core has put these writes in flight, and nothing else differs: no register, flag, special register,
accumulator, stream, buffer or byte of memory. -/
def OnlyWrites (s t : State) (ws : List PendWrite) : Prop :=
  OnlyIssuer s t ∧ t.cur = { s.cur with pend := s.cur.pend ++ ws } ∧ ∀ a, memByte t.mem a = memByte s.mem a

/-- An event stands on the agenda for a cycle. -/
def planned (t : State) (at_ : Nat) (ev : Instr) : Prop := ∃ a ∈ t.agenda, a.at_ = at_ ∧ a.ev = ev

/-- The next bundle comes from address a (R48). -/
def goTo (s : State) (a : Int) : State := { s with ix := { s.ix with transfer := true, next := (a % (2 ^ 32 : Nat)).toNat } }

/-- The exception that slot instruction i raises from s (R42, R76). -/
def trapped (s : State) (cause detail : BitVec 8) : State :=
  s.takeException s.ix.core cause detail s.ix.slot s.ix.addr

/-! Scalar results -/

/-- The integer instructions of R91: instruction, result and latency, from a = sa and b = the second operand. -/
def intTable (o : SOps) (a b : Word) : List (Instr × Word × Nat) :=
  [(.add o, a + b, 1), (.sub o, a - b, 1), (.mul o, a * b, 3),
   (.mulh o, (a.signExtend 128 * b.signExtend 128).extractLsb' 64 64, 3),
   (.mulhu o, (a.zeroExtend 128 * b.zeroExtend 128).extractLsb' 64 64, 3),
   (.and o, a &&& b, 1), (.or o, a ||| b, 1), (.xor o, a ^^^ b, 1), (.andn o, a &&& ~~~b, 1),
   (.shl o, a <<< (b &&& 63#64), 1), (.shr o, a >>> (b &&& 63#64), 1), (.sar o, a.sshiftRight' (b &&& 63#64), 1),
   (.rot o, (a <<< (b &&& 63#64)) ||| (a >>> (64 - (b &&& 63#64).toNat)), 1),
   (.min o, if a.toInt ≤ b.toInt then a else b, 1), (.max o, if a.toInt ≤ b.toInt then b else a, 1),
   (.minu o, if a.toNat ≤ b.toNat then a else b, 1), (.maxu o, if a.toNat ≤ b.toNat then b else a, 1)]

/-- The division instructions of R92, in the same form. -/
def divTable (o : SOps) (a b : Word) : List (Instr × Word × Nat) :=
  [(.div o, if b = 0 then 0xFFFFFFFFFFFFFFFF#64
     else if a = 0x8000000000000000#64 ∧ b = 0xFFFFFFFFFFFFFFFF#64 then 0x8000000000000000#64
     else BitVec.ofInt 64 (a.toInt.tdiv b.toInt), 24),
   (.divu o, if b = 0 then 0xFFFFFFFFFFFFFFFF#64 else BitVec.ofNat 64 (a.toNat / b.toNat), 24),
   (.rem o, if b = 0 then a
     else if a = 0x8000000000000000#64 ∧ b = 0xFFFFFFFFFFFFFFFF#64 then 0
     else BitVec.ofInt 64 (a.toInt - b.toInt * a.toInt.tdiv b.toInt), 24),
   (.remu o, if b = 0 then a else BitVec.ofNat 64 (a.toNat % b.toNat), 24)]

/-- The literal that entry i holds: 32 bits (R23). -/
def lit32 (s : State) (i : Nat) : BitVec 32 := BitVec.ofNat 32 (s.lit i)

/-- Both halves of an FP instruction (R96): f on the low words, and with modifier bit 0 on the high words. -/
def fpPair (s : State) (o : SOps) (f : Nat → Nat → Nat → Nat × Flags) : Word × Flags :=
  let a := s.cur.sreg o.sa
  let b := s.srcFp o.src
  let d := s.cur.sreg o.sd
  let lo := f (bitsOf a.toNat 0 32) (bitsOf b.toNat 0 32) (bitsOf d.toNat 0 32)
  let hi := if o.mod.getLsbD 0 then f (bitsOf a.toNat 32 32) (bitsOf b.toNat 32 32) (bitsOf d.toNat 32 32) else (0, 0)
  (BitVec.ofNat 64 (hi.1 * 2 ^ 32 + lo.1), lo.2 ||| hi.2)

/-- The FP instructions of R97 and R99: instruction, operation on one half, latency. -/
def fpTable (o : SOps) : List (Instr × (Nat → Nat → Nat → Nat × Flags) × Nat) :=
  let m := rndOf (o.mod.extractLsb' 1 2).toNat
  [(.fadd o, fun a b _ => fp32.add m a b, 4), (.fsub o, fun a b _ => fp32.sub m a b, 4), (.fmul o, fun a b _ => fp32.mul m a b, 4),
   (.ffma o, fun a b d => fp32.fma m a b d, 4), (.fmin o, fun a b _ => fp32.minmax false false a b, 4),
   (.fmax o, fun a b _ => fp32.minmax true false a b, 4), (.fminp o, fun a b _ => fp32.minmax false true a b, 4),
   (.fmaxp o, fun a b _ => fp32.minmax true true a b, 4), (.fdiv o, fun a b _ => fp32.div m a b, 14),
   (.fsqrt o, fun a _ _ => fp32.sqrt m a, 14),
   (.fsgn o, fun a b _ => (a % 2 ^ 31 + (match (o.mod.extractLsb' 1 2).toNat with
      | 0 => b / 2 ^ 31 % 2
      | 1 => 1 - b / 2 ^ 31 % 2
      | _ => (a / 2 ^ 31 % 2 + b / 2 ^ 31 % 2) % 2) * 2 ^ 31, 0), 4)]

/-- FCMP of one half (R98): the condition before inversion, and its NV. -/
def fcmpOne (cc a b : Nat) : Bool × Flags :=
  let r := (fp32.decode a).rel (fp32.decode b)
  (if cc = 0 then r.eq else if cc = 1 then r.lt else if cc = 2 then r.lt || r.eq else r.un,
   if cc = 0 ∨ cc = 3 then (if r.sig then flNV else 0) else (if r.un then flNV else 0))

/-- The predicate of an instruction that carries one (R17, R27). -/
def guardOf (i : Instr) : Option Pred :=
  match i with
  | .b p _ | .call p _ | .calli p _ | .ret p _ | .brkl p _ _ | .lidx p _ _ | .trigger p | .trap p _ | .sys p _ | .pand p _ | .por p _
  | .pxor p _ | .pget p _ _ | .pset p _ _ | .tltest p _ _ | .tltestLit p _ _ => some p
  | .add o | .sub o | .mul o | .mulh o | .mulhu o | .div o | .divu o | .rem o | .remu o | .and o | .or o | .xor o | .andn o | .shl o
  | .shr o | .sar o | .rot o | .min o | .max o | .minu o | .maxu o | .cmp o | .cmpu o | .sel o | .mov o | .lit o | .clz o | .popc o
  | .bfx o | .bfi o | .sext o | .zext o | .fadd o | .fsub o | .fmul o | .ffma o | .fmin o | .fmax o | .fminp o | .fmaxp o | .fcmp o
  | .fsgn o | .fcvt o | .fdiv o | .fsqrt o | .sld o | .slds o | .sst o => some o.p
  | _ => none

end Sys2Proof.Claim

open Sys2Proof.Claim

/-! Tier 1: the sequencer's common ground -/

/-- R17, R18: an instruction's write stands in flight from its issue until its latency has passed, WRITE_VISIBLE is due then, and nothing else changes; an instruction whose
predicate is false changes nothing. -/
def Obligations.IssuedWrites : Prop :=
  (∀ (s : State) (w : RegWrite) (lat : Nat) (flags : BitVec 6) (acc : Nat),
     OnlyWrites s (s.addWrite w lat flags acc) [inFlight s w lat flags acc] ∧
     ∃ a ∈ (s.addWrite w lat flags acc).agenda, a.at_ = s.clock + lat ∧ a.ev = .writeVisible) ∧
  (∀ (i : Instr) (p : Pred) (s : State), guardOf i = some p → s.cur.holds p = false → exec i s = .next s)

/-- R91: results and latencies of the integer instructions under a true predicate. -/
def Obligations.ScalarIntegerResults : Prop :=
  ∀ (o : SOps) (s : State), s.cur.holds o.p = true →
    ∀ x ∈ intTable o (s.cur.sreg o.sa) (s.srcInt o.src), exec x.1 s = .next (s.writeS o.sd x.2.1 x.2.2)

/-- R92: the division instructions: quotient toward zero, remainder with the sign of the dividend, latency 24; a divisor of zero and the overflow have their
results too, with no fault and no flag. -/
def Obligations.DivisionResults : Prop :=
  ∀ (o : SOps) (s : State), s.cur.holds o.p = true →
    ∀ x ∈ divTable o (s.cur.sreg o.sa) (s.srcInt o.src), exec x.1 s = .next (s.writeS o.sd x.2.1 x.2.2 0)

/-- R94: MOV, SEL and LIT. -/
def Obligations.ScalarSelectAndLiteral : Prop :=
  ∀ (o : SOps) (s : State), s.cur.holds o.p = true →
    exec (.mov o) s = .next (s.writeS o.sd (s.srcInt o.src) 1) ∧
    exec (.sel o) s = .next (s.writeS o.sd (if s.cur.preg (BitVec.ofNat 4 o.mod.toNat) then s.cur.sreg o.sa else s.srcInt o.src) 1) ∧
    ∀ i : BitVec 3, o.src = .lit i →
      (o.mod = 0 → exec (.lit o) s = .next (s.writeS o.sd ((lit32 s i.toNat).signExtend 64) 1)) ∧
      (o.mod = 1 → s.lit i.toNat < 2 ^ 32 → exec (.lit o) s = .next (s.writeS o.sd ((lit32 s i.toNat).zeroExtend 64) 1)) ∧
      (o.mod = 2 → s.lit i.toNat < 2 ^ 32 → s.lit (i.toNat + 1) < 2 ^ 32 →
        exec (.lit o) s = .next (s.writeS o.sd (lit32 s (i.toNat + 1) ++ lit32 s i.toNat) 1)) ∧
      (o.mod = 3 → s.lit i.toNat < 2 ^ 32 →
        exec (.lit o) s = .next (s.writeS o.sd (lit32 s i.toNat ++ (s.cur.sreg o.sd).extractLsb' 0 32) 1))

/-- R93, R95: the bit instructions, bit by bit; CMP and CMPU write the predicate that bits 3:0 of sd name, visible at issue + 1. -/
def Obligations.ScalarBitAndCompareResults : Prop :=
  (∀ (o : SOps) (s : State), s.cur.holds o.p = true →
     let a := s.cur.sreg o.sa
     let b := s.srcInt o.src
     let pos := (b.extractLsb' 0 6).toNat
     let width := (b.extractLsb' 8 6).toNat + 1
     let top := min width (64 - pos)
     (∃ n : Nat, n ≤ 64 ∧ (∀ i, i < n → a.getMsbD i = false) ∧ (n < 64 → a.getMsbD n = true) ∧
       exec (.clz o) s = .next (s.writeS o.sd (BitVec.ofNat 64 n) 1)) ∧
     exec (.popc o) s = .next (s.writeS o.sd (BitVec.ofNat 64 ((List.range 64).filter (a.getLsbD ·)).length) 1) ∧
     (∃ v : Word, (∀ i, i < 64 → v.getLsbD i = if i < top then a.getLsbD (pos + i) else o.mod.getLsbD 0 && a.getLsbD (pos + top - 1)) ∧
       exec (.bfx o) s = .next (s.writeS o.sd v 1)) ∧
     (∃ v : Word, (∀ i, i < 64 → v.getLsbD i = if pos ≤ i ∧ i < pos + width then a.getLsbD (i - pos) else (s.cur.sreg o.sd).getLsbD i) ∧
       exec (.bfi o) s = .next (s.writeS o.sd v 1)) ∧
     (o.mod.toNat ≤ 2 →
       (∃ v : Word, (∀ i, i < 64 → v.getLsbD i = a.getLsbD (min i (8 * 2 ^ o.mod.toNat - 1))) ∧ exec (.sext o) s = .next (s.writeS o.sd v 1)) ∧
       (∃ v : Word, (∀ i, i < 64 → v.getLsbD i = (decide (i < 8 * 2 ^ o.mod.toNat) && a.getLsbD i)) ∧
         exec (.zext o) s = .next (s.writeS o.sd v 1)))) ∧
  (∀ (o : SOps) (s : State), s.cur.holds o.p = true → o.mod.toNat ≤ 5 →
     let a := s.cur.sreg o.sa
     let b := s.srcInt o.src
     let cond (lt eq gt : Prop) : Prop :=
       (o.mod = 0 ∧ eq) ∨ (o.mod = 1 ∧ ¬eq) ∨ (o.mod = 2 ∧ lt) ∨ (o.mod = 3 ∧ ¬lt) ∨ (o.mod = 4 ∧ ¬gt) ∨ (o.mod = 5 ∧ gt)
     (∃ r : Bool, (r = true ↔ cond (a.toInt < b.toInt) (a = b) (b.toInt < a.toInt)) ∧
       exec (.cmp o) s = .next (s.writeP (o.sd.extractLsb' 0 4) r 1)) ∧
     (∃ r : Bool, (r = true ↔ cond (a.toNat < b.toNat) (a = b) (b.toNat < a.toNat)) ∧
       exec (.cmpu o) s = .next (s.writeP (o.sd.extractLsb' 0 4) r 1)))

/-- R96 to R100: the scalar FP instructions work on the low halves, with modifier bit 0 on the high halves too, and raise the flags of both with the result; FCMP (the condition
of modifier bits 2:1, inverted by bit 23; in the P2 form both halves must hold, each inverted first, which is the model's reading, log 20), and FCVT by its kind. -/
def Obligations.ScalarFloatResults : Prop :=
  (∀ (o : SOps) (s : State), s.cur.holds o.p = true →
     ∀ x ∈ fpTable o, exec x.1 s = .next (s.writeS o.sd (fpPair s o x.2.1).1 x.2.2 (fpPair s o x.2.1).2)) ∧
  (∀ (o : SOps) (s : State), s.cur.holds o.p = true →
     let a := (s.cur.sreg o.sa).toNat
     let b := (s.srcFp o.src).toNat
     let cc := (o.mod.extractLsb' 1 2).toNat
     let lo := fcmpOne cc (bitsOf a 0 32) (bitsOf b 0 32)
     let hi := fcmpOne cc (bitsOf a 32 32) (bitsOf b 32 32)
     let inv := o.sd.getLsbD 4
     (o.mod.getLsbD 0 = false → exec (.fcmp o) s = .next (s.writeP (o.sd.extractLsb' 0 4) (lo.1 != inv) 4 lo.2)) ∧
     (o.mod.getLsbD 0 = true →
       exec (.fcmp o) s = .next (s.writeP (o.sd.extractLsb' 0 4) ((lo.1 != inv) && (hi.1 != inv)) 4 (lo.2 ||| hi.2))) ∧
     exec (.fcvt o) s = .next (s.writeS o.sd (fcvtWord o.src.field.toNat (rndOf (o.mod.extractLsb' 1 2).toNat) (s.cur.sreg o.sa)).1 4
       (fcvtWord o.src.field.toNat (rndOf (o.mod.extractLsb' 1 2).toNat) (s.cur.sreg o.sa)).2))

/-! The C slot -/

/-- R58: TRAP raises cause 0x08 with DETAIL = code at its bundle; under a false predicate it does nothing. -/
def Obligations.TrapRaisesItsCode : Prop :=
  ∀ (p : Pred) (code : BitVec 8) (s : State),
    (s.cur.holds p = true → exec (.trap p code) s = .next (trapped s 0x08 code)) ∧ (s.cur.holds p = false → exec (.trap p code) s = .next s)

/-- R49, R52: B, CALL, CALLI and RET to a legal target and BRKL with levels to pop take effect; CALLI and RET to an illegal target and BRKL past the last level take the
exception. -/
def Obligations.ControlTransfers : Prop :=
  (∀ (p : Pred) (s : State), s.cur.holds p = true →
     let A : Int := s.ix.addr
     let link : Word := BitVec.ofNat 64 (s.ix.addr + s.ix.len)
     (∀ off : BitVec 19, exec (.b p off) s = .next (goTo s (A + 4 * off.toInt))) ∧
     (∀ off : BitVec 19, exec (.call p off) s = .next ((goTo s (A + 4 * off.toInt)).writeS 30 link 1)) ∧
     (∀ sa : BitVec 5, (s.cur.sreg sa).toNat < 2 ^ 18 → (s.cur.sreg sa).toNat % 4 = 0 →
       exec (.calli p sa) s = .next ((goTo s (s.cur.sreg sa).toNat).writeS 30 link 1) ∧
       exec (.ret p sa) s = .next (goTo s (s.cur.sreg sa).toNat)) ∧
     (∀ (n : BitVec 3) (off : BitVec 16), n.toNat ≤ s.cur.loops.length →
       exec (.brkl p n off) s = .next (goTo (s.modCur fun c => { c with loops := c.loops.drop n.toNat }) (A + 4 * off.toInt)))) ∧
  (∀ (p : Pred) (s : State), s.cur.holds p = true →
     (∀ sa : BitVec 5, (s.cur.sreg sa).toNat / 2 ^ 18 ≠ 0 ∨ (s.cur.sreg sa).toNat % 4 ≠ 0 →
       exec (.calli p sa) s = .next (trapped s 0x02 0x06) ∧ exec (.ret p sa) s = .next (trapped s 0x02 0x06)) ∧
     (∀ (n : BitVec 3) (off : BitVec 16), s.cur.loops.length < n.toNat → exec (.brkl p n off) s = .next (trapped s 0x02 0x02)))

namespace Sys2Proof.Claim

/-- LOOP with count n and end offset E, as R50 gives it, from state s to t. -/
def LoopRule (s : State) (n : BitVec 32) (E : Nat) (t : State) : Prop :=
  let start := s.ix.addr + s.ix.len
  let last := s.ix.addr + 4 * E
  let hd := s.codeAt last
  let past := last + bundleLen (hd.extractLsb' 0 11) (hd.extractLsb' 11 3).toNat
  (last < start ∨ 262144 ≤ last → t = trapped s 0x02 0x00) ∧
  (start ≤ last → last < 262144 → n = 0 → past ≤ 262144 → t = goTo s past) ∧
  (start ≤ last → last < 262144 → n = 0 → 262144 < past → t = s.takeException s.ix.core 0x01 0x00 15 s.ix.addr) ∧
  (start ≤ last → last < 262144 → n ≠ 0 → 6 ≤ s.cur.loops.length → t = trapped s 0x02 0x01) ∧
  (start ≤ last → last < 262144 → n ≠ 0 → s.cur.loops.length < 6 →
    t = goTo (s.pushLevel ⟨n, 0, BitVec.ofNat 18 start, BitVec.ofNat 18 last, none⟩) start)

/-- The writes of a push or an advance: one for each of the sixteen streams, visible at issue + 1 (R132). -/
def onEveryStream (s : State) (g : GChange) : List PendWrite := (List.range 16).map fun i => inFlight s (.g (BitVec.ofNat 4 i) g) 1 0 0

/-- The stage predicates of iteration i: p(8 + k) for k below S, true where 0 ≤ i - k < N (R67). -/
def stageWrites (s : State) (r : Replay) (i : Nat) : List PendWrite :=
  (List.range r.stages).map fun k => inFlight s (.p (BitVec.ofNat 4 (8 + k)) (decide (k ≤ i ∧ i - k < r.count.toNat))) 1 0 0

/-- The writes of a back-edge of level l, its index gone on already, with `depth` levels below it: a delta of each pair of a replay level and the stage
predicates of the iteration that begins, then AdvanceBoundStreams of that level (R51, R67, R132). -/
def backWrites (s : State) (l : LoopLevel) (depth : Nat) : List PendWrite :=
  (match l.replay with
   | none => []
   | some r => r.deltas.map (fun x => inFlight s (.g x.1 (.delta x.2)) 1 0 0) ++ stageWrites s r l.index.toNat) ++
  onEveryStream s (.advance depth)

/-- The replay level that REPLAY pushes (R67): count N, stages, and the deltas of literal entries 1 to D. -/
def replayLevel (s : State) (l : BitVec 8) (st d : BitVec 3) : LoopLevel :=
  let n := lit32 s 0
  let stop := s.ix.addr + s.ix.len + 4 * l.toNat
  let deltas := (List.range d.toNat).map fun i => (BitVec.ofNat 4 (s.lit (1 + i) / 2 ^ 28), BitVec.ofNat 28 (s.lit (1 + i)))
  ⟨n + BitVec.ofNat 32 (st.toNat - 1), 0, BitVec.ofNat 18 (s.ix.addr + s.ix.len), 0, some ⟨n, st.toNat, deltas, stop⟩⟩

end Sys2Proof.Claim

/-- R50, R67, R132: LOOP in both forms: the end it checks, count 0, a full loop stack, and the level it pushes; REPLAY with count 0 goes past its block, with a full loop stack
it traps, else it pushes its level and sets the stage predicates of iteration 0, p(8 + k) where k ≤ 0 < k + N; pushing a level changes the loop stack of the issuing core and puts a
push of that level's number in flight on every stream, visible at issue + 1 (what it does to a stream: `Obligations.StreamInstructions`), nothing else.  That a count N + S - 1 of
2^32 or more wraps, and that LEND is judged before a count of 0, are the model's choices (log 46). -/
def Obligations.LoopAndReplayResults : Prop :=
  (∀ (e : BitVec 13) (s : State),
     (∀ sa : BitVec 5, ∃ t, exec (.loop sa e) s = .next t ∧ LoopRule s ((s.cur.sreg sa).extractLsb' 0 32) e.toNat t) ∧
     (∀ l : BitVec 3, ∃ t, exec (.loopLit l e) s = .next t ∧ LoopRule s (lit32 s l.toNat) e.toNat t)) ∧
  (∀ (l : BitVec 8) (st d : BitVec 3) (s : State),
     let start := s.ix.addr + s.ix.len
     let lv := replayLevel s l st d
     (lit32 s 0 = 0 → exec (.replay l st d) s = .next (goTo s (start + 4 * l.toNat : Nat))) ∧
     (lit32 s 0 ≠ 0 → 6 ≤ s.cur.loops.length → exec (.replay l st d) s = .next (trapped s 0x02 0x01)) ∧
     (lit32 s 0 ≠ 0 → s.cur.loops.length < 6 → ∀ r, lv.replay = some r →
       exec (.replay l st d) s = .next (goTo ((s.pushLevel lv).stagePreds r 0) start))) ∧
  (∀ (s : State) (l : LoopLevel), OnlyIssuer s (s.pushLevel l) ∧
     (s.pushLevel l).cur = { s.cur with loops := l :: s.cur.loops, pend := s.cur.pend ++ onEveryStream s (.push s.cur.loops.length) } ∧
     ∀ a, memByte (s.pushLevel l).mem a = memByte s.mem a) ∧
  (∀ (s : State) (r : Replay) (i : Nat), OnlyWrites s (s.stagePreds r i) (stageWrites s r i))

/-- R48, R51: the end of a bundle: a control transfer goes to its target; without one the loop-end test decides: no level ends here, the innermost
level goes round, or it pops, and then so does every level that ends here with count 1.  The next issue is 1 + IDLE cycles later (R16).
R51, R67, R132: a back-edge, and nothing else at the end of a bundle, puts writes in flight: the deltas and stage predicates of a replay level, and the advance of the streams
bound to the level that goes round (what these do to a stream: `Obligations.StreamInstructions`). -/
def Obligations.BundleEndAndLoops : Prop :=
  ∀ s : State,
    let t := s.finishBundle
    t.cur.nextIssue = s.clock + 1 + s.ix.idle ∧
    (s.ix.transfer = true → t.cur.pc = BitVec.ofNat 32 s.ix.next ∧ t.cur.loops = s.cur.loops ∧ t.cur.pend = s.cur.pend) ∧
    (s.ix.transfer = false → (∀ l ∈ s.cur.loops.head?, l.endsAt s.ix.addr s.ix.len = false) →
      t.cur.pc = BitVec.ofNat 32 (s.ix.addr + s.ix.len) ∧ t.cur.loops = s.cur.loops ∧ t.cur.pend = s.cur.pend) ∧
    (∀ pre l post, s.ix.transfer = false → s.cur.loops = pre ++ l :: post →
      (∀ x ∈ pre, x.endsAt s.ix.addr s.ix.len = true ∧ x.count.toNat ≤ 1) → l.endsAt s.ix.addr s.ix.len = true → 1 < l.count.toNat →
      t.cur.pc = l.start.zeroExtend 32 ∧ t.cur.loops = { l with count := l.count - 1, index := l.index + 1 } :: post ∧
      t.cur.pend = s.cur.pend ++
        backWrites { s with ix := { s.ix with slot := 15 } } { l with count := l.count - 1, index := l.index + 1 } post.length) ∧
    (∀ pre post, s.ix.transfer = false → s.cur.loops = pre ++ post →
      (∀ x ∈ pre, x.endsAt s.ix.addr s.ix.len = true ∧ x.count.toNat ≤ 1) → (∀ l ∈ post.head?, l.endsAt s.ix.addr s.ix.len = false) →
      t.cur.pc = BitVec.ofNat 32 (s.ix.addr + s.ix.len) ∧ t.cur.loops = post ∧ t.cur.pend = s.cur.pend)

/-- R53, R55, R56: LIDX, PAND, POR, PXOR, PGET and PSET. -/
def Obligations.PredicateResults : Prop :=
  ∀ (p : Pred) (s : State), s.cur.holds p = true →
    (∀ o : PredOps,
      exec (.pand p o) s = .next (s.writeP o.pd (xor (s.cur.preg o.pa) o.na && xor (s.cur.preg o.pb) o.nb) 1) ∧
      exec (.por p o) s = .next (s.writeP o.pd (xor (s.cur.preg o.pa) o.na || xor (s.cur.preg o.pb) o.nb) 1) ∧
      exec (.pxor p o) s = .next (s.writeP o.pd (xor (xor (s.cur.preg o.pa) o.na) (xor (s.cur.preg o.pb) o.nb)) 1)) ∧
    (∀ (sd : BitVec 5) (h : Bool), ∃ v : Word, v.toNat < 256 ∧
      (∀ i, i < 8 → v.getLsbD i = s.cur.preg (BitVec.ofNat 4 ((if h then 8 else 0) + i))) ∧ exec (.pget p sd h) s = .next (s.writeS sd v 1)) ∧
    (∀ (sa : BitVec 5) (h : Bool), ∃ t, exec (.pset p sa h) s = .next t ∧ OnlyWrites s t ((List.range 8).map fun i =>
      inFlight s (.p (BitVec.ofNat 4 ((if h then 8 else 0) + i)) ((s.cur.sreg sa).getLsbD i)) 1 0 0)) ∧
    (∀ (sd : BitVec 5) (d : BitVec 3),
      (d.toNat ≤ 5 → exec (.lidx p sd d) s = .next (s.writeS sd (((s.cur.loops[d.toNat]?).map fun l => l.index.zeroExtend 64).getD 0) 1)) ∧
      (d = 7 → exec (.lidx p sd d) s = .next (s.writeS sd (BitVec.ofNat 64 s.cur.loops.length) 1)))

/-- R57, R59, R60, R61: TLTEST closes the open batch, then samples the context: kind 0 TLCNT ≥ value, kind 1 closed batches outstanding ≤ value; SYS joins timeline 7 with code, COREID,
TCYC, s0 to s7 and its tag; TRIGGER marks its core, and the launch's trigger fires when every core has triggered or ended; END retires the core. -/
def Obligations.TimelineTestSysTriggerEnd : Prop :=
  (∀ (p : Pred) (x : TlTest) (s : State), s.cur.holds p = true →
     let u := s.closeBatch s.ix.core x.c
     let k := u.cur.ctxAt x.c
     let sample (value : Nat) : Bool := if x.out then decide (k.closed - k.cnt ≤ value) else decide (value ≤ k.cnt)
     (∀ r : BitVec 5, exec (.tltest p x r) s = .next (u.writeP x.pd (sample (s.cur.sreg r).toNat) 2)) ∧
     (∀ l : BitVec 3, exec (.tltestLit p x l) s = .next (u.writeP x.pd (sample (s.lit l.toNat)) 2))) ∧
  (∀ (p : Pred) (s : State), s.cur.holds p = true →
     (∀ code : BitVec 8, ∃ t k, exec (.sys p code) s = .next t ∧ t.sysWait = s.sysWait ++ [s.nextId] ∧ t.cmds = s.cmds ++ [k] ∧
       k.id = s.nextId ∧ k.core = s.ix.core ∧ k.ctx = 7 ∧ k.timed = false ∧ k.writing = true ∧
       k.args = [BitVec.ofNat 64 code.toNat, BitVec.ofNat 64 s.ix.core, BitVec.ofNat 64 s.cur.tcyc] ++
         ((List.range 8).map fun i => s.cur.sreg (BitVec.ofNat 5 i)) ++ [s.cur.sysCount.zeroExtend 64] ∧
       t.cur.sysCount = s.cur.sysCount + 1 ∧ (t.cur.ctxAt 7).cur.members = (s.cur.ctxAt 7).cur.members + 1 ∧ t.mem = s.mem ∧ t.memPend = s.memPend) ∧
     (∃ t, exec (.trigger p) s = .next t ∧ t.cur = { s.cur with triggered := true } ∧ (∀ k, k ≠ s.ix.core → t.core k = s.core k) ∧
       t.mem = s.mem ∧ ∀ b, s.cur.bind = some b → s.ix.core ∈ (s.launch b).cores →
         (t.launch b).triggered = ((s.launch b).triggered ||
           (s.launch b).cores.all fun k => k == s.ix.core || (s.core k).run == .ended || (s.core k).triggered)) ∧
     (∃ t, exec .endTask s = .next t ∧ t.mem = s.mem ∧ (∀ k, k ≠ s.ix.core → t.core k = s.core k) ∧
       t.cur = { s.cur with run := .ended, loops := [], endedAtCut := false, region := ⟨.normal, s.clock, s.ix.addr, false⟩ }))

/-- R63, R64, R65, R73, R232: REGION opens a normal or a sealed region; where its literals are malformed, in a sealed region, or with rows in the FIFOs at a cut, it traps; a cut
marker takes the checkpoint: loop stack, TCYC, PHASENO, flags, the live scalars, predicates and streams at the values of the last writes issued, row ranges, tiles,
buffers; it is the latest cut line, and the region after it is open. -/
def Obligations.RegionMarkers : Prop :=
  (∀ (b nr : BitVec 3) (s : State),
     (∀ kind, regionLitsOk s b.toNat nr.toNat = false → exec (.region kind b nr) s = .next (trapped s 0x02 0x00)) ∧
     (regionLitsOk s b.toNat nr.toNat = true →
       (∀ kind, kind ≠ 2 → s.cur.region.kind = .sealed → exec (.region kind b nr) s = .next (trapped s 0x02 0x05)) ∧
       (s.cur.region.kind ≠ .sealed →
         exec (.region 0 b nr) s = .next (s.modCur fun c => { c with region := ⟨.normal, s.clock, s.ix.addr, false⟩ }) ∧
         exec (.region 1 b nr) s = .next (s.modCur fun c => { c with region := ⟨.sealed, s.clock, s.ix.addr, false⟩ })) ∧
       (s.pairBusy s.ix.core = true → exec (.region 2 b nr) s = .next (trapped s 0x02 0x12)))) ∧
  (∀ (b nr : BitVec 3) (s : State), regionLitsOk s b.toNat nr.toNat = true → s.pairBusy s.ix.core = false →
     ∃ t k, exec (.region 2 b nr) s = .next t ∧ t.cur.ckpt = some k ∧ t.cur.cutTcyc = s.cur.tcyc ∧ t.cur.panel = none ∧
       t.cur.region = ⟨.cut, s.clock, s.ix.addr, false⟩ ∧ t.mem = s.mem ∧ t.cur.s = s.cur.s ∧ t.cur.p = s.cur.p ∧ t.cur.rows = s.cur.rows ∧
       t.cur.g = s.cur.g ∧ t.cur.pend = s.cur.pend ∧
       k.entry = false ∧ k.addr = s.ix.addr ∧ k.loops = s.cur.loops ∧ k.tcyc = s.cur.tcyc ∧ k.phaseno = s.cur.phaseno ∧
       k.flagsA = s.cur.flagsA ∧ k.flagsB = s.cur.flagsB ∧ k.fevrec = s.cur.fevrec ∧ k.bufs = s.cur.bufs ∧
       (∀ r : Fin 32, k.s[r] = if bitsOf (s.lit b.toNat) r.val 1 = 1 then s.cur.lastS r.val else 0) ∧
       (∀ i, 1 ≤ i → i < 16 → k.p.getLsbD i = (decide (bitsOf (s.lit (b.toNat + 1)) i 1 = 1) && s.cur.lastP i)) ∧
       (∀ r : Fin 16, k.g[r] = if bitsOf (s.lit (b.toNat + 1)) (16 + r.val) 1 = 1 then s.cur.lastG r.val else 0) ∧
       k.tiles = BitVec.ofNat 16 (s.lit (b.toNat + 2)) ∧
       k.rows = (List.range nr.toNat).map fun i =>
         (bitsOf (s.lit (b.toNat + 3 + i)) 0 11, bitsOf (s.lit (b.toNat + 3 + i)) 16 11))

namespace Sys2Proof.Claim

/-- The wait entries of a PHASE or RESYNC (R68): literal pairs from entry j on. -/
def waitList (s : State) (w : BitVec 2) (j : BitVec 3) : List Wait :=
  (List.range w.toNat).map fun i =>
    let v := s.lit64 (j.toNat + 2 * i)
    ⟨bitsOf v 63 1 == 1, bitsOf v 60 3, bitsOf v 0 60⟩

/-- The arrival of PHASE (number n) or RESYNC at group g, from s to t: its checks in turn, then the hold (R68, R69, R71, R196, R334). -/
def ArrivalRule (s : State) (resync : Bool) (g : Nat) (n : BitVec 32) (ws : List Wait) (t : State) : Prop :=
  let arrival := s.cur.tcyc + max (1 + s.ix.idle) 8
  let u := ws.foldl (fun (u : State) (w : Wait) => u.closeBatch s.ix.core (BitVec.ofNat 3 w.ctx)) s
  let member := s.ix.core ∈ s.members g
  let kindOk := ∀ h, s.rendezvous g = some h → h.resync = resync
  let numberOk := ∀ h, s.rendezvous g = some h → resync = false → h.n = n
  let covered := resync = true ∨ ∀ i ∈ [0, 1, 2, 3, 5, 7], (u.cur.ctxAt (BitVec.ofNat 3 i)).writes = true →
    (u.cur.ctxAt (BitVec.ofNat 3 i)).coveredBy i ws = true
  let inTime := ∀ k ∈ s.cmds, k.core = s.ix.core → k.timed = true → k.stage ≠ .running → k.tS < arrival
  (¬member → t = trapped s 0x02 0x08) ∧
  (member → ¬kindOk → t = trapped s 0x02 0x0A) ∧
  (member → kindOk → ¬numberOk → t = trapped s 0x02 0x09) ∧
  (member → kindOk → numberOk → ¬covered → t = trapped s 0x06 0x06) ∧
  (member → kindOk → numberOk → covered → ¬inTime → t = trapped s 0x12 0) ∧
  (member → kindOk → numberOk → covered → inTime →
    t = u.modCur fun c => { c with run := .held, hold := some ⟨g, resync, n, arrival, ws, s.clock, false, s.ix.addr, false⟩ })

end Sys2Proof.Claim

/-- R68, R69, R71, R334: PHASE and RESYNC close the batches they wait for and hold the core, or take the exception of the first check that fails. -/
def Obligations.PhaseAndResyncArrive : Prop :=
  ∀ (g : BitVec 8) (w : BitVec 2) (j : BitVec 3) (s : State),
    (∀ l : BitVec 3, ∃ t, exec (.phase g l w j) s = .next t ∧ ArrivalRule s false g.toNat (lit32 s l.toNat) (waitList s w j) t) ∧
    (∃ t, exec (.resync g w j) s = .next t ∧ ArrivalRule s true g.toNat 0 (waitList s w j) t)

/-! Memory: scalar accesses -/

namespace Sys2Proof.Claim

/-- The effective address of SLD, SLDS and SST: sa plus the second operand modulo 2^64, aligned down to the width (R101). -/
def scalarAddr (s : State) (o : SOps) (n : Nat) : Nat := (s.cur.sreg o.sa + s.srcInt o.src).toNat / n * n

/-- The exception of strict mode for an access out of range (R143): 0x07, and OORREC all the same. -/
def strictTrap (s : State) (ea : Nat) (write : Bool) : State :=
  s.takeTrap ⟨0x07, 0, s.ix.slot, some (oorWord ea write s.ix.slot s.cur.tcyc), none⟩

/-- An effective address that reaches no slice and no window that answers it: 2^40 and above, windows 1 to 254 for a load, 64 KiB and above in window
255 (R103, R143, R295). -/
def reachesNothing (ea : Nat) (load : Bool) : Prop :=
  2 ^ 40 ≤ ea ∨ (ea / 2 ^ 32 = 255 ∧ 2 ^ 16 ≤ ea % 2 ^ 32) ∨ (load = true ∧ 0 < ea / 2 ^ 32 ∧ ea / 2 ^ 32 < 255)

/-- A value as a load gives it: zero-extended, or sign-extended from the width (R101). -/
def extended (sgn : Bool) (n : Nat) (v : Nat) : Word :=
  if sgn && decide (2 ^ (8 * n - 1) ≤ v) then BitVec.ofNat 64 (v + 2 ^ 64 - 2 ^ (8 * n)) else BitVec.ofNat 64 v

/-- SLD (sgn false) and SLDS, as R101 to R103 give them, from s to t: an address in window 0, in the coherent window, or out of range. -/
def LoadRule (s : State) (o : SOps) (sgn : Bool) (t : State) : Prop :=
  let n := 2 ^ (o.mod.extractLsb' 0 2).toNat
  let ea := scalarAddr s o n
  let r : Req := ⟨ea, n, false, none⟩
  (ea < 2 ^ 32 → ∀ x, s.checkReq r (List.range n) = .error x → t = s.takeTrap x) ∧
  (ea < 2 ^ 32 → ∀ oor, s.checkReq r (List.range n) = .ok oor →
    t = (s.beginAccess r oor 0 ((s.liveBytes r (List.range n)).map (·.2))).2.writeS o.sd (extended sgn n (leNat (s.readReq r)))
      (s.rowLat s.ix.core (reqTarget s.ix.core r)) 0 s.nextId) ∧
  (ea / 2 ^ 32 = 255 → ea % 2 ^ 32 < 2 ^ 16 → t = s.windowAccess (ea % 2 ^ 16) n false 0 o.sd sgn) ∧
  (reachesNothing ea true → s.strict s.ix.core = true → t = strictTrap s ea false) ∧
  (reachesNothing ea true → s.strict s.ix.core = false →
    t = (s.recordOor false (some ea)).writeS o.sd 0 (if ea / 2 ^ 32 = 255 then 48 else s.rowLat s.ix.core s.ix.core))

/-- SST, as R87, R101 to R103, R303 and R369 give it, from s to t. -/
def StoreRule (s : State) (o : SOps) (t : State) : Prop :=
  let n := 2 ^ (o.mod.extractLsb' 0 2).toNat
  let ea := scalarAddr s o n
  let r : Req := ⟨ea, n, true, none⟩
  let v := (s.cur.sreg o.sd).toNat
  let off := ea % 2 ^ 16
  let belowLimit := (s.cur.slim.toNat % 2 ^ 22 ≠ 0 ∧ coreOfAddr ea = some s.ix.core ∧ ea % 2 ^ 22 < s.cur.slim.toNat % 2 ^ 22)
  let refused := off < 0x4000 ∧ (0x200 ≤ off ∨ n ≠ 8)
  (ea < 2 ^ 32 → belowLimit → t = trapped s 0x04 0) ∧
  (ea < 2 ^ 32 → ¬belowLimit → ∀ x, s.checkReq r (List.range n) = .error x → t = s.takeTrap x) ∧
  (ea < 2 ^ 32 → ¬belowLimit → ∀ oor, s.checkReq r (List.range n) = .ok oor → t = (s.storeReq s r (List.range n) oor 0 (leBytes n v)).2) ∧
  (0 < ea / 2 ^ 32 → ea / 2 ^ 32 < 255 → ∀ x, s.postWrite s ea n [(0, leBytes n v)] = .ok x → t = x) ∧
  (0 < ea / 2 ^ 32 → ea / 2 ^ 32 < 255 → ∀ x, s.postWrite s ea n [(0, leBytes n v)] = .error x → t = s.takeTrap x) ∧
  (ea / 2 ^ 32 = 255 → ea % 2 ^ 32 < 2 ^ 16 → ¬refused → t = s.windowAccess off n true (v % 2 ^ (8 * n)) 0 false) ∧
  (ea / 2 ^ 32 = 255 → ea % 2 ^ 32 < 2 ^ 16 → refused → s.strict s.ix.core = false → t = (s.recordOor true (some ea)).badLaunch off) ∧
  (ea / 2 ^ 32 = 255 → ea % 2 ^ 32 < 2 ^ 16 → refused → s.strict s.ix.core = true →
    t = strictTrap (s.badLaunch off) ea true) ∧
  (off < 0x200 → s.badLaunch off = s.setQueue (off / 8) { s.queue (off / 8) with lastCode := 1 }) ∧
  (reachesNothing ea false → s.strict s.ix.core = true → t = strictTrap s ea true) ∧
  (reachesNothing ea false → s.strict s.ix.core = false → t = s.recordOor true (some ea))

end Sys2Proof.Claim

/-- R101, R102, R103, R143: scalar loads, for every address.  Where the load reaches no slice the spec gives the 0 it writes no latency: the own slice's, and 48 cycles in
window 255 beyond its 64 KiB, are the model's choice (log 46). -/
def Obligations.ScalarLoads : Prop :=
  ∀ (o : SOps) (s : State), s.cur.holds o.p = true →
    (∃ t, exec (.sld o) s = .next t ∧ LoadRule s o false t) ∧ (∃ t, exec (.slds o) s = .next t ∧ LoadRule s o true t)

/-- R142, R146, R149, R260: an access by a core to its own slice whose bytes are in range, with no buffer declared, passes its checks and reads the
bytes that stand there; latency 8 cycles on the lower die and 6 on the upper, 2 more at half width. -/
def Obligations.OwnSliceAccess : Prop :=
  ∀ (s : State) (ea n : Nat) (write : Bool), 0 < n →
    (∀ i, i < n → coreOfAddr (ea + i) = some s.ix.core ∧ (ea + i) / 2 ^ 22 = ea / 2 ^ 22 ∧ ea + i < 2 ^ 32 ∧
      (ea + i) / 2 ^ 18 % 16 < 16 - s.cur.lent) →
    s.cur.bufs = [] →
    s.checkReq ⟨ea, n, write, none⟩ (List.range n) = .ok none ∧
    s.readReq ⟨ea, n, write, none⟩ = memBytes s.mem (nearBase + ea) n ∧
    s.rowLat s.ix.core s.ix.core = (if coreUpper s.ix.core then 6 else 8) + (if s.cur.bus.wstate = 1 then 2 else 0)

/-- R87, R101, R103, R143, R303, R369: scalar stores, for every address.  A refused store to the launch registers leaves LASTCODE 0x01, in strict mode too (R303's 'in either
case', read in log 29); that offsets 0x200 to 0x3FFF, and every other length than 8 bytes below 0x4000, are refused rests on R341 and log 33.
R149, R326, R327: a store changes no byte at once; its bytes, those selected and in range, stand in flight with their visibility cycle and bank cycle,
at the addresses of the request. -/
def Obligations.ScalarStores : Prop :=
  (∀ (o : SOps) (s : State), s.cur.holds o.p = true → ∃ t, exec (.sst o) s = .next t ∧ StoreRule s o t) ∧
  (∀ (s : State) (r : Req) (sel : List Nat) (oor : Option Nat) (extra : Nat) (data : List Byte),
     let t := (s.storeReq s r sel oor extra data).2
     let live := s.liveBytes r sel
     (∀ a, memByte t.mem a = memByte s.mem a) ∧
     (∀ k, t.core k = if k = s.ix.core then (s.recordOor r.write oor).core k else s.core k) ∧
     (∀ x ∈ live, r.ea ≤ x.2 ∧ x.2 < r.ea + r.len ∧ x.2 = r.ea + x.1) ∧
     (live = [] → t.memPend = s.memPend) ∧
     (live ≠ [] → t.memPend = s.memPend ++ [{
       vis := s.clock + s.rowLat s.ix.core (reqTarget s.ix.core r) + extra, bank := s.clock + s.bankLat s.ix.core (reqTarget s.ix.core r) + extra,
       op := s.nextId, store := s.ix.core, data := live.map fun x => (nearBase + x.2, data.getD x.1 0) }]))

/-! Streams -/

namespace Sys2Proof.Claim

/-- First bit and width of what GSET writes, for each FIELD (R128, R137). -/
def fieldPlace (f : BitVec 4) : Nat × Nat :=
  [(0, 16), (16, 16), (32, 40), (72, 24), (96, 16), (112, 24), (136, 16), (160, 32), (192, 32), (288, 32), (320, 32), (352, 32), (384, 32),
   (416, 32), (448, 32), (480, 16)].getD f.toNat (0, 0)

/-- Index, extent and binding of a stream level (R128, R129). -/
def idxOf (d : Desc) (l : Nat) : Nat := d.toNat / 2 ^ (224 + 16 * l) % 2 ^ 16
def extOf (d : Desc) (l : Nat) : Nat := d.toNat / 2 ^ (160 + 16 * l) % 2 ^ 16
def boundOf (d : Desc) (l : Nat) : Nat := d.toNat / 2 ^ (16 + 3 * l) % 2 ^ 3

/-- From d to e the four indices have become f, and every other bit of the descriptor stands. -/
def Moved (d e : Desc) (f : Nat → Nat) : Prop :=
  (∀ k, k < 4 → idxOf e k = f k) ∧ ∀ i, i < 512 → (i < 224 ∨ 288 ≤ i) → e.getLsbD i = d.getLsbD i

/-- The index of level k after GADV with carry c has gone through these levels: a level in use takes index + c modulo its extent and hands on the floor of the
quotient; a quotient of 0 ends it (R139). -/
def carryIdx (ext idx : Nat → Nat) (k : Nat) : Int → List Nat → Nat
  | _, [] => idx k
  | c, j :: js =>
    if ext j = 0 then carryIdx ext idx k c js
    else if k = j then ((idx j + c) % ext j).toNat
    else if (idx j + c) / ext j = 0 then idx k
    else carryIdx ext idx k ((idx j + c) / ext j) js

end Sys2Proof.Claim

/-- R136, R137, R139: the A slot's changes of a stream, visible at issue + 1; GSET's BASE takes a 64-bit literal pair.
R132, R137, R139: what the changes do to a descriptor, and that they leave every other bit of it: a field (every index stands), all indices to 0, one index within its
extent, a binding; GADV moves its level modulo its extent, with carry into the levels after it, and does nothing to a level of extent 0.
R67, R132: a push sets the levels bound to it to index 0; an advance moves those in use by one modulo their extent; a replay delta is added to BASE modulo 2^40, in buffer
mode modulo 2^22.
R138: GLD and GST move 64 bytes between a stream and memory, aligned to 64: their checks, or the exception of the first that fails. -/
def Obligations.StreamInstructions : Prop :=
  (∀ (g f : BitVec 4) (l2 : BitVec 2) (s : State),
     (∀ l : BitVec 3, exec (.gset g f l) s =
       .next (s.addWrite (.g g (.field f (BitVec.ofNat 64 (if f = 2 then s.lit l.toNat + 2 ^ 32 * s.lit (l.toNat + 1) else s.lit l.toNat)))) 1)) ∧
     (∀ sa : BitVec 5, exec (.gsets g f sa) s = .next (s.addWrite (.g g (.field f (s.cur.sreg sa))) 1)) ∧
     (∀ (c : Bool) (n : BitVec 16), exec (.gadv g c l2 n) s = .next (s.addWrite (.g g (.adv l2.toNat n.toInt c)) 1)) ∧
     exec (.grst g) s = .next (s.addWrite (.g g .rst) 1) ∧
     (∀ v : BitVec 16, exec (.gpos g l2 v) s = .next (s.addWrite (.g g (.pos l2.toNat v.toNat)) 1)) ∧
     (∀ b : BitVec 3, exec (.gmap g l2 b) s = .next (s.addWrite (.g g (.map l2.toNat b)) 1))) ∧
  (∀ (d : Desc) (l : Nat), l < 4 →
     (∀ v, GChange.apply (.load v) d = v) ∧
     (∀ (f : BitVec 4) (v : Word) (i : Nat), i < 512 → (GChange.apply (.field f v) d).getLsbD i =
       if (fieldPlace f).1 ≤ i ∧ i < (fieldPlace f).1 + (fieldPlace f).2 then v.getLsbD (i - (fieldPlace f).1) else d.getLsbD i) ∧
     (Moved d (GChange.apply .rst d) fun _ => 0) ∧
     (∀ v, v < 2 ^ 16 → Moved d (GChange.apply (.pos l v) d) fun k => if k = l then (if extOf d l = 0 then v else v % extOf d l) else idxOf d k) ∧
     (∀ (b : BitVec 3) (i : Nat), i < 512 → (GChange.apply (.map l b) d).getLsbD i =
       if 16 + 3 * l ≤ i ∧ i < 16 + 3 * l + 3 then b.getLsbD (i - (16 + 3 * l)) else d.getLsbD i) ∧
     (extOf d l = 0 → ∀ (n : Int) (c : Bool), GChange.apply (.adv l n c) d = d) ∧
     (extOf d l ≠ 0 → ∀ n : Int, Moved d (GChange.apply (.adv l n false) d) fun k => if k = l then ((idxOf d l + n) % extOf d l).toNat else idxOf d k) ∧
     (extOf d l ≠ 0 → ∀ n : Int, Moved d (GChange.apply (.adv l n true) d) fun k => carryIdx (extOf d) (idxOf d) k n ((List.range 4).drop l)) ∧
     (∀ k, k < 6 → Moved d (GChange.apply (.push k) d) fun j => if boundOf d j = k then 0 else idxOf d j) ∧
     (∀ k, k < 6 → Moved d (GChange.apply (.advance k) d) fun j =>
       if boundOf d j = k ∧ extOf d j ≠ 0 then (idxOf d j + 1) % extOf d j else idxOf d j) ∧
     (∀ (x : BitVec 28) (i : Nat), i < 512 → (GChange.apply (.delta x) d).getLsbD i =
       if 32 ≤ i ∧ i < 72 then
         (((d.toNat / 2 ^ 32 % 2 ^ 40 : Nat) + x.toInt) % (2 ^ (if d.getLsbD 5 then 22 else 40) : Nat)).toNat.testBit (i - 32)
       else d.getLsbD i)) ∧
  (∀ (g : BitVec 4) (sa : BitVec 5) (off : BitVec 11) (s : State),
     let ea := (s.cur.sreg sa + BitVec.ofInt 64 (64 * off.toInt)).toNat / 64 * 64
     let ld : Req := ⟨ea, 64, false, none⟩
     let st : Req := ⟨ea, 64, true, none⟩
     let all := List.range 64
     (∀ x, s.checkReq ld all = .error x → exec (.gld g sa off) s = .next (s.takeTrap x)) ∧
     (∀ oor, s.checkReq ld all = .ok oor → exec (.gld g sa off) s =
       .next ((s.beginAccess ld oor 0 ((s.liveBytes ld all).map (·.2))).2.addWrite (.g g (.load (BitVec.ofNat 512 (leNat (s.readReq ld)))))
         (s.rowLat s.ix.core (reqTarget s.ix.core ld)) 0 s.nextId)) ∧
     (∀ x, s.checkReq st all = .error x → exec (.gst g sa off) s = .next (s.takeTrap x)) ∧
     (∀ oor, s.checkReq st all = .ok oor → exec (.gst g sa off) s =
       .next (s.storeReq s st all oor 0 (all.map fun i => (s.cur.greg g).extractLsb' (8 * i) 8)).2))

/-! The L slot -/

namespace Sys2Proof.Claim

/-- A load that has passed its checks, from s to t: one row write in flight, OORREC when a byte was out of range (R143), claims named after the
operation, and nothing else of any core, no byte of memory. -/
def LoadEffect (s t : State) (w : RegWrite) (lat : Nat) (flags : BitVec 6) (oor : Option (Nat × Bool)) : Prop :=
  t.cur = { s.cur with pend := s.cur.pend ++ [inFlight s w lat flags s.nextId], oorrec := t.cur.oorrec } ∧
  (oor = none → t.cur.oorrec = s.cur.oorrec) ∧ (∀ k, k ≠ s.ix.core → t.core k = s.core k) ∧
  t.memPend = s.memPend ∧ t.bufPend = s.bufPend ∧ (∀ a, memByte t.mem a = memByte s.mem a) ∧
  ∃ as, t.accs = s.accs ++ as ∧ ∀ a ∈ as, a.op = s.nextId ∧ a.core = s.ix.core ∧ a.issued = s.clock ∧ a.write = false

/-- A store that has passed its checks, from s to t: the entries of `parts` that hold a byte in flight, visible at `vis`, in the write order at `bank`; the writes `ws` in
flight carry flags only; OORREC when a byte was out of range (R143); no register, and no byte of memory, changes at once. -/
def StoreEffect (s t : State) (parts : List (List (Nat × Byte))) (vis bank : Nat) (ws : List PendWrite) (oor : Option (Nat × Bool)) : Prop :=
  t.cur = { s.cur with pend := s.cur.pend ++ ws, oorrec := t.cur.oorrec } ∧
  (oor = none → t.cur.oorrec = s.cur.oorrec) ∧ (∀ k, k ≠ s.ix.core → t.core k = s.core k) ∧
  (∀ a, memByte t.mem a = memByte s.mem a) ∧
  (t.memPend = s.memPend ++ (parts.filter (!·.isEmpty)).map fun d => ⟨vis, bank, s.nextId, s.ix.core, d⟩) ∧
  ∃ as, t.accs = s.accs ++ as ∧ ∀ a ∈ as, a.op = s.nextId ∧ a.core = s.ix.core ∧ a.issued = s.clock

/-- The addresses of a part that its mask selects and that are in range (R142). -/
def partAddrs (s : State) (win : Option (Nat × Nat)) (p : Part) : List Nat :=
  (p.bytes.filter fun b => b.2 && partIn s win p b.1).map (·.1)

/-- Lane i of a row as it is loaded from address a: w bytes, least significant first; out of range zero. -/
def laneAt (s : State) (win : Option (Nat × Nat)) (p : Part) (a w i : Nat) : Nat :=
  leNat ((List.range w).map fun k => if partIn s win p (a + w * i + k) then s.nearByte (a + w * i + k) else 0)

/-- The bytes of a VST to the row of memory at a: those whose lane is selected and that are in range, each as the row holds it (R150). -/
def vstData (s : State) (o : LOps) (win : Option (Nat × Nat)) (a : Nat) : List (Nat × Byte) :=
  ((List.range 512).filter fun i =>
    (s.cur.kreg o.mask).getLsbD (i / (viewBits (o.mod.extractLsb' 0 3).toNat / 8)) && partIn s win (rowPart s o a true) (a + i)).map fun i =>
      (nearBase + (a + i), (s.cur.row o.row.toNat).extractLsb' (8 * i) 8)

/-- Width in bytes of the view of a memory instruction. -/
def viewBytes (o : LOps) : Nat := viewBits (o.mod.extractLsb' 0 3).toNat / 8

/-- What VLDA makes of element i of a run for its lane, with its flags (R112, R151). -/
def vldaLane (s : State) (o : LOps) (r : ElemRun) (i : Nat) : Nat × Flags :=
  let view := (o.mod.extractLsb' 0 3).toNat
  let mode := rndOf (o.mod.extractLsb' 3 2).toNat
  let rd := runByte s r.win (r.parts (viewLanes view) (lMask s o) false)
  let e := elemValue rd r.d r.base (r.disp i) (elemCode (fun k => rd (r.first + k)) (Desc.fmt r.d) i)
  ((laneOfVal view mode e.1).1, e.2 ||| (laneOfVal view mode e.1).2)

/-- A VSTA: its view, the elements it writes (those of selected lanes; in a block format every element of a block with a selected lane), its parts, and what it makes of
them: the codes by element, the scale bytes by address, the flags (R120, R121, R151). -/
def vstaSel (s : State) (o : LOps) (r : ElemRun) (i : Nat) : Bool :=
  let n := viewLanes (o.mod.extractLsb' 0 3).toNat
  if fmtBlock (Desc.fmt r.d) = 0 then lMask s o i else (((List.range n).filter (lMask s o)).map r.blockOf).contains (r.blockOf i)
def vstaParts (s : State) (o : LOps) (r : ElemRun) : List Part := r.parts (viewLanes (o.mod.extractLsb' 0 3).toNat) (vstaSel s o r) true
def vstaOut (s : State) (o : LOps) (r : ElemRun) : List (Nat × Nat) × List (Nat × Byte) × Flags :=
  let view := (o.mod.extractLsb' 0 3).toNat
  vstaCodes r (runByte s r.win (vstaParts s o r)) view (rndOf (o.mod.extractLsb' 3 2).toNat) (laneOf (s.cur.row o.row.toNat) view) (viewLanes view) (vstaSel s o r)

/-- Bit x of the packed array after a VSTA: that of the code of the element it belongs to, where one is written, else the bit that stood there (R108, R151). -/
def vstaBit (s : State) (o : LOps) (r : ElemRun) (x : Nat) : Bool :=
  let w := fmtBits (Desc.fmt r.d)
  match (vstaOut s o r).1.find? fun c => c.1 == x / w with
  | some c => c.2.testBit (x % w)
  | none => (s.nearByte (r.first + x / 8)).getLsbD (x % 8)

/-- The entries of a VSTA: the bytes of its elements that are in range, and the scale bytes of its blocks (R151). -/
def vstaData (s : State) (o : LOps) (r : ElemRun) : List (List (Nat × Byte)) :=
  (vstaParts s o r).zipIdx.filterMap fun p =>
    if p.2 = 0 then some ((partAddrs s r.win p.1).map fun a =>
      (nearBase + a, BitVec.ofNat 8 ((List.range 8).map fun t => if vstaBit s o r (8 * (a - r.first) + t) then 2 ^ t else 0).sum))
    else if p.1.write then some ((partAddrs s r.win p.1).map fun a =>
      (nearBase + a, (((vstaOut s o r).2.1.find? fun x => x.1 == a).map (·.2)).getD 0))
    else none

/-- The bytes of a VSCT, in ascending lane order: every lane whose address is in range in the own slice (R152). -/
def vsctData (s : State) (o : LOps) (ea : Nat) (win : Option (Nat × Nat)) : List (Nat × Byte) :=
  ((laneAddrs s o ea win).filter fun l => l.2.2).flatMap fun l => (List.range (viewBytes o)).map fun k =>
    (nearBase + (l.2.1 + k), BitVec.ofNat 8 (laneOf (s.cur.row o.row.toNat) (o.mod.extractLsb' 0 3).toNat l.1 / 2 ^ (8 * k)))

end Sys2Proof.Claim

/-- R130, R146, R148: an L-slot access whose stream is illegal, or names an undeclared buffer, or whose bytes fail a check, takes the exception.
R148, R149, R150: VLD and VLDB: the selected lanes of the row, from a row of memory aligned to 64 bytes, or all from one element. -/
def Obligations.RowLoads : Prop :=
  (∀ (o : LOps) (s : State) (x : Trap),
     (lBase s o o.off.toInt = .error x →
       exec (.vld o) s = .next (s.takeTrap x) ∧ exec (.vst o) s = .next (s.takeTrap x) ∧ exec (.vldb o) s = .next (s.takeTrap x) ∧
       exec (.vlda o) s = .next (s.takeTrap x) ∧ exec (.vsta o) s = .next (s.takeTrap x) ∧ exec (.atom o) s = .next (s.takeTrap x)) ∧
     (lBase s o (o.off.extractLsb' 0 13).toInt = .error x → exec (.vgth o) s = .next (s.takeTrap x) ∧ exec (.vsct o) s = .next (s.takeTrap x)) ∧
     (∀ ea win, lBase s o o.off.toInt = .ok (ea, win) →
       checkParts s win [rowPart s o (ea / 64 * 64) false] = .error x → exec (.vld o) s = .next (s.takeTrap x))) ∧
  (∀ (o : LOps) (s : State) (ea : Nat) (win : Option (Nat × Nat)) (oor : Option (Nat × Bool)), lBase s o o.off.toInt = .ok (ea, win) →
     let view := (o.mod.extractLsb' 0 3).toNat
     let w := viewBytes o
     let a := ea / 64 * 64
     let b := ea / w * w
     let p := rowPart s o a false
     let q : Part := ⟨b, (List.range w).map fun i => (b + i, !(lLanes s o).isEmpty), false, 1⟩
     (w * viewLanes view = 512 → checkParts s win [p] = .ok oor → ∃ t, exec (.vld o) s = .next t ∧
       LoadEffect s t (laneWrite o.row view ((lLanes s o).map fun i => (i, laneAt s win p a w i))) (partLat s p) 0 oor) ∧
     (checkParts s win [q] = .ok oor → ∃ t, exec (.vldb o) s = .next t ∧
       LoadEffect s t (laneWrite o.row view ((lLanes s o).map fun i => (i, laneAt s win q b w 0))) (partLat s q) 0 oor))

/-- R148, R149, R150, R369: VST: the selected bytes of the row to slices, or as posted writes to a window.  That a stream in buffer mode posts nothing is log 22's reading.
R369, R371: a posted write that its window takes and its allowance permits leaves as one cell for each run of bytes, into the queue of its
destination two cycles later; OUTST counts them; nothing is written here. -/
def Obligations.RowStores : Prop :=
  (∀ (o : LOps) (s : State) (ea : Nat) (win : Option (Nat × Nat)), lBase s o o.off.toInt = .ok (ea, win) →
     let a := ea / 64 * 64
     let p := rowPart s o a true
     let bytes := (List.range 512).map fun i => (s.cur.row o.row.toNat).extractLsb' (8 * i) 8
     let sel := ((List.range 512).filter fun i => (s.cur.kreg o.mask).getLsbD (i / viewBytes o)).map fun i => (i, bytes.getD i 0)
     let posted := a < 2 ^ 40 ∧ a / 2 ^ 32 ≠ 0 ∧ a / 2 ^ 32 ≠ 255 ∧ win = none
     (¬posted → ∀ x, checkParts s win [p] = .error x → exec (.vst o) s = .next (s.takeTrap x)) ∧
     (¬posted → ∀ oor, checkParts s win [p] = .ok oor → ∃ t, exec (.vst o) s = .next t ∧
       StoreEffect s t [vstData s o win a] (s.clock + partLat s p) (partBank s p) [] oor) ∧
     (posted → sel = [] → exec (.vst o) s = .next s) ∧
     (posted → ∀ l, sel.getLast? = some l → ∀ x, s.postWrite s a (l.1 + 1) (byteRuns sel) = .error x → exec (.vst o) s = .next (s.takeTrap x)) ∧
     (posted → ∀ l, sel.getLast? = some l → ∀ x, s.postWrite s a (l.1 + 1) (byteRuns sel) = .ok x → exec (.vst o) s = .next x)) ∧
  (∀ (s : State) (ea bytes : Nat) (runs : List (Nat × List Byte)),
     let n := ea / 2 ^ 32 % 256
     let off := ea % 2 ^ 32
     let w := s.cur.window n
     (s.windowTakes w off bytes = true → w.outst + runs.length ≤ w.limit → runs ≠ [] → ∃ t, s.postWrite s ea bytes runs = .ok t ∧
       (t.cur.window n).outst = w.outst + runs.length ∧ t.mem = s.mem ∧ t.memPend = s.memPend ∧
       ∃ cells : List OutCell, t.fab.queue = s.fab.queue ++ cells ∧ cells.length = runs.length ∧
         cells.map (fun c => (c.addr, c.data)) = runs.map (fun x => (w.baseAddr + off + x.1, x.2)) ∧
         ∀ c ∈ cells, c.kind = 1 ∧ c.entry = s.clock + 2 ∧ c.core = s.ix.core ∧ c.dest = w.pod * 64 + w.pkg ∧ c.win = n) ∧
     (s.windowTakes w off bytes = true → w.limit < w.outst + runs.length → s.postWrite s ea bytes runs = .error ⟨0x18, 0, s.ix.slot, none, none⟩) ∧
     (s.windowTakes w off bytes = false → s.strict s.ix.core = false → s.postWrite s ea bytes runs = .ok (s.recordOor true (some ea))))

/-- R151: VLDA and VSTA: the elements from the stream's position on, with their block and band scales; a load's row two cycles after a VLD's, a
store's visibility two cycles after a VST's, and its bank cycle too in the own slice (R260).
R152, R242: VGTH and VSCT: each selected lane at the scalar or stream address plus its signed 32-bit index times the width, in the own slice; an
out-of-range lane reads zero and writes nothing. -/
def Obligations.ElementAccesses : Prop :=
  (∀ (o : LOps) (s : State) (r : ElemRun), elemRun s o = .ok r →
     let view := (o.mod.extractLsb' 0 3).toNat
     let ls := r.parts (viewLanes view) (lMask s o) false
     let ss := vstaParts s o r
     let lead := ss.headD ⟨r.first, [], true, 1⟩
     (∀ oor, checkParts s r.win ls = .ok oor → ∃ t, exec (.vlda o) s = .next t ∧
       LoadEffect s t (laneWrite o.row view ((lLanes s o).map fun i => (i, (vldaLane s o r i).1))) (partLat s (ls.headD ⟨r.first, [], false, 1⟩) + 2)
         ((lLanes s o).foldl (fun f i => f ||| (vldaLane s o r i).2) 0) oor) ∧
     (∀ oor, checkParts s r.win ss = .ok oor → ∃ t, exec (.vsta o) s = .next t ∧
       StoreEffect s t (vstaData s o r) (s.clock + partLat s lead + 2) (partBank s lead + (if partTarget s.ix.core lead = s.ix.core then 2 else 0))
         [inFlight s .none (partLat s lead + 2) (vstaOut s o r).2.2 s.nextId] oor) ∧
     (∀ x, checkParts s r.win ls = .error x → exec (.vlda o) s = .next (s.takeTrap x)) ∧
     (∀ x, checkParts s r.win ss = .error x → exec (.vsta o) s = .next (s.takeTrap x))) ∧
  (∀ (o : LOps) (s : State) (ea : Nat) (win : Option (Nat × Nat)) (oor : Option (Nat × Bool)),
     lBase s o (o.off.extractLsb' 0 13).toInt = .ok (ea, win) →
     let view := (o.mod.extractLsb' 0 3).toNat
     let w := viewBytes o
     let lanes := laneAddrs s o ea win
     let check (write : Bool) := s.checkBytes (lanes.flatMap fun l => (List.range w).map fun k => (l.2.1 + k, l.2.2, write))
     let lat := (if coreUpper s.ix.core then 14 else 16) + (if s.half s.ix.core then 8 else 0)
     (check false = .ok oor → ∃ t, exec (.vgth o) s = .next t ∧
       LoadEffect s t (laneWrite o.row view (lanes.map fun l =>
         (l.1, if l.2.2 then leNat ((List.range w).map fun k => s.nearByte (l.2.1 + k)) else 0))) lat 0 oor) ∧
     (check true = .ok oor → ∃ t, exec (.vsct o) s = .next t ∧
       StoreEffect s t [vsctData s o ea win] (s.clock + lat) (s.clock + lat - (if s.half s.ix.core then 1 else 3)) [] oor) ∧
     (∀ x, check false = .error x → exec (.vgth o) s = .next (s.takeTrap x)) ∧
     (∀ x, check true = .error x → exec (.vsct o) s = .next (s.takeTrap x)))

/-- R145, R147, R153: BUFSET changes a declared buffer that no engine holds, for the instructions issued from the next cycle on; otherwise 0x05.  BUFQ
reads the entry's word.
R147: a buffer-state change stands in flight for the next cycle, and no buffer changes at once. -/
def Obligations.BufferInstructions : Prop :=
  (∀ (o : LOps) (s : State),
     let n := (o.off.extractLsb' 0 6).toNat
     let b := s.cur.buf n
     let m := (o.mod.extractLsb' 0 2).toNat
     (b.decl = false ∨ b.held = true → exec (.bufset o) s = .next (trapped s 0x05 0)) ∧
     (b.decl = true → b.held = false → exec (.bufset o) s = .next
       (if m = 0 then s.addBuf false s.ix.core n .empty 0 0 false
        else if m = 1 then s.addBuf false s.ix.core n .filling 1 s.ix.core false
        else if m = 2 then s.addBuf false s.ix.core n .full 0 0 false
        else s.addBuf false s.ix.core n .draining 0 0 false)) ∧
     exec (.bufq o) s = .next (s.writeS o.scalar b.word 2) ∧
     (b.decl = false → b.word = 0)) ∧
  (∀ (s : State) (e : Bool) (n k : Nat) (st : BufState) (f : BitVec 4) (filler : Nat) (h : Bool),
     let t := s.addBuf e n k st f filler h
     t = { s with bufPend := s.bufPend ++ [⟨s.clock + 1, e, n, k, st, f, filler, h⟩], agenda := t.agenda } ∧
     ∃ a ∈ t.agenda, a.at_ = s.clock + 1 ∧ a.ev = .writeVisible)

/-- R154, R155, R326: ATOM: with every byte in range it reads the memory visible at issue, writes the old value and the status to the first sixteen bytes of its row and the new value to
memory, both at a row access's latency, in the write order at its bank cycle, and makes one access of one bank; out of range it writes no memory and both words are zero; an
own-slice buffer is refused.  It is an effect (R62): the region closes unless it is sealed.  That two atomics in flight on one word both read what was visible at their issue
is log 44's reading.
R154: what an atomic makes of the old value m with operands x and y, with its status bit and flags: every operation, and in 64 bits every operation that has that form. -/
def Obligations.AtomicInstruction : Prop :=
  (∀ (o : LOps) (s : State) (ea : Nat) (win : Option (Nat × Nat)), lBase s o o.off.toInt = .ok (ea, win) →
     let w64 := o.mod.getLsbD 4
     let code := (o.mod.extractLsb' 0 4).toNat
     let w := if w64 = true ∨ code = 1 then 8 else 4
     let a := ea / w * w
     let p : Part := ⟨a, (List.range w).map fun i => (a + i, true), true, 1⟩
     let live := (List.range w).filter fun i => partIn s win p (a + i)
     let own := partTarget s.ix.core p = s.ix.core
     let row := s.cur.row o.row.toNat
     let m := leNat ((List.range w).map fun i => s.nearByte (a + i))
     let r := atomApply code w64 m ((row.extractLsb' 0 64).toNat % 2 ^ (8 * w)) ((row.extractLsb' 64 64).toNat % 2 ^ (8 * w))
     let closes (c : Core) : Prop := if s.cur.region.kind = .sealed then c.region = s.cur.region
       else c.region = { s.cur.region with closing := true }
     (own → s.inBuffer (live.map (a + ·)) = true → exec (.atom o) s = .next (trapped s 0x05 0)) ∧
     (¬(own ∧ s.inBuffer (live.map (a + ·)) = true) →
       (∀ x, checkParts s win [p] = .error x → exec (.atom o) s = .next (s.takeTrap x)) ∧
       (∀ oor, checkParts s win [p] = .ok oor → ∃ t, exec (.atom o) s = .next t ∧ closes t.cur ∧
         (∀ b, memByte t.mem b = memByte s.mem b) ∧ (∀ k, k ≠ s.ix.core → t.core k = s.core k) ∧ t.cur.s = s.cur.s ∧ t.cur.rows = s.cur.rows ∧
         (live.length < w → t.cur.pend = s.cur.pend ++ [inFlight s (laneWrite o.row 0 [(0, 0), (1, 0)]) (partLat s p) 0 0] ∧ t.accs = s.accs ∧
           t.memPend = s.memPend) ∧
         (w ≤ live.length →
           t.cur.pend = s.cur.pend ++ [inFlight s (laneWrite o.row 0 [(0, m), (1, if r.2.1 then 1 else 0)]) (partLat s p) r.2.2 s.nextId] ∧
           t.memPend = s.memPend ++ [⟨s.clock + partLat s p, partBank s p, s.nextId, s.ix.core,
             (List.range w).map fun k => (nearBase + (a + k), BitVec.ofNat 8 (r.1 / 2 ^ (8 * k)))⟩] ∧
           ∃ c, t.accs = s.accs ++ [c] ∧ c.atom = true ∧ c.op = s.nextId ∧ c.cycle = partBank s p ∧
             c.target = partTarget s.ix.core p ∧ c.write = true ∧ c.bytes = (List.range w).map (a + ·))))) ∧
  (∀ (m x y : Nat), m < 2 ^ 32 → x < 2 ^ 32 → y < 2 ^ 32 →
     let half (i : Nat) : Nat × Flags := bf16.add .ne (m / 2 ^ (16 * i) % 2 ^ 16) (x / 2 ^ (16 * i) % 2 ^ 16)
     let less (p q : Nat) : Prop := (BitVec.ofNat 32 p).toInt < (BitVec.ofNat 32 q).toInt
     atomApply 0 false m x y = ((m + x) % 2 ^ 32, false, 0) ∧
     atomApply 2 false m x y = ((fp32.add .ne m x).1, false, (fp32.add .ne m x).2) ∧
     atomApply 3 false m x y = ((half 0).1 + (half 1).1 * 2 ^ 16, false, (half 0).2 ||| (half 1).2) ∧
     (less x m → atomApply 4 false m x y = (x, false, 0) ∧ atomApply 5 false m x y = (m, false, 0)) ∧
     (less m x → atomApply 4 false m x y = (m, false, 0) ∧ atomApply 5 false m x y = (x, false, 0)) ∧
     (m = x → atomApply 4 false m x y = (m, false, 0) ∧ atomApply 5 false m x y = (m, false, 0)) ∧
     atomApply 6 false m x y = ((fp32.minmax false false m x).1, false, (fp32.minmax false false m x).2) ∧
     atomApply 7 false m x y = ((fp32.minmax true false m x).1, false, (fp32.minmax true false m x).2) ∧
     atomApply 8 false m x y = (m &&& x, false, 0) ∧ atomApply 9 false m x y = (m ||| x, false, 0) ∧
     atomApply 10 false m x y = (m ^^^ x, false, 0) ∧ atomApply 11 false m x y = (x, false, 0) ∧
     (atomApply 12 false m x y = if m = y then (x, false, 0) else (m, true, 0)) ∧
     (atomApply 13 false m x y = if m < y then (m + 1, false, 0) else (0, false, 0)) ∧
     (atomApply 14 false m x y = if m + x ≤ y then (m + x, false, 0) else (m, true, 0))) ∧
  (∀ (m x y : Nat), m < 2 ^ 64 → x < 2 ^ 64 → y < 2 ^ 64 →
     atomApply 1 false m x y = ((m + x) % 2 ^ 64, false, 0) ∧
     atomApply 8 true m x y = (m &&& x, false, 0) ∧ atomApply 9 true m x y = (m ||| x, false, 0) ∧
     atomApply 10 true m x y = (m ^^^ x, false, 0) ∧ atomApply 11 true m x y = (x, false, 0) ∧
     (atomApply 12 true m x y = if m = y then (x, false, 0) else (m, true, 0)))

namespace Sys2Proof.Claim

/-- The FIFO that core n sends into and the one it receives from: the lower core sends up, the upper core down (R229). -/
def outFifo (s : State) (n : Nat) : Rill := if coreUpper n then (s.pair (corePair n)).down else (s.pair (corePair n)).up
def inFifo (s : State) (n : Nat) : Rill := if coreUpper n then (s.pair (corePair n)).up else (s.pair (corePair n)).down

end Sys2Proof.Claim

/-- R229, R231: RLSEND takes a free slot and its row is ready three cycles later; RLRECV takes the oldest ready row into the selected lanes, and the
slot is on its way back; RLFREE reads a count.  With no slot, no ready row, or a partner that is gated or of another domain, they trap. -/
def Obligations.RillInstructions : Prop :=
  ∀ (o : LOps) (s : State),
    let n := s.ix.core
    let row := s.cur.row o.row.toNat
    (∀ d, s.partnerDetail n = some d → exec (.rlsend o) s = .next (trapped s 0x16 d)) ∧
    (s.partnerDetail n = none → (outFifo s n).free = 0 → exec (.rlsend o) s = .next (trapped s 0x16 0)) ∧
    (s.partnerDetail n = none → (outFifo s n).free ≠ 0 → ∃ t, exec (.rlsend o) s = .next t ∧
      outFifo t n = { outFifo s n with free := (outFifo s n).free - 1, rows := (outFifo s n).rows ++ [(s.clock + 3, row)] } ∧
      inFifo t n = inFifo s n ∧ t.cores = s.cores ∧ t.mem = s.mem) ∧
    ((inFifo s n).ready = 0 ∨ (inFifo s n).rows = [] → exec (.rlrecv o) s = .next (trapped s 0x17 ((s.partnerDetail n).getD 0))) ∧
    (∀ c r rest, (inFifo s n).ready ≠ 0 → (inFifo s n).rows = (c, r) :: rest → ∃ t, exec (.rlrecv o) s = .next t ∧
      inFifo t n = { inFifo s n with ready := (inFifo s n).ready - 1, rows := rest, freed := (inFifo s n).freed ++ [s.clock + 3] } ∧
      t.mem = s.mem ∧ (∀ k, k ≠ n → t.core k = s.core k) ∧
      t.cur = { s.cur with pend := s.cur.pend ++ [inFlight s (laneWrite o.row (o.mod.extractLsb' 0 3).toNat
        ((lLanes s o).map fun i => (i, laneOf r (o.mod.extractLsb' 0 3).toNat i))) 2 0 0] }) ∧
    exec (.rlfree o) s = .next (s.writeS o.scalar (BitVec.ofNat 64 (if o.mod.getLsbD 0 then (inFifo s n).ready else (outFifo s n).free)) 1)

/-! The vector slots -/

namespace Sys2Proof.Claim

/-- Lane i of va, of vb or the literal, and of vc. -/
def la (s : State) (o : VOps) (i : Nat) : Nat := laneOf (s.cur.row o.va.toNat) o.view.toNat i
def lc (s : State) (o : VOps) (i : Nat) : Nat := laneOf (s.cur.row o.vc.toNat) o.view.toNat i
def lb (s : State) (o : VOps) (i : Nat) : Nat :=
  let e := (o.vb.extractLsb' 0 3).toNat
  if !o.lit then laneOf (s.cur.row o.vb.toNat) o.view.toNat i
  else if o.view = 0 then s.lit e + 2 ^ 32 * s.lit (e + 1) else s.lit e % 2 ^ viewBits o.view.toNat

/-- The lanes that the mask selects (R156). -/
def picked (s : State) (o : VOps) : List Nat := (List.range (viewLanes o.view.toNat)).filter ((s.cur.kreg o.mask).getLsbD ·)

/-- A lane-wise result: lane i of vd gets (f i).1 where it is selected, after lat cycles, and the flags of all of them are raised (R156, R157). -/
def lanesTo (s : State) (o : VOps) (lat : Nat) (f : Nat → Nat × Flags) : State :=
  s.addWrite (laneWrite o.vd o.view.toNat ((picked s o).map fun i => (i, (f i).1))) lat ((picked s o).foldl (fun a i => a ||| (f i).2) 0)

/-- Wrap to w bits, or saturate with SV (R159). -/
def fitted (w : Nat) (sat : Bool) (v : Int) : Nat × Flags :=
  if sat = true ∧ v < -(2 ^ (w - 1) : Int) then (2 ^ (w - 1), flSV)
  else if sat = true ∧ (2 ^ (w - 1) - 1 : Int) < v then (2 ^ (w - 1) - 1, flSV)
  else ((v % (2 ^ w : Nat)).toNat, 0)

/-- Both signs of a pair inverted. -/
def negPair (x : Nat) : Nat := (x % 2 ^ 32 + 2 ^ 31) % 2 ^ 32 + (x / 2 ^ 32 % 2 ^ 32 + 2 ^ 31) % 2 ^ 32 * 2 ^ 32

/-- The arithmetic of R159 on lanes a, b and c: instruction and result, latency 4: pairs, integers, floating point. -/
def vecArith (o : VOps) : List (Instr × (Nat → Nat → Nat → Nat × Flags)) :=
  let V := o.view.toNat
  let w := viewBits V
  let F := viewFloat V
  let m := rndOf o.rnd.toNat
  let S (x : Nat) : Int := signed w x
  let int (v : Int) (f : Nat × Flags) : Nat × Flags := if viewInt V then fitted w o.sat v else f
  let least (p q : Nat) : Nat := if (if o.vc.getLsbD 0 then p ≤ q else S p ≤ S q) then p else q
  let most (p q : Nat) : Nat := if (if o.vc.getLsbD 0 then p ≤ q else S p ≤ S q) then q else p
  [(.vadd o, fun a b _ => if V = 0 then pairAdd a b else int (S a + S b) (F.add m a b)),
   (.vsub o, fun a b _ => if V = 0 then pairAdd a (negPair b) else int (S a - S b) (F.sub m a b)),
   (.vmul o, fun a b _ => int (S a * S b) (F.mul m a b)), (.vfma o, fun a b c => int (S a * S b + S c) (F.fma m a b c)),
   (.vfms o, fun a b c => int (S a * S b - S c) (F.fma m a b (F.flip c))),
   (.vfnma o, fun a b c => int (S c - S a * S b) (F.fma m (F.flip a) b c)),
   (.vmin o, fun a b _ => if V = 0 then laneMinMax 0 false false false a b else if viewInt V then (least a b, 0) else F.minmax false false a b),
   (.vmax o, fun a b _ => if V = 0 then laneMinMax 0 false true false a b else if viewInt V then (most a b, 0) else F.minmax true false a b),
   (.vminp o, fun a b _ => if V = 0 then laneMinMax 0 false false true a b else F.minmax false true a b),
   (.vmaxp o, fun a b _ => if V = 0 then laneMinMax 0 false true true a b else F.minmax true true a b),
   (.vabs o, fun a _ _ => if V = 0 then (if a % 2 ^ 32 / 2 ^ 31 = 1 then negPair a else a, 0)
     else if viewInt V then fitted w o.sat (S a).natAbs else (a % 2 ^ (w - 1), 0)),
   (.vneg o, fun a _ _ => if V = 0 then (negPair a, 0) else int (-S a) (F.flip a, 0))]

/-- The lane-wise instructions of R161 to R163, R168, R169, R172 and R173: instruction, latency, lane i of the result. -/
def vecLanes (s : State) (o : VOps) : List (Instr × Nat × (Nat → Nat × Flags)) :=
  let V := o.view.toNat
  let w := viewBits V
  let F := viewFloat V
  let L := viewLanes V
  let A := la s o
  let B := lb s o
  let Brow (i : Nat) : Nat := laneOf (s.cur.row o.vb.toNat) V i
  let half (i : Nat) : Nat := (if o.vc.getLsbD 0 then L / 2 else 0) + i / 2
  let even (i : Nat) : Nat := 2 * i + (if o.vc.getLsbD 0 then 1 else 0)
  [(.vsel o, 2, fun i => (if (s.cur.kreg (o.vc.extractLsb' 0 4)).getLsbD i then A i else B i, 0)),
   (.vand o, 2, fun i => (A i &&& B i, 0)), (.vor o, 2, fun i => (A i ||| B i, 0)), (.vxor o, 2, fun i => (A i ^^^ B i, 0)),
   (.vnot o, 2, fun i => (2 ^ w - 1 - A i, 0)),
   (.vshl o, 2, fun i => (if B i < w then A i * 2 ^ B i else 0, 0)), (.vshr o, 2, fun i => (if B i < w then A i / 2 ^ B i else 0, 0)),
   (.vsar o, 2, fun i => ((signed w (A i) / (2 ^ min (B i) (w - 1) : Int) % (2 ^ w : Nat)).toNat, 0)),
   (.vmov o, 2, fun i => (A i, 0)),
   (.vfill o, 2, fun i => (if o.lit then B i else (s.cur.sreg (o.va.extractLsb' 0 5)).toNat % 2 ^ w, 0)),
   (.viota o, 2, fun i =>
     let v : Int := (if o.lit then signed 32 (s.lit (o.vb.extractLsb' 0 3).toNat) else 0) + (i : Int)
     if viewInt V then fitted w o.sat v
     else ((F.ofVal (rndOf o.rnd.toNat) (.ofInt v)).1, (F.ofVal (rndOf o.rnd.toNat) (.ofInt v)).2 &&& (flNX ||| flSV))),
   (.vexp2 o, 12, fun i => exp2F F (A i)), (.vlog2 o, 12, fun i => log2F F (A i)), (.vrcp o, 12, fun i => rcpF F (A i)),
   (.vrsq o, 12, fun i => rsqF F (A i)), (.vsqrt o, 12, fun i => sqrtF F (A i)), (.vtanh o, 12, fun i => seqF tanh32 F (A i)),
   (.vsigm o, 12, fun i => seqF sigm32 F (A i)), (.vgelu o, 12, fun i => seqF gelu32 F (A i)),
   (.vperm o, 3, fun i => (A (Brow i % 2 ^ 32 % L), 0)), (.vrot o, 3, fun i => (A ((i + o.vc.toNat) % L), 0)),
   (.vbcl o, 3, fun _ => (A o.vc.toNat, 0)),
   (.vzip o, 3, fun i => (if i % 2 = 0 then A (half i) else Brow (half i), 0)),
   (.vunzp o, 3, fun i => (if even i < L then A (even i) else Brow (even i - L), 0)),
   (.vrng o, 9, fun i => (drawLane V (rndWord (s.cur.sreg (o.va.extractLsb' 0 5)) s.cur.gkey i), 0))]

/-- A result of w bits in the first bytes of vd, the others as they stand; none leaves the whole row (R170). -/
def headTo (s : State) (o : VOps) (lat w : Nat) (r : Option (Nat × Flags)) : State :=
  match r with
  | none => s.addWrite (.row o.vd 0 0) lat
  | some (v, f) => s.addWrite (.row o.vd (BitVec.ofNat 4096 (v % 2 ^ w)) (BitVec.ofNat 512 (2 ^ (w / 8) - 1))) lat f

/-- Named bits of a mask. -/
def bitsMask (p : Nat → Bool) : Mask := BitVec.ofNat 512 (((List.range 512).filter p).foldl (fun a i => a + 2 ^ i) 0)

end Sys2Proof.Claim

/-- R159: vector arithmetic, for every well-formed form. -/
def Obligations.VectorArithmetic : Prop :=
  ∀ (o : VOps) (s : State), ∀ x ∈ vecArith o, wfInstr x.1 = true →
    exec x.1 s = .next (lanesTo s o 4 fun n => x.2 (la s o n) (lb s o n) (lc s o n))

/-- R161 to R163, R168, R169, R172, R173: the other lane-wise instructions, for every well-formed form. -/
def Obligations.VectorLaneResults : Prop :=
  ∀ (o : VOps) (s : State), ∀ x ∈ vecLanes s o, wfInstr x.1 = true → exec x.1 s = .next (lanesTo s o x.2.1 x.2.2)

/-- R163 to R167: VEXT, VINS, the conversions VCVT and VCVTS, VQNT, VFOLD and VSPLIT. -/
def Obligations.VectorMovesAndConversions : Prop :=
  ∀ (o : VOps) (s : State),
    let V := o.view.toNat
    let src := (o.vc.extractLsb' 0 3).toNat
    let part := (o.vc.extractLsb' 3 3).toNat
    let m := rndOf o.rnd.toNat
    let row := s.cur.row o.va.toNat
    let rows (l : List (Nat × Nat × Flags)) (view lat : Nat) : State :=
      s.addWrite (laneWrite o.vd view (l.map fun x => (x.1, x.2.1))) lat (l.foldl (fun a x => a ||| x.2.2) 0)
    let cvt (mode : Nat → Rnd) : List (Nat × Nat × Flags) := (picked s o).filterMap fun d =>
      (cvtSource V src part d).map fun e => (d, cvtLane V src (mode d) (laneOf row src e))
    let q := vqntCodes o.vc.toNat m (laneOf (s.cur.row o.vb.toNat) 3 0) ((List.range (viewLanes V)).map fun i => laneVal m V (laneOf row V i))
    exec (.vext o) s = .next (s.writeS (o.vd.extractLsb' 0 5) (BitVec.ofNat 64 (laneOf row V o.vc.toNat)) 2) ∧
    exec (.vins o) s = .next (s.addWrite (laneWrite o.vd V [(o.vc.toNat, (s.cur.sreg (o.va.extractLsb' 0 5)).toNat % 2 ^ viewBits V)]) 2) ∧
    exec (.vcvt o) s = .next (rows (cvt fun _ => m) V 5) ∧
    exec (.vcvts o) s = .next (rows (cvt fun d => .st (rndWord (s.cur.sreg (o.vb.extractLsb' 0 5)) s.cur.gkey d)) V 5) ∧
    exec (.vqnt o) s = .next (s.addWrite (.row o.vd (BitVec.ofNat 4096 (leNat (packCodes o.vc.toNat q.1) +
      leNat (q.2.1.map (BitVec.ofNat 8)) * 2 ^ 2048)) (BitVec.allOnes 512)) 5 q.2.2) ∧
    exec (.vfold o) s = .next (rows (((List.range 64).filter fun j => (s.cur.kreg o.mask).getLsbD (64 * o.vc.toNat + j)).map fun j =>
      (64 * o.vc.toNat + j, laneOfVal V m (laneVal m 0 (laneOf row 0 j)))) V 5) ∧
    exec (.vsplit o) s = .next (rows (((List.range 64).filter fun j => (s.cur.kreg o.mask).getLsbD j).map fun j =>
      (j, laneOfVal 0 .ne (laneVal .ne V (laneOf row V (64 * o.vc.toNat + j))))) 0 5)

/-- R170, R171: reductions over the selected lanes, by the tree, integers exactly; no selected lane leaves vd as it stands; VSCAN in lane order. -/
def Obligations.VectorReductions : Prop :=
  ∀ (o : VOps) (s : State),
    let V := o.view.toNat
    let w := viewBits V
    let m := rndOf o.rnd.toNat
    let nodes (f : Nat → Nat × Flags) : List (Option (Nat × Flags)) :=
      (List.range (viewLanes V)).map fun i => if (s.cur.kreg o.mask).getLsbD i then some (f (la s o i)) else none
    let join (op : Nat → Nat → Nat × Flags) (p q : Nat × Flags) : Nat × Flags := ((op p.1 q.1).1, p.2 ||| q.2 ||| (op p.1 q.1).2)
    let uns := o.vc.getLsbD 0
    (picked s o = [] → exec (.vrsum o) s = .next (headTo s o 9 32 none)) ∧
    (picked s o ≠ [] → viewInt V = true →
      exec (.vrsum o) s = .next (headTo s o 9 32 (some (fitted 32 (o.sat && V == 2) ((picked s o).foldl (fun a i => a + signed w (la s o i)) 0))))) ∧
    (picked s o ≠ [] → V = 0 → exec (.vrsum o) s = .next (headTo s o 9 64 (some ((picked s o).foldl
      (fun a i => ((pairAdd a.1 (la s o i)).1, a.2 ||| (pairAdd a.1 (la s o i)).2)) (0, 0))))) ∧
    (picked s o ≠ [] → V ≠ 0 → viewInt V = false → exec (.vrsum o) s =
      .next (headTo s o 9 32 (joinTree (join (fp32.add m)) 9 (nodes fun x => fp32.ofVal m (laneVal m V x))))) ∧
    exec (.vrmax o) s = .next (headTo s o 9 w (joinTree (join (laneMinMax V uns true false)) 9 (nodes fun x => (x, 0)))) ∧
    exec (.vrmin o) s = .next (headTo s o 9 w (joinTree (join (laneMinMax V uns false false)) 9 (nodes fun x => (x, 0)))) ∧
    exec (.vramax o) s = .next (headTo s o 9 w (joinTree (join (laneMinMax V true true false)) 9
      (nodes fun x => (if viewInt V then (signed w x).natAbs else x % 2 ^ (w - 1), 0)))) ∧
    (∃ l : List (Nat × Nat × Flags), l.map (·.1) = picked s o ∧
      (∀ j, j < l.length →
        let before := if j = 0 then 0 else (((picked s o).take j).foldl (fun a i => (scanStep o a (la s o i)).1) 0)
        (l.getD j (0, 0, 0)).2.1 = (if o.vc.getLsbD 0 then before else (scanStep o before (la s o ((picked s o).getD j 0))).1)) ∧
      ∃ f, exec (.vscan o) s = .next (s.addWrite (laneWrite o.vd V (l.map fun x => (x.1, x.2.1))) 9 f))

/-- R160: VCMP writes bit i of its mask for the selected lanes, keeps the bits of the others below the lane count, and clears the rest; latency 4.
R174: the mask instructions: AND, OR, XOR and NOT of masks, the population count below the lane count, the lanes that are not zero, and the first n
lanes. -/
def Obligations.VectorCompareAndMasks : Prop :=
  (∀ (o : VOps) (s : State), wfInstr (.vcmp o) = true →
     let V := o.view.toNat
     let w := viewBits V
     let cc := o.vc.toNat
     let lt (a b : Nat) : Bool := if 8 ≤ cc then decide (a < b) else decide (signed w a < signed w b)
     let r (i : Nat) := (laneVal .ne V (la s o i)).rel (laneVal .ne V (lb s o i))
     let cond (i : Nat) : Bool :=
       let a := la s o i
       let b := lb s o i
       if viewInt V then
         (if cc = 0 then a == b else if cc = 1 then a != b else if cc = 2 ∨ cc = 8 then lt a b else if cc = 3 ∨ cc = 9 then lt a b || a == b
          else if cc = 4 ∨ cc = 10 then !(lt a b || a == b) else !lt a b)
       else if cc = 0 then (r i).eq else if cc = 1 then !(r i).eq else if cc = 2 then (r i).lt else if cc = 3 then (r i).lt || (r i).eq
       else if cc = 4 then (r i).gt else if cc = 5 then (r i).gt || (r i).eq else if cc = 6 then (r i).un else !(r i).un
     let nv (i : Nat) : Flags := if viewInt V then 0 else if 2 ≤ cc ∧ cc ≤ 5 then (if (r i).un then flNV else 0) else if (r i).sig then flNV else 0
     ∃ v m : Mask, exec (.vcmp o) s = .next (s.addWrite (.k (o.vd.extractLsb' 0 4) v m) 4 ((picked s o).foldl (fun a i => a ||| nv i) 0)) ∧
       ∀ i, i < 512 → m.getLsbD i = !(decide (i < viewLanes V) && !(s.cur.kreg o.mask).getLsbD i) ∧
         v.getLsbD i = (decide (i ∈ picked s o) && cond i)) ∧
  (∀ (o : VOps) (s : State),
     let A := s.cur.kreg (o.va.extractLsb' 0 4)
     let B := s.cur.kreg (o.vb.extractLsb' 0 4)
     let V := o.view.toNat
     let into (v : Mask) (lat : Nat) : State := s.addWrite (.k (o.vd.extractLsb' 0 4) v (BitVec.allOnes 512)) lat
     let nonzero (i : Nat) : Bool := if viewInt V then la s o i != 0 else !(laneVal .ne V (la s o i)).isZero
     exec (.kand o) s = .next (into (A &&& B) 1) ∧ exec (.kor o) s = .next (into (A ||| B) 1) ∧ exec (.kxor o) s = .next (into (A ^^^ B) 1) ∧
     exec (.knot o) s = .next (into (~~~A) 1) ∧
     exec (.kpop o) s = .next (headTo s o 2 32 (some (((List.range (viewLanes V)).filter (A.getLsbD ·)).length, 0))) ∧
     exec (.kset o) s = .next (into (bitsMask fun i => decide (i < viewLanes V) && nonzero i) 2) ∧
     exec (.ksetImm o) s = .next (into (bitsMask fun i => decide (i < s.lit (o.vb.extractLsb' 0 3).toNat)) 1))

/-! The M, E and X slots -/

namespace Sys2Proof.Claim

/-- Matrix instruction i has entered the engine (R177, R178): from s to t the issuing core holds it in flight, busy for `occ` cycles, with the tiles it
writes, what it reads, and its completion, no earlier than `own` and two cycles after each instruction in flight that writes one of its tiles. -/
def Entered (s t : State) (i : Instr) (occ own : Nat) (reads writes : List Nat) (m : MOp) : Prop :=
  t.cur.mops = s.cur.mops ++ [m] ∧ t.cur.mBusyUntil = s.clock + occ ∧ t.cur.rows = s.cur.rows ∧ t.cur.s = s.cur.s ∧ t.cur.pend = s.cur.pend ∧
  (∀ k, k ≠ s.ix.core → t.core k = s.core k) ∧ (∀ a, memByte t.mem a = memByte s.mem a) ∧
  m.id = s.nextId ∧ m.instr = i ∧ m.issued = s.clock ∧ m.tiles = writes ∧ m.dead = false ∧
  m.input = reads.map (fun k => (k, match tileWriter s.cur.mops k with
    | some w => .pending w.id
    | none => .rows ((List.range 128).map fun r => s.cur.row (128 * k + r)))) ∧
  own ≤ m.done ∧ (∀ k ∈ reads ++ writes, ∀ w, tileWriter s.cur.mops k = some w → w.done + 2 ≤ m.done) ∧
  ((∀ k ∈ reads ++ writes, tileWriter s.cur.mops k = none) → m.done = own) ∧
  ∃ a ∈ t.agenda, a.at_ = m.done ∧ a.ev = .matrixWriteComplete s.ix.core s.nextId

/-- A tile, or the pair of tiles that begins with it. -/
def tiles (pair : Bool) (t : BitVec 4) : List Nat := if pair then [t.toNat, t.toNat + 1] else [t.toNat]

/-- The streams of an MMA pass their checks (R130, R180, R187), with b the descriptor of operand B. -/
def mmaStreamsOk (s : State) (o : MOps) (b : Desc) : Prop :=
  let a := s.cur.greg o.sa
  Desc.useOk a = true ∧ (o.rb = false → bOk b o.tb = true ∧ undeclared s b = false) ∧
  (o.rb = true → ∃ p, s.cur.panel = some p ∧ o.k.toNat ≤ p.k) ∧ (o.int = true → intFmt a = true ∧ intFmt b = true) ∧ undeclared s a = false

/-- A list of runs passes the checks of R143 and R186: no buffer refuses it, and outside strict mode any of it may be out of range. -/
def runsPass (s : State) (win : Option (Nat × Nat)) (l : List (Nat × Nat)) (write : Bool) : Prop :=
  s.runsRefused s.ix.core write (clipRuns (s.ownLimits s.ix.core win) l) = false ∧
  (s.strict s.ix.core = false ∨ firstOor (s.ownLimits s.ix.core win) l = none)

end Sys2Proof.Claim

/-- R177, R178, R189, R190: MZERO, MFOLD and MTRN enter an engine that is free; a busy engine raises 0x12.
R178 to R181, R185, R187: MMA and MPRE whose streams and operands pass their checks enter the engine and claim their operands step by step; MSAVE and
MLOAD (R190) do so row by row. -/
def Obligations.MatrixInstructions : Prop :=
  (∀ (o : MOps) (s : State),
     (s.clock < s.cur.mBusyUntil →
       exec (.mzero o) s = .next (trapped s 0x12 0) ∧ exec (.mfold o) s = .next (trapped s 0x12 0) ∧ exec (.mtrn o) s = .next (trapped s 0x12 0)) ∧
     (s.cur.mBusyUntil ≤ s.clock →
       (∃ t m, exec (.mzero o) s = .next t ∧ Entered s t (.mzero o) 1 (s.clock + 2) [] (tiles o.cp o.tile) m) ∧
       (∃ t m, exec (.mfold o) s = .next t ∧ Entered s t (.mfold o) 16 (s.clock + 24) (tiles true o.ti) [o.tile.toNat] m) ∧
       (∃ t m, exec (.mtrn o) s = .next t ∧ Entered s t (.mtrn o) 16 (s.clock + 24) (tiles o.cp o.ti) (tiles o.cp o.tile) m))) ∧
  (∀ (o : MOps) (s : State), s.cur.mBusyUntil ≤ s.clock →
     let n := s.ix.core
     let a := s.cur.greg o.sa
     let b := if o.rb then ((s.cur.panel).map (·.desc)).getD (s.cur.greg o.sb) else s.cur.greg o.sb
     let g := s.cur.greg o.sb
     let k := o.k.toNat
     let half := s.half n
     let opA := s.operand n a true false
     let opB (d : Desc) := s.operand n d false o.tb
     let steps := ceilDiv k (min (fmtKc (Desc.fmt a)) (fmtKc (Desc.fmt b)))
     let pre := ceilDiv k (fmtKc (Desc.fmt g))
     let claims (t : State) (m : MOp) (first gap count : Nat) (isB : Bool) : Prop :=
       ∀ j, j < count → ∃ e ∈ t.agenda, e.at_ = s.clock + first + gap * j ∧ e.ev = .mmaOperandClaim n m.id j isB
     let rowsOk (d : Desc) (write : Bool) : Prop :=
       rowStreamOk d = true ∧ undeclared s d = false ∧ runsPass s (s.streamWindow n d) (rowRuns s n d o.low) write
     (mmaStreamsOk s o b → runsPass s opA.win (opA.runs 0 k) false → (o.rb = false → runsPass s (opB b).win ((opB b).runs 0 k) false) →
       ∃ t m, exec (.mma o) s = .next t ∧ Entered s t (.mma o) ((if half then 16 else 8) * steps) (s.clock + (if half then 16 else 8) * steps + 22)
         (if o.zi then [] else tiles o.cp (if o.it then o.ti else o.tile)) (tiles o.cp o.tile) m ∧ m.descA = a ∧ m.descB = b ∧
         claims t m 2 (if half then 16 else 8) steps false ∧
         (o.rb = false → claims t m (if half then 10 else 6) (if half then 16 else 8) steps true)) ∧
     (bOk g o.tb = true → k ≤ panelDepth (Desc.fmt g) → undeclared s g = false → runsPass s (opB g).win ((opB g).runs 0 k) false →
       ∃ t m, exec (.mpre o) s = .next t ∧ Entered s t (.mpre o) ((if half then 8 else 4) * pre) (s.clock + (if half then 8 else 4) * pre) [] [] m ∧
         t.cur.panel = some ⟨m.id, k, o.tb, g, []⟩ ∧ claims t m 2 (if half then 8 else 4) pre true) ∧
     (∀ write, rowsOk a write → ∃ t, exec (if write then .msave o else .mload o) s = .next t ∧ (∀ b, memByte t.mem b = memByte s.mem b) ∧
       t.cur.rows = s.cur.rows ∧ ∃ base, s.clock ≤ base ∧ (write = false → base = s.clock) ∧
         ∀ j, j < (if half then 128 else 64) → ∃ e ∈ t.agenda, e.at_ = base + (if half then 6 else 4) + j ∧
           e.ev = .msaveRowClaim n s.nextId (if half then j else 2 * j)))

namespace Sys2Proof.Claim

/-- The engine commands: instruction, timed, writes device memory (R192, R204, R334). -/
def engineTable (o : EOps) : List (Instr × Bool × Bool) :=
  let t := o.low.getLsbD 18
  [(.cpyt o, true, false), (.cpym o, true, false), (.cpyu o, false, true),
   (.cfill o, !o.low.getLsbD 0, o.low.getLsbD 0), (.amo o, t, true), (.amof o, t, true), (.rtopk o, true, false), (.rcap o, true, false),
   (.rdisp o, true, false), (.tlife o, false, true), (.tdrop o, false, true), (.fsend o, false, true), (.frdc o, false, true),
   (.fag o, false, true), (.fa2a o, false, true), (.jrnl o, false, false), (.emit o, false, false), (.jtrunc o, false, false),
   (.hflush o, false, false), (.hnote o, false, false)]

/-- What a command checks at issue beside its block's address (R204, R216): the buffers that an untimed copy or fill names, and an untimed
floating-point sum in an image marked deterministic. -/
def commandAllowed (s : State) (o : EOps) (i : Instr) (d : Desc) : Prop :=
  let code := (o.low.extractLsb' 20 4).toNat
  match i with
  | .cpyu _ => s.bufNot (cpSrc d).namedBuf .full = false ∧ s.bufNot (cpDst d).namedBuf .empty = false
  | .cfill _ => o.low.getLsbD 0 = true → s.bufNot (cpDst d).namedBuf .empty = false
  | .amo _ | .amof _ =>
    o.low.getLsbD 18 = false → (code = 2 ∨ code = 3) → ∀ x, s.imageOf s.ix.core = some x → x.determ = false
  | _ => True

end Sys2Proof.Claim

/-- R192 to R195, R204, R205: an engine command whose block lies aligned in the own slice: a timed one takes the next TCYC, at least 8 ahead, whose low
24 bits are its start field (0x15 when that is more than 2^23 away; 0x12 of the C slot when the core's own PHASE or RESYNC of this bundle holds it, R196); an untimed one joins the open batch of its context (0x12 when 64 wait); its block
is captured at the bank cycle.  CSEAL closes the open batch. -/
def Obligations.EngineCommands : Prop :=
  ∀ (o : EOps) (s : State),
    (exec (.cseal o) s = .next (s.closeBatch s.ix.core o.ctx) ∧ ((s.closeBatch s.ix.core o.ctx).cur.ctxAt o.ctx).closed =
      (s.cur.ctxAt o.ctx).closed + (if (s.cur.ctxAt o.ctx).cur.members = 0 then 0 else 1)) ∧
    ∀ x ∈ engineTable o,
      let n := s.ix.core
      let a := (s.cur.sreg o.sd).toNat
      let r : Req := ⟨a, 64, false, none⟩
      let placed := a % 64 = 0 ∧ a < 2 ^ 32 ∧ coreOfAddr a = some n
      let wait := (o.start.toNat + 2 ^ 24 - (s.cur.tcyc + 8) % 2 ^ 24) % 2 ^ 24
      let late := x.2.1 = true ∧ 2 ^ 23 ≤ wait
      let barred := x.2.1 = true ∧ s.cur.run = .held ∧ ((s.cur.hold.map (·.arrival)).getD 0) ≤ s.cur.tcyc + 8 + wait
      let full := x.2.1 = false ∧ 64 ≤ s.queued n o.ctx
      (¬placed → exec x.1 s = .next (trapped s 0x02 0)) ∧
      (placed → commandAllowed s o x.1 (BitVec.ofNat 512 (leNat (s.readReq r))) →
        (∀ e, s.checkReq r (List.range 64) = .error e → exec x.1 s = .next (s.takeTrap e)) ∧
        ∀ oor, s.checkReq r (List.range 64) = .ok oor →
          (late → exec x.1 s = .next (trapped s 0x15 0)) ∧ (full → exec x.1 s = .next (trapped s 0x12 0)) ∧
          (¬late → barred → exec x.1 s = .next (s.takeTrap ⟨0x12, 0, 0, none, none⟩)) ∧
          (¬late → ¬barred → ¬full → ∃ t k, exec x.1 s = .next t ∧ k ∈ t.cmds ∧ t.cmds.length = s.cmds.length + 1 ∧ k.id = s.nextId ∧ k.core = n ∧
            k.instr = x.1 ∧ k.ctx = o.ctx.toNat ∧ k.timed = x.2.1 ∧ k.writing = x.2.2 ∧ k.stage = .issued ∧ k.issued = s.clock ∧
            k.stamp = s.cur.tcyc ∧ (x.2.1 = true → k.tS = s.cur.tcyc + 8 + wait ∧ k.tS % 2 ^ 24 = o.start.toNat) ∧
            (t.cur.ctxAt o.ctx).cur.members = (s.cur.ctxAt o.ctx).cur.members + (if x.2.1 then 0 else 1) ∧
            t.cur.s = s.cur.s ∧ t.cur.rows = s.cur.rows ∧ t.memPend = s.memPend ∧ (∀ b, memByte t.mem b = memByte s.mem b) ∧
            ∃ e ∈ t.agenda, e.at_ = s.clock + s.bankLat n n ∧ e.ev = .blockCapture n s.nextId))

namespace Sys2Proof.Claim

/-- What a program's write of a RW CSR leaves in the core (R7, R82, R124 to R126, R143): reserved bits zero.  The record of the bundle's first
out-of-range access, if it has made one, comes after a write that leaves OORREC without a record. -/
def csrWritten (c : Core) (oor : Option Word) (num : Nat) (v : Word) : Core :=
  if num = 3 then { c with flagsA := v &&& 0x003FFFFFFFFFFFFF }
  else if num = 4 then { c with flagsB := v &&& 7 }
  else if num = 5 then { c with fevrec := v &&& 0xFFFFFFFF8FFFFFFF }
  else if num = 7 then { c with oorrec := if v.getLsbD 41 then v &&& 0xFFFF3FFFFFFFFFFF else oor.getD (v &&& 0xFFFF3FFFFFFFFFFF) }
  else { c with gkey := v }

end Sys2Proof.Claim

/-- R80, R82: CSRR reads any CSR, and a read of VWIDTH acknowledges it; CSRW, CSRS and CSRC write FLAGSA, FLAGSB, FEVREC, OORREC and GKEY, and raise 0x03
for every other CSR, writing nothing.
R80, R83, R235 (COREID): what CSRR reads for the CSRs with a number of their own. -/
def Obligations.CsrInstructions : Prop :=
  (∀ (o : XOps) (s : State),
     let num := (o.low.extractLsb' 4 10).toNat
     let v := s.csr s.ix.core num
     let x := s.cur.sreg o.sa
     let put (y : Word) : State := s.modCur fun c => csrWritten c s.ix.oor num y
     (num ≠ 9 → exec (.csrr o) s = .next (s.writeS o.sd v 2)) ∧
     (num = 9 → exec (.csrr o) s = .next ((s.writeS o.sd v 2).modCur fun c => { c with bus := { c.bus with ack := true } })) ∧
     (num ∈ [3, 4, 5, 7, 8] →
       exec (.csrw o) s = .next (put x) ∧ exec (.csrs o) s = .next (put (v ||| x)) ∧ exec (.csrc o) s = .next (put (v &&& ~~~x))) ∧
     (num ∉ [3, 4, 5, 7, 8] →
       exec (.csrw o) s = .next (trapped s 0x03 0) ∧ exec (.csrs o) s = .next (trapped s 0x03 0) ∧ exec (.csrc o) s = .next (trapped s 0x03 0))) ∧
  (∀ (n : Nat) (s : State),
     s.csr n 0x000 = BitVec.ofNat 64 (s.core n).tcyc ∧ s.csr n 0x001 = BitVec.ofNat 64 n ∧ s.csr n 0x002 = (s.core n).slim ∧
     s.csr n 0x003 = (s.core n).flagsA ∧ s.csr n 0x004 = (s.core n).flagsB ∧ s.csr n 0x005 = (s.core n).fevrec ∧ s.csr n 0x006 = (s.core n).frec ∧
     s.csr n 0x007 = (s.core n).oorrec ∧ s.csr n 0x008 = (s.core n).gkey ∧ s.csr n 0x00A = (s.core n).phaseno.zeroExtend 64 ∧
     (∀ r : BitVec 3, s.csr n (0x040 + r.toNat) = BitVec.ofNat 64 ((s.core n).ctxAt r).cnt) ∧
     (∀ w, w < 256 → s.csr n (0x100 + w) = ((s.core n).window w).base ∧ s.csr n (0x200 + w) = ((s.core n).window w).peer ∧
       s.csr n (0x300 + w) = ((s.core n).window w).allow ||| BitVec.ofNat 64 (((s.core n).window w).outst * 2 ^ 16)))

/-- R83, R208, R209, R211, R218, R219, R234, R235: the other X-slot instructions.
R235: the word that PGQ gives, field by field; a core that ends in the PGQ's own cycle has not ended for it (log 37), and the FIFO counts are those of the end of that cycle. -/
def Obligations.XSlotResults : Prop :=
  ∀ (o : XOps) (s : State),
    let n := s.ix.core
    let sel := (o.low.extractLsb' 12 2).toNat
    let x : BitVec 3 := o.sd.extractLsb' 0 3
    let y := s.cur.xreg (o.sa.extractLsb' 0 3)
    let sets := s.cur.flagsA &&& expandSets (o.low.extractLsb' 5 9)
    let core := ((s.cur.sreg o.sa).extractLsb' 0 10).toNat
    (∃ t, exec (.xlat o) s = .next t ∧
      t.cur.xreg x = { s.cur.xreg x with val := 0, valid := false, pend := some (s.clock + 96, o.low.extractLsb' 12 2, s.cur.sreg o.sa) } ∧
      t.mem = s.mem ∧ t.cur.s = s.cur.s ∧ (∀ k, k ≠ n → t.core k = s.core k) ∧
      ∃ e ∈ t.agenda, e.at_ = s.clock + 96 ∧ e.ev = .xlatResult n x.toNat) ∧
    exec (.xvalid o) s = .next (s.writeP (o.sd.extractLsb' 0 4) (y.valid && !(o.low.getLsbD 0 && handleAbsent y.val)) 1) ∧
    exec (.flgr o) s = .next (s.writeS o.sd sets 2) ∧
    exec (.flgc o) s = .next ((s.writeS o.sd sets 2).modCur fun c => { c with flagsA := c.flagsA &&& ~~~expandSets (o.low.extractLsb' 5 9) }) ∧
    (sel ≠ 3 → exec (.tcr o) s = .next (s.writeS o.sd (BitVec.ofNat 64 (if sel = 0 then s.cur.tcyc else if sel = 1 then s.cur.clk else s.cur.cutTcyc)) 1)) ∧
    exec (.tlrd o) s = .next (s.writeS o.sd ((s.cur.ctxAt (o.low.extractLsb' 11 3)).record (s.cur.sreg o.sa).toNat) 2) ∧
    (∃ t, exec (.moncap o) s = .next t ∧ t = { s with agenda := t.agenda } ∧
      ∀ i, i < (if sel = 0 then 4 else 7) → ∃ e ∈ t.agenda, e.at_ = s.clock + 1 ∧
        e.ev = .monitorCapture (if sel = 0 then .cluster (coreCluster n) (2 + i) else .pkg i)) ∧
    (∃ t, exec (.pgate o) s = .next t ∧ OnlyWrites s t [inFlight s (.later o.sd) 4 0 0] ∧ ∃ e ∈ t.agenda, e.at_ = s.clock + 2 ∧
      e.ev = .powerGateDecision ⟨n, core, o.low.getLsbD 1, o.low.getLsbD 0, o.sd, s.clock⟩) ∧
    (coreCount ≤ core ∨ coreCluster core ≠ coreCluster n → exec (.pgq o) s = .next (s.writeS o.sd 0x8000000000000000#64 2)) ∧
    (core < coreCount → coreCluster core = coreCluster n → ∃ t, exec (.pgq o) s = .next t ∧
      OnlyWrites s t [inFlight s (.gateCounts o.sd (corePair core) (s.gateWord n core)) 2 0 0]) ∧
    (let w := s.gateWord n core
     let c := s.core core
     let p := s.pair (corePair core)
     p.discard < 2 ^ 16 →
       w.extractLsb' 0 2 = (match c.gate with
         | .on => 0
         | .gating => 1
         | .gated => 2
         | .waking => 3) ∧
       (w.getLsbD 2 = true ↔ ((c.run = .ended ∧ c.region.since ≠ s.clock) ∨ c.bind = none)) ∧
       (w.getLsbD 3 = true ↔ (c.bind ≠ none ∧ c.bind = (s.core n).bind)) ∧
       w.extractLsb' 4 12 = 0 ∧ (w.extractLsb' 16 16).toNat = p.discard ∧ w.extractLsb' 32 32 = 0 ∧
       ∀ (x : PendWrite) (r : BitVec 5), x.w = .gateCounts r (corePair core) w → p.up.rows.length < 32 → p.down.rows.length < 32 → ∃ v : Word,
         s.countGate x = { x with w := .s r v } ∧ (v.extractLsb' 4 5).toNat = p.up.rows.length ∧ (v.extractLsb' 9 5).toNat = p.down.rows.length ∧
         v.extractLsb' 0 4 = w.extractLsb' 0 4 ∧ v.extractLsb' 14 50 = w.extractLsb' 14 50)

/-! Exceptions and their return -/

namespace Sys2Proof.Claim

/-- The causes of R12 that rewind the launch when a core raises them: 0x11, 0x1A and 0x1B, but not in a sealed region (R74) and not
the second uncorrectable read of a word (R238).  A core takes 0x10 itself only where a sealed region of its domain has met the slip, which ends the launch
(R74, R267); every other slip asks for its freeze at once. -/
def rewinds (c : Core) (cause detail : BitVec 8) : Prop :=
  (cause = 0x11 ∨ cause = 0x1A ∨ cause = 0x1B) ∧ c.region.kind ≠ .sealed ∧ ¬(cause = 0x1A ∧ detail = 0x04)

end Sys2Proof.Claim

/-- R12, R76: taking an exception: FREC's fields, the core stops and issues no more (an ended core stays ended), its other registers, the other
cores and memory stand; a recoverable cause asks for a freeze of the domain in this cycle, any other ends the launch: the domain stops 64 cycles later. -/
def Obligations.ExceptionEntry : Prop :=
  ∀ (s : State) (n : Nat) (cause detail : BitVec 8) (slot addr : Nat), slot < 16 →
    let c := s.core n
    let t := s.takeException n cause detail slot addr
    let f := (t.core n).frec
    f.extractLsb' 0 8 = cause ∧ f.extractLsb' 8 8 = detail ∧ (f.extractLsb' 16 4).toNat = slot ∧
    f.getLsbD 20 = decide (c.region.kind = .sealed) ∧ f.extractLsb' 21 11 = 0 ∧ (f.extractLsb' 32 18).toNat = addr % 2 ^ 18 ∧ f.extractLsb' 50 14 = 0 ∧
    t.core n = { c with frec := f, late := none, hold := none, run := if c.run = .ended then .ended else .stopped } ∧
    (∀ k, k ≠ n → t.core k = s.core k) ∧ (∀ a, memByte t.mem a = memByte s.mem a) ∧ t.memPend = s.memPend ∧
    (∀ b, c.bind = some b → rewinds c cause detail → ∃ a ∈ t.agenda, a.at_ = s.clock ∧ a.ev = .freeze ⟨b, cause, detail, false⟩) ∧
    (∀ b, c.bind = some b → ¬rewinds c cause detail →
      (t.launch b).ending ≠ none ∧ ∃ a ∈ t.agenda, a.at_ = s.clock + 64 ∧ a.ev = .domainStop b)

namespace Sys2Proof.Claim

/-- The fault as R419 names it. -/
def faultNow (s : State) (cause detail : BitVec 8) (slot addr issued : Nat) : LateFault := ⟨s.clock, issued, slot, cause, detail, addr, false⟩

/-- The order of R419 on one cycle: issue, slot, cause, detail; a fault of an earlier cycle comes first. -/
def comesBefore (a b : LateFault) : Prop :=
  a.arose < b.arose ∨ (a.arose = b.arose ∧ (a.issued < b.issued ∨ (a.issued = b.issued ∧ (a.slot < b.slot ∨ (a.slot = b.slot ∧
    (a.cause.toNat < b.cause.toNat ∨ (a.cause = b.cause ∧ a.detail.toNat < b.detail.toNat)))))))

end Sys2Proof.Claim

/-- R419: a fault found after issue: a core keeps the first by R419's order, until it has recorded one.  An issuing core stops with it at its next bundle
boundary, where its bundle does not issue; a held core stops with it, leaves its rendezvous and holds the other members there for ever, and an
ended core records it, in the cycle in which it is found, after the other faults of that cycle.  R419 says that the rendezvous is forgotten for every member: that the others
then stay held for ever is log 21's reading, that an ended core records its fault once the cycle's faults are known is log 15's, and that a core which has stopped already
records nothing is the model's choice (log 46). -/
def Obligations.LateFaults : Prop :=
  (∀ (s : State) (n : Nat) (cause detail : BitVec 8) (slot addr issued : Nat),
    let c := s.core n
    let f := faultNow s cause detail slot addr issued
    let t := s.lateFault n cause detail slot addr issued
    ∃ g : LateFault, (g = f ∨ c.late = some g) ∧ (∀ h, c.late = some h → h.done = true → g = h) ∧
      ((∀ h, c.late = some h → h.done = false) → ¬comesBefore f g ∧ ∀ h, c.late = some h → ¬comesBefore h g) ∧
      (c.run = .running → t = s.setCore n { c with late := some g }) ∧
      (c.run = .held ∨ c.run = .ended →
        t = { s.setCore n { c with late := some g } with agenda := t.agenda } ∧ planned t s.clock (.bundleIssue n)) ∧
      (c.run = .frozen ∨ c.run = .stopped → t = s)) ∧
  (∀ (s : State) (n : Nat) (g : LateFault), n < 768 → (s.core n).late = some g →
    let c := s.core n
    (c.run = .running → c.gate = .on → c.nextIssue ≤ s.clock →
      exec (.bundleIssue n) s = .next (s.takeException n g.cause g.detail g.slot g.addr)) ∧
    (c.run = .held → g.done = false →
      exec (.bundleIssue n) s = .next ((s.leaveRendezvous n).takeException n g.cause g.detail g.slot g.addr)) ∧
    (c.run = .ended → g.done = false →
      exec (.bundleIssue n) s = .next (((s.leaveRendezvous n).takeException n g.cause g.detail g.slot g.addr).modCore n
        fun d => { d with late := some { g with done := true } })) ∧
    (c.run = .ended → g.done = true → exec (.bundleIssue n) s = .next s)) ∧
  (∀ (s : State) (n : Nat) (h : Hold), Canon s → (s.core n).hold = some h →
    let t := s.leaveRendezvous n
    t.core n = s.core n ∧ t.mem = s.mem ∧ t.launches = s.launches ∧ t.clock = s.clock ∧
    ∀ k, k ≠ n → t.core k = match (s.core k).hold with
      | some x => if x.group = h.group then { s.core k with hold := some { x with void := true } } else s.core k
      | none => s.core k)

namespace Sys2Proof.Claim

/-- TLCNT of a context whose last closed batch is `closed`, counted on from `from_` (R206, R416): the batches up to it have no operation left, and the
next, if it is closed, has one. -/
def Settled (y : Ctx) (closed from_ : Nat) : Prop :=
  y.closed = closed ∧ from_ ≤ y.cnt ∧ y.cnt ≤ max from_ closed ∧ (∀ m, from_ < m → m ≤ y.cnt → (y.batch m).pending = 0) ∧
  (y.cnt < closed → (y.batch (y.cnt + 1)).pending ≠ 0)

end Sys2Proof.Claim

/-- R75, R416: the return from a recoverable fault: on RESTART every frozen core of the domain runs again from the latest cut line, on this cycle: PC, loop stack,
TCYC, PHASENO, scalars, predicates, streams, flags and buffers as the checkpoint has them, masks clear, x0 to x7 invalid, the rows outside the
named ranges and live tiles zero; FREC, OORREC and SLIM as they stand.
R75, R416: at the stop each context of a core that returns takes the checkpoint's batch numbers and its open batch, and at the stop and at the restart TLCNT is the largest
number, not above the last closed one, up to which every batch has completed. -/
def Obligations.RestartReturns : Prop :=
  (∀ (b : Nat) (s : State) (x : Stop) (n : Nat) (q : Checkpoint), n ∈ (s.launch b).cores → (s.core n).ckpt = some q → (s.core n).gate = .on →
     (s.core n).run = .running ∨ (s.core n).run = .held ∨ (s.core n).run = .frozen ∨ (s.core n).run = .stopped →
     ∀ i : Fin 8, let a := (s.core n).ctx[i]
       let y := ((s.stopDomain b x).core n).ctx[i]
       y.cur = q.opens.getD i.val .empty ∧ Settled y (q.closed.getD i.val 0) (min a.cnt (q.closed.getD i.val 0)) ∧
       (∀ m, m ≤ q.closed.getD i.val 0 → SMap.wf Batch.empty a.batches = true → y.batch m = a.batch m) ∧
       (∀ m, q.closed.getD i.val 0 < m → y.batch m = .empty)) ∧
  (∀ (b : Nat) (s : State), b < 64 → s.restartDue (s.launch b) = true →
    ∃ t, exec (.restart b) s = .next t ∧ (t.launch b).stop = none ∧ (t.launch b).st = 3 ∧
      (∀ n, n ∉ (s.launch b).cores ∨ ((s.core n).run ≠ .frozen ∧ (s.core n).run ≠ .ended) → t.core n = s.core n) ∧
      (∀ n ∈ (s.launch b).cores, (s.core n).run = .ended → t.core n = { s.core n with late := none }) ∧
      ∀ n ∈ (s.launch b).cores, (s.core n).run = .frozen → ∀ q, (s.core n).ckpt = some q →
        let c := t.core n
        c.run = .running ∧ c.nextIssue = s.clock ∧ c.pc = BitVec.ofNat 32 q.addr ∧ c.loops = q.loops ∧ c.tcyc = q.tcyc ∧ c.cutTcyc = q.tcyc ∧
        c.phaseno = q.phaseno ∧ c.s = q.s ∧ c.p = q.p ∧ c.g = q.g ∧ c.flagsA = q.flagsA ∧ c.flagsB = q.flagsB ∧ c.fevrec = q.fevrec ∧ c.bufs = q.bufs ∧
        (∀ r : BitVec 4, c.kreg r = if r = 0 then BitVec.allOnes 512 else 0) ∧ (∀ r : BitVec 3, (c.xreg r).valid = false) ∧
        c.rows = (s.core n).rows.filter (fun x => q.keepsRow x.1) ∧ c.pend = [] ∧ c.mops = [] ∧ c.hold = none ∧
        c.frec = (s.core n).frec ∧ c.oorrec = (s.core n).oorrec ∧ c.slim = (s.core n).slim ∧ c.gkey = (s.core n).gkey ∧
        ∀ i : Fin 8, c.ctx[i].cur = (s.core n).ctx[i].cur ∧ c.ctx[i].batches = (s.core n).ctx[i].batches ∧
          Settled c.ctx[i] (s.core n).ctx[i].closed (s.core n).ctx[i].cnt)

/-! What becomes visible -/

namespace Sys2Proof.Claim

/-- The register that a write names: file (0 s, 1 p, 2 k, 3 rows, 4 streams) and number. -/
def named (w : RegWrite) : Option (Nat × Nat) :=
  match w with
  | .s r _ | .gateCounts r _ _ | .later r => some (0, r.toNat)
  | .p r _ => some (1, r.toNat)
  | .k r _ _ => some (2, r.toNat)
  | .row r _ _ => some (3, r.toNat)
  | .g r _ => some (4, r.toNat)
  | .none => none

/-- The writes of a core that are due and name register x. -/
def dueOn (s : State) (c : Core) (x : Nat × Nat) : List PendWrite := c.pend.filter fun w => decide (w.due ≤ s.clock) && named w.w == some x

/-- Write w wins over all others of a list (R19): issued later, or in the same cycle from a higher slot. -/
def wins (l : List PendWrite) (w : PendWrite) : Prop :=
  w ∈ l ∧ ∀ x ∈ l, x = w ∨ x.issued < w.issued ∨ (x.issued = w.issued ∧ x.slot < w.slot)

/-- First bit of the flag set of a slot in FLAGSA (R124); the A and X slots have none. -/
def flagBase (slot : Nat) : Option Nat := [some 0, some 6, none, some 12, some 18, some 24, some 30, some 36, some 42, some 48].getD slot none

/-- A write raises bit i of FLAGSA with it. -/
def raisesBit (w : PendWrite) (i : Nat) : Bool :=
  match flagBase w.slot with
  | some b => decide (b ≤ i) && decide (i < b + 6) && w.flags.getLsbD (i - b)
  | none => false

/-- Two writes of stream r that become visible on one cycle are a GLD of v and the change x (R133). -/
def loadMeets (s : State) (c : Core) (r : BitVec 4) (v : Desc) (x : GChange) : Prop :=
  ∃ a b, (dueOn s c (4, r.toNat) = [a, b] ∨ dueOn s c (4, r.toNat) = [b, a]) ∧ a.w = .g r (.load v) ∧ b.w = .g r x

end Sys2Proof.Claim

/-- R18, R19, R78: WRITE_VISIBLE: a register that no due write names stands; one that due writes name takes the value of the winner; p0 and k0 never
change; other registers of the core (PC, loop stack, TCYC, SLIM, OORREC, GKEY, PHASENO, windows, contexts, x registers, checkpoint) stand.
R133: of a GLD and another change of one stream the GLD comes first.
R19, R125, R133: WCOL is set where two due writes name one register (p0 and k0 among them: log 46), or a GLD meets a change that moves something of its stream, and stands where no
two do.
R124, R126, R127: the sets of FLAGSA take the flags of every due write; FEVREC, while it holds no record, takes one event of the lowest slot, and every other event sets
FEVMORE. -/
def Obligations.RegisterWritesBecomeVisible : Prop :=
  ∀ s : State, Canon s → ∃ t, exec .writeVisible s = .next t ∧ ∀ n : Nat,
    let c := s.core n
    let d := t.core n
    let rowsDue := c.pend.filter fun w => decide (w.due ≤ s.clock) && w.isRow
    let events := c.pend.filter fun w => decide (w.due ≤ s.clock) && w.flags != 0 && (flagBase w.slot).isSome
    d.pend = (c.pend.filter (fun w => !decide (w.due ≤ s.clock))).map s.countGate ∧
    (∀ r : BitVec 5, dueOn s c (0, r.toNat) = [] → d.sreg r = c.sreg r) ∧
    (∀ (r : BitVec 5) w v, w.w = .s r v → wins (dueOn s c (0, r.toNat)) w → d.sreg r = v) ∧
    (∀ r : BitVec 4, dueOn s c (1, r.toNat) = [] → d.preg r = c.preg r) ∧
    (∀ (r : BitVec 4) w v, r ≠ 0 → w.w = .p r v → wins (dueOn s c (1, r.toNat)) w → d.preg r = v) ∧
    (∀ r : BitVec 4, dueOn s c (2, r.toNat) = [] → d.kreg r = c.kreg r) ∧
    (∀ (r : BitVec 4) w v m, r ≠ 0 → w.w = .k r v m → wins (dueOn s c (2, r.toNat)) w → d.kreg r = (c.kreg r &&& ~~~m) ||| (v &&& m)) ∧
    (rowsDue = [] → d.rows = c.rows) ∧
    (∀ w r v m, rowsDue = [w] → w.w = .row r v m → d.rows = SMap.put 0 c.rows r.toNat (mergeRow (c.row r.toNat) v m)) ∧
    (∀ r : BitVec 4, dueOn s c (4, r.toNat) = [] → d.greg r = c.greg r) ∧
    (∀ (r : BitVec 4) w x, dueOn s c (4, r.toNat) = [w] → w.w = .g r x → d.greg r = x.apply (c.greg r)) ∧
    (∀ (r : BitVec 4) v x, loadMeets s c r v x → (∀ y, x ≠ .load y) → d.greg r = x.apply v ∧
      ((∀ k, x ≠ .push k ∧ x ≠ .advance k) → d.flagsB.getLsbD 0 = true) ∧
      (∀ k, x = .push k → (∃ j, j < 4 ∧ boundOf v j = k) → d.flagsB.getLsbD 0 = true) ∧
      (∀ k, x = .advance k → (∃ j, j < 4 ∧ boundOf v j = k ∧ extOf v j ≠ 0) → d.flagsB.getLsbD 0 = true)) ∧
    ((∃ x, 2 ≤ (dueOn s c x).length ∧ (x.1 < 3 ∨ (x.1 = 3 ∧ rowsDue.length ≤ 2))) → d.flagsB.getLsbD 0 = true) ∧
    (∀ (r : BitVec 4) v y, loadMeets s c r v (.load y) → d.flagsB.getLsbD 0 = true) ∧
    ((∀ x, (dueOn s c x).length ≤ 1) → d.flagsB.getLsbD 0 = c.flagsB.getLsbD 0) ∧
    (∀ i, i < 64 → d.flagsA.getLsbD i = (c.flagsA.getLsbD i || events.any fun w => raisesBit w i)) ∧
    (c.fevrec.getLsbD 31 = true ∨ events = [] → d.fevrec = c.fevrec) ∧
    (c.fevrec.getLsbD 31 = false → events ≠ [] → ∃ e ∈ events, (∀ x ∈ events, e.slot ≤ x.slot) ∧ (d.fevrec.extractLsb' 0 18).toNat = e.addr % 2 ^ 18 ∧
      (d.fevrec.extractLsb' 18 4).toNat = e.slot ∧ d.fevrec.extractLsb' 22 6 = e.flags ∧ d.fevrec.extractLsb' 28 3 = 0 ∧ d.fevrec.getLsbD 31 = true ∧
      (d.fevrec.extractLsb' 32 32).toNat = e.stamp % 2 ^ 32) ∧
    d.flagsB.getLsbD 1 = (c.flagsB.getLsbD 1 || (c.fevrec.getLsbD 31 && !events.isEmpty) || decide (2 ≤ events.length)) ∧
    (∀ i, 2 ≤ i → i < 64 → d.flagsB.getLsbD i = c.flagsB.getLsbD i) ∧
    d.p.getLsbD 0 = c.p.getLsbD 0 ∧ d.k[0] = c.k[0] ∧ d.pc = c.pc ∧ d.loops = c.loops ∧ d.tcyc = c.tcyc ∧ d.slim = c.slim ∧ d.oorrec = c.oorrec ∧
    d.gkey = c.gkey ∧ d.phaseno = c.phaseno ∧ d.win = c.win ∧ d.ctx = c.ctx ∧ d.x = c.x ∧ d.ckpt = c.ckpt

/-- R326, R327: WRITE_VISIBLE: a byte that no due write of memory names stands; a byte that exactly one names takes its value, unless a write later in the
write order is visible already; the writes that are not due stay in flight. -/
def Obligations.StoresBecomeVisible : Prop :=
  ∀ s : State, Canon s → ∃ t, exec .writeVisible s = .next t ∧
    t.memPend = s.memPend.filter (fun m => !decide (m.vis ≤ s.clock)) ∧
    (∀ a, (∀ m ∈ s.memPend, m.vis ≤ s.clock → ∀ d ∈ m.data, d.1 ≠ a) → memByte t.mem a = memByte s.mem a) ∧
    (∀ a m b, m ∈ s.memPend → m.vis ≤ s.clock → m.data.filter (fun d => d.1 == a) = [(a, b)] →
      (∀ x ∈ s.memPend, x.vis ≤ s.clock → (∃ d ∈ x.data, d.1 = a) → x = m) → (∀ x ∈ s.memRecent, x.1 = a → x.2 ≤ m.bank) →
      memByte t.mem a = b)

namespace Sys2Proof.Claim

/-- The registers that an instruction of the S, C, A, V and X slots which works on registers alone may write; none for every other
instruction. -/
def destinations (i : Instr) : Option (List (Nat × Nat)) :=
  match i with
  | .add o | .sub o | .mul o | .mulh o | .mulhu o | .div o | .divu o | .rem o | .remu o | .and o | .or o | .xor o | .andn o | .shl o
  | .shr o | .sar o | .rot o | .min o | .max o | .minu o | .maxu o | .sel o | .mov o | .lit o | .clz o | .popc o | .bfx o | .bfi o
  | .sext o | .zext o | .fadd o | .fsub o | .fmul o | .ffma o | .fmin o | .fmax o | .fminp o | .fmaxp o | .fsgn o | .fcvt o | .fdiv o
  | .fsqrt o => some [(0, o.sd.toNat)]
  | .cmp o | .cmpu o | .fcmp o => some [(1, (o.sd.extractLsb' 0 4).toNat)]
  | .pand _ o | .por _ o | .pxor _ o => some [(1, o.pd.toNat)]
  | .pget _ sd _ | .lidx _ sd _ => some [(0, sd.toNat)]
  | .pset _ _ h => some ((List.range 8).map fun i => (1, (if h then 8 else 0) + i))
  | .gset g _ _ | .gsets g _ _ | .gadv g _ _ _ | .grst g | .gpos g _ _ | .gmap g _ _ => some [(4, g.toNat)]
  | .vadd o | .vsub o | .vmul o | .vfma o | .vfms o | .vfnma o | .vmin o | .vmax o | .vminp o | .vmaxp o | .vabs o | .vneg o
  | .vsel o | .vand o | .vor o | .vxor o | .vnot o | .vshl o | .vshr o | .vsar o | .vmov o | .vfill o | .viota o | .vins o | .vcvt o | .vcvts o
  | .vqnt o | .vfold o | .vsplit o | .vexp2 o | .vlog2 o | .vrcp o | .vrsq o | .vsqrt o | .vtanh o | .vsigm o | .vgelu o | .vrsum o | .vrmax o
  | .vrmin o | .vramax o | .vscan o | .vperm o | .vrot o | .vbcl o | .vzip o | .vunzp o | .vrng o | .kpop o => some [(3, o.vd.toNat)]
  | .vcmp o | .kand o | .kor o | .kxor o | .knot o | .kset o | .ksetImm o => some [(2, (o.vd.extractLsb' 0 4).toNat)]
  | .vext o => some [(0, (o.vd.extractLsb' 0 5).toNat)]
  | .bufq o | .rlfree o => some [(0, o.scalar.toNat)]
  | .flgr o | .tcr o | .tlrd o | .pgq o => some [(0, o.sd.toNat)]
  | .xvalid o => some [(1, (o.sd.extractLsb' 0 4).toNat)]
  | _ => none

end Sys2Proof.Claim

/-- Frame of the instructions that work on registers alone: each puts writes of its destinations in flight and changes nothing else: no register, flag,
special register, accumulator, byte of memory or other core (R8, R17, R18). -/
def Obligations.RegisterInstructionFrame : Prop :=
  ∀ (i : Instr) (dst : List (Nat × Nat)) (s t : State), destinations i = some dst → exec i s = .next t →
    ∃ ws : List PendWrite, OnlyWrites s t ws ∧ ∀ w ∈ ws, ∀ x, named w.w = some x → x ∈ dst

namespace Sys2Proof.Claim

/-- The slots in which an instruction may stand (R9, R28, R31 to R38); none for a step of the part. -/
def slotsOf (i : Instr) : List Nat :=
  match i with
  | .b _ _ | .call _ _ | .calli _ _ | .ret _ _ | .loop _ _ | .loopLit _ _ | .brkl _ _ _ | .lidx _ _ _ | .region _ _ _ | .phase _ _ _ _
  | .resync _ _ _ | .trigger _ | .trap _ _ | .sys _ _ | .replay _ _ _ | .pand _ _ | .por _ _ | .pxor _ _ | .pget _ _ _ | .pset _ _ _
  | .tltest _ _ _ | .tltestLit _ _ _ | .endTask => [0]
  | .add _ | .sub _ | .mul _ | .mulh _ | .mulhu _ | .div _ | .divu _ | .rem _ | .remu _ | .and _ | .or _ | .xor _ | .andn _ | .shl _
  | .shr _ | .sar _ | .rot _ | .min _ | .max _ | .minu _ | .maxu _ | .cmp _ | .cmpu _ | .sel _ | .mov _ | .lit _ | .clz _ | .popc _
  | .bfx _ | .bfi _ | .sext _ | .zext _ | .fadd _ | .fsub _ | .fmul _ | .ffma _ | .fmin _ | .fmax _ | .fminp _ | .fmaxp _ | .fcmp _
  | .fsgn _ | .fcvt _ | .fdiv _ | .fsqrt _ => [0, 1]
  | .sld _ | .slds _ | .sst _ => [1]
  | .gset _ _ _ | .gsets _ _ _ | .gld _ _ _ | .gst _ _ _ | .gadv _ _ _ _ | .grst _ | .gpos _ _ _ | .gmap _ _ _ => [2]
  | .vld _ | .vst _ | .vlda _ | .vsta _ | .vgth _ | .vsct _ | .vldb _ | .bufset _ | .bufq _ | .atom _ | .rlsend _ | .rlrecv _ | .rlfree _ => [3]
  | .vadd _ | .vsub _ | .vmul _ | .vfma _ | .vfms _ | .vfnma _ | .vmin _ | .vmax _ | .vminp _ | .vmaxp _ | .vabs _ | .vneg _ | .vcmp _
  | .vsel _ | .vand _ | .vor _ | .vxor _ | .vnot _ | .vshl _ | .vshr _ | .vsar _ | .vmov _ | .vfill _ | .viota _ | .vext _ | .vins _ | .vcvt _
  | .vcvts _ | .vqnt _ | .vfold _ | .vsplit _ | .vexp2 _ | .vlog2 _ | .vrcp _ | .vrsq _ | .vsqrt _ | .vtanh _ | .vsigm _ | .vgelu _ | .vrsum _
  | .vrmax _ | .vrmin _ | .vramax _ | .vscan _ | .vperm _ | .vrot _ | .vbcl _ | .vzip _ | .vunzp _ | .vrng _ | .kand _ | .kor _ | .kxor _
  | .knot _ | .kpop _ | .kset _ | .ksetImm _ => [4, 5, 6, 7]
  | .mma _ | .mzero _ | .mfold _ | .msave _ | .mload _ | .mpre _ | .mtrn _ => [8]
  | .cpyt _ | .cpyu _ | .cpym _ | .cfill _ | .cseal _ | .amo _ | .amof _ | .rtopk _ | .rcap _ | .rdisp _ | .tlife _ | .tdrop _ | .fsend _
  | .frdc _ | .fag _ | .fa2a _ | .jrnl _ | .emit _ | .jtrunc _ | .hflush _ | .hnote _ => [9]
  | .xlat _ | .xvalid _ | .csrr _ | .csrw _ | .csrs _ | .csrc _ | .flgr _ | .flgc _ | .tcr _ | .pgate _ | .pgq _ | .moncap _ | .tlrd _ => [10]
  | _ => []

/-- The words of an encoding as one slot word: one word, or two, the lower first. -/
def slotWord (l : List (BitVec 32)) : BitVec 64 :=
  match l with
  | [w] => w.zeroExtend 64
  | [lo, hi] => hi ++ lo
  | _ => 0

end Sys2Proof.Claim

/-- Issue is local: an instruction that a bundle issues changes no byte of memory and no other core when it issues; what it stores, claims or sends is in
flight (R8, R18, R149, R326).  The one exception is the cut marker, at which the ended cores of its domain take part: their cut line is this one, and
their vertical buses swap their marked lane groups (R61, R239, R247). -/
def Obligations.IssueIsLocal : Prop :=
  ∀ (i : Instr) (s t : State), slotsOf i ≠ [] → Canon s → exec i s = .next t →
    (∀ a, memByte t.mem a = memByte s.mem a) ∧
    ∀ k, k ≠ s.ix.core → t.core k = s.core k ∨
      ((∃ b nr, i = .region 2 b nr) ∧ (s.core k).run = .ended ∧ (s.core k).cutTcyc < s.cur.tcyc ∧ t.core k = { s.core k with endedAtCut := true, bus := (t.core k).bus })

/-! Steps -/

/-- A step runs what is next in the cycle: an event on the agenda that falls due, a step that the state calls for, the cores that issue, in turn, then what follows
them, a launch that completes, an event of the outside, and the next clock cycle (R3, R16).  Which of a cycle's events comes first is the model's order: log 9, and log 15 for
what follows the issues. -/
def Obligations.StepOrder : Prop :=
  ∀ s : State,
    let none1 (bound : Nat) : Prop := ∀ a ∈ s.agenda.head?, s.clock < a.at_ ∨ bound ≤ a.prio
    (s.stage = .events → ∀ a r, s.agenda = a :: r → a.at_ ≤ s.clock → a.prio < 100 → step s = exec a.ev { s with agenda := r, stim := noStim }) ∧
    (s.stage = .events → none1 100 → ∀ ev, s.scan = some ev → step s = exec ev { s with stim := noStim }) ∧
    (s.stage = .events → none1 100 → s.scan = none → step s = .next { s with stage := .issue s.dueCores }) ∧
    (∀ n r, s.stage = .issue (n :: r) → step s = exec (.bundleIssue n) { s with stage := .issue r }) ∧
    (s.stage = .issue [] → step s = .next { s with stage := .after }) ∧
    (s.stage = .after → ∀ a r, s.agenda = a :: r → a.at_ ≤ s.clock → a.prio < 1000 → step s = exec a.ev { s with agenda := r, stim := noStim }) ∧
    (s.stage = .after → none1 1000 → ∀ ev, s.endScan = some ev → step s = exec ev { s with stim := noStim }) ∧
    (s.stage = .after → none1 1000 → s.endScan = none → ∀ i r, s.inputs = i :: r → i.at_ ≤ s.clock →
      step s = exec i.ev { s with inputs := r, stim := i.stim }) ∧
    (s.stage = .after → none1 1000 → s.endScan = none → (∀ i ∈ s.inputs.head?, s.clock < i.at_) →
      ∃ t, step s = .next t ∧ t.clock = s.clock + 1 ∧ t.stage = .events ∧ t.mem = s.mem ∧
        ∀ n, ((t.core n).tcyc = (s.core n).tcyc ∨ (t.core n).tcyc = (s.core n).tcyc + 1) ∧
          ((s.core n).run = .running → SMap.wf Core.init s.cores = true → (t.core n).tcyc = (s.core n).tcyc + 1))

namespace Sys2Proof.Claim

/-- Core n issues the bundle b in this cycle (R16): it runs, its gate is on, its time has come, nothing stops it at this boundary (R74, R419), and its bytes
decode to b. -/
def issues (s : State) (n : Nat) (b : Bundle) : Prop :=
  let c := s.core n
  n < 768 ∧ c.run = .running ∧ c.gate = .on ∧ c.nextIssue ≤ s.clock ∧ c.late = none ∧
  (∀ l, s.launchOf n = some l → l.stop = none) ∧ decodeBundle (s.headerAt n) c.pc.toNat = .ok b

/-- The state in which slot k of the bundle runs. -/
def inSlot (s : State) (n : Nat) (b : Bundle) (k : Nat) : State :=
  { s with ix := ⟨n, (s.core n).pc.toNat, b.len, b.idle, b.lits, k, false, 0, none⟩ }

/-- The bundle breaks no rule of the bundle as a whole: replay blocks (R67), a closing region (R62), read ports (R45). -/
def wholeOk (s : State) (n : Nat) (b : Bundle) : Prop := bundleTraps (s.core n) (s.core n).pc.toNat b = []

/-- R42: 0x01 comes before 0x02 and 0x02 before every other cause; then the lower slot, the lower cause and the lower detail. -/
def urgency (x : Trap) : Nat := if x.cause = 1 then 0 else if x.cause = 2 then 1 else 2
def foremost (x y : Trap) : Prop :=
  urgency x < urgency y ∨ (urgency x = urgency y ∧ (x.slot < y.slot ∨ (x.slot = y.slot ∧
    (x.cause.toNat < y.cause.toNat ∨ (x.cause = y.cause ∧ x.detail.toNat ≤ y.detail.toNat)))))

end Sys2Proof.Claim

/-- A step runs the decoded instruction (R8, R16, R42): the step of a core that issues a bundle of one instruction i is exec of i from the state before the bundle, and then the
end of the bundle; where exec of i takes an exception, the step takes it; a bundle that does not decode takes 0x01, and one with a slot
that does not decode takes 0x02 there, or the cause of the bundle or of its legal slots that comes before it. -/
def Obligations.StepRunsDecodedInstruction : Prop :=
  ∀ (s : State) (n : Nat) (r : List Nat), s.stage = .issue (n :: r) →
    let s1 : State := { s with stage := .issue r }
    let a := (s.core n).pc.toNat
    (∀ (b : Bundle) (k : Nat) (i : Instr), issues s n b → b.slots = [(k, i)] → wholeOk s n b →
      (∀ t, slotOp i (inSlot s1 n b k) (inSlot s1 n b k) = .ok t →
        exec i (inSlot s1 n b k) = .next t ∧ step s = .next t.finishBundle.pumpSys) ∧
      (∀ x, slotOp i (inSlot s1 n b k) (inSlot s1 n b k) = .error x →
        exec i (inSlot s1 n b k) = .next ((inSlot s1 n b k).takeTrap x) ∧ step s = .next ((inSlot s1 n b 0).takeTrap x))) ∧
    (n < 768 → (s.core n).run = .running → (s.core n).gate = .on → (s.core n).nextIssue ≤ s.clock → (s.core n).late = none →
      (∀ l, s.launchOf n = some l → l.stop = none) →
      (decodeBundle (s.headerAt n) a = .error .illegalBundle → step s = .next (s1.takeException n 0x01 0 15 a)) ∧
      (∀ k b, decodeBundle (s.headerAt n) a = .error (.illegalInstruction k b) →
        let u := inSlot s1 n b 0
        let causes := ⟨0x02, 0, k, none, none⟩ :: (bundleTraps (s.core n) a b ++ (runSlots u b.slots).2)
        ∃ x ∈ causes, (∀ y ∈ causes, foremost x y) ∧ step s = .next (u.takeTrap x)))

/-- R8, R42: the instructions of a bundle read the state before it and add their effects in slot order; if the bundle or any of them raises a cause, none of
them has an effect, and the cause of the lowest slot among the most urgent is taken. -/
def Obligations.BundlesAreAtomic : Prop :=
  ∀ (s : State) (n : Nat) (b : Bundle), issues s n b →
    let u := inSlot s n b 0
    let causes := bundleTraps (s.core n) (s.core n).pc.toNat b ++ (runSlots u b.slots).2
    (causes = [] → exec (.bundleIssue n) s = .next (runSlots u b.slots).1.finishBundle.pumpSys) ∧
    (causes ≠ [] → ∃ x ∈ causes, exec (.bundleIssue n) s = .next (u.takeTrap x) ∧
      (∀ y ∈ causes, foremost x y) ∧
      (∀ k, k ≠ n → (u.takeTrap x).core k = s.core k) ∧ (u.takeTrap x).mem = s.mem ∧ (u.takeTrap x).memPend = s.memPend ∧
      (u.takeTrap x).cmds = s.cmds ∧ ((u.takeTrap x).core n).pend = (s.core n).pend ∧ ((u.takeTrap x).core n).s = (s.core n).s)

/-! Encoding -/

/-- Decode and encode agree: a well-formed instruction's words decode to it in each of its slots, and a word that decodes in a slot is the encoding
of the instruction it gives. -/
def Obligations.RoundTrip : Prop :=
  (∀ i : Instr, wfInstr i = true → ∀ k ∈ slotsOf i, decodeSlot (slotFmt k) (slotWord (encode i)) = some i ∧
    (encode i).length = if (slotFmt k).wide then 2 else 1) ∧
  (∀ (k : Nat) (w : BitVec 64) (i : Instr), k < 11 → ((slotFmt k).wide = false → w.extractLsb' 32 32 = 0) → decodeSlot (slotFmt k) w = some i →
    wfInstr i = true ∧ k ∈ slotsOf i ∧ slotWord (encode i) = w)

/-- Words written out from the encodings of R27 to R38, field by field, decode to the instructions they stand for. -/
def Obligations.DecodeWords : Prop :=
  decodeC (0x01#8 ++ 0x3#4 ++ 0b1#1 ++ 0x7FFFE#19) = some (.b ⟨3, true⟩ (-2)) ∧
  decodeS (0x40#8 ++ 0b00101#5 ++ 0b00110#5 ++ 0b00111#5 ++ 0b0#1 ++ 0x2#4 ++ 0b0#1 ++ 0b000#3) = some (.add ⟨5, 6, .reg 7, ⟨2, false⟩, 0⟩) ∧
  decodeS (0xA0#8 ++ 0b00001#5 ++ 0b00010#5 ++ 0b00100#5 ++ 0b1#1 ++ 0x0#4 ++ 0b0#1 ++ 0b011#3) = some (.sld ⟨1, 2, .lit 4, ⟨0, false⟩, 3⟩) ∧
  decodeA (0x06#8 ++ 0x9#4 ++ 0#20) = some (.grst 9) ∧
  decodeL (0x01#8 ++ 0b00000000101#11 ++ 0x0#4 ++ 0b1#1 ++ 0b00011#5 ++ 0x000040#24 ++ 0x1#4 ++ 0b0000001#7) = some (.vld ⟨5, 0, true, 3, 0x40, 1, 1⟩) ∧
  decodeV (0x01#8 ++ 0b00000000011#11 ++ 0b00000000001#11 ++ 0b00000000010#11 ++ 0#11 ++ 0x0#4 ++ 0b001#3 ++ 0b00#2 ++ 0b0#1 ++ 0b0#1 ++ 0b0#1) =
    some (.vadd ⟨3, 1, 2, 0, 0, 1, 0, false, false⟩) ∧
  decodeM (0x02#8 ++ 0x7#4 ++ 0#52) = some (.mzero ⟨7, 0, 0, 0, 0, 0⟩) ∧
  decodeE (0x01#8 ++ 0b010#3 ++ 0x000123#24 ++ 0b00100#5 ++ 0#24) = some (.cpyt ⟨2, 0x123, 4, 0⟩) ∧
  decodeX (0x03#8 ++ 0b00111#5 ++ 0#5 ++ 0b0000000001#10 ++ 0x0#4) = some (.csrr ⟨7, 0, 0x10⟩)

/-! Reset and the canonical form -/

/-- R13, R15, R79, R80, R235: the state after reset: no core has a task, its registers at their reset values; VWIDTH full, gates on; nothing in flight; and memory and
cores in canonical form.

The model's own: SLIM 0, which dispatch writes before any program reads it (log 1); the clock, and that nothing stands in flight or in a list (log 9); the canonical form
(log 5).  The x registers are invalid by R79; their value is the model's (log 2) and stands in no clause. -/
def Obligations.ResetState : Prop :=
  Canon State.reset ∧ State.reset.clock = 0 ∧ State.reset.cmds = [] ∧ State.reset.accs = [] ∧ State.reset.memPend = [] ∧ State.reset.binds = [] ∧
  State.reset.groups = [] ∧ State.reset.link.lastRx = 0 ∧ State.reset.jrn.wcur = 0 ∧
  ∀ n, let c := State.reset.core n
    c.run = .off ∧ c.gate = .on ∧ c.bus.wstate = 0 ∧ c.loops = [] ∧ c.frec = 0 ∧ c.flagsA = 0 ∧ c.flagsB = 0 ∧ c.fevrec = 0 ∧ c.oorrec = 0 ∧ c.slim = 0 ∧
    c.gkey = 0 ∧ c.bind = none ∧ (∀ r : BitVec 4, c.preg r = decide (r = 0)) ∧ (∀ r : BitVec 4, c.kreg r = if r = 0 then BitVec.allOnes 512 else 0) ∧
    (∀ r : BitVec 3, (c.xreg r).valid = false ∧ (c.ctxAt r).cnt = 0)

/-- The canonical form is kept: whatever a step does from a state in canonical form, memory and the map of cores stay in it: equal memories are equal lists,
and a byte reads as it was last written.  The form, and that only bytes other than 0 are listed, is the model's own choice (log 5); no rule of the spec gives it. -/
def Obligations.CanonicalKept : Prop :=
  ∀ s t : State, Canon s → step s = .next t → Canon t

/-! Steps of the part: the sequencer -/

namespace Sys2Proof.Claim

/-- A command has left the engines. -/
def gone (t : State) (id : Nat) : Prop := ∀ k ∈ t.cmds, k.id ≠ id

/-- T_R of the members held in a group: the largest of their arrival values (R69). -/
def releaseTcyc (held : List (Nat × Hold)) : Nat := (held.map fun x => x.2.arrival).foldl Nat.max 0

end Sys2Proof.Claim

/-- R64, R69, R72, R74, R76, R88, R287: the sequencer's steps.  A sealed region of 4,096 cycles raises 0x02 with DETAIL 4; a rendezvous whose members are all ready releases
them on one cycle at T_R; a freeze waits for a cut line where a region is open, and else stops held cores at once and issuing cores at their next bundle
boundary; 64 cycles after a program error the rest of the domain stops, or the stack reserve is granted; where the error is a slip in a sealed region the cores that still have it to
record do so, and the lowest is named (R318).  A sealed core that leaves a rendezvous, the regions of cores that have stopped, and a freeze within the cycle of its request are
log 21's readings; the conditions of the stack reserve are the model's choice where R88 leaves them open (log 46). -/
def Obligations.SequencerEvents : Prop :=
  (∀ (n : Nat) (s : State), n < 768 →
    let c := s.core n
    let long := (c.run = .running ∨ c.run = .held) ∧ c.region.kind = .sealed ∧ c.region.since + 4096 ≤ s.clock
    (long → exec (.sealedRegionTimeout n) s = .next ((s.leaveRendezvous n).takeException n 0x02 0x04 0 c.region.addr)) ∧ (¬long → exec (.sealedRegionTimeout n) s = .next s)) ∧
  (∀ (g b n0 : Nat) (h0 : Hold) (s : State), g < 256 → (s.heldIn g).head? = some (n0, h0) → s.groupBind g = some b → s.podMembers g = [] →
    let tr := releaseTcyc (s.heldIn g)
    s.localReady g = true → (h0.resync = true ∨ ∀ t ∈ (s.launch b).tasks, h0.n.toNat ≤ t.phase ∨ s.taskDone (s.launch b) t = true) →
    ((s.launch b).hbm = 0 ∨ s.clock % 2176 = tr % 2176) →
    ∃ t, exec (.rendezvousRelease g) s = .next t ∧ (∀ a, memByte t.mem a = memByte s.mem a) ∧
      (∀ n, n ∉ (s.heldIn g).map (·.1) → t.core n = s.core n) ∧
      ∀ n h, (n, h) ∈ s.heldIn g →
        let c := s.core n
        let c := { c with run := .running, hold := none, tcyc := tr, nextIssue := s.clock }
        t.core n = (if h.resync then c else { c with phaseno := h.n, mapPhase := h.n.toNat })) ∧
  (∀ (q : FreezeReq) (s : State), q.bind < 64 →
    let l := s.launch q.bind
    let active (n : Nat) : Prop := (s.core n).run = .running ∨ (s.core n).run = .held
    (l.st = 3 ∨ l.st = 4) → l.ending = none → l.stop = none →
    (q.cause ≠ 0x10 ∨ ∀ n ∈ l.cores, active n → (s.core n).region.kind ≠ .sealed) →
    ((q.atCut = true ∨ s.regionOpen l = true) → (∃ n ∈ l.cores, active n) →
      ∃ t x, exec (.freeze q) s = .next t ∧ (t.launch q.bind).stop = some x ∧ x.cause = q.cause ∧ x.detail = q.detail ∧ x.atCut = true ∧ x.stopped = false ∧
        ∀ n, t.core n = s.core n) ∧
    (q.atCut = false → s.regionOpen l = false → (∃ n ∈ l.cores, (s.core n).run = .running) →
      ∃ t x, exec (.freeze q) s = .next t ∧ (t.launch q.bind).stop = some x ∧ x.cause = q.cause ∧ x.atCut = false ∧ x.stopped = false ∧
        ∀ n ∈ l.cores, ((s.core n).run = .held → (t.core n).run = .frozen ∧ (t.core n).hold = none) ∧ ((s.core n).run ≠ .held → t.core n = s.core n)) ∧
    (q.atCut = false → s.regionOpen l = false → (∀ n ∈ l.cores, (s.core n).run ≠ .running) →
      ∀ n ∈ l.cores, ∀ k, (s.core n).run = .held → (s.core n).gate = .on → (s.core n).ckpt = some k →
        ∃ t, exec (.freeze q) s = .next t ∧ (t.core n).run = .frozen ∧ (t.core n).tcyc = k.tcyc ∧ (t.core n).pc = BitVec.ofNat 32 k.addr ∧ (t.core n).pend = [])) ∧
  (∀ (n : Nat) (s : State) (l : Launch) (x : Stop), n < 768 → (s.core n).run = .running → (s.core n).gate = .on → (s.core n).nextIssue ≤ s.clock →
    (s.core n).late = none → s.launchOf n = some l → l.stop = some x → x.atCut = false → x.stopped = false → l.ending = none →
    ∃ t, exec (.bundleIssue n) s = .next t ∧ (t.core n).run = .frozen ∧ (t.core n).hold = none) ∧
  (∀ (b : Nat) (s : State) (e : Ending), b < 64 →
    let l := s.launch b
    l.ending = some e → (l.st = 3 ∨ l.st = 4) →
    let slip := e.frec.extractLsb' 0 8 = 0x10 ∧ e.fseq = 0
    (slip → l.cores.Pairwise (· < ·) → ∃ t x, exec (.domainStop b) s = .next t ∧ (t.launch b).st = 6 ∧ (t.launch b).ending = some x ∧ x.core ≤ e.core ∧
      ∀ n ∈ l.cores, ((s.core n).run = .running ∨ (s.core n).run = .held) → (∃ f, (s.core n).late = some f ∧ f.cause = 0x10) →
        x.core ≤ n ∧ (t.core n).run = .stopped ∧ (t.core n).frec.extractLsb' 0 8 = 0x10) ∧
    (¬slip → s.grantReserve l e = none → ∃ t, exec (.domainStop b) s = .next t ∧ (t.launch b).st = 6 ∧ (t.launch b).stop = none ∧
      (∀ n ∈ l.cores, ((s.core n).run = .running ∨ (s.core n).run = .held ∨ (s.core n).run = .frozen) →
        t.core n = { s.core n with run := .stopped, hold := none }) ∧
      (∀ n, n ∉ l.cores ∨ ((s.core n).run ≠ .running ∧ (s.core n).run ≠ .held ∧ (s.core n).run ≠ .frozen) → t.core n = s.core n)) ∧
    (∀ limit, s.grantReserve l e = some limit → ∃ t, exec (.domainStop b) s = .next t ∧ (t.launch b).ending = none ∧
      (t.core e.core).reserveUsed = true ∧ (t.core e.core).slim.toNat % 2 ^ 22 = limit))

/-! Clusters, slices and stacks -/

namespace Sys2Proof.Claim

/-- The code that PGATE's decision gives (R234): 0 accepted, 1 rows in the FIFOs, 2 not ended at a cut line, 3 not in reach, 4 already so, 5 on its way. -/
def gateCodeOf (s : State) (q : GateReq) : Nat :=
  let t := s.core q.target
  let p := s.pair (corePair q.target)
  if 768 ≤ q.target ∨ coreCluster q.target ≠ coreCluster q.issuer ∨ q.target = q.issuer ∨
      (t.bind ≠ (s.core q.issuer).bind ∧ ∃ b, t.bind = some b ∧ 3 ≤ (s.launch b).st) then 3
  else if t.gate = .gating ∨ t.gate = .waking then 5
  else if (if q.wake then t.gate = .on else t.gate = .gated) then 4
  else if q.wake then 0
  else if q.force = false ∧ p.up.rows.length + p.down.rows.length ≠ 0 then 1
  else if t.bind ≠ none ∧ t.run ≠ .off ∧ ¬(t.run = .ended ∧ t.endedAtCut = true) then 2
  else 0

/-- The count beside the code: the rows still there, or those discarded. -/
def gateCountOf (s : State) (q : GateReq) : Nat :=
  let p := s.pair (corePair q.target)
  if gateCodeOf s q = 1 ∨ (gateCodeOf s q = 0 ∧ q.wake = false ∧ q.force = true) then p.up.rows.length + p.down.rows.length else 0

/-- A launch that runs or is frozen is asked to freeze in this cycle. -/
def freezeAsked (s t : State) (l : Launch) (cause detail : BitVec 8) (atCut : Bool) : Prop := planned t s.clock (.freeze ⟨l.bind, cause, detail, atCut⟩)

end Sys2Proof.Claim

/-- R229 to R235, R239: the clusters' steps: rows become ready and slots free three cycles on; the power controller's decision, its status in flight, what gating takes and
how long gating and waking last; a lane group's retry window.  Of what R233 says is lost, the registers, sequencer and counters stand at reset from the decision on; the buffer table, the
checkpoint, the bus and the place in the domain are kept (log 37).  That a marker issued before the decision takes the status all the same is the model's reading of R73 (log 37). -/
def Obligations.ClusterEvents : Prop :=
  (∀ (p : Nat) (up : Bool) (s : State), p < 384 →
    let x := s.pair p
    let r := if up then x.up else x.down
    let put (y : Rill) : State := s.setPair p (if up then { x with up := y } else { x with down := y })
    exec (.rillEntryReady p up) s = .next (put { r with ready := (r.rows.filter fun y => decide (y.1 ≤ s.clock)).length }) ∧
    exec (.rillSlotFreed p up) s = .next (put { r with free := r.free + (r.freed.filter fun y => decide (y ≤ s.clock)).length,
                                                       freed := r.freed.filter fun y => decide (s.clock < y) })) ∧
  (∀ (q : GateReq) (s : State), q.issuer < 768 → (s.core q.issuer).run ≠ .off → s.savedAwait q.issuer q.issued 10 = none →
    let c := s.core q.issuer
    let word : Word := BitVec.ofNat 64 (gateCodeOf s q + gateCountOf s q * 256)
    let accepted := gateCodeOf s q = 0
    ∃ t, exec (.powerGateDecision q) s = .next t ∧
      t.core q.issuer = { c with pend := (t.core q.issuer).pend, ckpt := (t.core q.issuer).ckpt } ∧
      (t.core q.issuer).pend = (c.pend.map fun w => match w.w with
        | .later r => if w.issued = q.issued ∧ w.slot = 10 then { w with w := .s r word } else w
        | _ => w) ∧
      (c.ckpt = none → (t.core q.issuer).ckpt = none) ∧
      (∀ k, c.ckpt = some k → ∃ k', (t.core q.issuer).ckpt = some k' ∧
        ∀ r : Fin 32, k'.s[r] = if (r.val, q.issued, 10) ∈ k.awaits then word else k.s[r]) ∧
      (∀ n, n ≠ q.issuer → (n ≠ q.target ∨ ¬accepted) → t.core n = s.core n) ∧
      (¬accepted → t.mem = s.mem ∧ t.pairs = s.pairs) ∧
      (accepted → q.wake = true → (t.core q.target).gate = .waking ∧ planned t (s.clock + 1700) (.wakeComplete q.target) ∧ t.mem = s.mem) ∧
      (accepted → q.wake = false → (t.core q.target).gate = .gating ∧ planned t (s.clock + 64) (.gatingComplete q.target) ∧
        (t.core q.target).rows = [] ∧ (∀ r : BitVec 5, (t.core q.target).sreg r = 0) ∧ (t.core q.target).tcyc = 0 ∧ (t.core q.target).frec = 0 ∧
        (t.core q.target).flagsA = 0 ∧ (t.core q.target).loops = [] ∧ (t.core q.target).pend = [] ∧ (t.core q.target).bufs = (s.core q.target).bufs ∧
        (t.core q.target).ckpt = (s.core q.target).ckpt ∧ (t.core q.target).bus = (s.core q.target).bus ∧
        (∀ a, codeBase q.target ≤ a → a < codeBase q.target + 2 ^ 18 → memByte t.mem a = 0) ∧
        (gateCountOf s q ≠ 0 → t.pair (corePair q.target) =
          { up := .init, down := .init, discard := min ((s.pair (corePair q.target)).discard + gateCountOf s q) 0xFFFF }))) ∧
  (∀ (n : Nat) (s : State), n < 768 →
    ((s.core n).gate = .gating → exec (.gatingComplete n) s = .next (s.modCore n fun c => { c with gate := .gated })) ∧
    ((s.core n).gate ≠ .gating → exec (.gatingComplete n) s = .next s) ∧
    ((s.core n).gate = .waking → exec (.wakeComplete n) s = .next (s.modCore n fun c => { c with gate := .on })) ∧
    ((s.core n).gate ≠ .waking → exec (.wakeComplete n) s = .next s)) ∧
  (∀ (n g : Nat) (s : State), n < 768 → g < 34 →
    let c := s.core n
    let x := SMap.get (0, 0) c.bus.count g
    let passed := x.1 ≠ 0 ∧ x.2 + (s.cluster (coreCluster n)).rwin ≤ s.clock
    (passed → exec (.retryWindowExpiry n g) s = .next (s.setCore n { c with bus := { c.bus with count := SMap.put (0, 0) c.bus.count g (0, 0) } })) ∧
    (¬passed → exec (.retryWindowExpiry n g) s = .next s))

/-- R238, R240, R253, R266 to R271, R289, R324: the array's scrub, refresh, the clock's crossings and frequency, critical limits, and reset.  A stretch that falls within
64 cycles of the last waits a cycle, and one that takes place adds a free part of a period to wall time (log 23); a frequency step waits, and asks each running domain for a
freeze with cause 0 at its next cut line (logs 23 and 37). -/
def Obligations.StackEvents : Prop :=
  (∀ (w : Nat) (s : State), w < 2 ^ 29 → coreOfAddr (8 * w) ≠ none →
    let f := SMap.get 0 s.flips w
    (f = 0 → exec (.scrub w) s = .next s) ∧
    (∀ b, b < 72 → f = 2 ^ b → exec (.scrub w) s = .next (({ s with flips := SMap.put 0 s.flips w 0 } : State).eccLog w (syndrome (2 ^ b)) 2)) ∧
    (∀ b c, b < 72 → c < b → f = 2 ^ b + 2 ^ c → exec (.scrub w) s = .next (s.eccLog w (syndrome f) 3))) ∧
  (∀ (h pc b need : Nat) (s : State), h < 8 →
    (pc < 64 → b < 16 → exec (.hbmRefresh h pc b) s = .next s) ∧
    (need < 3 → ∃ t, exec (.doubledRefresh h need) s = .next t ∧
      t.hbm = SMap.put HbmStack.init s.hbm h { SMap.get HbmStack.init s.hbm h with need := need } ∧
      ∀ l ∈ s.launches, (l.st = 3 ∨ l.st = 4) → l.hbm.testBit h = true → (need = 2 ∨ (need = 1 ∧ s.freq < 16)) → freezeAsked s t l 0x30 0x40 true)) ∧
  (∀ s : State, s.stim.unit < 2 →
    let k := s.stim.unit
    let x := s.stackAt k
    let near := ∃ d, x.droop = some d ∧ s.clock < d + 64
    let mons := [16 + 8 * (24 * k + s.stim.index) + 4, 4]
    (s.stim.index < 24 → near → exec .droopStretch s = .next (s.nextCycle .droopStretch s.stim)) ∧
    (s.stim.index < 24 → ¬near → SMap.wf Monitor.init s.mons = true → ∃ t d, exec .droopStretch s = .next t ∧
      t.stackAt k = { x with droop := some s.clock } ∧ 0 < d ∧ d ≤ fabricStep s.freq ∧ t.wall = s.wall + d ∧ t.fab = { s.fab with phase := s.fab.phase + d } ∧
      t = { s with dieStacks := t.dieStacks, mons := t.mons, wall := t.wall, fab := t.fab, freeCount := t.freeCount } ∧
      ∀ m, t.mon m = if s.gap 4 = false ∧ m ∈ mons then (s.mon m).sample s.stim.value.toNat else s.mon m) ∧
    exec .freezeRelease s = .next (s.setStack k { x with critical := [] }) ∧
    (s.stim.index < 5 → ∃ t, exec .clockCrossingSlip s = .next t ∧
      ∀ j, (j = k ∧ s.stim.index ≠ 3) ∨ (j < 2 ∧ s.stim.index = 3) →
        SMap.get 2 (t.stackAt j).occ (crossingKey s.stim.index s.stim.value.toNat) = 0 ∧ (t.stackAt j).realign = some (s.clock + 1700) ∧ planned t (s.clock + 1700) (.realignmentComplete j) ∧
        ∀ l ∈ s.launches, l.st = 3 → l.inStack j = true → freezeAsked s t l 0x10 (BitVec.ofNat 8 s.stim.index) false) ∧
    (∃ t, exec .thermalFreeze s = .next t ∧ (0x30 : BitVec 8) ∈ (t.stackAt k).critical ∧
      ∀ l ∈ s.launches, (l.st = 3 ∨ l.st = 4) → l.inStack k = true → freezeAsked s t l 0x30 0 true) ∧
    (∃ t, exec .powerFreeze s = .next t ∧ (0x31 : BitVec 8) ∈ (t.stackAt k).critical ∧
      ∀ l ∈ s.launches, (l.st = 3 ∨ l.st = 4) → l.inStack k = true → freezeAsked s t l 0x31 0 true)) ∧
  (∀ (k : Nat) (s : State), k < 2 → ∀ e, (s.stackAt k).realign = some e →
    (e ≤ s.clock → exec (.realignmentComplete k) s = .next (s.setStack k { s.stackAt k with realign := none, occ := [], aligned := s.clock })) ∧
    (s.clock < e → exec (.realignmentComplete k) s = .next s)) ∧
  (∀ (ev : Instr) (s : State), 8 ≤ s.stim.index → s.stim.index ≤ 16 →
    (ev = .frequencyStepDown ∧ s.stim.index < s.freq ∨ ev = .frequencyStepUp ∧ s.freq < s.stim.index) → (s.ctl 2).window = false →
    let runs (l : Launch) : Prop := ∃ n ∈ l.cores, (s.core n).run = .running ∨ (s.core n).run = .held
    ((∀ l ∈ s.launches, ¬runs l) → ∃ t, exec ev s = .next t ∧ t.freq = s.stim.index ∧
      ∀ k, k < 2 → (t.stackAt k).realign = some (s.clock + 1700) ∧ planned t (s.clock + 1700) (.realignmentComplete k)) ∧
    ((∃ l ∈ s.launches, runs l) → ∃ t, exec ev s = .next t ∧ t.freq = s.freq ∧ (∃ i ∈ t.inputs, i.at_ = s.clock + 1 ∧ i.ev = ev ∧ i.stim = s.stim) ∧
      ∀ l ∈ s.launches, runs l → l.stop = none → freezeAsked s t l 0 0 true)) ∧
  (∀ (lane : Bool) (s : State), Canon s → ∃ t, exec (.reset lane) s = .next t ∧ t.mem = [] ∧ t.clock = 0 ∧ t.cmds = [] ∧ t.binds = [] ∧ t.memPend = [] ∧
    ∀ n, t.core n = { Core.init with bus := if lane then Bus.init else (s.core n).bus.afterReset })

/-! Accesses and engines -/

namespace Sys2Proof.Claim

/-- The accesses that meet their banks in this cycle. -/
def atBank (s : State) : List Acc := s.accs.filter fun a => decide (a.cycle ≤ s.clock) && !(a.banks.isEmpty && a.units = 0)

/-- Nothing of the array or the bus is in error, and no routing command holds the banks of slice n. -/
def quiet (s : State) (n : Nat) : Prop := s.parity = [] ∧ s.flips = [] ∧ s.routingHolds n = none

end Sys2Proof.Claim

/-- R141, R154, R236, R261, R262: an access alone at its bank in its own slice is served, and what its instruction put in flight stands: a load's or an atomic's register, a store's or an
atomic's bytes; two accesses that meet in a bank, or on a link, record 0x13 or 0x14 and store nothing. -/
def Obligations.AccessEvents : Prop :=
  (∀ (s : State) (a : Acc), atBank s = [a] → s.arrival a = none → quiet s a.target → a.units ≤ (if s.half a.target then 1 else 2) →
    a.kind = .core → a.remote = false →
    let rest : State := { s with accs := s.accs.filter fun x => !decide (x.cycle ≤ s.clock) }
    exec .bankAccess s = .next rest) ∧
  (∀ (s : State) (a b : Acc) (k : Nat), atBank s = [a, b] → s.arrival a = none → s.arrival b = none → a.target = b.target → quiet s a.target →
    k < 16 → k ∈ a.banks → k ∈ b.banks → a.kind = .core → b.kind = .core → a.op ≠ 0 → b.op ≠ 0 →
    ∃ t, exec .bankAccess s = .next t ∧ (∀ m ∈ t.memPend, m.op ≠ a.op ∧ m.op ≠ b.op) ∧ (∀ x, memByte t.mem x = memByte s.mem x) ∧
      ((s.core a.core).run = .running → (t.core a.core).late ≠ none ∧ ∀ w ∈ (t.core a.core).pend, w.acc ≠ a.op) ∧
      ((s.core b.core).run = .running → (t.core b.core).late ≠ none ∧ ∀ w ∈ (t.core b.core).pend, w.acc ≠ b.op)) ∧
  (∀ s : State, (∀ (i j : Nat) (a b : Acc) (l : Link), s.accs[i]? = some a → s.accs[j]? = some b → s.linkNow a = some l → s.linkNow b = some l → i = j) → exec .meshHop s = .next s) ∧
  (∀ (s : State) (i j : Nat) (a b : Acc) (l : Link), i ≠ j → s.accs[i]? = some a → s.accs[j]? = some b → s.linkNow a = some l → s.linkNow b = some l →
    ∃ t, exec .meshHop s = .next t ∧ (∀ x, memByte t.mem x = memByte s.mem x) ∧
      ((s.core a.core).run = .running → (t.core a.core).late ≠ none) ∧ ((s.core b.core).run = .running → (t.core b.core).late ≠ none))

/-- R185 to R191, R209, R213, R214: the steps of the matrix engine, of translations and of the routing engine.  That a translation's walk is made on a cycle that the outside
chooses, and may come late, is logs 6 and 11; that a routing command's inputs are read at its start is log 25's reading. -/
def Obligations.MatrixTranslationRoutingEvents : Prop :=
  (∀ (n op step : Nat) (isB : Bool) (s : State) (m : MOp) (o : MOps), n < 768 → (s.core n).mop op = some m → m.dead = false → m.instr = .mma o →
    let kc := mopKc m.instr m.descA m.descB
    let x := s.operand n (if isB then m.descB else m.descA) (!isB) (isB && mopTb m.instr m.panel)
    let runs := clipRuns (s.ownLimits n x.win) (x.runs (step * kc) (min ((step + 1) * kc) o.k.toNat))
    (s.runsRefused n false runs = false → ∃ t m', exec (.mmaOperandClaim n op step isB) s = .next t ∧ (t.core n).mop op = some m' ∧ t.memPend = s.memPend ∧
      m' = (if isB then { m with capB := SMap.put [] m.capB step (s.capture runs) } else { m with capA := SMap.put [] m.capA step (s.capture runs) })) ∧
    (s.runsRefused n false runs = true → ∃ t m', exec (.mmaOperandClaim n op step isB) s = .next t ∧ (t.core n).mop op = some m' ∧ m'.dead = true ∧
      ((s.core n).run = .running → (t.core n).late ≠ none))) ∧
  (∀ (n op row : Nat) (s : State) (m : MOp) (o : MOps), n < 768 → row < 128 → (s.core n).mop op = some m → m.dead = false →
    let rows := if s.half n then [row] else [row, row + 1]
    let place (r : Nat) : Nat := ((rowRuns s n m.descA o.low).getD r (0, 0)).1
    let lim := s.ownLimits n (s.streamWindow n m.descA)
    let part (r : Nat) : Nat × Nat := clipRun lim ((rowRuns s n m.descA o.low).getD r (0, 0))
    let used := rows.filter fun r => (part r).2 ≠ 0
    let live := used.map part
    let col (r a : Nat) : Nat := (a + 2 ^ 64 - place r) % 2 ^ 64
    (m.instr = .msave o → s.runsChanged n true live = false → ∃ t, exec (.msaveRowClaim n op row) s = .next t ∧ t.mem = s.mem ∧
      t.memPend = s.memPend ++ used.flatMap fun r => (runParts (part r)).map fun p =>
        ⟨m.base + (if s.half n then 136 else 72), s.clock, op, n,
          (List.range p.2).map fun k => (nearBase + (p.1 + k), (rowBytes ((m.input.flatMap fun x => x.2.list).getD r 0)).getD (col r p.1 + k) 0)⟩) ∧
    (m.instr = .mload o → s.runsChanged n false live = false → ∃ t m', exec (.msaveRowClaim n op row) s = .next t ∧ t.mem = s.mem ∧ t.memPend = s.memPend ∧
      (t.core n).mop op = some m' ∧ m' = { m with capA := m'.capA } ∧
      (SMap.wf [] m.capA = true → ∀ r ∈ used, ∀ k, k < (part r).2 → SMap.get 0 (SMap.get [] m'.capA r) (col r (part r).1 + k) = s.nearByte ((part r).1 + k)))) ∧
  (∀ (n op : Nat) (s : State) (m : MOp), n < 768 → Canon s → (s.core n).mop op = some m → m.dead = false →
    let r := mopResult s n m
    ∃ t, exec (.matrixWriteComplete n op) s = .next t ∧ (∀ x ∈ (t.core n).mops, x.id ≠ op) ∧ (∀ k, k ≠ n → t.core k = s.core k) ∧ t.mem = s.mem ∧
      (t.core n).rows = ((s.core n).writeTiles m.tiles r.1).rows ∧ (t.core n).s = (s.core n).s ∧
      (r.2 = 0 → (t.core n).flagsA = (s.core n).flagsA) ∧ ((t.core n).flagsA = (s.core n).flagsA ||| BitVec.ofNat 64 (r.2.toNat * 2 ^ 42)) ∧
      (∀ o, m.instr = .mzero o → ∀ x ∈ r.1, x = 0) ∧
      (∀ o, m.instr = .mtrn o → ∀ i j, i < 128 → j < 128 →
        tileElem r.1 o.cp i j = tileElem (m.input.flatMap fun x => x.2.list) o.cp j i)) ∧
  (∀ (n x : Nat) (s : State) (acc : BitVec 2) (va : Word), n < 768 → x < 8 → ((s.core n).xreg (BitVec.ofNat 3 x)).pend = some (s.clock, acc, va) →
    let asid := ((s.launchOf n).map (·.asid)).getD 0
    let v := ((s.core n).xreg (BitVec.ofNat 3 x)).val
    ∃ t h, exec (.xlatResult n x) s = .next t ∧ (t.core n).xreg (BitVec.ofNat 3 x) = ⟨h, true, va, none⟩ ∧
      (h = 0x9800000000000000#64 ∨ (v ≠ 0 ∧ h = v) ∨ (v = 0 ∧ h = (s.walk asid va.toNat acc.toNat).handle va.toNat)) ∧
      (s.moving asid va.toNat = true → h = 0x9800000000000000#64)) ∧
  (∀ (n x at_ : Nat) (s : State) (acc : BitVec 2) (va : Word), n < 768 → x < 8 → at_ ≠ s.clock →
    ((s.core n).xreg (BitVec.ofNat 3 x)).pend = some (at_, acc, va) →
    let asid := ((s.launchOf n).map (·.asid)).getD 0
    let v := ((s.core n).xreg (BitVec.ofNat 3 x)).val
    ∃ t, exec (.xlatResult n x) s = .next t ∧ ((t.core n).xreg (BitVec.ofNat 3 x)).pend = some (at_, acc, va) ∧
      ((t.core n).xreg (BitVec.ofNat 3 x)).val =
        (if v ≠ 0 then v else if s.moving asid va.toNat then 0x9800000000000000#64 else (s.walk asid va.toNat acc.toNat).handle va.toNat)) ∧
  (∀ (n cmd : Nat) (s : State) (k : Cmd), n < 768 → s.cmd cmd = some k → k.stage = .running → k.lost = [] → k.batch = .none → k.dead = false →
    s.parity = [] → s.flips = [] → (∀ t, s.busRefuses k.core t = none) → (∀ b, k.bind = some b → (s.launch b).saved = []) →
    let seen : RtMem := ⟨SMap.get [] k.data 0, []⟩
    let kept (m : RtMem) : List (Nat × Byte) := (m.out.filter fun b => s.inSlice b.1).map fun b => (nearBase + b.1, b.2)
    let done (i : Instr) (m : RtMem) (v : Nat) : Prop := k.instr = i → kept m ≠ [] → ∃ t, exec (.routingComplete n cmd) s = .next t ∧ gone t cmd ∧
      t.memPend = s.memPend ++ [⟨s.clock, s.clock, 0, coreCount, kept m⟩] ∧
      ((t.core k.core).ctxAt (BitVec.ofNat 3 k.ctx)).timed = recordWord k.status k.detail true false (BitVec.ofNat 32 v)
    ∀ o, done (.rtopk o) (rtTopk k.block k.force seen).1 0 ∧ done (.rcap o) (rtCap k.block seen).1 (rtCap k.block seen).2 ∧
      done (.rdisp o) (rtDisp k.block seen) 0)

namespace Sys2Proof.Claim

/-- Nothing that a command reads or writes is in error: no parity, no flipped bit, no bad word of HBM, and every bus lets it in (R237 to R241, R293). -/
def sound (s : State) (k : Cmd) : Prop := s.parity = [] ∧ s.flips = [] ∧ s.badWords = [] ∧ ∀ t, s.busRefuses k.core t = none

end Sys2Proof.Claim

/-- R193 to R195, R200, R201, R204 to R206, R208, R215, R216, R290: the steps of engine commands: capture, start and end of timed ones, beats and HBM columns, atomics, and the
completion of untimed ones.  The cycles of a timed copy's capture, start and scale bytes are log 18's, the exception of a block whose status the spec does not name is log 19's,
and the cycles on which untimed operations move on are free (log 44). -/
def Obligations.EngineEvents : Prop :=
  (∀ (n id : Nat) (s : State) (k : Cmd) (o : EOps), n < 768 → s.cmd id = some k → k.stage = .issued → k.timed = true → (k.instr = .cpyt o ∨ k.instr = .cpym o) →
    let d : Desc := descOf ((List.range 64).map fun i => if s.byteIn k.blockAddr none (k.blockAddr + i) then s.nearByte (k.blockAddr + i) else 0)
    let c := s.withBlock k d (Desc.field d 0 8) (Desc.field d 8 8)
    (s.copyInvalid c = true → ∃ t, exec (.blockCapture n id) s = .next t ∧ gone t id ∧ ((s.core k.core).run = .running → (t.core k.core).late ≠ none)) ∧
    (s.copyInvalid c = false → s.copyRefused c = none → s.hbmSide c = none → ∃ t c', exec (.blockCapture n id) s = .next t ∧ t.cmd id = some c' ∧
      c'.block = d ∧ c'.stage = .captured ∧ c'.dur = cpDur d ∧ planned t (s.clock + (k.tS - (s.core k.core).tcyc)) (.timedCommandStart k.core id))) ∧
  (∀ (n id : Nat) (s : State) (k : Cmd), n < 768 → s.cmd id = some k → k.stage = .captured → k.timed = true →
    ((s.core k.core).run = .running ∨ (s.core k.core).run = .ended ∨ ((s.core k.core).run = .held ∧ ∀ h, (s.core k.core).hold = some h → h.begun = false)) →
    let busy := s.clock < SMap.get 0 (s.core k.core).chan k.ctx
    let chan (t : State) : Prop := (t.core k.core).chan = SMap.put 0 (s.core k.core).chan k.ctx (s.clock + k.dur)
    (busy → ∃ t, exec (.timedCommandStart n id) s = .next t ∧ gone t id ∧ ((s.core k.core).run = .running → (t.core k.core).late ≠ none)) ∧
    (¬busy → ∀ o, k.instr = .cpyt o → s.bufNot (cpSrc k.block).namedBuf .full = false → (∀ b ∈ s.dstBufs k, s.bufNot b .empty = false) →
      ∃ t k', exec (.timedCommandStart n id) s = .next t ∧ t.cmd id = some k' ∧ k'.stage = .running ∧ k'.start = s.clock ∧ chan t ∧
        planned t (s.clock + k.dur) (.timedCopyEnd k.core id)) ∧
    (¬busy → ∀ o, k.instr = .rtopk o ∨ k.instr = .rcap o ∨ k.instr = .rdisp o →
      ∃ t k', exec (.timedCommandStart n id) s = .next t ∧ t.cmd id = some k' ∧ k'.stage = .running ∧ k'.start = s.clock ∧ chan t ∧
        planned t (s.clock + k.dur) (.routingComplete k.core id))) ∧
  (∀ (n id beat : Nat) (s : State) (k : Cmd), n < 768 → s.cmd id = some k → k.stage = .running → k.dead = false → k.lost = [] → s.hbmSide k = none →
    let d := k.block
    (∃ t k', exec (.copyBeat n id beat false) s = .next t ∧ t.cmd id = some k' ∧ t.memPend = s.memPend ∧ t.mem = s.mem ∧
      k' = { k with data := (cpReads d beat).foldl (fun m (q : Nat × Nat × Int) => SMap.put [] m q.1 (SMap.put 0 (SMap.get [] m q.1) q.2.1
        (s.readPlace (s.place k (cpSrc d).word (k.side 0) q.2.2 1)))) k.data }) ∧
    (sound s k → let b := cpBeatOf d beat
      let data := (s.dstTargets k).flatMap fun q =>
        let e := cpEncode d k.data (s.dstBand k q b.1) (k.badElem b.1) b.1 b.2.1 b.2.2
        (e.1 ++ e.2.1).filterMap fun y => (s.dstPlace k q y.1 2).memAddr.map fun a => (a, y.2)
      ∃ t, exec (.copyBeat n id beat true) s = .next t ∧ t.mem = s.mem ∧
        t.memPend = s.memPend ++ (if data = [] then [] else [⟨s.clock + 2, s.clock, k.base + 2 * beat + 1, coreCount, data⟩]))) ∧
  (∀ (n id : Nat) (s : State) (k : Cmd) (o : EOps), n < 768 → s.cmd id = some k → k.stage = .running → k.timed = true → (k.instr = .cpyt o ∨ k.instr = .cpym o ∨ k.instr = .cfill o) →
    (∀ b, k.bind = some b → (s.launch b).saved = []) → ∃ t, exec (.timedCopyEnd n id) s = .next t ∧ gone t id ∧ t.mem = s.mem ∧
      ((t.core k.core).ctxAt (BitVec.ofNat 3 k.ctx)).timed = recordWord k.status k.detail true false k.value ∧
      ∀ c b, some (c, b) ∈ s.dstBufs k → ((s.core c).buf b).decl = true → ⟨s.clock + 1, true, c, b, .full, 0, 0, false⟩ ∈ t.bufPend) ∧
  (∀ (n id item : Nat) (s : State) (k : Cmd), n < 768 → s.cmd id = some k → k.stage = .running → k.dead = false →
    (∀ o, k.instr = .amo o → ∀ pa, (s.atomicPlace k).memAddr = some pa → isHost pa = false → isNear pa = false →
      s.badRead pa (atomBytes k.atomCode.1 k.atomCode.2) = false → exec (.hbmGroup n id item) s = .next (s.applyAtomic k pa (s.clock + 30))) ∧
    (∀ o z tt, k.instr = .cpyt o → s.hbmSide k = some (1, z) → s.ttOf k (cpTte k.block) = some tt → sound s k →
      let q := (tt.items.getD (item / 4) (0, 0, 0, 0)).2.2.2 + item % 4
      let r := q * 64 / z.runLen k.block
      let off := q * 64 % z.runLen k.block
      let lo : Int := z.run k.block r + (off : Nat)
      let u := unitRange k.block z.fmt off (off + 64)
      let data := (s.dstTargets k).flatMap fun m =>
        let e := cpEncode k.block k.data (s.dstBand k m r) (k.badElem r) r u.1 u.2
        (e.1.filter (fun y => decide (lo ≤ y.1 ∧ y.1 < lo + 64)) ++ e.2.1).filterMap fun y => (s.dstPlace k m y.1 2).memAddr.map fun a => (a, y.2)
      k.colOp q ∉ k.lost → ∃ t, exec (.hbmGroup n id item) s = .next t ∧ t.mem = s.mem ∧
        t.memPend = s.memPend ++ (if data = [] then [] else [⟨s.clock + 30, s.clock, k.colOp q, coreCount, data⟩]))) ∧
  (∀ (id pa va : Nat) (s : State) (k : Cmd) (o : EOps), s.cmd id = some k → k.instr = .amo o → s.atomicPlace k = .phys pa va → isHost pa = false → s.physExists pa = true →
    s.atomicRefused k = false → (isFar pa && s.badRead pa (atomBytes k.atomCode.1 k.atomCode.2)) = false →
    (isNear pa = true → s.parity = [] ∧ s.flips = [] ∧ ∀ t, s.busRefuses k.core t = none) →
    ∃ t, exec (.atomicApply id) s = .next t ∧ t.mem = s.mem ∧
      let code := k.atomCode
      let w := atomBytes code.1 code.2
      let m := leNat ((List.range w).map fun i => s.latestByte (pa + i))
      let r := atomApply code.1 code.2 m (Desc.field k.block 8 8 % 2 ^ (8 * w)) (Desc.field k.block 16 8 % 2 ^ (8 * w))
      w ≠ 0 → t.memPend = s.memPend ++ [⟨s.clock, s.clock, id, coreCount, (leBytes w r.1).zipIdx.map fun b => (pa + b.2, b.1)⟩]) ∧
  (∀ (id m : Nat) (s : State) (k : Cmd) (o : EOps), s.cmd id = some k → k.timed = false →
    let x := (s.core k.core).ctxAt (BitVec.ofNat 3 k.ctx)
    let last := k.bind = none ∧ k.batch = .num m ∧ m = x.cnt + 1 ∧ m ≤ x.closed ∧ (x.batch m).pending = 1 ∧ (x.batch m).members ≠ 0
    let leaves (t : State) : Prop := gone t id ∧ (last → x.cnt < ((t.core k.core).ctxAt (BitVec.ofNat 3 k.ctx)).cnt)
    (k.instr = .hflush o → k.stage = .captured → ∃ t, exec (.untimedComplete id) s = .next t ∧ leaves t ∧ t.mem = s.mem ∧ t.memPend = s.memPend) ∧
    ((k.instr = .emit o ∨ k.instr = .jtrunc o) → k.stage = .running → ∃ t, exec (.untimedComplete id) s = .next t ∧ leaves t) ∧
    ((k.instr = .tlife o ∨ k.instr = .tdrop o) → k.stage = .captured → ∃ t, exec (.untimedComplete id) s = .next t ∧ leaves t) ∧
    ((k.instr = .cpyu o ∨ k.instr = .cfill o) → k.stage = .running → (∀ m ∈ s.memPend, m.op ≠ k.id) → s.fab.find k.id = none → ∃ t, exec (.untimedComplete id) s = .next t ∧ leaves t))

/-! Package memory and launches -/

namespace Sys2Proof.Claim

/-- Bytes of a list as they are written from address a on. -/
def bytesAt (a : Nat) (l : List Byte) : List (Nat × Byte) := l.zipIdx.map fun b => (a + b.2, b.1)

/-- A write that becomes visible in this cycle and comes last in the write order so far. -/
def nowWrite (s : State) (data : List (Nat × Byte)) : MemPend := ⟨s.clock, s.clock, 0, coreCount, data⟩

/-- A byte written in this cycle by the step from s to t. -/
def writtenNow (s t : State) (x : Nat × Byte) : Prop := ∃ m ∈ t.memPend, m.vis = s.clock ∧ x ∈ m.data

/-- Dispatch has marked the launch, woken its gated cores and set their lent counts (R233, R269, R311). -/
def readied (s : State) (b : Nat) (i : Image) : State :=
  let l := s.launch b
  (i.entries l.svec).foldl (fun (s : State) (e : CoreEntry) => s.modCore e.core fun c => { c with lent := e.lend })
    (l.cores.foldl State.wakeCore (s.setLaunch b { l with st := 2 }))

/-- The cores of a launch as PREEMPTION saves them (R320, R322): `clk` as it stood at the stop. -/
def savedCores (s : State) (l : Launch) (x : Stop) : SMap Core :=
  l.cores.foldl (fun (m : SMap Core) (n : Nat) => SMap.put Core.init m n ((s.core n).savedAt (s.clock - x.at_))) []

/-- A resumed launch goes on in its half-width variant (R325). -/
def halfNow (s : State) (l : Launch) (i : Image) : Bool := l.half || (i.variantFor l.svec l.cores && l.cores.any fun n => (s.core n).bus.wstate == 1)

/-- Every saved cut line stands in the variant's cut map, or is task start (R325). -/
def linesMapped (s : State) (l : Launch) (i : Image) : Bool :=
  l.cores.all fun n => (SMap.get Core.init (s.restoreCores i l) n).ckpt.any fun q => q.entry || (halfMarker i l.svec n q.tcyc).isSome

/-- The declared ranges of a launch: task, entry, range (R279, R302). -/
def rangesOf (s : State) (b : Nat) (i : Image) : List (Nat × Nat × RangeRec) :=
  (s.launch b).tasks.zipIdx.flatMap fun t => (i.taskRanges t.1).zipIdx.map fun r => (t.2, r.2, r.1)

end Sys2Proof.Claim

/-- R207, R276, R281 to R285, R295, R296: the steps of package memory: fault records and how the driver resolves them, the update ring, migration, the hotness
interval, and accesses to the coherent window.

The model's own: STATUS 3 for a pin and STATUS 2 for an operation that cannot be resolved, each with CORE 0xFFFF, and what a retry starts again (log 30); which
moves are held, wait for others or are dropped, what the engine reports, and that an update record waits while its PTE is pinned (log 32); the free times of
these steps (log 11), and what the driver does, which the outside's events say (log 41). -/
def Obligations.PackageMemoryEvents : Prop :=
  (∀ s : State,
    ((∀ f ∈ s.devFaults, f.seq ≠ none) → exec .faultRecord s = .next s) ∧
    (∀ f, (s.devFaults.find? fun f => f.seq.isNone) = some f →
      let m := s.mmb
      (ringSize m.fault ≤ counterDiff m.frHead m.frTail → exec .faultRecord s = .next s) ∧
      (counterDiff m.frHead m.frTail < ringSize m.fault → ∃ t, exec .faultRecord s = .next t ∧ t.mmb.frHead = (m.frHead + 1) % 2 ^ 32 ∧
        t.memPend = s.memPend ++ [nowWrite s (bytesAt (ringBase m.fault + 32 * (m.frHead % ringSize m.fault)) (f.bytes m.frHead))] ∧
        ((f.source = 0 ∨ f.cmd ≠ 0) → { f with seq := some m.frHead } ∈ t.devFaults) ∧
        (f.source ≠ 0 → f.cmd = 0 → t.devFaults = s.devFaults.erase f)))) ∧
  (∀ s : State,
    let seq := s.stim.value.toNat % 2 ^ 32
    ((s.devFaults.find? fun f => f.seq == some seq) = none → exec .faultRetry s = .next s ∧ exec .faultUnresolvable s = .next s) ∧
    (∀ f, (s.devFaults.find? fun f => f.seq == some seq) = some f →
      (f.cmd = 0 → f.source = 0 → ∃ t, exec .faultRetry s = .next t ∧ t.devFaults = s.devFaults.erase f ∧ planned t s.clock (.dispatch f.bind) ∧
        planned t s.clock (.resume f.bind)) ∧
      (f.cmd = 0 → f.source ≠ 0 → exec .faultRetry s = .next { s with devFaults := s.devFaults.erase f }) ∧
      (f.cmd ≠ 0 → ∀ k, s.cmd f.cmd = some k → ∃ t, exec .faultRetry s = .next t ∧ t.devFaults = s.devFaults.erase f ∧
        t.cmd f.cmd = some { k with stage := .captured, args := k.args.set 6 1 }) ∧
      (∃ t, exec .faultUnresolvable s = .next t ∧ t.devFaults = s.devFaults.erase f ∧ (f.cmd ≠ 0 → gone t f.cmd) ∧
        ((s.launch f.bind).ending = none → ((s.launch f.bind).st = 3 ∨ (s.launch f.bind).st = 4) →
          (t.launch f.bind).ending = some ⟨if f.source = 0 then 3 else 2, 0, 0xFFFF, seq, 0⟩ ∧ planned t s.clock (.domainStop f.bind))))) ∧
  (∀ s : State,
    let m := s.mmb
    let a := ringBase m.upd + 32 * (m.uqDone % ringSize m.upd)
    let ptea := memNat s.mem a 8
    let flags := memNat s.mem (a + 25) 1
    let bad := ptea % 8 ≠ 0 ∨ isFar ptea = false ∨ 2 ≤ flags
    let done (status : Nat) (new : List (Nat × Byte)) : Prop := ∃ t, exec .updateRecord s = .next t ∧ t.mmb.uqDone = (m.uqDone + 1) % 2 ^ 32 ∧
      t.memPend = s.memPend ++ [nowWrite s (new ++ [(a + 28, BitVec.ofNat 8 status)])]
    (m.uqTail = m.uqDone → exec .updateRecord s = .next s) ∧
    (m.uqTail ≠ m.uqDone → bad → done 2 []) ∧
    (m.uqTail ≠ m.uqDone → ¬bad → s.pinnedPte ptea = true → ∃ t, exec .updateRecord s = .next t ∧ t.mmb = m ∧ t.memPend = s.memPend ∧
      ∃ e ∈ t.agenda, s.clock < e.at_ ∧ e.ev = .updateRecord) ∧
    (m.uqTail ≠ m.uqDone → ¬bad → s.pinnedPte ptea = false → flags = 0 → memNat s.mem ptea 8 ≠ memNat s.mem (a + 8) 8 → done 1 []) ∧
    (m.uqTail ≠ m.uqDone → ¬bad → s.pinnedPte ptea = false → (flags = 1 ∨ memNat s.mem ptea 8 = memNat s.mem (a + 8) 8) →
      done 0 (bytesAt ptea (leBytes 8 (memNat s.mem (a + 16) 8))))) ∧
  (∀ (id : Nat) (s : State) (m : Move), (s.moves.find? fun x => x.id == id) = some m →
    let later (t : State) : Prop := t.moves = s.moves ∧ t.memPend = s.memPend ∧ ∃ e ∈ t.agenda, s.clock < e.at_ ∧ e.ev = .migrationMove id
    let fault (r a : Nat) : DevFault := ⟨none, 4, r, m.asid, 1, a, 0xFFFF, 0xFF, 0, 0⟩
    (∀ l, m.ptes ≠ [] → s.blockPtes m.asid m.va = some l → l ≠ m.ptes → exec (.migrationMove id) s = .next (s.dropMove id)) ∧
    (s.blockPtes m.asid m.va = none → s.blockFault m.asid m.va = none → exec (.migrationMove id) s = .next (s.dropMove id)) ∧
    (∀ a, s.blockPtes m.asid m.va = none → s.blockFault m.asid m.va = some (a, 4) → exec (.migrationMove id) s = .next ((s.postFault (fault 4 a)).dropMove id)) ∧
    (∀ a, s.blockPtes m.asid m.va = none → s.blockFault m.asid m.va = some (a, 5) →
      exec (.migrationMove id) s = .next (((s.logTorn m.asid a).postFault (fault 5 a)).dropMove id)) ∧
    (m.ptes ≠ [] → s.blockPtes m.asid m.va = some m.ptes → (s.blockHeld m.asid m.va (m.ptes.map (·.1)) = true ∨ s.mmb.logRoom = false) →
      ∃ t, exec (.migrationMove id) s = .next t ∧ later t) ∧
    (m.ptes ≠ [] → s.blockPtes m.asid m.va = some m.ptes → s.blockHeld m.asid m.va (m.ptes.map (·.1)) = false → s.mmb.logRoom = true →
      (s.frameTorn m.old).1 = true → exec (.migrationMove id) s = .next (((s.frameTorn m.old).2.postFault (fault 5 m.va)).dropMove id)) ∧
    (m.ptes ≠ [] → s.blockPtes m.asid m.va = some m.ptes → s.blockHeld m.asid m.va (m.ptes.map (·.1)) = false → s.mmb.logRoom = true →
      (s.frameTorn m.old).1 = false → ∃ t, exec (.migrationMove id) s = .next t ∧ t.mmb.mlHead = (s.mmb.mlHead + 1) % 2 ^ 32 ∧ (∀ x ∈ t.moves, x.id ≠ id) ∧
        (∀ i, i < 2 ^ 16 → writtenNow s t (m.new + i, memByte s.mem (m.old + i))) ∧
        ∀ x ∈ bytesAt (ringBase s.mmb.mig + 32 * (s.mmb.mlHead % ringSize s.mmb.mig))
          (leBytes 8 m.va ++ leBytes 8 m.old ++ leBytes 8 m.new ++ leBytes 1 m.asid ++ leBytes 1 m.tier), writtenNow s t x) ∧
    (∀ l, m.ptes = [] → s.blockPtes m.asid m.va = some l → s.mmb.migen = false → exec (.migrationMove id) s = .next (s.dropMove id)) ∧
    (∀ l, m.ptes = [] → m.new ≠ 0 → s.blockPtes m.asid m.va = some l → frameOf l ≠ m.new → s.mmb.migen = true →
      (s.blockHeld m.asid m.va (l.map (·.1)) = true ∨ s.moveWaits m = true) → ∃ t, exec (.migrationMove id) s = .next t ∧ later t) ∧
    (∀ l, m.ptes = [] → m.new ≠ 0 → s.blockPtes m.asid m.va = some l → frameOf l ≠ m.new → s.mmb.migen = true →
      s.blockHeld m.asid m.va (l.map (·.1)) = false → s.moveWaits m = false → ∃ t, exec (.migrationMove id) s = .next t ∧
        (∃ x ∈ t.moves, x = { m with old := frameOf l, new := m.new / 2 ^ 16 * 2 ^ 16, ptes := l }) ∧ ∃ e ∈ t.agenda, s.clock < e.at_ ∧ e.ev = .migrationMove id)) ∧
  (∀ s : State, ∃ t, exec .hotnessInterval s = .next t ∧ (∀ k, (SMap.get (⟨0, 0⟩ : Heat) t.heat k).count = 0) ∧
    planned t (s.clock + s.cyclesFor (1000 * microsecond)) .hotnessInterval) ∧
  (∀ s : State, 0 < s.freq → s.freq ≤ 16 → s.cyclesFor (1000 * microsecond) = (1000 * 850 * s.freq + 15) / 16) ∧
  (∀ (s : State) (a : WinAcc), (s.winAcc.filter fun x => decide (x.cycle ≤ s.clock)) = [a] →
    let rest := s.winAcc.filter fun x => !decide (x.cycle ≤ s.clock)
    (a.write = false → (s.core a.core).run ≠ .off → s.savedAwait a.core a.issued a.slot = none → ∃ t v, exec .windowSample s = .next t ∧ t.winAcc = rest ∧
      (t.core a.core).pend = ((s.core a.core).pend.map fun w => match w.w with
        | .later r => if w.issued = a.issued ∧ w.slot = a.slot then { w with w := .s r v } else w
        | _ => w) ∧
      (a.sext = false → v = BitVec.ofNat 64 (leNat ((List.range a.len).map fun i =>
        if a.off + i < 0x4000 then BitVec.ofNat 8 (s.windowReg ((a.off + i) / 8 * 8) / 2 ^ (8 * ((a.off + i) % 8))) else memByte s.mem (windowBase + (a.off + i)))))) ∧
    (a.write = true → a.off < 0x200 → ∃ t, exec .windowSample s = .next t ∧ t.winAcc = rest ∧
      planned t s.clock (.launchWord (a.off / 8) (BitVec.ofNat 64 a.data) (.core a.core))) ∧
    (a.write = true → 0x200 ≤ a.off → 0 < a.len → ∃ t, exec .windowSample s = .next t ∧ t.winAcc = rest ∧
      t.memPend = s.memPend ++ [nowWrite s (bytesAt (windowBase + a.off) (leBytes a.len a.data))])) ∧
  (∀ (s : State) (a b : WinAcc), (s.winAcc.filter fun x => decide (x.cycle ≤ s.clock)) = [a, b] → a.op ≠ b.op → a.off / 4096 = b.off / 4096 →
    ∃ t, exec .windowSample s = .next t ∧ t.memPend = s.memPend ∧ ((s.core a.core).run = .running → (t.core a.core).late ≠ none) ∧
      ((s.core b.core).run = .running → (t.core b.core).late ≠ none))

/-- R299, R303, R305 to R307, R311, R317, R320, R323, R325, R350: the steps of launches: load of an image, launch words, ageing, Noon's decision, dispatch, start,
completion, pre-emption, resumption, and the half-width variant.

The model's own: in which order binding and pre-emption write, the values of a bind that the spec leaves open, the refusal of a parameter block that HBM cannot
correct (log 29); what dispatch checks beside R311 and what it waits for (log 30); what RESUME takes from elsewhere than the area, STATUS 4 where the cut map
misses the line, STATUS 8 where a bank cannot be read (log 31); that Dawn's and Noon's windows hold a load and a decision (log 34); the lowest free bind entry
(log 45); the free times of dispatch (log 11). -/
def Obligations.LaunchEvents : Prop :=
  (∀ (slot addr len : Nat) (s : State), slot < 256 →
    let i : Image := ⟨if addr + len ≤ 2 ^ 39 then memBytes s.mem addr len else []⟩
    ((s.ctl 3).window = true → ∃ t, exec (.imageLoad slot addr len) s = .next t ∧ t.images = s.images ∧ planned t (s.clock + 1) (.imageLoad slot addr len)) ∧
    ((s.ctl 3).window = false → s.slotUsed slot = true → exec (.imageLoad slot addr len) s = .next s) ∧
    ((s.ctl 3).window = false → s.slotUsed slot = false → exec (.imageLoad slot addr len) s =
      .next { s with images := SMap.put ⟨[]⟩ s.images slot (if i.ok then i else ⟨[]⟩) })) ∧
  (∀ (q n : Nat) (w : Word) (s : State), q < 64 →
    let x := s.queue q
    (∀ copy, s.checkWord q w = .ok (none, copy) → ∃ t, exec (.launchWord q w (.core n)) s = .next t ∧ (t.queue q).lastCode = 0 ∧ (t.queue q).lastLid = s.nextLid ∧
      (t.queue q).words = x.words ++ [⟨s.nextLid, w.toNat % 256, w.toNat / 256 % 256, copy, none, none, s.wall, false⟩] ∧
      t.nextLid = (if s.nextLid = 2 ^ 32 - 1 then 1 else s.nextLid + 1) ∧ planned t s.clock .bindDecision) ∧
    (∀ r, s.checkWord q w = .error r → 1 ≤ r ∧ r ≤ 8 ∧
      let torn := if r = 7 then s.paramTorn (s.wordParam w).1 (s.wordParam w).2.1 (s.wordParam w).2.2 else []
      exec (.launchWord q w (.core n)) s = .next ((torn.foldl (fun (s : State) (a : Nat) => s.hbmLog a true) s).setQueue q { x with lastCode := r }))) ∧
  (∀ (q : Nat) (s : State), q < 64 →
    let x := s.queue q
    let step := x.age * microsecond
    (x.words = [] → exec (.queueAgeing q) s = .next s) ∧
    (x.words ≠ [] → ∃ t, exec (.queueAgeing q) s = .next t ∧ (t.queue q).words = x.words ∧ (t.queue q).level =
      (if step = 0 ∨ x.prio ≤ 1 then x.prio else max 1 (x.prio - (s.wall - x.headWall) / step)))) ∧
  (∀ s : State, let r := s.refreshGraphs
    ((s.ctl 0).window = true → exec .bindDecision s = .next s) ∧
    ((s.ctl 0).window = false → ((List.range 64).filterMap r.wantOf = [] → exec .bindDecision s = .next r) ∧ ∃ t, exec .bindDecision s = .next t) ∧
    (∀ w, (List.range 64).filterMap s.wantOf = [w] → s.cutTooLong w = false → s.holders w = [] → s.blocked w = false → w.word.resume = none →
      ∀ i, s.imageAt w.word.image = some i → ∃ t b, s.decideOnce = (true, t) ∧ b < 64 ∧ (s.launch b).st = 0 ∧ (∀ c, c < b → (s.launch c).st ≠ 0) ∧
        (t.launch b).st = 1 ∧ (t.launch b).lid = w.lid ∧ (t.launch b).image = w.word.image ∧ (t.launch b).svec = w.svec ∧ (t.launch b).waiting = true ∧
        (∀ n, n < 768 → n ∈ w.cores → (t.core n).bind = some b ∧ (t.core n).run = .waiting) ∧ ∃ e ∈ t.agenda, s.clock < e.at_ ∧ e.ev = .dispatch b)) ∧
  (∀ (b : Nat) (s : State) (i : Image), b < 64 → Canon s →
    let l := s.launch b
    let es := i.entries l.svec
    (l.st = 1 ∨ l.st = 2) → l.waiting = true → l.resume = false → s.imageAt l.image = some i →
    l.cores = ((List.range 768).filter fun n => es.any fun e => e.core == n) → (∀ e ∈ es, (s.core e.core).gate ≠ .gating) →
    (∀ e ∈ es, ((l.cores.foldl State.wakeCore (s.setLaunch b { l with st := 2 })).returned e.core e.lend) = []) → (es.map (·.core)).Nodup →
    (∀ reason va access, reason ≠ 5 → (readied s b i).prepRanges l.asid (rangesOf s b i) = .fault reason va access →
      exec (.dispatch b) s = .next ((readied s b i).postFault ⟨none, 0, reason, l.asid, access, va, 0xFFFF, 0xFF, b, 0⟩)) ∧
    ∀ rs, (readied s b i).prepRanges l.asid (rangesOf s b i) = .ok rs → (l.plen = 0 ∨ s.badIn l.pcopy l.plen = []) →
    (rangesClash l.tasks rs = true → exec (.dispatch b) s = .next ((readied s b i).endWith b ⟨3, 6, 0xFFFF, 0, 0⟩)) ∧
    (rangesClash l.tasks rs = false → ∃ t, exec (.dispatch b) s = .next t ∧ (t.launch l.bind).waiting = false ∧ (t.launch l.bind).st = 2 ∧
      ∀ e ∈ es,
        let c := t.core e.core
        let base := sliceBase e.core
        c.run = .waiting ∧ c.bind = some l.bind ∧ c.lent = e.lend ∧ c.tcyc = 0 ∧ c.loops = [] ∧ c.rows = [] ∧ c.frec = 0 ∧ c.flagsA = 0 ∧ c.pend = [] ∧
        (l.half = false → c.pc = BitVec.ofNat 32 (e.entry % 2 ^ 18)) ∧ c.slim = BitVec.ofNat 64 (e.limit % 2 ^ 22) ∧
        (∀ r : BitVec 5, c.sreg r = if r = 0 then BitVec.ofNat 64 (base + e.param) else if r = 28 then BitVec.ofNat 64 (base + e.gp)
          else if r = 31 then BitVec.ofNat 64 (base + e.stack) else 0) ∧
        (∀ r : BitVec 4, c.preg r = decide (r = 0) ∧ c.kreg r = if r = 0 then BitVec.allOnes 512 else 0) ∧
        (∀ r : BitVec 3, (c.xreg r).valid = false) ∧ (∃ q, c.ckpt = some q ∧ q.entry = true ∧ q.tcyc = 0) ∧
        ∀ x ∈ bytesAt (codeBase e.core) (((t.launch l.bind).code i e.core).take (2 ^ 18)), writtenNow s t x)) ∧
  (∀ (b : Nat) (s : State) (i : Image), b < 64 →
    let l := s.launch b
    (l.st = 1 ∨ l.st = 2) → l.waiting = true → l.resume = false → s.imageAt l.image = some i →
    l.cores ≠ ((List.range 768).filter fun n => (i.entries l.svec).any fun e => e.core == n) →
    exec (.dispatch b) s = .next ((s.setLaunch b { l with st := 2 }).endWith b ⟨3, 0, 0xFFFF, 0, 0⟩)) ∧
  (∀ (b : Nat) (s : State), b < 64 →
    let l := s.launch b
    (s.startDue l = false → exec (.launchStart b) s = .next s) ∧
    (s.startDue l = true → ∃ t, exec (.launchStart b) s = .next t ∧ (t.launch b).st = 3 ∧ (t.launch b).start = s.clock ∧
      ∀ n ∈ l.cores, (t.core n).run = .running ∧ (t.core n).tcyc = 0 ∧ (t.core n).nextIssue = s.clock ∧ (t.core n).pc = (s.core n).pc)) ∧
  (∀ (b : Nat) (s : State), b < 64 → Canon s →
    let l := s.launch b
    (s.completeDue l = false → exec (.launchComplete b) s = .next s) ∧
    (s.completeDue l = true → s.launchBusy { l with st := 6 } = true → exec (.launchComplete b) s = .next (s.setLaunch b { l with st := 6 })) ∧
    (s.completeDue l = true → s.launchBusy { l with st := 6 } = false → ∃ t, exec (.launchComplete b) s = .next t ∧
      t.binds = SMap.put Launch.free s.binds l.bind Launch.free ∧ (∀ n ∈ l.cores, (s.core n).bind = some l.bind → (t.core n).run = .off ∧ (t.core n).bind = none) ∧
      (∀ g ∈ t.groups, g.2.1 ≠ l.lid) ∧ (∀ x ∈ t.tensors, x.bind ≠ l.bind) ∧ planned t s.clock .bindDecision ∧
      (s.linkUp = true → SMap.get .none t.link.sent (s.nextSeq % 256) =
        ⟨s.nextSeq, 0x84, if l.level = 0 then 1 else 0, l.lid, s.reportBytes l, l.lid, 0, linkIv true s.link.epoch s.nextSeq⟩))) ∧
  (∀ (b : Nat) (s : State) (i : Image) (x : Stop), b < 64 → Canon s →
    let l := s.launch b
    let seen := s.scanBanks i { l with saved := savedCores s l x }
    s.imageAt l.image = some i → l.stop = some x → (l.st = 3 ∨ l.st = 4) → x.kind = .preempt → x.stopped = true → l.ending = none →
    ((∃ m ∈ s.memPend, m.store ∈ l.cores) → ∃ t, exec (.preemption b) s = .next t ∧ t.cores = s.cores ∧ planned t (s.clock + 1) (.preemption b)) ∧
    ((∀ m ∈ s.memPend, m.store ∉ l.cores) → seen.1 ≠ [] → exec (.preemption b) s = .next (seen.2.endWith b ⟨8, 0, 0xFFFF, 0, 0⟩)) ∧
    ((∀ m ∈ s.memPend, m.store ∉ l.cores) → seen.1 = [] → ∃ t, exec (.preemption b) s = .next t ∧ (t.launch b).st = 5 ∧ (t.launch b).stop = none ∧ (t.launch b).resume = true ∧
      (∀ n ∈ l.cores, SMap.get Core.init (t.launch b).saved n = (s.core n).savedAt (s.clock - x.at_) ∧ (t.core n).bind = none ∧ (t.core n).run = .off) ∧
      (t.queue l.queue).words = ⟨l.lid, l.image, l.svec, [], none, some b, s.wall, false⟩ :: (s.queue l.queue).words ∧ planned t s.clock .bindDecision)) ∧
  (∀ (b : Nat) (s : State) (i : Image), b < 64 → s.imageAt (s.launch b).image = some i → (s.launch b).stop = none → (s.launch b).saved ≠ [] →
    ((s.launch b).st = 5 ∨ (s.launch b).st = 1 ∨ (s.launch b).st = 2) → exec (.preemption b) s = .next (s.addMemNow (s.areaRegisters i (s.launch b)))) ∧
  (∀ (b : Nat) (s : State) (i : Image), b < 64 →
    let l := s.launch b
    let es := i.entries l.svec
    s.imageAt l.image = some i → (l.st = 1 ∨ l.st = 2) → l.waiting = true → l.resume = true → (∀ n ∈ l.cores, (s.core n).gate ≠ .gating) →
    (∀ e ∈ es, s.returned e.core e.lend = []) → (es.map (·.core)).Nodup → s.badRead l.ctxa (areaEnd i l - l.ctxa) = false →
    (halfNow s l i = true → l.half = false → linesMapped s l i = false → exec (.resume b) s = .next (s.endWith b ⟨4, 0, 0xFFFF, 0, 0⟩)) ∧
    ((halfNow s l i = true → l.half = false → linesMapped s l i = true) → ∃ t, exec (.resume b) s = .next t ∧ (t.launch b).waiting = false ∧ (t.launch b).st = 2 ∧ (t.launch b).half = halfNow s l i ∧
      (∃ x, (t.launch b).stop = some x ∧ x.stopped = true ∧ x.kind = .rewind) ∧
      ∀ e ∈ es,
        let o := SMap.get Core.init (s.restoreCores i l) e.core
        let c := t.core e.core
        c.run = o.run ∧ c.bind = some b ∧ c.lent = e.lend ∧ c.s = o.s ∧ c.p = o.p ∧ c.rows = o.rows ∧ c.g = o.g ∧ c.tcyc = o.tcyc ∧ c.loops = o.loops)) ∧
  (∀ (s : State) (a : Nat) (q : Checkpoint) (c : Core),
    let d := s.restoreCore a q c
    let w (o : Nat) : Word := BitVec.ofNat 64 (memNat s.mem (a + o) 8)
    d.pc = BitVec.ofNat 32 (memNat s.mem a 8) ∧ d.tcyc = memNat s.mem (a + 8) 8 ∧ d.flagsA = w 24 ∧ d.flagsB = w 32 ∧ d.fevrec = w 40 ∧ d.frec = w 48 ∧
    d.oorrec = w 56 ∧ d.slim = w 64 ∧ d.gkey = w 72 ∧ (∀ r : Fin 32, d.s[r] = w (312 + 8 * r.val)) ∧ d.p = BitVec.ofNat 16 (memNat s.mem (a + 568) 2) ∧
    (∀ r : Fin 16, d.g[r] = BitVec.ofNat 512 (memNat s.mem (a + (576 + 64 * r.val)) 64)) ∧ (∃ k, d.ckpt = some k ∧ k.s = d.s ∧ k.g = d.g ∧ k.tcyc = d.tcyc)) ∧
  (∀ (b : Nat) (s : State) (i : Image) (x : Stop), b < 64 →
    let l := s.launch b
    let marker (n : Nat) : Option Nat := halfMarker i l.svec n (s.core n).tcyc
    let found := i.variantFor l.svec l.cores = true ∧ (∀ n ∈ l.cores, (s.core n).bus.wstate ≠ 2) ∧
      ∀ n ∈ l.cores, (s.core n).run = .frozen → marker n ≠ none
    l.stop = some x → s.imageAt l.image = some i → (l.st = 3 ∨ l.st = 4) → x.stopped = true → x.kind = .variant → l.ending = none → l.bind = b →
    (found → ∃ t, exec (.variantRebind b) s = .next t ∧ (t.launch b).half = true ∧ (∃ y, (t.launch b).stop = some y ∧ y.stopped = true ∧ (y.kind = .rewind ∨ y.kind = .inPlace)) ∧
      ∀ n ∈ l.cores, (t.core n).bus.ack = true ∧ (t.core n).bus.degraded = false ∧
        ((s.core n).run = .frozen → ∀ a, marker n = some a → (t.core n).pc = BitVec.ofNat 32 a)) ∧
    (¬found → ∃ t e, exec (.variantRebind b) s = .next t ∧ (t.launch b).ending = some e ∧ e.status = 4 ∧ planned t s.clock (.domainStop b)))

/-! The host and the controllers -/

namespace Sys2Proof.Claim

/-- The messages of the host: TYPE and step (R339). -/
def hostSteps : List (Nat × Instr) :=
  [(1, .wwrite), (2, .wread), (3, .mgmtw), (4, .mgmtr), (5, .memw), (6, .memr), (7, .inval), (8, .resend), (9, .sysdone), (10, .hack)]

/-- The message presented is the next one, of this TYPE, and well formed (R338 to R342). -/
def heard (s : State) (typ : Nat) : Prop :=
  let m := s.stim.msg
  m.tagOk = true ∧ s.linkUp = true ∧ m.seq.toNat = (s.link.lastRx + 1) % 2 ^ 32 ∧ m.typ.toNat = typ ∧ m.flags.toNat < 4 ∧ m.payload.length ≤ 4096 ∧
  m.len.toNat = m.payload.length

/-- The state in which its number counts as received. -/
def hearing (s : State) : State := { s with link := { s.link with lastRx := s.stim.msg.seq.toNat } }

/-- The device sends a message: the next number, held in the sent list with the IV of its epoch and number (R338 to R342). -/
def told (s t : State) (typ flags arg : Nat) (payload : List Byte) (key : Nat) : Prop :=
  t.link.lastTx = s.nextSeq ∧
    SMap.get .none t.link.sent (s.nextSeq % 256) = ⟨s.nextSeq, typ, flags, arg, payload, key, 0, linkIv true t.link.epoch s.nextSeq⟩

/-- The message has been processed with an outcome: the received list says so, with the FLAGS of the answer. -/
def noted (s t : State) (typ outcome flags : Nat) : Prop :=
  let n := s.stim.msg.seq.toNat
  t.link.lastRx = n ∧ SMap.get .none t.link.received (n % 256) = ⟨n, typ, outcome, 0, flags⟩

/-- ACK, or NAK with a reason; FLAGS has PRIO0 where the answer serves a queue or a launch of level 0 (R338). -/
def answered (s t : State) (typ outcome : Nat) (flags : Nat := 0) : Prop :=
  noted s t typ outcome flags ∧ told s t (if outcome = 0 then 0x81 else 0x82) flags (s.stim.msg.seq.toNat + outcome * 2 ^ 32) (leBytes 8 0) 0

/-- PRIO0 of an answer about window offset off: the queue whose words or registers stand there has level 0 in state x (R303, R338). -/
def queueAt (x : State) (off : Nat) : Nat := if off < 0x600 ∧ (x.queue (off % 0x200 / 8)).prio = 0 then 1 else 0

/-- A read is answered by its data alone. -/
def dataBack (s t : State) (typ : Nat) (data : List Byte) (flags : Nat := 0) : Prop :=
  noted s t typ 0 flags ∧ told s t 0x83 flags s.stim.msg.seq.toNat data 0 ∧ t.mem = s.mem ∧ t.memPend = s.memPend ∧ t.cores = s.cores

/-- Nothing but the link changes. -/
def linkOnly (s t : State) : Prop := t = { s with link := t.link }

end Sys2Proof.Claim

/-- R296, R298, R303, R304, R338 to R343, R351: the host's messages: a message whose tag fails or that no key covers is dropped; a repeated one gets its first answer with DUP, one out of order
NAK 0x10; the next one has its effect and its answer.

The model's own: 0x13 for window offsets 0x400 to 0x3FFF, 0x11 for a payload that the table does not give, a read answered by its data alone, DUP beside the FLAGS
of the first answer, the limits of MEMR and what RESEND repeats (log 33); that key exchange waits for Dawn's window (log 34). -/
def Obligations.HostMessages : Prop :=
  (∀ (typ : Nat) (ev : Instr) (s : State), (typ, ev) ∈ hostSteps →
    let m := s.stim.msg
    let n := m.seq.toNat
    let next := (s.link.lastRx + 1) % 2 ^ 32
    let e := SMap.get .none s.link.received (n % 256)
    ((m.tagOk = false ∨ s.link.keyed = false) → exec ev s = .next s) ∧
    (m.tagOk = true → s.linkUp = true → m.typ.toNat = typ → n ≠ next →
      (2 ^ 31 ≤ counterDiff s.link.lastRx n → ∃ t, exec ev s = .next t ∧ linkOnly s t ∧ told s t 0x82 0 (n + 0x10 * 2 ^ 32) (leBytes 8 next) 0) ∧
      (counterDiff s.link.lastRx n < 2 ^ 31 → e.seq = n → e.typ ≠ 0 → e.outcome ≠ 0 →
        ∃ t, exec ev s = .next t ∧ linkOnly s t ∧ told s t 0x82 (2 + e.flags) (n + e.outcome * 2 ^ 32 + 2 ^ 40) (leBytes 8 e.key) 0)) ∧
    (m.tagOk = true → s.linkUp = true → m.typ.toNat = typ → n = next → (4 ≤ m.flags.toNat ∨ 4096 < m.payload.length ∨ m.len.toNat ≠ m.payload.length) →
      ∃ t, exec ev s = .next t ∧ linkOnly s t ∧ answered s t typ 0x11)) ∧
  (∀ s : State, heard s 1 →
    let off := s.stim.msg.arg.toNat
    let data := s.stim.msg.payload
    let n := data.length
    let wide := n = 1 ∨ n = 2 ∨ n = 4 ∨ n = 8
    (¬wide → ∃ t, exec .wwrite s = .next t ∧ linkOnly s t ∧ answered s t 1 0x11) ∧
    (wide → 2 ^ 16 < off + n → ∃ t, exec .wwrite s = .next t ∧ linkOnly s t ∧ answered s t 1 0x13) ∧
    (wide → off < 0x4000 → 0x400 ≤ off → ∃ t, exec .wwrite s = .next t ∧ linkOnly s t ∧ answered s t 1 0x13 (queueAt s off)) ∧
    (wide → off < 0x200 → (off % 8 ≠ 0 ∨ n ≠ 8) → ∃ t, exec .wwrite s = .next t ∧ answered s t 1 1 (queueAt s off) ∧
      t.queue (off / 8) = { s.queue (off / 8) with lastCode := 1 } ∧
      (off + n ≤ 0x200 → t.queue ((off + n - 1) / 8) = { s.queue ((off + n - 1) / 8) with lastCode := 1 }) ∧
      ∀ q, q ≠ off / 8 → q ≠ (off + n - 1) / 8 → t.queue q = s.queue q) ∧
    (off < 0x200 → off % 8 = 0 → n = 8 → ∃ t, exec .wwrite s = .next t ∧ t.link = (hearing s).link ∧
      planned t s.clock (.launchWord (off / 8) (BitVec.ofNat 64 (leNat data)) (.host s.stim.msg.seq))) ∧
    (0x200 ≤ off → off < 0x400 → off % 8 = 0 → n = 8 → SMap.wf Queue.init s.queues = true → ∃ t, exec .wwrite s = .next t ∧ answered s t 1 0 (queueAt t off) ∧
      (t.queue ((off - 0x200) / 8)).cfg = BitVec.ofNat 64 (leNat data) &&& 0xFFFF_000F) ∧
    (wide → 0x4000 ≤ off → off + n ≤ 2 ^ 16 → ∃ t, exec .wwrite s = .next t ∧ answered s t 1 0 ∧
      t.memPend = s.memPend ++ [nowWrite s (bytesAt (windowBase + off) data)])) ∧
  (∀ s : State, heard s 2 →
    let off := s.stim.msg.arg.toNat
    (∀ n : Byte, s.stim.msg.payload = [n] → off + n.toNat ≤ 2 ^ 16 → ∃ t, exec .wread s = .next t ∧ dataBack s t 2 ((hearing s).windowRead off n.toNat) (queueAt s off)) ∧
    (∀ n : Byte, s.stim.msg.payload = [n] → 2 ^ 16 < off + n.toNat → ∃ t, exec .wread s = .next t ∧ linkOnly s t ∧ answered s t 2 0x13) ∧
    (s.stim.msg.payload.length ≠ 1 → ∃ t, exec .wread s = .next t ∧ linkOnly s t ∧ answered s t 2 0x11)) ∧
  (∀ s : State, heard s 3 →
    let a := s.stim.msg.arg.toNat
    let v := leNat s.stim.msg.payload
    (s.stim.msg.payload.length ≠ 8 → ∃ t, exec .mgmtw s = .next t ∧ linkOnly s t ∧ answered s t 3 0x11) ∧
    (s.stim.msg.payload.length = 8 → (mgmtExists a && mgmtExists (a + 7)) = false → ∃ t, exec .mgmtw s = .next t ∧ linkOnly s t ∧ answered s t 3 0x13) ∧
    (s.stim.msg.payload.length = 8 → a = 0xC000 → ∃ t, exec .mgmtw s = .next t ∧ answered s t 3 0 ∧ t.paramBase = v) ∧
    (∀ k, k < 4 → s.stim.msg.payload.length = 8 → a = 0x100010 + 0x10000 * k → SMap.wf Ctl.init s.ctls = true →
      ∃ t, exec .mgmtw s = .next t ∧ answered s t 3 0 ∧ t.ctl k = { s.ctl k with wdog := v % 2 ^ 32 })) ∧
  (∀ s : State, heard s 4 →
    let a := s.stim.msg.arg.toNat
    (s.stim.msg.payload ≠ [] → ∃ t, exec .mgmtr s = .next t ∧ linkOnly s t ∧ answered s t 4 0x11) ∧
    (s.stim.msg.payload = [] → (mgmtExists a && mgmtExists (a + 7)) = false → ∃ t, exec .mgmtr s = .next t ∧ linkOnly s t ∧ answered s t 4 0x13) ∧
    (s.stim.msg.payload = [] → mgmtExists a = true → a % 8 = 0 → ∃ t, exec .mgmtr s = .next t ∧ dataBack s t 4 (leBytes 8 (s.mgmtWord a).toNat))) ∧
  (∀ s : State, heard s 5 →
    let a := s.stim.msg.arg.toNat
    let data := s.stim.msg.payload
    (s.devSpan a data.length = true → ∃ t, exec .memw s = .next t ∧ linkOnly s t ∧ answered s t 5 0 ∧ t.link.hostWrites = s.link.hostWrites ++ bytesAt a data) ∧
    (s.devSpan a data.length = false → ∃ t, exec .memw s = .next t ∧ linkOnly s t ∧ answered s t 5 0x13)) ∧
  (∀ s : State, heard s 6 →
    let a := s.stim.msg.arg.toNat
    let n := leNat s.stim.msg.payload
    let bad := s.stim.msg.payload.length ≠ 2 ∨ 4096 < n
    (bad → ∃ t, exec .memr s = .next t ∧ linkOnly s t ∧ answered s t 6 0x11) ∧
    (¬bad → s.devSpan a n = false → ∃ t, exec .memr s = .next t ∧ linkOnly s t ∧ answered s t 6 0x13) ∧
    (¬bad → s.devSpan a n = true → ∃ t, exec .memr s = .next t ∧ dataBack s t 6 ((List.range n).map fun i => s.hostByte (a + i)))) ∧
  (∀ s : State, heard s 7 →
    (s.stim.msg.payload.length ≠ 16 → ∃ t, exec .inval s = .next t ∧ linkOnly s t ∧ answered s t 7 0x11) ∧
    (s.stim.msg.payload.length = 16 → ∃ t, exec .inval s = .next t ∧ answered s t 7 0 ∧ t.link.invSeq = s.stim.msg.seq.toNat ∧ t.link.hostWrites = [] ∧
      (s.link.hostWrites ≠ [] → t.memPend = s.memPend ++ [nowWrite s s.link.hostWrites]) ∧ t.mem = s.mem)) ∧
  (∀ s : State, heard s 8 →
    let l := s.link
    let first := s.stim.msg.arg.toNat % 2 ^ 32
    let d := counterDiff l.lastTx first
    let e (n : Nat) := SMap.get .none l.sent (n % 256)
    let stands (n : Nat) : Prop := (e n).typ ≠ 0 ∧ (e n).seq = n
    (s.stim.msg.payload ≠ [] → ∃ t, exec .resend s = .next t ∧ linkOnly s t ∧ answered s t 8 0x11) ∧
    (s.stim.msg.payload = [] → 2 ^ 31 ≤ d → ∃ t, exec .resend s = .next t ∧ linkOnly s t ∧ answered s t 8 0 ∧ t.link.again = l.again) ∧
    (s.stim.msg.payload = [] → d < 2 ^ 31 → ∃ t, exec .resend s = .next t ∧ linkOnly s t ∧ answered s t 8 0 ∧ (∀ m ∈ t.link.again, m.typ ≠ 0 ∧ e m.seq = m) ∧
      ∀ i, i ≤ d → i < 256 → stands ((l.lastTx + 2 ^ 32 - i) % 2 ^ 32) → e ((l.lastTx + 2 ^ 32 - i) % 2 ^ 32) ∈ t.link.again)) ∧
  (∀ s : State, heard s 9 → s.sysWait = [] →
    let a := s.stim.msg.arg.toNat
    let named (k : Cmd) : Prop := k.bind.getD 0 = a % 2 ^ 8 ∧ k.core = a / 2 ^ 8 % 2 ^ 10 ∧ (k.args.getD 11 0).toNat % 2 ^ 16 = a / 2 ^ 18 % 2 ^ 16
    (s.stim.msg.payload.length ≠ 4 → ∃ t, exec .sysdone s = .next t ∧ linkOnly s t ∧ answered s t 9 0x11) ∧
    (s.stim.msg.payload.length = 4 → (∀ id ∈ s.sysOut, ∀ k, s.cmd id = some k → ¬named k) → ∃ t, exec .sysdone s = .next t ∧ linkOnly s t ∧ answered s t 9 0x12) ∧
    (∀ (id : Nat) (k : Cmd), s.stim.msg.payload.length = 4 → s.sysOut = [id] → s.cmd id = some k → named k →
      ∃ t, exec .sysdone s = .next t ∧ answered s t 9 0 (s.prioFlag k.bind) ∧ t.sysOut = [] ∧ gone t id)) ∧
  (∀ s : State, heard s 10 →
    let top := s.stim.msg.arg.toNat % 2 ^ 32
    (s.stim.msg.payload ≠ [] → ∃ t, exec .hack s = .next t ∧ linkOnly s t ∧ answered s t 10 0x11) ∧
    (s.stim.msg.payload = [] → ∃ t, exec .hack s = .next t ∧ linkOnly s t ∧ answered s t 10 0 ∧ t.link.hostAck = top ∧
      ∀ k, k ≠ s.nextSeq % 256 → let e := SMap.get .none s.link.sent k
        e.typ ≠ 0 → SMap.get .none t.link.sent k = { e with st := if counterDiff top e.seq < 2 ^ 31 then 1 else e.st })) ∧
  (∀ s : State,
    (s.sec.idKey = false → exec .keyExchange s = .next s) ∧
    (s.sec.idKey = true → (s.ctl 3).window = true → ∃ t, exec .keyExchange s = .next t ∧ t.link = s.link ∧ ∃ i ∈ t.inputs, i.at_ = s.clock + 1 ∧ i.ev = .keyExchange) ∧
    (s.sec.idKey = true → (s.ctl 3).window = false → ∃ t, exec .keyExchange s = .next t ∧ linkOnly s t ∧ t.link.epoch = (s.link.epoch + 1) % 2 ^ 31 ∧ t.link.keyed = true ∧
      (s.link.waiting = [] → t.link = { s.link with epoch := (s.link.epoch + 1) % 2 ^ 31, used := 0, keyed := true }) ∧
      (∀ m, s.link.waiting = [m] → told s t m.typ m.flags m.arg m.payload m.key)))

/-- R344 to R350, R352 to R354, R368, R387, R389: the controllers: staging, commit and abort of an image, the takeover and its watchdog, hand-over records; the monitors; the report and
the alarm; and the registers that have no behaviour of their own.

The model's own: what Dawn's window holds back (a second STAGE, COMMIT, a report), the watchdog's first arming, Vesper's quiescent points at PSLOT a multiple of 64 and
the events between which the others' lie (log 34); when a slot begins (log 8); one place of frequency at a time (log 23); RPTADDR's bound, the alarm's record and
when a temperature raises it (log 35); the events and registers that stand for the outside's part (log 41). -/
def Obligations.ControllerEvents : Prop :=
  (∀ s : State, s.stim.unit < 4 → SMap.wf Ctl.init s.ctls = true →
    let k := s.stim.unit
    let c := s.ctl k
    let rolled (t : State) : Prop := t.ctl k = { c with st := 0, active := !c.active, image := c.old, old := [], rollbacks := (c.rollbacks + 1) % 2 ^ 32,
                                                        lastRb := s.clock, deadline := none, window := false }
    (c.st = 0 → exec .stage s = .next (s.setCtl k { c with st := 1, staged := [], stagedLen := 0 })) ∧
    (c.st = 1 → (s.ctl 3).window = true → exec .stage s = .next (s.nextCycle .stage { noStim with unit := k, value := 1 })) ∧
    (2 ≤ c.st → exec .stage s = .next s) ∧
    (c.st = 1 → (s.ctl 3).window = false → c.accepts k = true → exec .stage s = .next (s.setCtl k { c with st := 2 })) ∧
    (c.st = 1 → (s.ctl 3).window = false → c.accepts k = false → ∃ t, exec .stage s = .next t ∧ t.ctl k = { c with st := 0 } ∧ t.mem = s.mem) ∧
    (c.st = 3 → (s.ctl 3).window = false → exec .commit s = .next (s.setCtl k { c with st := 0, old := [] })) ∧
    (c.st = 3 → (s.ctl 3).window = true → exec .commit s = .next (s.nextCycle .commit { noStim with unit := k })) ∧
    (c.st ≠ 3 → exec .commit s = .next s) ∧
    (c.st = 0 → exec .abort s = .next s) ∧
    (c.st = 1 ∨ c.st = 2 → exec .abort s = .next { s.setCtl k { c with st := 0 } with
      inputs := s.inputs.filter fun i => !(i.stim.unit == k && ((i.ev == .stage && i.stim.value == 1) || i.ev == .commit)) }) ∧
    (c.st = 3 → ∃ t, exec .abort s = .next t ∧ rolled t) ∧
    (c.st ≠ 2 → exec .takeover s = .next s) ∧
    (c.st = 2 → k = 1 → (s.clock ≠ s.fab.slotAt ∨ s.fab.pslot % 64 ≠ 0) → exec .takeover s = .next (s.nextCycle .takeover s.stim)) ∧
    (c.st = 2 → (k = 1 → s.clock = s.fab.slotAt ∧ s.fab.pslot % 64 = 0) → ∃ t, exec .takeover s = .next t ∧ (t.ctl k).st = 3 ∧ (t.ctl k).active = !c.active ∧ (t.ctl k).old = c.image ∧
      (t.ctl k).image = c.stagedImage ∧ (t.ctl k).window = true ∧ (t.ctl k).gen = c.gen + 1 ∧ (t.ctl k).deadline = some (s.clock + c.wdog) ∧
      planned t (s.clock + c.wdog) (.watchdogExpiry k)) ∧
    (∃ t, exec .heartbeat s = .next t ∧ (t.ctl k).beat = s.stim.value ∧ (t.ctl k).deadline = some (s.clock + c.wdog) ∧ (t.ctl k).window = false ∧
      planned t (s.clock + c.wdog) (.watchdogExpiry k)) ∧
    (c.deadline = none → exec (.watchdogExpiry k) s = .next s) ∧
    (∀ d, c.deadline = some d → (s.clock < d → exec (.watchdogExpiry k) s = .next s) ∧
      (d ≤ s.clock → c.st = 3 → ∃ t, exec (.watchdogExpiry k) s = .next t ∧ rolled t) ∧
      (d ≤ s.clock → c.st ≠ 3 → ∃ t, exec (.watchdogExpiry k) s = .next t ∧ t.ctl k = { c with st := 0, deadline := none, window := false })) ∧
    (let r := recordBytes k c.writes (c.gen + 1) s.clock (s.recordSections k)
     exec (.handoverRecordWrite k) s = .next (s.setCtl k
       (if c.gen % 2 = 0 then { c with gen := c.gen + 1, record0 := r } else { c with gen := c.gen + 1, record1 := r })))) ∧
  (∀ (i : MonId) (s : State), MonId.exists_ i = true →
    let m := s.mon (MonId.key i)
    exec (.monitorClear i) s = .next (s.setMon (MonId.key i) { m with min := 0xFFFFFFFF, max := 0, count := 0, gaps := 0, bins := [] }) ∧
    (∃ t c, exec (.monitorCapture i) s = .next t ∧ t.mon (MonId.key i) = { m with cap := c } ∧ ∀ j, j < 32 → SMap.get 0 c j = m.word j) ∧
    (s.stim.mon = i → let x := s.stim.value.toInt.toNat
      let heat (u : State) : State := match i with
        | .cluster c 5 => (u.heatAt c x).temperatureAlarm c s.stim.value.toInt
        | _ => u
      (s.gap (MonId.quantity i) = true → exec .monitorSample s = .next (heat s)) ∧
      (s.gap (MonId.quantity i) = false → m.en = false → exec .monitorSample s = .next (heat (s.setMon (MonId.key i) m))) ∧
      (s.gap (MonId.quantity i) = false → m.en = true → ∃ t b l, exec .monitorSample s = .next (heat t) ∧ t = s.setMon (MonId.key i)
          { m with min := min m.min (min x (2 ^ 32 - 1)), max := max m.max (min x (2 ^ 32 - 1)), count := min (m.count + 1) (2 ^ 32 - 1), bins := l } ∧
        b ≤ 31 ∧ (∀ j, j < b → belowEdge x (m.e + (j * (m.p + 1) : Nat)) = false) ∧ (b < 31 → belowEdge x (m.e + (b * (m.p + 1) : Nat)) = true) ∧
        SMap.get 0 l b = min (SMap.get 0 m.bins b + 1) (2 ^ 32 - 1) ∧ ∀ j, j ≠ b → SMap.get 0 l j = SMap.get 0 m.bins j))) ∧
  (∀ (c x : Nat) (s : State), c < 48 → SMap.wf Stack.init s.dieStacks = true →
    let k := c / 24
    let y := s.stackAt k
    let since := SMap.get 0 y.above c
    (y.crit ≤ x → 0x30 ∈ ((s.heatAt c x).stackAt k).critical) ∧
    (x < y.crit → ((s.heatAt c x).stackAt k).critical = y.critical) ∧
    (y.limit < x → since ≠ 0 → since - 1 + 1000 * microsecond ≤ s.wall → 8 < s.freq → s.freq ≤ 16 →
      ∃ i ∈ (s.heatAt c x).inputs, i.at_ = s.clock + 1 ∧ i.ev = .frequencyStepDown ∧ i.stim.index = s.freq - 1)) ∧
  (∀ (k x : Nat) (s : State),
    let y := s.stackAt k
    let since := SMap.get 0 y.above 48
    (y.amps ≠ 0 → y.amps < x → since ≠ 0 → since - 1 + 1000 * microsecond ≤ s.wall → 8 < s.freq → s.freq ≤ 16 →
      ∃ i ∈ (s.currentAt k x).inputs, i.at_ = s.clock + 1 ∧ i.ev = .frequencyStepDown ∧ i.stim.index = s.freq - 1)) ∧
  (∀ (c : Nat) (v : Int) (s : State),
    ((-320 ≤ v ∧ v ≤ 2000) → s.temperatureAlarm c v = { s with sec := { s.sec with outside := s.sec.outside.filter (· != c) } }) ∧
    ((v < -320 ∨ 2000 < v) → c ∈ s.sec.outside → s.temperatureAlarm c v = s) ∧
    ((v < -320 ∨ 2000 < v) → c ∉ s.sec.outside →
      s.temperatureAlarm c v = { s with sec := { s.sec with outside := s.sec.outside ++ [c] } }.nextCycle .securityAlarm { noStim with index := 2 })) ∧
  (∀ s : State,
    (∃ t, exec .rptreq s = .next t ∧ t.sec = { s.sec with done := false } ∧ ∃ e ∈ t.agenda, s.clock < e.at_ ∧ e.ev = .reportWritten) ∧
    ((s.ctl 3).window = true → ∃ t, exec .reportWritten s = .next t ∧ t.sec = s.sec ∧ planned t (s.clock + 1) .reportWritten) ∧
    ((s.ctl 3).window = false → s.sec.idKey = false → exec .reportWritten s = .next s) ∧
    ((s.ctl 3).window = false → s.sec.idKey = true → (s.sec.rptAddr % 4096 ≠ 0 ∨ 2 ^ 39 < s.sec.rptAddr + 32768) →
      exec .reportWritten s = .next { s with sec := { s.sec with badAddr := true } }) ∧
    ((s.ctl 3).window = false → s.sec.idKey = true → s.sec.rptAddr % 4096 = 0 → s.sec.rptAddr + 32768 ≤ 2 ^ 39 →
      let r := s.reportBody ++ fitTo 4627 (Config.sign s.reportBody)
      ∃ t, exec .reportWritten s = .next t ∧ t.memPend = s.memPend ++ [nowWrite s (bytesAt s.sec.rptAddr r)] ∧
        t.sec = { s.sec with done := true, badAddr := false, rptLen := r.length, digest := fitTo 64 (Config.sha3_512 r) })) ∧
  (∀ s : State, s.stim.index < 3 → SMap.wf Launch.free s.binds = true → (∀ x ∈ s.binds, x.2.bind = x.1) →
    let lv := s.sec.level s.stim.index
    ∃ t, exec .securityAlarm s = .next t ∧ t.sec = { s.sec with idKey := s.sec.idKey && decide (lv < 3), alarms := s.sec.alarms ++ [(s.clock, s.stim.index, lv)] } ∧ t.link.keyed = (s.link.keyed && decide (lv < 2)) ∧
      (lv < 2 → t.cores = s.cores ∧ t.binds = s.binds) ∧
      (2 ≤ lv → ∀ l ∈ s.launches, 2 ≤ l.st → l.st ≠ 5 → (t.launch l.bind).st = 6 ∧ (l.ending = none → (t.launch l.bind).ending = some ⟨7, 0, 0xFFFF, 0, 0⟩) ∧
        ∀ n ∈ l.cores, (s.core n).bind = some l.bind → (t.core n).run = .ended ∨ (t.core n).run = .stopped)) ∧
  (∀ s : State,
    let v := s.stim.value
    (∀ n w, s.stim.reg = .winBase n w → (768 ≤ n ∨ w = 0 ∨ 255 ≤ w) → exec .registerWrite s = .fault .noSuchUnit) ∧
    (∀ n w, s.stim.reg = .winBase n w → n < 768 → w ≠ 0 → w < 255 → exec .registerWrite s =
      .next (s.modCore n fun c => { c with win := SMap.put Window.init c.win w { c.window w with base := v &&& ~~~0x3F } })) ∧
    (∀ n w, s.stim.reg = .winPeer n w → n < 768 → w ≠ 0 → w < 255 → exec .registerWrite s =
      .next (s.modCore n fun c => { c with win := SMap.put Window.init c.win w { c.window w with peer := v &&& 0x1FFF } })) ∧
    (∀ n w, s.stim.reg = .winAllow n w → n < 768 → w ≠ 0 → w < 255 → exec .registerWrite s =
      .next (s.modCore n fun c => { c with win := SMap.put Window.init c.win w { c.window w with allow := v &&& 0x1FF } })) ∧
    (∀ g, s.stim.reg = .podGroup g → g < 256 → exec .registerWrite s = .next { s with fab := { s.fab with podMap := SMap.put 0 s.fab.podMap g (v.toNat % 2 ^ 8) } }) ∧
    (∀ i, s.stim.reg = .path i → i < 4096 → exec .registerWrite s = .next { s with fab := { s.fab with path := SMap.put 0 s.fab.path i v } }) ∧
    (s.stim.reg = .home → exec .registerWrite s = .next { s with fab := { s.fab with home := v.toNat % 2 ^ 6 } }) ∧
    (s.stim.reg = .livePeers → ∃ t, exec .registerWrite s = .next t ∧ t.fab.livePeers = v ||| BitVec.ofNat 64 (2 ^ s.fab.pkg)) ∧
    (∀ n, s.stim.reg = .podTime n → n < 24 → exec .registerWrite s =
      .next { s with fab := { s.fab with pslot := v.toNat, slotAt := s.clock, phase := n * 720720, lanes := 0 } }) ∧
    (s.stim.reg = .hostLink → exec .registerWrite s = .next { s with link := { s.link with down := v.getLsbD 0 } }) ∧
    (∀ k, s.stim.reg = .thermalLimits k → k < 2 → exec .registerWrite s =
      .next (s.setStack k { s.stackAt k with limit := v.toNat % 2 ^ 16, crit := v.toNat / 2 ^ 16 % 2 ^ 16, amps := v.toNat / 2 ^ 32 % 2 ^ 32 })) ∧
    (∀ k, s.stim.reg = .stackCurrent k → k < 2 → exec .registerWrite s = .next (s.currentAt k v.toNat)) ∧
    (∀ w b, s.stim.reg = .bitFlip w b → w < 2 ^ 29 → b < 72 → exec .registerWrite s = .next { s with flips := SMap.put 0 s.flips w (SMap.get 0 s.flips w ^^^ 2 ^ b) }) ∧
    (∀ a, s.stim.reg = .hostMem a → isHost a = true → isHost (a + 7) = true →
      ∃ t, exec .registerWrite s = .next t ∧ t.memPend = s.memPend ++ [nowWrite s (bytesAt a (leBytes 8 v.toNat))]))

/-! The fabric and the journal -/

namespace Sys2Proof.Claim

/-- The entry of the event's lane in this slot, of the active bank (R358). -/
def entryNow (s : State) : Nat := bankEntry s.fab.slots s.stim.unit s.stim.index s.fab.pslot

/-- Nothing turns an access to a slice away: no bus is off or unacknowledged, no parity error and no flipped bit waits (R237 to R241). -/
def cleanArrays (s : State) : Prop := s.parity = [] ∧ s.flips = [] ∧ ∀ n t, s.busRefuses n t = none

/-- What a lane sent in its last slot. -/
def sent (t : State) (port lane : Nat) : Cell := SMap.get noCell t.fab.out (laneKey port lane)

/-- The home can issue the patch under R381 to R384 and R406. -/
def patchAllowed (s : State) (p : Patch) : Prop :=
  let at_ := p.patchSlot.toNat
  s.fab.home = s.fab.pkg ∧ (s.ctl 1).window = false ∧ p.home.toNat = s.fab.pkg ∧ 1 ≤ p.kind.toNat ∧ p.kind.toNat ≤ 3 ∧ p.port.toNat < 12 ∧ p.line.toNat < 64 ∧
  p.dest.toNat = (p.sender.toNat + p.line.toNat) % 64 ∧ at_ % 64 = 0 ∧ s.fab.pslot + 512 ≤ at_ ∧ (p.kind.toNat = 1 → p.line.toNat < 8 ∧ s.fab.spareFailed p = false) ∧
  (p.kind.toNat = 2 → relayOk p.sender.toNat p.dest.toNat p.relay.toNat = true ∧ s.fab.livePeers.getLsbD p.relay.toNat = true ∧
    (p.line.toNat < 8 → s.fab.spareFailed p = true)) ∧
  (p.kind.toNat = 3 → s.fab.lineBad p p.line.toNat = false ∧ ∃ x ∈ s.fab.patches, x.patch.kind ≠ 3 ∧ samePatchLine x.patch p = true)

/-- The cells that left on a line in a slot are lost (R404). -/
def lostCells (port line slot : Nat) (l : List Unacked) : List Unacked :=
  l.map fun u => if u.slot = slot ∧ u.via = port * 128 + line + 1 then { u with lost := true } else u

/-- The length of a token record with n bytes of payload (R393). -/
def recLen (n : Nat) : Nat := 64 * ((64 + n + 63) / 64)

end Sys2Proof.Claim

/-- R358 to R360, R364, R365, R367, R370, R376, R380 to R385, R398, R417: the fabric's steps: a lane's cell in its slot; the receipt of a cell; resending; a package that leaves; line faults and their repair by
patches; the cells of collectives.

The model's own: the codes and layouts of control cells, how a refused or cancelled patch is told, and that a line event which comes late counts for the slot in which it comes (log 14);
when a slot begins and ends on the clock, and that what the lanes send is settled on its first cycle (log 8); the order in which cells enter and leave (log 26). -/
def Obligations.FabricEvents : Prop :=
  (∀ s : State, 8 ≤ s.freq → s.freq ≤ 16 → s.fab.phase < slotLength →
    let p := s.fab.phase + fabricStep s.freq
    s.slotTick.wall = s.wall + fabricStep s.freq ∧ s.slotTick.fab.phase = p % slotLength ∧ s.slotTick.fab.pslot = s.fab.pslot + p / slotLength) ∧
  (∀ s : State, s.stim.unit < 16 → s.stim.index < 8 → s.fab.queue = [] →
    (s.fab.slotAt = s.clock → exec .cellSend s = .next (s.nextCycle .cellSend s.stim)) ∧
    (s.fab.slotAt ≠ s.clock → laneKey s.stim.unit s.stim.index < s.fab.lanes → exec .cellSend s = .next s)) ∧
  (∀ s : State, s.stim.unit < 12 → s.stim.index < 8 → s.fab.pkg < 64 → s.fab.pod < 64 → s.fab.slotAt ≠ s.clock → SMap.wf noCell s.fab.out = true →
    let port := s.stim.unit
    let lane := s.stim.index
    s.fab.lanes = laneKey port lane →
    let e := entryNow s
    let d := s.fab.pod * 64 + (s.fab.pkg + txLine e % 64) % 64
    let x := s.fab.dest d
    (s.fab.queue = [] → (txEn e = false ∨ (port, txLine e) ∈ s.fab.faulty) → exec .cellSend s =
      .next (let u := s.putOut port lane noCell; { u with fab := { u.fab with lanes := laneKey port lane + 1 } })) ∧
    (txEn e = true → (port, txLine e) ∉ s.fab.faulty → txLine e % 64 ≠ 0 → txClass e = 0 →
      (s.fab.queue = [] → x.again = none → ∃ t, exec .cellSend s = .next t ∧ t.fab.dests = s.fab.dests ∧ (sent t port lane).kind = 0 ∧
        (sent t port lane).dst = BitVec.ofNat 16 d) ∧
      (∀ c, s.fab.queue = [c] → c.dest = d → x.held = false → x.again = none → x.unacked.length < 256 → x.next < 2 ^ 32 → (∀ u ∈ x.unacked, u.seq ≠ x.next) →
        1 ≤ c.kind.toNat → c.kind.toNat ≤ 4 → c.entry ≤ s.fab.slotAt → c.ready ≤ s.fab.pslot → ∃ t, exec .cellSend s = .next t ∧ t.fab.queue = [] ∧
          t.fab.dest d = { x with
            next := (x.next + 1) % 2 ^ 32,
            unacked := x.unacked ++ [⟨x.next, s.fab.pslot, s.fab.pslot, c, s.fab.slotAt, port * 128 + txLine e + 1, false⟩] } ∧
          (sent t port lane).kind = c.kind ∧ (sent t port lane).seq = BitVec.ofNat 32 x.next ∧ (sent t port lane).dst = BitVec.ofNat 16 d ∧
          (sent t port lane).ack = BitVec.ofNat 32 ((s.fab.source d).next + 2 ^ 32 - 1) ∧
          (sent t port lane).payload = c.data ∧ (sent t port lane).addr = BitVec.ofNat 32 c.addr) ∧
      (s.fab.queue = [] → x.held = false → ∀ u r q, x.unacked = u :: r → x.again = some q → u.seq = q → u.cell.kind ≠ 0 → u.cell.dest = d →
        ∃ t, exec .cellSend s = .next t ∧ (sent t port lane).seq = BitVec.ofNat 32 q ∧ (sent t port lane).payload = u.cell.data ∧
          (t.fab.dest d).again = r.head?.map (·.seq)))) ∧
  (∀ s : State, s.slotEnds = false → s.stim.cell.port < 16 → s.stim.cell.lane < 8 → exec .cellReceive s = .next (s.nextCycle .cellReceive s.stim)) ∧
  (∀ (s : State) (i : Input), s.slotEnds = true → s.stim.cell.port < 16 → s.stim.cell.lane < 8 → s.earlierCell = some i →
    exec .cellReceive s = .next (State.receive { s with inputs := ⟨s.clock, .cellReceive, s.stim⟩ :: s.inputs.erase i, stim := i.stim } i.stim.cell)) ∧
  (∀ s : State, s.slotEnds = true → s.earlierCell = none → s.stim.cell.port < 16 → s.stim.cell.lane < 8 → s.stim.value = 1 →
    s.stim.cell.cell.dst.toNat % 4096 ≠ s.fab.self → exec .cellReceive s = .next (s.forward s.stim.cell)) ∧
  (∀ s : State, s.slotEnds = true → s.earlierCell = none → s.stim.cell.port < 12 → s.stim.cell.lane < 8 → s.stim.value ≠ 1 → SMap.wf Source.init s.fab.srcs = true →
    let a := s.stim.cell
    let c := a.cell
    let e := bankEntry s.fab.slots a.port a.lane s.fab.pslot
    let src := c.src.toNat % 4096
    let x := s.fab.source src
    let good := c.payload ≠ [] ∧ ∀ i, i < c.payload.length → s.postedOk (c.addr.toNat + i) = true
    (rxEn e = false → exec .cellReceive s = .next s) ∧
    (rxEn e = true → a.fecOk = false → ∃ t, exec .cellReceive s = .next t ∧ t.memPend = s.memPend ∧ t.fab.srcs = s.fab.srcs ∧
      (SMap.get 0 t.fab.log s.fab.logHead).toNat % 8 = 6 ∧ t.fab.logHead = (s.fab.logHead + 1) % 64) ∧
    (rxEn e = true → rxRelay e = false → a.fecOk = true → c.kind = 1 → c.op = 0 → c.dst.toNat % 4096 = s.fab.self → src / 64 = s.fab.pod → c.payload.length ≤ 512 →
      (s.fab.dest src).unacked = [] → (s.fab.dest src).undecided = [] → x.held = [] →
      (c.seq.toNat = x.next → good → cleanArrays s → ∃ t, exec .cellReceive s = .next t ∧ t.memPend = s.memPend ++ [nowWrite s (bytesAt (nearBase + c.addr.toNat) c.payload)] ∧
        t.fab.source src = { x with next := (x.next + 1) % 2 ^ 32 }) ∧
      (c.seq.toNat = x.next → c.payload ≠ [] → (∃ i, i < c.payload.length ∧ s.postedOk (c.addr.toNat + i) = false) →
        ∃ t, exec .cellReceive s = .next t ∧ t.memPend = s.memPend ∧ t.fab.source src = { x with next := (x.next + 1) % 2 ^ 32, refused := x.refused ++ [c.seq.toNat] }) ∧
      (255 < counterDiff c.seq.toNat x.next → ∃ t, exec .cellReceive s = .next t ∧ t.memPend = s.memPend ∧ t.fab.source src = x))) ∧
  (∀ s : State, s.stim.unit < 64 → SMap.wf Dest.init s.fab.dests = true →
    let p := s.stim.unit
    let d := s.fab.pod * 64 + p
    (p = s.fab.pkg → exec .peerLeft s = .next s) ∧
    (p ≠ s.fab.pkg → ∃ t, exec .peerLeft s = .next t ∧ t.fab.livePeers = s.fab.livePeers &&& ~~~(BitVec.ofNat 64 (2 ^ p)) ∧
      (∀ c ∈ t.fab.queue, c.dest = d → c.kind = 4) ∧ (t.fab.dest d).unacked = (s.fab.dest d).unacked.filter (fun u => u.cell.dest != d || u.cell.kind == 4) ∧
      (s.jrn.valid = true → s.jrn.partner = p → planned t s.clock .partnerLost))) ∧
  (∀ (ev : Instr) (cause : BitVec 8) (s : State), (ev = .lineDrift ∧ cause = 0x21 ∨ ev = .lineFailure ∧ cause = 0x22) → s.stim.unit < 16 → s.stim.index < 72 →
    let port := s.stim.unit
    let line := s.stim.index
    let d := s.fab.pod * 64 + (s.fab.pkg + line % 64) % 64
    let v := s.stim.value.toNat
    let now := v + 1 = s.fab.pslot ∧ s.fab.slotAt = s.clock
    let passed (t : State) : Prop := ∀ n, (t.fab.dest n).unacked = lostCells port line v (s.fab.dest n).unacked
    (s.fab.pslot ≤ v → exec ev s = .next (s.nextCycle ev s.stim)) ∧
    (v < s.fab.pslot → ¬now → exec ev s = .next (s.nextCycle ev { s.stim with value := BitVec.ofNat 64 s.fab.pslot })) ∧
    (now → (12 ≤ port ∨ line % 64 = 0 ∨ s.fab.serves port line = false) →
      ∃ t, exec ev s = .next t ∧ (port, line) ∈ t.fab.faulty ∧ passed t ∧ (∀ n, (t.fab.dest n).held = (s.fab.dest n).held) ∧ t.agenda = s.agenda) ∧
    (now → port < 12 → line % 64 ≠ 0 → s.fab.serves port line = true →
      ∃ t, exec ev s = .next t ∧ (port, line) ∈ t.fab.faulty ∧ passed t ∧ (t.fab.dest d).held = true ∧
      ∀ b, b ∈ s.binds.map (·.1) → (s.launch b).st = 3 → (∃ c ∈ s.fab.queue, c.dest = d ∧ c.bind = some b) → planned t s.clock (.freeze ⟨b, cause, BitVec.ofNat 8 port, false⟩))) ∧
  (∀ s : State, s.stim.unit < 16 → s.stim.index < 72 →
    ((s.stim.unit, s.stim.index) ∈ s.fab.failed → exec .lineRelock s = .next s) ∧
    ((s.stim.unit, s.stim.index) ∉ s.fab.failed →
      ∃ t, exec .lineRelock s = .next t ∧ ∀ x, x ∈ t.fab.faulty ↔ x ∈ s.fab.faulty ∧ x ≠ (s.stim.unit, s.stim.index))) ∧
  (∀ (d : Nat) (s : State), d < 4096 →
    let x := s.fab.dest d
    (x.unacked = [] → exec (.retransmit d) s = .next s) ∧
    (∀ u r, x.unacked = u :: r →
      (x.again = none → u.slot + 128 ≤ s.fab.pslot → exec (.retransmit d) s = .next (s.setDest d { x with again := some u.seq })) ∧
      ((x.again ≠ none ∨ s.fab.pslot < u.slot + 128) → exec (.retransmit d) s = .next s))) ∧
  (∀ (op : Nat) (s : State),
    (s.fab.find op = none → exec (.collectiveCell op) s = .next s) ∧
    (∀ x, s.fab.find op = some x → ∃ t, exec (.collectiveCell op) s = .next t ∧
      t.fab.queue = s.fab.queue ++ (x.todo.filter fun c => x.heard.contains (c.dest % 64)).map (fun c => { c with entry := s.clock }) ∧
      t.fab.find op = some { x with todo := x.todo.filter fun c => !x.heard.contains (c.dest % 64) })) ∧
  (∀ s : State,
    let p := s.stim.patch
    (patchAllowed s p → ∃ t, exec .repairPatch s = .next t ∧ t.fab.slots = s.fab.slots ∧
      t.fab.patches = s.fab.patches ++ [⟨p, true, s.fab.targets p, [], false, false, false⟩] ∧
      (∀ q ∈ s.fab.targets p, q ≠ s.fab.pkg → ∃ c ∈ t.fab.queue, c.dest = s.fab.pod * 64 + q ∧ c.kind = 5 ∧ c.data.take 20 = patchBytes p) ∧
      (s.fab.pkg ∈ s.fab.targets p → ∃ i ∈ t.inputs, i.at_ = s.clock ∧ i.ev = .patchReceive ∧ i.stim.patch = p)) ∧
    (¬patchAllowed s p → exec .repairPatch s = .next s) ∧
    ((s.fab.refusesPatch p = true ∨ s.fab.pkg ∉ s.fab.targets p) → exec .patchReceive s = .next s) ∧
    (s.fab.refusesPatch p = false → s.fab.pkg ∈ s.fab.targets p → ∃ t, exec .patchReceive s = .next t ∧ t.fab.slots = s.fab.slots ∧
      (∃ x ∈ t.fab.patches, x.patch = p ∧ x.pending = true) ∧
      (p.home.toNat ≠ s.fab.pkg → ∃ c ∈ t.fab.queue, c.dest = s.fab.pod * 64 + p.home.toNat % 64 ∧ c.kind = 5 ∧ c.data = patchBytes p))) ∧
  (∀ (p : Patch) (s : State),
    let late (x : PatchState) : Bool := x.atHome && x.patch == p && !x.missing.isEmpty
    let live (n : Nat) : Prop := s.fab.livePeers.getLsbD n = true
    ((∀ x ∈ s.fab.patches, late x = false) → exec (.patchAckDeadline p) s = .next s) ∧
    (∀ x, s.fab.patches.find? late = some x →
      (s.fab.pslot + 128 < p.patchSlot.toNat → exec (.patchAckDeadline p) s = .next s) ∧
      (p.patchSlot.toNat ≤ s.fab.pslot + 128 → (s.ctl 1).window = true → ∃ t, exec (.patchAckDeadline p) s = .next t ∧
        planned t (s.clock + 1) (.patchAckDeadline p) ∧ ∃ y ∈ t.fab.patches, y.patch = p ∧ y.atHome = true ∧ y.cancelled = true ∧ y.pending = false) ∧
      (p.patchSlot.toNat ≤ s.fab.pslot + 128 → (s.ctl 1).window = false → s.fab.pslot < 2 ^ 63 → live p.sender.toNat → live p.dest.toNat → p.kind ≠ 2 →
        ∃ t, exec (.patchAckDeadline p) s = .next t ∧ (∀ y ∈ t.fab.patches, y ∈ s.fab.patches → y.patch = p → y.applied = true) ∧
          ((∀ n ∈ x.missing, n ∉ x.missed) → ∃ y ∈ t.fab.patches, y.atHome = true ∧ y.missed = x.missed ++ x.missing ∧
            y.patch = { p with patchSlot := BitVec.ofNat 64 ((s.fab.pslot + 575) / 64 * 64) }) ∧
          ((∃ n ∈ x.missing, n ∈ x.missed) → t.fab.patches = s.fab.patches.filter fun y => !(y.patch == p && !y.applied))))) ∧
  (∀ (p : Patch) (s : State), SMap.wf Dest.init s.fab.dests = true → SMap.wf 0 s.fab.versions = true →
    let waits (x : PatchState) : Bool := x.pending && x.patch == p
    let w := p.line.toNat % 64
    let d := s.fab.pod * 64 + p.dest.toNat
    ((∀ x ∈ s.fab.patches, waits x = false) → exec (.patchSwitch p) s = .next s) ∧
    (s.fab.pslot < p.patchSlot.toNat → exec (.patchSwitch p) s = .next s) ∧
    ((∃ x ∈ s.fab.patches, waits x = true) → p.patchSlot.toNat ≤ s.fab.pslot → p.kind = 1 → p.sender.toNat = s.fab.pkg → p.dest.toNat ≠ s.fab.pkg →
      ∃ t, exec (.patchSwitch p) s = .next t ∧ t.mem = s.mem ∧
        (∀ lane slot, lane < 8 → slot < 64 →
          let a := bankEntry s.fab.slots p.port.toNat lane slot
          let b := bankEntry t.fab.slots p.port.toNat lane slot
          (txLine a = w → txLine b = 64 + w ∧ txEn b = txEn a ∧ rxLine b = rxLine a ∧ rxEn b = rxEn a ∧ txClass b = txClass a) ∧ (txLine a ≠ w → b = a)) ∧
        (∀ lane, lane < 8 → SMap.get 0 t.fab.versions (laneKey p.port.toNat lane) =
          if (List.range 64).any fun slot => txLine (bankEntry s.fab.slots p.port.toNat lane slot) == w
          then (SMap.get 0 s.fab.versions (laneKey p.port.toNat lane) + 1) % 2 ^ 32 else SMap.get 0 s.fab.versions (laneKey p.port.toNat lane)) ∧
        (s.fab.faulty = [] → (s.fab.dest d).held = true →
          t.fab.dest d = { s.fab.dest d with held := false, again := (s.fab.dest d).unacked.head?.map (·.seq) })))

/-- R389 to R401: the journal's steps: a record takes its place and goes to the shadow ring; the partner's acknowledgement; emission; the loss of a partner and its
replacement; the replay extract.

The model's own: the OP codes and data of journal cells (log 14); when a copy and an extract are complete and where they lie (log 28); what Vesper and the partner do
comes as events of the outside (log 41). -/
def Obligations.JournalEvents : Prop :=
  (∀ s : State,
    (s.jrn.jrnls = [] → exec .journalRecord s = .next s) ∧
    (∀ id rest, s.jrn.jrnls = id :: rest → s.cmd id = none → exec .journalRecord s = .next (s.setJrn { s.jrn with jrnls := rest })) ∧
    (∀ id rest k, s.jrn.jrnls = id :: rest → s.cmd id = some k → Desc.field k.block 31 1 ≠ 1 →
      let j := s.jrn
      let d := k.block
      let n := Desc.field d 28 2
      let len := recLen n
      let src := Desc.field d 32 5
      j.shadow ≠ 0 → j.wcur % 2 ^ 28 + len ≤ 2 ^ 28 →
      (2 ^ 28 < j.wcur + len - j.tcur → exec .journalRecord s = .next s) ∧
      (j.wcur + len - j.tcur ≤ 2 ^ 28 → cleanArrays s → (∀ i, i < n → s.inSlice (src + i) = true) →
        let body := s.recordHeader k len 0 ++ (List.range n).map (fun i => s.nearByte (src + i)) ++ List.replicate (len - 64 - n) 0
        ∃ t, exec .journalRecord s = .next t ∧ t.jrn.wcur = j.wcur + len ∧ t.jrn.recno = j.recno + 1 ∧ t.jrn.jrnls = rest ∧ t.jrn.tcur = j.tcur ∧ t.jrn.acur = j.acur ∧
          t.jrn.recs = j.recs ++ [⟨j.wcur, len, 1, j.recno, Desc.field d 0 8, Desc.field d 8 4, Desc.field d 12 4, 0, 0, k.core, k.bno, k.id, (k.launch s).lid⟩] ∧
          t.memPend = s.memPend ++ [nowWrite s (body.zipIdx.map fun b => (j.shadow + (j.wcur + b.2) % 2 ^ 28, b.1))])) ∧
    (∀ id rest k, s.jrn.jrnls = id :: rest → s.cmd id = some k → Desc.field k.block 31 1 ≠ 1 →
      let j := s.jrn
      let d := k.block
      let n := Desc.field d 28 2
      let len := recLen n
      let src := Desc.field d 32 5
      let gap := 2 ^ 28 - j.wcur % 2 ^ 28
      let pad : Rec := ⟨j.wcur, gap, 0, 0, 0, 0, 0, 0, 0, 0, 0, 0, 0⟩
      let padWrite := nowWrite s ((leBytes 28 0 ++ leBytes 2 gap ++ leBytes 34 0).zipIdx.map fun b => (j.shadow + (j.wcur + b.2) % 2 ^ 28, b.1))
      j.shadow ≠ 0 → 2 ^ 28 < j.wcur % 2 ^ 28 + len →
      (2 ^ 28 < j.wcur + gap + len - j.tcur → ∃ t, exec .journalRecord s = .next t ∧ t.jrn = { j with wcur := j.wcur + gap, recs := j.recs ++ [pad] } ∧
        t.memPend = s.memPend ++ [padWrite]) ∧
      (j.wcur + gap + len - j.tcur ≤ 2 ^ 28 → cleanArrays s → (∀ i, i < n → s.inSlice (src + i) = true) →
        ∃ t w r, exec .journalRecord s = .next t ∧ t.jrn.wcur = j.wcur + gap + len ∧ t.jrn.recno = j.recno + 1 ∧ t.jrn.jrnls = rest ∧
          t.jrn.recs = j.recs ++ [pad, r] ∧ r.at_ = j.wcur + gap ∧ r.len = len ∧ r.kind = 1 ∧ r.recno = j.recno ∧ r.cmd = k.id ∧
          t.memPend = s.memPend ++ [padWrite, w]))) ∧
  (∀ (e : Nat) (s : State), ∃ t, exec (.journalAck e) s = .next t ∧ t.jrn.acur = min s.jrn.wcur (max s.jrn.acur e) ∧ t.memPend = s.memPend ∧
    ∀ r ∈ s.jrn.recs, r.cmd ≠ 0 → r.at_ + r.len ≤ t.jrn.acur → planned t s.clock (.untimedComplete r.cmd)) ∧
  (∀ (op : Nat) (s : State),
    ((op ∉ s.jrn.emits ∨ s.emitReady op = false) → exec (.emissionRelease op) s = .next s) ∧
    (∀ k, op ∈ s.jrn.emits → s.emitReady op = true → s.cmd op = some k →
      let d := k.block
      let r := s.emitRecord k
      let payload := leBytes 8 (Desc.field d 8 8) ++ leBytes 4 (Desc.field d 16 4) ++ leBytes 4 (Desc.field d 20 4) ++ leBytes 4 s.jrn.inst ++
        leBytes 1 ((r.map (·.cls)).getD 0) ++ leBytes 35 (Desc.field d 24 35)
      ∃ t, exec (.emissionRelease op) s = .next t ∧ op ∉ t.jrn.emits ∧ told s t 0x85 (s.prioFlag k.bind) (2 ^ 31 + k.bind.getD 0 * 2 ^ 32) payload (2 ^ 31) ∧
        ((r = none ∨ ∃ x, r = some x ∧ x.at_ < s.jrn.tcur) → planned t s.clock (.untimedComplete op) ∧ t.memPend = s.memPend) ∧
        (∀ x, r = some x → s.jrn.tcur ≤ x.at_ → t.memPend = s.memPend ++ [nowWrite s ((leBytes 4 s.nextSeq).zipIdx.map fun b => (s.jrn.shadow + (x.at_ + 56 + b.2) % 2 ^ 28, b.1))]))) ∧
  (∀ s : State,
    ((s.jrn.lostPartner = true ∨ s.jrn.valid = false) → exec .partnerLost s = .next s) ∧
    (s.jrn.lostPartner = false → s.jrn.valid = true → ∃ t, exec .partnerLost s = .next t ∧ t.jrn = { s.jrn with lostPartner := true } ∧
      (s.linkUp = true → told s t 0x87 0 0x24 (List.replicate 16 0) 0))) ∧
  (∀ s : State,
    let j := s.jrn
    (j.copying = none → s.stim.unit < 64 → s.stim.unit ≠ s.fab.pkg → s.fab.livePeers.getLsbD s.stim.unit = false → exec .partnerRestore s = .next s) ∧
    (j.copying = none → s.stim.unit < 64 → s.stim.unit ≠ s.fab.pkg → s.fab.livePeers.getLsbD s.stim.unit = true → ∃ t, exec .partnerRestore s = .next t ∧ t.jrn = { j with copying := some (s.stim.unit, j.wcur) } ∧
      ∃ c ∈ t.fab.queue, c.dest = s.fab.pod * 64 + s.stim.unit ∧ c.kind = 4 ∧ c.op = 5 ∧ c.data = leBytes 8 j.wcur ++ leBytes 8 j.tcur) ∧
    (j.copying = none → (64 ≤ s.stim.unit ∨ s.stim.unit = s.fab.pkg) → exec .partnerRestore s = .fault .noSuchUnit) ∧
    (∀ q e, j.copying = some (q, e) → s.fab.copyOpen q = true → exec .partnerRestore s = .next s) ∧
    (∀ q e, j.copying = some (q, e) → s.fab.copyOpen q = false → ∃ t, exec .partnerRestore s = .next t ∧ t.jrn.partner = q ∧ t.jrn.valid = true ∧ t.jrn.lostPartner = false ∧
      t.jrn.inst = (j.inst + 1) % 2 ^ 32 ∧ t.jrn.acur = max j.acur e ∧ t.jrn.copying = none ∧ t.jrn.wcur = j.wcur ∧ t.jrn.tcur = j.tcur ∧
      ∀ r ∈ j.recs, r.cmd ≠ 0 → r.at_ + r.len ≤ e → planned t s.clock (.untimedComplete r.cmd))) ∧
  (∀ s : State, s.stim.unit < 64 → s.stim.index < 64 → s.stim.index ≠ s.fab.pkg → exec .replayExtract s = .next (s.handRing s.stim.unit s.stim.index)) ∧
  (∀ s : State, s.stim.unit < 64 → s.stim.index < 64 → s.stim.index = s.fab.pkg →
    let at_ := s.stim.value.toNat % 2 ^ 39 / 64 * 64
    ∃ t bytes inst n, (SMap.get Ring.init s.jrn.rings s.stim.unit).inst ≤ inst ∧ exec .replayExtract s = .next t ∧ t.memPend = s.memPend ++ [nowWrite s (bytesAt at_ bytes)] ∧
      bytes.take 64 = leBytes 6 s.stim.unit ++ leBytes 6 s.fab.pod ++ leBytes 4 inst ++ leBytes 4 n ++ leBytes 44 0 ∧
      SMap.get (0, 0) t.jrn.extracts s.stim.unit = (at_, bytes.length) ∧
      (s.linkUp = true → told s t 0x87 0 0x25 (leBytes 8 at_ ++ leBytes 4 bytes.length ++ leBytes 1 s.stim.unit ++ leBytes 1 s.fab.pod ++ leBytes 1 s.fab.pkg ++ leBytes 1 0) 0))

/-! Where the instructions of the A, L, M and E slots and the steps of launches complete -/

namespace Sys2Proof.Claim

/-- The issuing core runs outside strict mode and declares no buffer (R143, R145): no check of its own slice refuses an access. -/
def plainCore (s : State) : Prop := s.cur.bufs = [] ∧ s.strict s.ix.core = false

/-- Byte a lies in the own slice (R142, R258). -/
def ownByte (s : State) (a : Nat) : Prop := a < 2 ^ 32 ∧ coreOfAddr a = some s.ix.core

/-- A legal stream with a raw base (R129, R130). -/
def rawStream (d : Desc) : Prop := Desc.useOk d = true ∧ Desc.kind d = 0 ∧ Desc.bufMode d = false

/-- The address an L-slot instruction starts from (R148): its scalar, or its stream, plus the offset. -/
def lAddr (s : State) (o : LOps) (off : Int) : Nat :=
  unsignedOf 64 ((if o.mode then ((s.cur.sreg o.scalar).toNat : Int) else s.streamAddr s.ix.core (s.cur.greg o.stream)) + off)

/-- The first selected byte of a part that is out of range (R143). -/
def outOf (s : State) (p : Part) : Option (Nat × Bool) :=
  ((p.bytes.filter (·.2)).find? fun b => !partIn s none p b.1).map fun b => (b.1, p.write)

end Sys2Proof.Claim

/-- R136 to R139, R148 to R155, R177 to R191, R192 to R195, R204, R205, R229, R303 to R323: where the instructions of the A, L, M and E slots and the steps of launches complete,
each with its own effect: streams always; accesses to the own slice outside strict mode with no buffer declared; a free matrix engine and raw streams;
commands whose block lies in the own slice, in time and with room in their queue; a launch on an idle package, without ranges, and its stages. -/
def Obligations.NormalCompletion : Prop :=
  (∀ (g f : BitVec 4) (l2 : BitVec 2) (sa : BitVec 5) (off : BitVec 11) (s : State),
     let n := s.ix.core
     let ea := (s.cur.sreg sa + BitVec.ofInt 64 (64 * off.toInt)).toNat / 64 * 64
     let all (write : Bool) : Part := ⟨ea, (List.range 64).map fun i => (ea + i, true), write, 1⟩
     (∀ l : BitVec 3, exec (.gset g f l) s =
       .next (s.addWrite (.g g (.field f (BitVec.ofNat 64 (if f = 2 then s.lit l.toNat + 2 ^ 32 * s.lit (l.toNat + 1) else s.lit l.toNat)))) 1)) ∧
     exec (.gsets g f sa) s = .next (s.addWrite (.g g (.field f (s.cur.sreg sa))) 1) ∧
     (∀ (c : Bool) (k : BitVec 16), exec (.gadv g c l2 k) s = .next (s.addWrite (.g g (.adv l2.toNat k.toInt c)) 1)) ∧
     exec (.grst g) s = .next (s.addWrite (.g g .rst) 1) ∧
     (∀ v : BitVec 16, exec (.gpos g l2 v) s = .next (s.addWrite (.g g (.pos l2.toNat v.toNat)) 1)) ∧
     (∀ b : BitVec 3, exec (.gmap g l2 b) s = .next (s.addWrite (.g g (.map l2.toNat b)) 1)) ∧
     (plainCore s → ownByte s ea →
       (∃ t, exec (.gld g sa off) s = .next t ∧
         LoadEffect s t (.g g (.load (BitVec.ofNat 512 (laneAt s none (all false) ea 64 0)))) (s.rowLat n n) 0 (outOf s (all false))) ∧
       ∃ t, exec (.gst g sa off) s = .next t ∧
         StoreEffect s t [(partAddrs s none (all true)).map fun a => (nearBase + a, (s.cur.greg g).extractLsb' (8 * (a - ea)) 8)] (s.clock + s.rowLat n n)
           (s.clock + s.bankLat n n) [] (outOf s (all true)))) ∧
  (∀ (o : LOps) (s : State), plainCore s → o.mode = true ∨ rawStream (s.cur.greg o.stream) →
     let n := s.ix.core
     let view := (o.mod.extractLsb' 0 3).toNat
     let w := viewBytes o
     let row := s.cur.row o.row.toNat
     let d := s.cur.greg o.stream
     let ea := lAddr s o o.off.toInt
     let lat := s.rowLat n n
     let bank := s.clock + s.bankLat n n
     let a := ea / 64 * 64
     let p (write : Bool) := rowPart s o a write
     let b := ea / w * w
     let q : Part := ⟨b, (List.range w).map fun i => (b + i, !(lLanes s o).isEmpty), false, 1⟩
     (ownByte s a →
       (w * viewLanes view = 512 → ∃ t, exec (.vld o) s = .next t ∧
         LoadEffect s t (laneWrite o.row view ((lLanes s o).map fun i => (i, laneAt s none (p false) a w i))) lat 0 (outOf s (p false))) ∧
       ∃ t, exec (.vst o) s = .next t ∧ StoreEffect s t [vstData s o none a] (s.clock + lat) bank [] (outOf s (p true))) ∧
     (ownByte s b → ∃ t, exec (.vldb o) s = .next t ∧
       LoadEffect s t (laneWrite o.row view ((lLanes s o).map fun i => (i, laneAt s none q b w 0))) lat 0 (outOf s q)) ∧
     (ownByte s ea → fmtBlock (Desc.fmt d) = 0 → Desc.banded d = false →
       let r : ElemRun := ⟨d, s.streamBase n d, ea, none⟩
       let part (write : Bool) : Part := (r.parts (viewLanes view) (lMask s o) write).headD ⟨ea, [], write, 1⟩
       (∃ t, exec (.vlda o) s = .next t ∧
         LoadEffect s t (laneWrite o.row view ((lLanes s o).map fun i => (i, (vldaLane s o r i).1))) (lat + 2)
           ((lLanes s o).foldl (fun f i => f ||| (vldaLane s o r i).2) 0) (outOf s (part false))) ∧
       ∃ t, exec (.vsta o) s = .next t ∧ StoreEffect s t (vstaData s o r) (s.clock + lat + 2) (bank + 2)
         [inFlight s .none (lat + 2) (vstaOut s o r).2.2 s.nextId] (outOf s (part true))) ∧
     (let lanes := laneAddrs s o (lAddr s o (o.off.extractLsb' 0 13).toInt) none
      let long := (if coreUpper n then 14 else 16) + (if s.half n then 8 else 0)
      let out (write : Bool) := ((lanes.filter fun l => !l.2.2).head?).map fun l => (l.2.1, write)
      (∃ t, exec (.vgth o) s = .next t ∧
        LoadEffect s t (laneWrite o.row view (lanes.map fun l =>
          (l.1, if l.2.2 then leNat ((List.range w).map fun k => s.nearByte (l.2.1 + k)) else 0))) long 0 (out false)) ∧
      ∃ t, exec (.vsct o) s = .next t ∧
        StoreEffect s t [vsctData s o (lAddr s o (o.off.extractLsb' 0 13).toInt) none] (s.clock + long) (s.clock + long - (if s.half n then 1 else 3)) []
          (out true)) ∧
     (let v := if o.mod.getLsbD 4 || (o.mod.extractLsb' 0 4) == 1 then 8 else 4
      let c := ea / v * v
      let m := leNat ((List.range v).map fun i => s.nearByte (c + i))
      let r := atomApply (o.mod.extractLsb' 0 4).toNat (o.mod.getLsbD 4) m ((row.extractLsb' 0 64).toNat % 2 ^ (8 * v)) ((row.extractLsb' 64 64).toNat % 2 ^ (8 * v))
      ownByte s c → (∀ i, i < v → s.byteIn c none (c + i) = true) → ∃ t, exec (.atom o) s = .next t ∧
        t.cur.pend = s.cur.pend ++ [inFlight s (laneWrite o.row 0 [(0, m), (1, if r.2.1 then 1 else 0)]) lat r.2.2 s.nextId] ∧
        t.memPend = s.memPend ++ [⟨s.clock + lat, bank, s.nextId, n, (List.range v).map fun k => (nearBase + (c + k), BitVec.ofNat 8 (r.1 / 2 ^ (8 * k)))⟩] ∧
        ∃ x, t.accs = s.accs ++ [x] ∧ x.atom = true ∧ x.op = s.nextId ∧ x.cycle = bank ∧ x.target = n ∧ x.write = true ∧
          x.bytes = (List.range v).map (c + ·))) ∧
  (∀ (o : MOps) (s : State), plainCore s → s.cur.mBusyUntil ≤ s.clock →
     let n := s.ix.core
     let a := s.cur.greg o.sa
     let b := if o.rb then ((s.cur.panel).map (·.desc)).getD (s.cur.greg o.sb) else s.cur.greg o.sb
     let g := s.cur.greg o.sb
     let k := o.k.toNat
     let half := s.half n
     let gap := if half then 16 else 8
     let steps := ceilDiv k (min (fmtKc (Desc.fmt a)) (fmtKc (Desc.fmt b)))
     let pre := ceilDiv k (fmtKc (Desc.fmt g))
     let asB (d : Desc) : Prop := rawStream d ∧ (o.tb = true → Desc.fmt d < 12 ∧ Desc.band d = false)
     let integers (d : Desc) : Prop := 8 ≤ Desc.fmt d ∧ Desc.fmt d ≤ 11 ∧ Desc.band d = false
     let rows (write : Bool) : Prop := ∃ t, exec (if write then .msave o else .mload o) s = .next t ∧ (∀ b, memByte t.mem b = memByte s.mem b) ∧
       t.cur.rows = s.cur.rows ∧ ∃ base, s.clock ≤ base ∧ (write = false → base = s.clock) ∧
         ∀ j, j < (if half then 128 else 64) → planned t (base + (if half then 6 else 4) + j) (.msaveRowClaim n s.nextId (if half then j else 2 * j))
     (∃ t m, exec (.mzero o) s = .next t ∧ Entered s t (.mzero o) 1 (s.clock + 2) [] (tiles o.cp o.tile) m) ∧
     (∃ t m, exec (.mfold o) s = .next t ∧ Entered s t (.mfold o) 16 (s.clock + 24) (tiles true o.ti) [o.tile.toNat] m) ∧
     (∃ t m, exec (.mtrn o) s = .next t ∧ Entered s t (.mtrn o) 16 (s.clock + 24) (tiles o.cp o.ti) (tiles o.cp o.tile) m) ∧
     (Desc.useOk a = true → Desc.bufMode a = false → (o.rb = false → asB b) → (o.rb = true → ∃ x, s.cur.panel = some x ∧ k ≤ x.k) →
       (o.int = true → integers a ∧ integers b) →
       ∃ t m, exec (.mma o) s = .next t ∧ Entered s t (.mma o) (gap * steps) (s.clock + gap * steps + 22)
         (if o.zi then [] else tiles o.cp (if o.it then o.ti else o.tile)) (tiles o.cp o.tile) m ∧
         ∀ j, j < steps → planned t (s.clock + 2 + gap * j) (.mmaOperandClaim n m.id j false)) ∧
     (asB g → k ≤ panelDepth (Desc.fmt g) →
       ∃ t m, exec (.mpre o) s = .next t ∧ Entered s t (.mpre o) (gap / 2 * pre) (s.clock + gap / 2 * pre) [] [] m ∧
         t.cur.panel = some ⟨m.id, k, o.tb, g, []⟩ ∧ ∀ j, j < pre → planned t (s.clock + 2 + gap / 2 * j) (.mmaOperandClaim n m.id j true)) ∧
     (rawStream a → Desc.rpitch a % 64 = 0 → rows true ∧ rows false)) ∧
  (∀ (o : EOps) (s : State), exec (.cseal o) s = .next (s.closeBatch s.ix.core o.ctx) ∧
     (s.strict s.ix.core = false → (∀ k, (s.core k).bufs = []) → ∀ x ∈ engineTable o,
       let n := s.ix.core
       let a := (s.cur.sreg o.sd).toNat
       let wait := (o.start.toNat + 2 ^ 24 - (s.cur.tcyc + 8) % 2 ^ 24) % 2 ^ 24
       let code := (o.low.extractLsb' 20 4).toNat
       a % 64 = 0 → ownByte s a → (x.2.1 = true → wait < 2 ^ 23 ∧ s.cur.run ≠ .held) → (x.2.1 = false → s.queued n o.ctx < 64) →
       (x.1 = .amo o ∨ x.1 = .amof o → x.2.1 = false → code = 2 ∨ code = 3 → ∀ i, s.imageOf n = some i → i.determ = false) →
       ∃ t k, exec x.1 s = .next t ∧ k ∈ t.cmds ∧ k.id = s.nextId ∧ k.core = n ∧ k.instr = x.1 ∧ k.ctx = o.ctx.toNat ∧ k.timed = x.2.1 ∧
         k.stage = .issued ∧ k.issued = s.clock ∧ (x.2.1 = true → k.tS = s.cur.tcyc + 8 + wait) ∧
         (t.cur.ctxAt o.ctx).cur.members = (s.cur.ctxAt o.ctx).cur.members + (if x.2.1 then 0 else 1) ∧
         planned t (s.clock + s.bankLat n n) (.blockCapture n s.nextId))) ∧
  (∀ (slot addr len : Nat) (s : State), slot < 256 → (s.ctl 3).window = false → addr + len ≤ 2 ^ 39 → (⟨memBytes s.mem addr len⟩ : Image).ok = true →
     (∀ q ∈ s.queues, ∀ w ∈ q.2.words, w.image ≠ slot) → (∀ l ∈ s.launches, l.st = 0 ∨ l.image ≠ slot) →
     exec (.imageLoad slot addr len) s = .next { s with images := SMap.put ⟨[]⟩ s.images slot ⟨memBytes s.mem addr len⟩ }) ∧
  (∀ (q n : Nat) (w : Word) (s : State) (i : Image), q < 64 →
     let v := w.toNat
     let x := s.queue q
     bitsOf v 62 2 = 0 → bitsOf v 16 6 = q → bitsOf v 22 1 = 0 → bitsOf v 23 13 = 0 → x.enabled = true → x.words.length < 8 →
     s.imageAt (bitsOf v 0 8) = some i → bitsOf v 8 8 < i.svecs.length → (i.cutMax ≤ 100000 ∨ x.prio ≠ 0) →
     bitsOf v 36 26 * 64 + Config.paramLength (i.section 9) (bitsOf v 8 8) ≤ Config.arenaBytes → s.badWords = [] →
     ∃ t y, exec (.launchWord q w (.core n)) s = .next t ∧ (t.queue q).words = x.words ++ [y] ∧ (t.queue q).lastCode = 0 ∧ y.lid = s.nextLid ∧
       y.image = bitsOf v 0 8 ∧ y.svec = bitsOf v 8 8 ∧ planned t s.clock .bindDecision) ∧
  (∀ (q : Nat) (s : State), q < 64 →
     let x := s.queue q
     x.words ≠ [] → ∃ t, exec (.queueAgeing q) s = .next t ∧ (t.queue q).words = x.words ∧ (t.queue q).level =
       (if x.age = 0 ∨ x.prio ≤ 1 then x.prio else max 1 (x.prio - (s.wall - x.headWall) / (x.age * microsecond)))) ∧
  (∀ (q : Nat) (w : QWord) (s : State) (i : Image), q < 64 → Canon s → SMap.wf Queue.init s.queues = true →
     (s.ctl 0).window = false → s.graphs = [] → (∀ l ∈ s.launches, l.st = 0) → (∀ k, (s.core k).bind = none) →
     (s.queue q).words = [w] → (∀ k, k ≠ q → (s.queue k).words = []) → w.resume = none → w.graph = none → s.imageAt w.image = some i →
     (i.cutMax ≤ 100000 ∨ (s.queue q).prio ≠ 0) → (∀ e ∈ i.entries w.svec, (s.core e.core).bus.wstate ≠ 2 ∧ (s.core e.core).lent = e.lend) →
     ∃ t, exec .bindDecision s = .next t ∧ (t.launch 0).st = 1 ∧ (t.launch 0).lid = w.lid ∧ (t.launch 0).image = w.image ∧ (t.launch 0).svec = w.svec ∧
       (∀ e ∈ i.entries w.svec, e.core < 768 → (t.core e.core).bind = some 0 ∧ (t.core e.core).run = .waiting) ∧
       ∃ e ∈ t.agenda, s.clock < e.at_ ∧ e.ev = .dispatch 0) ∧
  (∀ (b : Nat) (s : State) (i : Image), b < 64 → Canon s →
     let l := s.launch b
     l.bind = b → s.imageAt l.image = some i →
     let es := i.entries l.svec
     let due (x : Stop) : Prop := l.stop = some x ∧ x.stopped = true ∧ (l.st = 3 ∨ l.st = 4) ∧ l.ending = none
     ((l.st = 1 ∨ l.st = 2) → l.waiting = true → l.resume = false → l.half = false → l.cores = ((List.range 768).filter fun n => es.any fun e => e.core == n) →
       (∀ e ∈ es, (s.core e.core).gate = .on ∧ (s.core e.core).lent = e.lend) → (es.map (·.core)).Nodup → (∀ k ∈ l.tasks, i.taskRanges k = []) → s.badWords = [] →
       ∃ t, exec (.dispatch b) s = .next t ∧ (t.launch b).st = 2 ∧ (t.launch b).waiting = false ∧ ∀ e ∈ es,
         (t.core e.core).run = .waiting ∧ (t.core e.core).bind = some b ∧ (t.core e.core).tcyc = 0 ∧ (t.core e.core).pc = BitVec.ofNat 32 (e.entry % 2 ^ 18)) ∧
     (l.st = 2 → l.waiting = false → l.resume = false → l.ending = none → l.hbm = 0 → (∀ n ∈ l.cores, (s.core n).gate = .on) →
       (∀ n ∈ l.cores, (s.stackAt (coreStack n)).critical = [] ∧ (s.stackAt (coreStack n)).realign = none) →
       ∃ t, exec (.launchStart b) s = .next t ∧ (t.launch b).st = 3 ∧ ∀ n ∈ l.cores, (t.core n).run = .running ∧ (t.core n).tcyc = 0 ∧ (t.core n).nextIssue = s.clock) ∧
     (l.st = 3 → l.stop = none → l.ending = none → (∀ n ∈ l.cores, (s.core n).run = .ended ∧ (s.core n).bind = some b ∧ (s.core n).win = []) → (∀ k ∈ s.cmds, k.bind ≠ some b) →
       ∃ t, exec (.launchComplete b) s = .next t ∧ t.binds = SMap.put Launch.free s.binds b Launch.free ∧
         ∀ n ∈ l.cores, (s.core n).bind = some b → (t.core n).run = .off ∧ (t.core n).bind = none) ∧
     (∀ x, due x → x.kind = .preempt → (∀ m ∈ s.memPend, m.store ∉ l.cores) → s.flips = [] → ∃ t, exec (.preemption b) s = .next t ∧ (t.launch b).st = 5 ∧ (t.launch b).resume = true ∧
       ∀ n ∈ l.cores, (t.core n).bind = none ∧ (t.core n).run = .off) ∧
     ((l.st = 1 ∨ l.st = 2) → l.waiting = true → l.resume = true → (∀ n ∈ l.cores, (s.core n).gate = .on) → (∀ e ∈ es, (s.core e.core).lent = e.lend) →
       (es.map (·.core)).Nodup → s.badWords = [] → (∀ n ∈ l.cores, (s.core n).bus.wstate ≠ 1) →
       ∃ t, exec (.resume b) s = .next t ∧ (t.launch b).st = 2 ∧ (t.launch b).waiting = false ∧
         ∀ e ∈ es, (t.core e.core).bind = some b ∧ (t.core e.core).rows = (SMap.get Core.init (s.restoreCores i l) e.core).rows) ∧
     (∀ x, due x → x.kind = .variant → i.has 7 = true → (∀ n ∈ l.cores, (s.core n).run = .ended ∧ (s.core n).bus.wstate ≠ 2 ∧ Config.variantOf (i.section 7) l.svec n ≠ none) →
       ∃ t, exec (.variantRebind b) s = .next t ∧ (t.launch b).half = true ∧ ∀ n ∈ l.cores, (t.core n).bus.ack = true ∧ (t.core n).bus.degraded = false))
end

