-- ==== Sys2Proof/Laws/Maps.lean ====
section
/-! SUPPORT. Laws of the sparse maps: what a read gives after a write, and that writes, filters and lists of writes keep the canonical form. -/

namespace Sys2Proof.Machine

variable {α : Type}

@[simp] theorem SMap.get_nil (d : α) (n : Nat) : SMap.get d [] n = d := rfl

@[simp] theorem SMap.wfFrom_nil [DecidableEq α] (d : α) (lo : Nat) : SMap.wfFrom d lo [] = true := rfl

theorem SMap.wfFrom_cons [DecidableEq α] (d : α) (lo k : Nat) (v : α) (r : SMap α) :
    SMap.wfFrom d lo ((k, v) :: r) = true ↔ lo ≤ k ∧ v ≠ d ∧ SMap.wfFrom d (k + 1) r = true := by
  simp [SMap.wfFrom, and_assoc]

/-- A lower bound can be lowered. -/
theorem SMap.wfFrom_mono [DecidableEq α] (d : α) {lo hi : Nat} (m : SMap α) (h : lo ≤ hi) (w : SMap.wfFrom d hi m = true) :
    SMap.wfFrom d lo m = true := by
  cases m with
  | nil => rfl
  | cons e r =>
    obtain ⟨k, v⟩ := e
    rw [SMap.wfFrom_cons] at w ⊢
    exact ⟨le_trans h w.1, w.2⟩

/-- Below its first key a canonical map holds nothing. -/
theorem SMap.get_below [DecidableEq α] (d : α) (m : SMap α) {n lo : Nat} (w : SMap.wfFrom d lo m = true) (h : n < lo) : SMap.get d m n = d := by
  cases m with
  | nil => rfl
  | cons e r =>
    obtain ⟨k, v⟩ := e
    rw [SMap.wfFrom_cons] at w
    have h2 : n < k := by omega
    simp [SMap.get, h2, Nat.ne_of_lt h2]

/-- A write keeps the canonical form. -/
theorem SMap.put_wfFrom [DecidableEq α] (d : α) (m : SMap α) (n : Nat) (v : α) {lo : Nat} (h : lo ≤ n) (w : SMap.wfFrom d lo m = true) :
    SMap.wfFrom d lo (SMap.put d m n v) = true := by
  induction m generalizing lo with
  | nil =>
    unfold SMap.put
    split
    · rfl
    · rename_i hv; rw [SMap.wfFrom_cons]; exact ⟨h, hv, rfl⟩
  | cons e r ih =>
    obtain ⟨k, u⟩ := e
    rw [SMap.wfFrom_cons] at w
    obtain ⟨h1, h2, h3⟩ := w
    unfold SMap.put
    split
    · rename_i hk
      split
      · rw [SMap.wfFrom_cons]; exact ⟨h1, h2, h3⟩
      · rename_i hv
        rw [SMap.wfFrom_cons, SMap.wfFrom_cons]; exact ⟨h, hv, by omega, h2, h3⟩
    · split
      · rename_i hk hn
        split
        · exact SMap.wfFrom_mono d r (by omega) h3
        · rename_i hv; rw [SMap.wfFrom_cons]; exact ⟨h, hv, hn ▸ h3⟩
      · rename_i hk hn
        rw [SMap.wfFrom_cons]; exact ⟨h1, h2, ih (by omega) h3⟩

theorem SMap.put_wf [DecidableEq α] (d : α) (m : SMap α) (n : Nat) (v : α) (w : SMap.wf d m = true) : SMap.wf d (SMap.put d m n v) = true :=
  SMap.put_wfFrom d m n v (Nat.zero_le n) w

theorem SMap.putAll_wf [DecidableEq α] (d : α) (l : List (Nat × α)) (m : SMap α) (w : SMap.wf d m = true) : SMap.wf d (SMap.putAll d m l) = true := by
  induction l generalizing m with
  | nil => exact w
  | cons e r ih => exact ih _ (SMap.put_wf d m e.1 e.2 w)

/-- A filter keeps the canonical form. -/
theorem SMap.filter_wfFrom [DecidableEq α] (d : α) (f : Nat × α → Bool) (m : SMap α) {lo : Nat} (w : SMap.wfFrom d lo m = true) :
    SMap.wfFrom d lo (m.filter f) = true := by
  induction m generalizing lo with
  | nil => rfl
  | cons e r ih =>
    obtain ⟨k, v⟩ := e
    rw [SMap.wfFrom_cons] at w
    obtain ⟨h1, h2, h3⟩ := w
    by_cases hf : f (k, v) = true
    · rw [List.filter_cons_of_pos hf, SMap.wfFrom_cons]; exact ⟨h1, h2, ih h3⟩
    · rw [List.filter_cons_of_neg hf]; exact SMap.wfFrom_mono d _ (by omega) (ih h3)

theorem SMap.filter_wf [DecidableEq α] (d : α) (f : Nat × α → Bool) (m : SMap α) (w : SMap.wf d m = true) : SMap.wf d (m.filter f) = true :=
  SMap.filter_wfFrom d f m w

/-- A read after a write to the same key, in a canonical map. -/
theorem SMap.get_put_same_of_wf [DecidableEq α] (d : α) (m : SMap α) (n : Nat) (v : α) {lo : Nat} (w : SMap.wfFrom d lo m = true) :
    SMap.get d (SMap.put d m n v) n = v := by
  induction m generalizing lo with
  | nil =>
    unfold SMap.put
    split <;> simp_all [SMap.get]
  | cons e r ih =>
    obtain ⟨k, u⟩ := e
    rw [SMap.wfFrom_cons] at w
    obtain ⟨h1, h2, h3⟩ := w
    unfold SMap.put
    split
    · rename_i hk
      split
      · rename_i hv; simp [SMap.get, hk, Nat.ne_of_lt hk, hv]
      · simp [SMap.get]
    · split
      · rename_i hk hn
        split
        · rename_i hv; rw [hv]; exact SMap.get_below d r h3 (by omega)
        · simp [SMap.get]
      · rename_i hk hn
        simp only [SMap.get, hn, hk, if_false]
        exact ih h3

@[simp] theorem SMap.get_put_same [DecidableEq α] (d : α) (m : SMap α) (n : Nat) (v : α) (w : SMap.wf d m = true) : SMap.get d (SMap.put d m n v) n = v :=
  SMap.get_put_same_of_wf d m n v w

/-- A read after a write that does not take the entry away, in any map. -/
theorem SMap.get_put_same_of_ne [DecidableEq α] (d : α) (m : SMap α) (n : Nat) (v : α) (hv : v ≠ d) : SMap.get d (SMap.put d m n v) n = v := by
  induction m with
  | nil => simp [SMap.put, hv, SMap.get]
  | cons e r ih =>
    obtain ⟨k, u⟩ := e
    unfold SMap.put
    split
    · simp [SMap.get]
    · split
      · simp [SMap.get]
      · rename_i hk hn
        simp only [SMap.get, hn, hk, if_false]
        exact ih

/-- Every other key reads as before, in any map, where the write does not take the entry away. -/
theorem SMap.get_put_other_of_ne [DecidableEq α] (d : α) (m : SMap α) (n j : Nat) (v : α) (hv : v ≠ d) (hj : j ≠ n) :
    SMap.get d (SMap.put d m n v) j = SMap.get d m j := by
  induction m with
  | nil =>
    simp only [SMap.put, hv, if_false, SMap.get, hj]
    split <;> rfl
  | cons e r ih =>
    obtain ⟨k, u⟩ := e
    unfold SMap.put
    split
    · rename_i hk
      simp only [if_false, SMap.get, hj]
      split
      · rename_i hjn
        have h1 : j ≠ k := by omega
        have h2 : j < k := by omega
        simp [h1, h2]
      · rfl
    · split
      · rename_i hk hn
        subst hn
        simp [SMap.get, hj]
      · rename_i hk hn
        simp only [SMap.get]
        rw [ih]

/-- Every other key reads as before, in a canonical map. -/
theorem SMap.get_put_other_of_wf [DecidableEq α] (d : α) (m : SMap α) (n j : Nat) (v : α) (hj : j ≠ n) {lo : Nat} (w : SMap.wfFrom d lo m = true) :
    SMap.get d (SMap.put d m n v) j = SMap.get d m j := by
  by_cases hv : v = d
  · induction m generalizing lo with
    | nil => simp [SMap.put, hv]
    | cons e r ih =>
      obtain ⟨k, u⟩ := e
      rw [SMap.wfFrom_cons] at w
      obtain ⟨h1, h2, h3⟩ := w
      unfold SMap.put
      split
      · simp
      · split
        · rename_i hk hn
          subst hn
          simp only [SMap.get, hj, if_false]
          split
          · exact SMap.get_below d r h3 (by omega)
          · rfl
        · rename_i hk hn
          simp only [SMap.get]
          rw [ih h3]
  · exact SMap.get_put_other_of_ne d m n j v hv hj

@[simp] theorem SMap.get_put_other [DecidableEq α] (d : α) (m : SMap α) (n j : Nat) (v : α) (hj : j ≠ n) (w : SMap.wf d m = true) :
    SMap.get d (SMap.put d m n v) j = SMap.get d m j :=
  SMap.get_put_other_of_wf d m n j v hj w

end Sys2Proof.Machine
end

