-- ==== Sys2Proof/Laws/State.lean ====
section
/-! SUPPORT. What each plain update of the state leaves in each field: one lemma for a field and an update, by `rfl`; then the same for the updates that
test something first, as one equation each. -/

namespace Sys2Proof.Machine

/-! setCore -/

@[simp] theorem State.setCore_mem (s : State) (n : Nat) (c : Core) : (s.setCore n c).mem = s.mem := rfl
@[simp] theorem State.setCore_clock (s : State) (n : Nat) (c : Core) : (s.setCore n c).clock = s.clock := rfl
@[simp] theorem State.setCore_wall (s : State) (n : Nat) (c : Core) : (s.setCore n c).wall = s.wall := rfl
@[simp] theorem State.setCore_stage (s : State) (n : Nat) (c : Core) : (s.setCore n c).stage = s.stage := rfl
@[simp] theorem State.setCore_ix (s : State) (n : Nat) (c : Core) : (s.setCore n c).ix = s.ix := rfl
@[simp] theorem State.setCore_stim (s : State) (n : Nat) (c : Core) : (s.setCore n c).stim = s.stim := rfl
@[simp] theorem State.setCore_agenda (s : State) (n : Nat) (c : Core) : (s.setCore n c).agenda = s.agenda := rfl
@[simp] theorem State.setCore_inputs (s : State) (n : Nat) (c : Core) : (s.setCore n c).inputs = s.inputs := rfl
@[simp] theorem State.setCore_freeCount (s : State) (n : Nat) (c : Core) : (s.setCore n c).freeCount = s.freeCount := rfl
@[simp] theorem State.setCore_nextId (s : State) (n : Nat) (c : Core) : (s.setCore n c).nextId = s.nextId := rfl
@[simp] theorem State.setCore_cores (s : State) (n : Nat) (c : Core) : (s.setCore n c).cores = SMap.put Core.init s.cores n c := rfl
@[simp] theorem State.setCore_accs (s : State) (n : Nat) (c : Core) : (s.setCore n c).accs = s.accs := rfl
@[simp] theorem State.setCore_memPend (s : State) (n : Nat) (c : Core) : (s.setCore n c).memPend = s.memPend := rfl
@[simp] theorem State.setCore_memRecent (s : State) (n : Nat) (c : Core) : (s.setCore n c).memRecent = s.memRecent := rfl
@[simp] theorem State.setCore_bufPend (s : State) (n : Nat) (c : Core) : (s.setCore n c).bufPend = s.bufPend := rfl
@[simp] theorem State.setCore_pairs (s : State) (n : Nat) (c : Core) : (s.setCore n c).pairs = s.pairs := rfl
@[simp] theorem State.setCore_binds (s : State) (n : Nat) (c : Core) : (s.setCore n c).binds = s.binds := rfl
@[simp] theorem State.setCore_winAcc (s : State) (n : Nat) (c : Core) : (s.setCore n c).winAcc = s.winAcc := rfl
@[simp] theorem State.setCore_fab (s : State) (n : Nat) (c : Core) : (s.setCore n c).fab = s.fab := rfl
@[simp] theorem State.setCore_cmds (s : State) (n : Nat) (c : Core) : (s.setCore n c).cmds = s.cmds := rfl
@[simp] theorem State.setCore_groups (s : State) (n : Nat) (c : Core) : (s.setCore n c).groups = s.groups := rfl
@[simp] theorem State.setCore_sysWait (s : State) (n : Nat) (c : Core) : (s.setCore n c).sysWait = s.sysWait := rfl
@[simp] theorem State.setCore_sysOut (s : State) (n : Nat) (c : Core) : (s.setCore n c).sysOut = s.sysOut := rfl
@[simp] theorem State.setCore_images (s : State) (n : Nat) (c : Core) : (s.setCore n c).images = s.images := rfl
@[simp] theorem State.setCore_queues (s : State) (n : Nat) (c : Core) : (s.setCore n c).queues = s.queues := rfl
@[simp] theorem State.setCore_graphs (s : State) (n : Nat) (c : Core) : (s.setCore n c).graphs = s.graphs := rfl
@[simp] theorem State.setCore_nextLid (s : State) (n : Nat) (c : Core) : (s.setCore n c).nextLid = s.nextLid := rfl
@[simp] theorem State.setCore_lastBound (s : State) (n : Nat) (c : Core) : (s.setCore n c).lastBound = s.lastBound := rfl
@[simp] theorem State.setCore_paramBase (s : State) (n : Nat) (c : Core) : (s.setCore n c).paramBase = s.paramBase := rfl
@[simp] theorem State.setCore_mmb (s : State) (n : Nat) (c : Core) : (s.setCore n c).mmb = s.mmb := rfl
@[simp] theorem State.setCore_devFaults (s : State) (n : Nat) (c : Core) : (s.setCore n c).devFaults = s.devFaults := rfl
@[simp] theorem State.setCore_heat (s : State) (n : Nat) (c : Core) : (s.setCore n c).heat = s.heat := rfl
@[simp] theorem State.setCore_moves (s : State) (n : Nat) (c : Core) : (s.setCore n c).moves = s.moves := rfl
@[simp] theorem State.setCore_tensors (s : State) (n : Nat) (c : Core) : (s.setCore n c).tensors = s.tensors := rfl
@[simp] theorem State.setCore_near (s : State) (n : Nat) (c : Core) : (s.setCore n c).near = s.near := rfl
@[simp] theorem State.setCore_hbm (s : State) (n : Nat) (c : Core) : (s.setCore n c).hbm = s.hbm := rfl
@[simp] theorem State.setCore_hbmGroups (s : State) (n : Nat) (c : Core) : (s.setCore n c).hbmGroups = s.hbmGroups := rfl
@[simp] theorem State.setCore_badWords (s : State) (n : Nat) (c : Core) : (s.setCore n c).badWords = s.badWords := rfl
@[simp] theorem State.setCore_link (s : State) (n : Nat) (c : Core) : (s.setCore n c).link = s.link := rfl
@[simp] theorem State.setCore_ctls (s : State) (n : Nat) (c : Core) : (s.setCore n c).ctls = s.ctls := rfl
@[simp] theorem State.setCore_mons (s : State) (n : Nat) (c : Core) : (s.setCore n c).mons = s.mons := rfl
@[simp] theorem State.setCore_sec (s : State) (n : Nat) (c : Core) : (s.setCore n c).sec = s.sec := rfl
@[simp] theorem State.setCore_jrn (s : State) (n : Nat) (c : Core) : (s.setCore n c).jrn = s.jrn := rfl
@[simp] theorem State.setCore_freq (s : State) (n : Nat) (c : Core) : (s.setCore n c).freq = s.freq := rfl
@[simp] theorem State.setCore_clusters (s : State) (n : Nat) (c : Core) : (s.setCore n c).clusters = s.clusters := rfl
@[simp] theorem State.setCore_dieStacks (s : State) (n : Nat) (c : Core) : (s.setCore n c).dieStacks = s.dieStacks := rfl
@[simp] theorem State.setCore_parity (s : State) (n : Nat) (c : Core) : (s.setCore n c).parity = s.parity := rfl
@[simp] theorem State.setCore_flips (s : State) (n : Nat) (c : Core) : (s.setCore n c).flips = s.flips := rfl

/-! modCore -/

@[simp] theorem State.modCore_mem (s : State) (n : Nat) (f : Core → Core) : (s.modCore n f).mem = s.mem := rfl
@[simp] theorem State.modCore_clock (s : State) (n : Nat) (f : Core → Core) : (s.modCore n f).clock = s.clock := rfl
@[simp] theorem State.modCore_wall (s : State) (n : Nat) (f : Core → Core) : (s.modCore n f).wall = s.wall := rfl
@[simp] theorem State.modCore_stage (s : State) (n : Nat) (f : Core → Core) : (s.modCore n f).stage = s.stage := rfl
@[simp] theorem State.modCore_ix (s : State) (n : Nat) (f : Core → Core) : (s.modCore n f).ix = s.ix := rfl
@[simp] theorem State.modCore_stim (s : State) (n : Nat) (f : Core → Core) : (s.modCore n f).stim = s.stim := rfl
@[simp] theorem State.modCore_agenda (s : State) (n : Nat) (f : Core → Core) : (s.modCore n f).agenda = s.agenda := rfl
@[simp] theorem State.modCore_inputs (s : State) (n : Nat) (f : Core → Core) : (s.modCore n f).inputs = s.inputs := rfl
@[simp] theorem State.modCore_freeCount (s : State) (n : Nat) (f : Core → Core) : (s.modCore n f).freeCount = s.freeCount := rfl
@[simp] theorem State.modCore_nextId (s : State) (n : Nat) (f : Core → Core) : (s.modCore n f).nextId = s.nextId := rfl
@[simp] theorem State.modCore_cores (s : State) (n : Nat) (f : Core → Core) : (s.modCore n f).cores = SMap.put Core.init s.cores n (f (s.core n)) := rfl
@[simp] theorem State.modCore_accs (s : State) (n : Nat) (f : Core → Core) : (s.modCore n f).accs = s.accs := rfl
@[simp] theorem State.modCore_memPend (s : State) (n : Nat) (f : Core → Core) : (s.modCore n f).memPend = s.memPend := rfl
@[simp] theorem State.modCore_memRecent (s : State) (n : Nat) (f : Core → Core) : (s.modCore n f).memRecent = s.memRecent := rfl
@[simp] theorem State.modCore_bufPend (s : State) (n : Nat) (f : Core → Core) : (s.modCore n f).bufPend = s.bufPend := rfl
@[simp] theorem State.modCore_pairs (s : State) (n : Nat) (f : Core → Core) : (s.modCore n f).pairs = s.pairs := rfl
@[simp] theorem State.modCore_binds (s : State) (n : Nat) (f : Core → Core) : (s.modCore n f).binds = s.binds := rfl
@[simp] theorem State.modCore_winAcc (s : State) (n : Nat) (f : Core → Core) : (s.modCore n f).winAcc = s.winAcc := rfl
@[simp] theorem State.modCore_fab (s : State) (n : Nat) (f : Core → Core) : (s.modCore n f).fab = s.fab := rfl
@[simp] theorem State.modCore_cmds (s : State) (n : Nat) (f : Core → Core) : (s.modCore n f).cmds = s.cmds := rfl
@[simp] theorem State.modCore_groups (s : State) (n : Nat) (f : Core → Core) : (s.modCore n f).groups = s.groups := rfl
@[simp] theorem State.modCore_sysWait (s : State) (n : Nat) (f : Core → Core) : (s.modCore n f).sysWait = s.sysWait := rfl
@[simp] theorem State.modCore_sysOut (s : State) (n : Nat) (f : Core → Core) : (s.modCore n f).sysOut = s.sysOut := rfl
@[simp] theorem State.modCore_images (s : State) (n : Nat) (f : Core → Core) : (s.modCore n f).images = s.images := rfl
@[simp] theorem State.modCore_queues (s : State) (n : Nat) (f : Core → Core) : (s.modCore n f).queues = s.queues := rfl
@[simp] theorem State.modCore_graphs (s : State) (n : Nat) (f : Core → Core) : (s.modCore n f).graphs = s.graphs := rfl
@[simp] theorem State.modCore_nextLid (s : State) (n : Nat) (f : Core → Core) : (s.modCore n f).nextLid = s.nextLid := rfl
@[simp] theorem State.modCore_lastBound (s : State) (n : Nat) (f : Core → Core) : (s.modCore n f).lastBound = s.lastBound := rfl
@[simp] theorem State.modCore_paramBase (s : State) (n : Nat) (f : Core → Core) : (s.modCore n f).paramBase = s.paramBase := rfl
@[simp] theorem State.modCore_mmb (s : State) (n : Nat) (f : Core → Core) : (s.modCore n f).mmb = s.mmb := rfl
@[simp] theorem State.modCore_devFaults (s : State) (n : Nat) (f : Core → Core) : (s.modCore n f).devFaults = s.devFaults := rfl
@[simp] theorem State.modCore_heat (s : State) (n : Nat) (f : Core → Core) : (s.modCore n f).heat = s.heat := rfl
@[simp] theorem State.modCore_moves (s : State) (n : Nat) (f : Core → Core) : (s.modCore n f).moves = s.moves := rfl
@[simp] theorem State.modCore_tensors (s : State) (n : Nat) (f : Core → Core) : (s.modCore n f).tensors = s.tensors := rfl
@[simp] theorem State.modCore_near (s : State) (n : Nat) (f : Core → Core) : (s.modCore n f).near = s.near := rfl
@[simp] theorem State.modCore_hbm (s : State) (n : Nat) (f : Core → Core) : (s.modCore n f).hbm = s.hbm := rfl
@[simp] theorem State.modCore_hbmGroups (s : State) (n : Nat) (f : Core → Core) : (s.modCore n f).hbmGroups = s.hbmGroups := rfl
@[simp] theorem State.modCore_badWords (s : State) (n : Nat) (f : Core → Core) : (s.modCore n f).badWords = s.badWords := rfl
@[simp] theorem State.modCore_link (s : State) (n : Nat) (f : Core → Core) : (s.modCore n f).link = s.link := rfl
@[simp] theorem State.modCore_ctls (s : State) (n : Nat) (f : Core → Core) : (s.modCore n f).ctls = s.ctls := rfl
@[simp] theorem State.modCore_mons (s : State) (n : Nat) (f : Core → Core) : (s.modCore n f).mons = s.mons := rfl
@[simp] theorem State.modCore_sec (s : State) (n : Nat) (f : Core → Core) : (s.modCore n f).sec = s.sec := rfl
@[simp] theorem State.modCore_jrn (s : State) (n : Nat) (f : Core → Core) : (s.modCore n f).jrn = s.jrn := rfl
@[simp] theorem State.modCore_freq (s : State) (n : Nat) (f : Core → Core) : (s.modCore n f).freq = s.freq := rfl
@[simp] theorem State.modCore_clusters (s : State) (n : Nat) (f : Core → Core) : (s.modCore n f).clusters = s.clusters := rfl
@[simp] theorem State.modCore_dieStacks (s : State) (n : Nat) (f : Core → Core) : (s.modCore n f).dieStacks = s.dieStacks := rfl
@[simp] theorem State.modCore_parity (s : State) (n : Nat) (f : Core → Core) : (s.modCore n f).parity = s.parity := rfl
@[simp] theorem State.modCore_flips (s : State) (n : Nat) (f : Core → Core) : (s.modCore n f).flips = s.flips := rfl

/-! setPair -/

@[simp] theorem State.setPair_mem (s : State) (n : Nat) (p : Pair) : (s.setPair n p).mem = s.mem := rfl
@[simp] theorem State.setPair_clock (s : State) (n : Nat) (p : Pair) : (s.setPair n p).clock = s.clock := rfl
@[simp] theorem State.setPair_wall (s : State) (n : Nat) (p : Pair) : (s.setPair n p).wall = s.wall := rfl
@[simp] theorem State.setPair_stage (s : State) (n : Nat) (p : Pair) : (s.setPair n p).stage = s.stage := rfl
@[simp] theorem State.setPair_ix (s : State) (n : Nat) (p : Pair) : (s.setPair n p).ix = s.ix := rfl
@[simp] theorem State.setPair_stim (s : State) (n : Nat) (p : Pair) : (s.setPair n p).stim = s.stim := rfl
@[simp] theorem State.setPair_agenda (s : State) (n : Nat) (p : Pair) : (s.setPair n p).agenda = s.agenda := rfl
@[simp] theorem State.setPair_inputs (s : State) (n : Nat) (p : Pair) : (s.setPair n p).inputs = s.inputs := rfl
@[simp] theorem State.setPair_freeCount (s : State) (n : Nat) (p : Pair) : (s.setPair n p).freeCount = s.freeCount := rfl
@[simp] theorem State.setPair_nextId (s : State) (n : Nat) (p : Pair) : (s.setPair n p).nextId = s.nextId := rfl
@[simp] theorem State.setPair_cores (s : State) (n : Nat) (p : Pair) : (s.setPair n p).cores = s.cores := rfl
@[simp] theorem State.setPair_accs (s : State) (n : Nat) (p : Pair) : (s.setPair n p).accs = s.accs := rfl
@[simp] theorem State.setPair_memPend (s : State) (n : Nat) (p : Pair) : (s.setPair n p).memPend = s.memPend := rfl
@[simp] theorem State.setPair_memRecent (s : State) (n : Nat) (p : Pair) : (s.setPair n p).memRecent = s.memRecent := rfl
@[simp] theorem State.setPair_bufPend (s : State) (n : Nat) (p : Pair) : (s.setPair n p).bufPend = s.bufPend := rfl
@[simp] theorem State.setPair_pairs (s : State) (n : Nat) (p : Pair) : (s.setPair n p).pairs = SMap.put Pair.init s.pairs n p := rfl
@[simp] theorem State.setPair_binds (s : State) (n : Nat) (p : Pair) : (s.setPair n p).binds = s.binds := rfl
@[simp] theorem State.setPair_winAcc (s : State) (n : Nat) (p : Pair) : (s.setPair n p).winAcc = s.winAcc := rfl
@[simp] theorem State.setPair_fab (s : State) (n : Nat) (p : Pair) : (s.setPair n p).fab = s.fab := rfl
@[simp] theorem State.setPair_cmds (s : State) (n : Nat) (p : Pair) : (s.setPair n p).cmds = s.cmds := rfl
@[simp] theorem State.setPair_groups (s : State) (n : Nat) (p : Pair) : (s.setPair n p).groups = s.groups := rfl
@[simp] theorem State.setPair_sysWait (s : State) (n : Nat) (p : Pair) : (s.setPair n p).sysWait = s.sysWait := rfl
@[simp] theorem State.setPair_sysOut (s : State) (n : Nat) (p : Pair) : (s.setPair n p).sysOut = s.sysOut := rfl
@[simp] theorem State.setPair_images (s : State) (n : Nat) (p : Pair) : (s.setPair n p).images = s.images := rfl
@[simp] theorem State.setPair_queues (s : State) (n : Nat) (p : Pair) : (s.setPair n p).queues = s.queues := rfl
@[simp] theorem State.setPair_graphs (s : State) (n : Nat) (p : Pair) : (s.setPair n p).graphs = s.graphs := rfl
@[simp] theorem State.setPair_nextLid (s : State) (n : Nat) (p : Pair) : (s.setPair n p).nextLid = s.nextLid := rfl
@[simp] theorem State.setPair_lastBound (s : State) (n : Nat) (p : Pair) : (s.setPair n p).lastBound = s.lastBound := rfl
@[simp] theorem State.setPair_paramBase (s : State) (n : Nat) (p : Pair) : (s.setPair n p).paramBase = s.paramBase := rfl
@[simp] theorem State.setPair_mmb (s : State) (n : Nat) (p : Pair) : (s.setPair n p).mmb = s.mmb := rfl
@[simp] theorem State.setPair_devFaults (s : State) (n : Nat) (p : Pair) : (s.setPair n p).devFaults = s.devFaults := rfl
@[simp] theorem State.setPair_heat (s : State) (n : Nat) (p : Pair) : (s.setPair n p).heat = s.heat := rfl
@[simp] theorem State.setPair_moves (s : State) (n : Nat) (p : Pair) : (s.setPair n p).moves = s.moves := rfl
@[simp] theorem State.setPair_tensors (s : State) (n : Nat) (p : Pair) : (s.setPair n p).tensors = s.tensors := rfl
@[simp] theorem State.setPair_near (s : State) (n : Nat) (p : Pair) : (s.setPair n p).near = s.near := rfl
@[simp] theorem State.setPair_hbm (s : State) (n : Nat) (p : Pair) : (s.setPair n p).hbm = s.hbm := rfl
@[simp] theorem State.setPair_hbmGroups (s : State) (n : Nat) (p : Pair) : (s.setPair n p).hbmGroups = s.hbmGroups := rfl
@[simp] theorem State.setPair_badWords (s : State) (n : Nat) (p : Pair) : (s.setPair n p).badWords = s.badWords := rfl
@[simp] theorem State.setPair_link (s : State) (n : Nat) (p : Pair) : (s.setPair n p).link = s.link := rfl
@[simp] theorem State.setPair_ctls (s : State) (n : Nat) (p : Pair) : (s.setPair n p).ctls = s.ctls := rfl
@[simp] theorem State.setPair_mons (s : State) (n : Nat) (p : Pair) : (s.setPair n p).mons = s.mons := rfl
@[simp] theorem State.setPair_sec (s : State) (n : Nat) (p : Pair) : (s.setPair n p).sec = s.sec := rfl
@[simp] theorem State.setPair_jrn (s : State) (n : Nat) (p : Pair) : (s.setPair n p).jrn = s.jrn := rfl
@[simp] theorem State.setPair_freq (s : State) (n : Nat) (p : Pair) : (s.setPair n p).freq = s.freq := rfl
@[simp] theorem State.setPair_clusters (s : State) (n : Nat) (p : Pair) : (s.setPair n p).clusters = s.clusters := rfl
@[simp] theorem State.setPair_dieStacks (s : State) (n : Nat) (p : Pair) : (s.setPair n p).dieStacks = s.dieStacks := rfl
@[simp] theorem State.setPair_parity (s : State) (n : Nat) (p : Pair) : (s.setPair n p).parity = s.parity := rfl
@[simp] theorem State.setPair_flips (s : State) (n : Nat) (p : Pair) : (s.setPair n p).flips = s.flips := rfl

/-! setLaunch -/

@[simp] theorem State.setLaunch_mem (s : State) (b : Nat) (l : Launch) : (s.setLaunch b l).mem = s.mem := rfl
@[simp] theorem State.setLaunch_clock (s : State) (b : Nat) (l : Launch) : (s.setLaunch b l).clock = s.clock := rfl
@[simp] theorem State.setLaunch_wall (s : State) (b : Nat) (l : Launch) : (s.setLaunch b l).wall = s.wall := rfl
@[simp] theorem State.setLaunch_stage (s : State) (b : Nat) (l : Launch) : (s.setLaunch b l).stage = s.stage := rfl
@[simp] theorem State.setLaunch_ix (s : State) (b : Nat) (l : Launch) : (s.setLaunch b l).ix = s.ix := rfl
@[simp] theorem State.setLaunch_stim (s : State) (b : Nat) (l : Launch) : (s.setLaunch b l).stim = s.stim := rfl
@[simp] theorem State.setLaunch_agenda (s : State) (b : Nat) (l : Launch) : (s.setLaunch b l).agenda = s.agenda := rfl
@[simp] theorem State.setLaunch_inputs (s : State) (b : Nat) (l : Launch) : (s.setLaunch b l).inputs = s.inputs := rfl
@[simp] theorem State.setLaunch_freeCount (s : State) (b : Nat) (l : Launch) : (s.setLaunch b l).freeCount = s.freeCount := rfl
@[simp] theorem State.setLaunch_nextId (s : State) (b : Nat) (l : Launch) : (s.setLaunch b l).nextId = s.nextId := rfl
@[simp] theorem State.setLaunch_cores (s : State) (b : Nat) (l : Launch) : (s.setLaunch b l).cores = s.cores := rfl
@[simp] theorem State.setLaunch_accs (s : State) (b : Nat) (l : Launch) : (s.setLaunch b l).accs = s.accs := rfl
@[simp] theorem State.setLaunch_memPend (s : State) (b : Nat) (l : Launch) : (s.setLaunch b l).memPend = s.memPend := rfl
@[simp] theorem State.setLaunch_memRecent (s : State) (b : Nat) (l : Launch) : (s.setLaunch b l).memRecent = s.memRecent := rfl
@[simp] theorem State.setLaunch_bufPend (s : State) (b : Nat) (l : Launch) : (s.setLaunch b l).bufPend = s.bufPend := rfl
@[simp] theorem State.setLaunch_pairs (s : State) (b : Nat) (l : Launch) : (s.setLaunch b l).pairs = s.pairs := rfl
@[simp] theorem State.setLaunch_binds (s : State) (b : Nat) (l : Launch) : (s.setLaunch b l).binds = SMap.put Launch.free s.binds b l := rfl
@[simp] theorem State.setLaunch_winAcc (s : State) (b : Nat) (l : Launch) : (s.setLaunch b l).winAcc = s.winAcc := rfl
@[simp] theorem State.setLaunch_fab (s : State) (b : Nat) (l : Launch) : (s.setLaunch b l).fab = s.fab := rfl
@[simp] theorem State.setLaunch_cmds (s : State) (b : Nat) (l : Launch) : (s.setLaunch b l).cmds = s.cmds := rfl
@[simp] theorem State.setLaunch_groups (s : State) (b : Nat) (l : Launch) : (s.setLaunch b l).groups = s.groups := rfl
@[simp] theorem State.setLaunch_sysWait (s : State) (b : Nat) (l : Launch) : (s.setLaunch b l).sysWait = s.sysWait := rfl
@[simp] theorem State.setLaunch_sysOut (s : State) (b : Nat) (l : Launch) : (s.setLaunch b l).sysOut = s.sysOut := rfl
@[simp] theorem State.setLaunch_images (s : State) (b : Nat) (l : Launch) : (s.setLaunch b l).images = s.images := rfl
@[simp] theorem State.setLaunch_queues (s : State) (b : Nat) (l : Launch) : (s.setLaunch b l).queues = s.queues := rfl
@[simp] theorem State.setLaunch_graphs (s : State) (b : Nat) (l : Launch) : (s.setLaunch b l).graphs = s.graphs := rfl
@[simp] theorem State.setLaunch_nextLid (s : State) (b : Nat) (l : Launch) : (s.setLaunch b l).nextLid = s.nextLid := rfl
@[simp] theorem State.setLaunch_lastBound (s : State) (b : Nat) (l : Launch) : (s.setLaunch b l).lastBound = s.lastBound := rfl
@[simp] theorem State.setLaunch_paramBase (s : State) (b : Nat) (l : Launch) : (s.setLaunch b l).paramBase = s.paramBase := rfl
@[simp] theorem State.setLaunch_mmb (s : State) (b : Nat) (l : Launch) : (s.setLaunch b l).mmb = s.mmb := rfl
@[simp] theorem State.setLaunch_devFaults (s : State) (b : Nat) (l : Launch) : (s.setLaunch b l).devFaults = s.devFaults := rfl
@[simp] theorem State.setLaunch_heat (s : State) (b : Nat) (l : Launch) : (s.setLaunch b l).heat = s.heat := rfl
@[simp] theorem State.setLaunch_moves (s : State) (b : Nat) (l : Launch) : (s.setLaunch b l).moves = s.moves := rfl
@[simp] theorem State.setLaunch_tensors (s : State) (b : Nat) (l : Launch) : (s.setLaunch b l).tensors = s.tensors := rfl
@[simp] theorem State.setLaunch_near (s : State) (b : Nat) (l : Launch) : (s.setLaunch b l).near = s.near := rfl
@[simp] theorem State.setLaunch_hbm (s : State) (b : Nat) (l : Launch) : (s.setLaunch b l).hbm = s.hbm := rfl
@[simp] theorem State.setLaunch_hbmGroups (s : State) (b : Nat) (l : Launch) : (s.setLaunch b l).hbmGroups = s.hbmGroups := rfl
@[simp] theorem State.setLaunch_badWords (s : State) (b : Nat) (l : Launch) : (s.setLaunch b l).badWords = s.badWords := rfl
@[simp] theorem State.setLaunch_link (s : State) (b : Nat) (l : Launch) : (s.setLaunch b l).link = s.link := rfl
@[simp] theorem State.setLaunch_ctls (s : State) (b : Nat) (l : Launch) : (s.setLaunch b l).ctls = s.ctls := rfl
@[simp] theorem State.setLaunch_mons (s : State) (b : Nat) (l : Launch) : (s.setLaunch b l).mons = s.mons := rfl
@[simp] theorem State.setLaunch_sec (s : State) (b : Nat) (l : Launch) : (s.setLaunch b l).sec = s.sec := rfl
@[simp] theorem State.setLaunch_jrn (s : State) (b : Nat) (l : Launch) : (s.setLaunch b l).jrn = s.jrn := rfl
@[simp] theorem State.setLaunch_freq (s : State) (b : Nat) (l : Launch) : (s.setLaunch b l).freq = s.freq := rfl
@[simp] theorem State.setLaunch_clusters (s : State) (b : Nat) (l : Launch) : (s.setLaunch b l).clusters = s.clusters := rfl
@[simp] theorem State.setLaunch_dieStacks (s : State) (b : Nat) (l : Launch) : (s.setLaunch b l).dieStacks = s.dieStacks := rfl
@[simp] theorem State.setLaunch_parity (s : State) (b : Nat) (l : Launch) : (s.setLaunch b l).parity = s.parity := rfl
@[simp] theorem State.setLaunch_flips (s : State) (b : Nat) (l : Launch) : (s.setLaunch b l).flips = s.flips := rfl

/-! setCluster -/

@[simp] theorem State.setCluster_mem (s : State) (n : Nat) (c : Cluster) : (s.setCluster n c).mem = s.mem := rfl
@[simp] theorem State.setCluster_clock (s : State) (n : Nat) (c : Cluster) : (s.setCluster n c).clock = s.clock := rfl
@[simp] theorem State.setCluster_wall (s : State) (n : Nat) (c : Cluster) : (s.setCluster n c).wall = s.wall := rfl
@[simp] theorem State.setCluster_stage (s : State) (n : Nat) (c : Cluster) : (s.setCluster n c).stage = s.stage := rfl
@[simp] theorem State.setCluster_ix (s : State) (n : Nat) (c : Cluster) : (s.setCluster n c).ix = s.ix := rfl
@[simp] theorem State.setCluster_stim (s : State) (n : Nat) (c : Cluster) : (s.setCluster n c).stim = s.stim := rfl
@[simp] theorem State.setCluster_agenda (s : State) (n : Nat) (c : Cluster) : (s.setCluster n c).agenda = s.agenda := rfl
@[simp] theorem State.setCluster_inputs (s : State) (n : Nat) (c : Cluster) : (s.setCluster n c).inputs = s.inputs := rfl
@[simp] theorem State.setCluster_freeCount (s : State) (n : Nat) (c : Cluster) : (s.setCluster n c).freeCount = s.freeCount := rfl
@[simp] theorem State.setCluster_nextId (s : State) (n : Nat) (c : Cluster) : (s.setCluster n c).nextId = s.nextId := rfl
@[simp] theorem State.setCluster_cores (s : State) (n : Nat) (c : Cluster) : (s.setCluster n c).cores = s.cores := rfl
@[simp] theorem State.setCluster_accs (s : State) (n : Nat) (c : Cluster) : (s.setCluster n c).accs = s.accs := rfl
@[simp] theorem State.setCluster_memPend (s : State) (n : Nat) (c : Cluster) : (s.setCluster n c).memPend = s.memPend := rfl
@[simp] theorem State.setCluster_memRecent (s : State) (n : Nat) (c : Cluster) : (s.setCluster n c).memRecent = s.memRecent := rfl
@[simp] theorem State.setCluster_bufPend (s : State) (n : Nat) (c : Cluster) : (s.setCluster n c).bufPend = s.bufPend := rfl
@[simp] theorem State.setCluster_pairs (s : State) (n : Nat) (c : Cluster) : (s.setCluster n c).pairs = s.pairs := rfl
@[simp] theorem State.setCluster_binds (s : State) (n : Nat) (c : Cluster) : (s.setCluster n c).binds = s.binds := rfl
@[simp] theorem State.setCluster_winAcc (s : State) (n : Nat) (c : Cluster) : (s.setCluster n c).winAcc = s.winAcc := rfl
@[simp] theorem State.setCluster_fab (s : State) (n : Nat) (c : Cluster) : (s.setCluster n c).fab = s.fab := rfl
@[simp] theorem State.setCluster_cmds (s : State) (n : Nat) (c : Cluster) : (s.setCluster n c).cmds = s.cmds := rfl
@[simp] theorem State.setCluster_groups (s : State) (n : Nat) (c : Cluster) : (s.setCluster n c).groups = s.groups := rfl
@[simp] theorem State.setCluster_sysWait (s : State) (n : Nat) (c : Cluster) : (s.setCluster n c).sysWait = s.sysWait := rfl
@[simp] theorem State.setCluster_sysOut (s : State) (n : Nat) (c : Cluster) : (s.setCluster n c).sysOut = s.sysOut := rfl
@[simp] theorem State.setCluster_images (s : State) (n : Nat) (c : Cluster) : (s.setCluster n c).images = s.images := rfl
@[simp] theorem State.setCluster_queues (s : State) (n : Nat) (c : Cluster) : (s.setCluster n c).queues = s.queues := rfl
@[simp] theorem State.setCluster_graphs (s : State) (n : Nat) (c : Cluster) : (s.setCluster n c).graphs = s.graphs := rfl
@[simp] theorem State.setCluster_nextLid (s : State) (n : Nat) (c : Cluster) : (s.setCluster n c).nextLid = s.nextLid := rfl
@[simp] theorem State.setCluster_lastBound (s : State) (n : Nat) (c : Cluster) : (s.setCluster n c).lastBound = s.lastBound := rfl
@[simp] theorem State.setCluster_paramBase (s : State) (n : Nat) (c : Cluster) : (s.setCluster n c).paramBase = s.paramBase := rfl
@[simp] theorem State.setCluster_mmb (s : State) (n : Nat) (c : Cluster) : (s.setCluster n c).mmb = s.mmb := rfl
@[simp] theorem State.setCluster_devFaults (s : State) (n : Nat) (c : Cluster) : (s.setCluster n c).devFaults = s.devFaults := rfl
@[simp] theorem State.setCluster_heat (s : State) (n : Nat) (c : Cluster) : (s.setCluster n c).heat = s.heat := rfl
@[simp] theorem State.setCluster_moves (s : State) (n : Nat) (c : Cluster) : (s.setCluster n c).moves = s.moves := rfl
@[simp] theorem State.setCluster_tensors (s : State) (n : Nat) (c : Cluster) : (s.setCluster n c).tensors = s.tensors := rfl
@[simp] theorem State.setCluster_near (s : State) (n : Nat) (c : Cluster) : (s.setCluster n c).near = s.near := rfl
@[simp] theorem State.setCluster_hbm (s : State) (n : Nat) (c : Cluster) : (s.setCluster n c).hbm = s.hbm := rfl
@[simp] theorem State.setCluster_hbmGroups (s : State) (n : Nat) (c : Cluster) : (s.setCluster n c).hbmGroups = s.hbmGroups := rfl
@[simp] theorem State.setCluster_badWords (s : State) (n : Nat) (c : Cluster) : (s.setCluster n c).badWords = s.badWords := rfl
@[simp] theorem State.setCluster_link (s : State) (n : Nat) (c : Cluster) : (s.setCluster n c).link = s.link := rfl
@[simp] theorem State.setCluster_ctls (s : State) (n : Nat) (c : Cluster) : (s.setCluster n c).ctls = s.ctls := rfl
@[simp] theorem State.setCluster_mons (s : State) (n : Nat) (c : Cluster) : (s.setCluster n c).mons = s.mons := rfl
@[simp] theorem State.setCluster_sec (s : State) (n : Nat) (c : Cluster) : (s.setCluster n c).sec = s.sec := rfl
@[simp] theorem State.setCluster_jrn (s : State) (n : Nat) (c : Cluster) : (s.setCluster n c).jrn = s.jrn := rfl
@[simp] theorem State.setCluster_freq (s : State) (n : Nat) (c : Cluster) : (s.setCluster n c).freq = s.freq := rfl
@[simp] theorem State.setCluster_clusters (s : State) (n : Nat) (c : Cluster) : (s.setCluster n c).clusters = SMap.put Cluster.init s.clusters n c := rfl
@[simp] theorem State.setCluster_dieStacks (s : State) (n : Nat) (c : Cluster) : (s.setCluster n c).dieStacks = s.dieStacks := rfl
@[simp] theorem State.setCluster_parity (s : State) (n : Nat) (c : Cluster) : (s.setCluster n c).parity = s.parity := rfl
@[simp] theorem State.setCluster_flips (s : State) (n : Nat) (c : Cluster) : (s.setCluster n c).flips = s.flips := rfl

/-! setStack -/

@[simp] theorem State.setStack_mem (s : State) (n : Nat) (x : Stack) : (s.setStack n x).mem = s.mem := rfl
@[simp] theorem State.setStack_clock (s : State) (n : Nat) (x : Stack) : (s.setStack n x).clock = s.clock := rfl
@[simp] theorem State.setStack_wall (s : State) (n : Nat) (x : Stack) : (s.setStack n x).wall = s.wall := rfl
@[simp] theorem State.setStack_stage (s : State) (n : Nat) (x : Stack) : (s.setStack n x).stage = s.stage := rfl
@[simp] theorem State.setStack_ix (s : State) (n : Nat) (x : Stack) : (s.setStack n x).ix = s.ix := rfl
@[simp] theorem State.setStack_stim (s : State) (n : Nat) (x : Stack) : (s.setStack n x).stim = s.stim := rfl
@[simp] theorem State.setStack_agenda (s : State) (n : Nat) (x : Stack) : (s.setStack n x).agenda = s.agenda := rfl
@[simp] theorem State.setStack_inputs (s : State) (n : Nat) (x : Stack) : (s.setStack n x).inputs = s.inputs := rfl
@[simp] theorem State.setStack_freeCount (s : State) (n : Nat) (x : Stack) : (s.setStack n x).freeCount = s.freeCount := rfl
@[simp] theorem State.setStack_nextId (s : State) (n : Nat) (x : Stack) : (s.setStack n x).nextId = s.nextId := rfl
@[simp] theorem State.setStack_cores (s : State) (n : Nat) (x : Stack) : (s.setStack n x).cores = s.cores := rfl
@[simp] theorem State.setStack_accs (s : State) (n : Nat) (x : Stack) : (s.setStack n x).accs = s.accs := rfl
@[simp] theorem State.setStack_memPend (s : State) (n : Nat) (x : Stack) : (s.setStack n x).memPend = s.memPend := rfl
@[simp] theorem State.setStack_memRecent (s : State) (n : Nat) (x : Stack) : (s.setStack n x).memRecent = s.memRecent := rfl
@[simp] theorem State.setStack_bufPend (s : State) (n : Nat) (x : Stack) : (s.setStack n x).bufPend = s.bufPend := rfl
@[simp] theorem State.setStack_pairs (s : State) (n : Nat) (x : Stack) : (s.setStack n x).pairs = s.pairs := rfl
@[simp] theorem State.setStack_binds (s : State) (n : Nat) (x : Stack) : (s.setStack n x).binds = s.binds := rfl
@[simp] theorem State.setStack_winAcc (s : State) (n : Nat) (x : Stack) : (s.setStack n x).winAcc = s.winAcc := rfl
@[simp] theorem State.setStack_fab (s : State) (n : Nat) (x : Stack) : (s.setStack n x).fab = s.fab := rfl
@[simp] theorem State.setStack_cmds (s : State) (n : Nat) (x : Stack) : (s.setStack n x).cmds = s.cmds := rfl
@[simp] theorem State.setStack_groups (s : State) (n : Nat) (x : Stack) : (s.setStack n x).groups = s.groups := rfl
@[simp] theorem State.setStack_sysWait (s : State) (n : Nat) (x : Stack) : (s.setStack n x).sysWait = s.sysWait := rfl
@[simp] theorem State.setStack_sysOut (s : State) (n : Nat) (x : Stack) : (s.setStack n x).sysOut = s.sysOut := rfl
@[simp] theorem State.setStack_images (s : State) (n : Nat) (x : Stack) : (s.setStack n x).images = s.images := rfl
@[simp] theorem State.setStack_queues (s : State) (n : Nat) (x : Stack) : (s.setStack n x).queues = s.queues := rfl
@[simp] theorem State.setStack_graphs (s : State) (n : Nat) (x : Stack) : (s.setStack n x).graphs = s.graphs := rfl
@[simp] theorem State.setStack_nextLid (s : State) (n : Nat) (x : Stack) : (s.setStack n x).nextLid = s.nextLid := rfl
@[simp] theorem State.setStack_lastBound (s : State) (n : Nat) (x : Stack) : (s.setStack n x).lastBound = s.lastBound := rfl
@[simp] theorem State.setStack_paramBase (s : State) (n : Nat) (x : Stack) : (s.setStack n x).paramBase = s.paramBase := rfl
@[simp] theorem State.setStack_mmb (s : State) (n : Nat) (x : Stack) : (s.setStack n x).mmb = s.mmb := rfl
@[simp] theorem State.setStack_devFaults (s : State) (n : Nat) (x : Stack) : (s.setStack n x).devFaults = s.devFaults := rfl
@[simp] theorem State.setStack_heat (s : State) (n : Nat) (x : Stack) : (s.setStack n x).heat = s.heat := rfl
@[simp] theorem State.setStack_moves (s : State) (n : Nat) (x : Stack) : (s.setStack n x).moves = s.moves := rfl
@[simp] theorem State.setStack_tensors (s : State) (n : Nat) (x : Stack) : (s.setStack n x).tensors = s.tensors := rfl
@[simp] theorem State.setStack_near (s : State) (n : Nat) (x : Stack) : (s.setStack n x).near = s.near := rfl
@[simp] theorem State.setStack_hbm (s : State) (n : Nat) (x : Stack) : (s.setStack n x).hbm = s.hbm := rfl
@[simp] theorem State.setStack_hbmGroups (s : State) (n : Nat) (x : Stack) : (s.setStack n x).hbmGroups = s.hbmGroups := rfl
@[simp] theorem State.setStack_badWords (s : State) (n : Nat) (x : Stack) : (s.setStack n x).badWords = s.badWords := rfl
@[simp] theorem State.setStack_link (s : State) (n : Nat) (x : Stack) : (s.setStack n x).link = s.link := rfl
@[simp] theorem State.setStack_ctls (s : State) (n : Nat) (x : Stack) : (s.setStack n x).ctls = s.ctls := rfl
@[simp] theorem State.setStack_mons (s : State) (n : Nat) (x : Stack) : (s.setStack n x).mons = s.mons := rfl
@[simp] theorem State.setStack_sec (s : State) (n : Nat) (x : Stack) : (s.setStack n x).sec = s.sec := rfl
@[simp] theorem State.setStack_jrn (s : State) (n : Nat) (x : Stack) : (s.setStack n x).jrn = s.jrn := rfl
@[simp] theorem State.setStack_freq (s : State) (n : Nat) (x : Stack) : (s.setStack n x).freq = s.freq := rfl
@[simp] theorem State.setStack_clusters (s : State) (n : Nat) (x : Stack) : (s.setStack n x).clusters = s.clusters := rfl
@[simp] theorem State.setStack_dieStacks (s : State) (n : Nat) (x : Stack) : (s.setStack n x).dieStacks = SMap.put Stack.init s.dieStacks n x := rfl
@[simp] theorem State.setStack_parity (s : State) (n : Nat) (x : Stack) : (s.setStack n x).parity = s.parity := rfl
@[simp] theorem State.setStack_flips (s : State) (n : Nat) (x : Stack) : (s.setStack n x).flips = s.flips := rfl

/-! schedule -/

@[simp] theorem State.schedule_mem (s : State) (a p : Nat) (ev : Instr) : (s.schedule a p ev).mem = s.mem := rfl
@[simp] theorem State.schedule_clock (s : State) (a p : Nat) (ev : Instr) : (s.schedule a p ev).clock = s.clock := rfl
@[simp] theorem State.schedule_wall (s : State) (a p : Nat) (ev : Instr) : (s.schedule a p ev).wall = s.wall := rfl
@[simp] theorem State.schedule_stage (s : State) (a p : Nat) (ev : Instr) : (s.schedule a p ev).stage = s.stage := rfl
@[simp] theorem State.schedule_ix (s : State) (a p : Nat) (ev : Instr) : (s.schedule a p ev).ix = s.ix := rfl
@[simp] theorem State.schedule_stim (s : State) (a p : Nat) (ev : Instr) : (s.schedule a p ev).stim = s.stim := rfl
@[simp] theorem State.schedule_agenda (s : State) (a p : Nat) (ev : Instr) : (s.schedule a p ev).agenda = insertAgenda ⟨a, p, ev⟩ s.agenda := rfl
@[simp] theorem State.schedule_inputs (s : State) (a p : Nat) (ev : Instr) : (s.schedule a p ev).inputs = s.inputs := rfl
@[simp] theorem State.schedule_freeCount (s : State) (a p : Nat) (ev : Instr) : (s.schedule a p ev).freeCount = s.freeCount := rfl
@[simp] theorem State.schedule_nextId (s : State) (a p : Nat) (ev : Instr) : (s.schedule a p ev).nextId = s.nextId := rfl
@[simp] theorem State.schedule_cores (s : State) (a p : Nat) (ev : Instr) : (s.schedule a p ev).cores = s.cores := rfl
@[simp] theorem State.schedule_accs (s : State) (a p : Nat) (ev : Instr) : (s.schedule a p ev).accs = s.accs := rfl
@[simp] theorem State.schedule_memPend (s : State) (a p : Nat) (ev : Instr) : (s.schedule a p ev).memPend = s.memPend := rfl
@[simp] theorem State.schedule_memRecent (s : State) (a p : Nat) (ev : Instr) : (s.schedule a p ev).memRecent = s.memRecent := rfl
@[simp] theorem State.schedule_bufPend (s : State) (a p : Nat) (ev : Instr) : (s.schedule a p ev).bufPend = s.bufPend := rfl
@[simp] theorem State.schedule_pairs (s : State) (a p : Nat) (ev : Instr) : (s.schedule a p ev).pairs = s.pairs := rfl
@[simp] theorem State.schedule_binds (s : State) (a p : Nat) (ev : Instr) : (s.schedule a p ev).binds = s.binds := rfl
@[simp] theorem State.schedule_winAcc (s : State) (a p : Nat) (ev : Instr) : (s.schedule a p ev).winAcc = s.winAcc := rfl
@[simp] theorem State.schedule_fab (s : State) (a p : Nat) (ev : Instr) : (s.schedule a p ev).fab = s.fab := rfl
@[simp] theorem State.schedule_cmds (s : State) (a p : Nat) (ev : Instr) : (s.schedule a p ev).cmds = s.cmds := rfl
@[simp] theorem State.schedule_groups (s : State) (a p : Nat) (ev : Instr) : (s.schedule a p ev).groups = s.groups := rfl
@[simp] theorem State.schedule_sysWait (s : State) (a p : Nat) (ev : Instr) : (s.schedule a p ev).sysWait = s.sysWait := rfl
@[simp] theorem State.schedule_sysOut (s : State) (a p : Nat) (ev : Instr) : (s.schedule a p ev).sysOut = s.sysOut := rfl
@[simp] theorem State.schedule_images (s : State) (a p : Nat) (ev : Instr) : (s.schedule a p ev).images = s.images := rfl
@[simp] theorem State.schedule_queues (s : State) (a p : Nat) (ev : Instr) : (s.schedule a p ev).queues = s.queues := rfl
@[simp] theorem State.schedule_graphs (s : State) (a p : Nat) (ev : Instr) : (s.schedule a p ev).graphs = s.graphs := rfl
@[simp] theorem State.schedule_nextLid (s : State) (a p : Nat) (ev : Instr) : (s.schedule a p ev).nextLid = s.nextLid := rfl
@[simp] theorem State.schedule_lastBound (s : State) (a p : Nat) (ev : Instr) : (s.schedule a p ev).lastBound = s.lastBound := rfl
@[simp] theorem State.schedule_paramBase (s : State) (a p : Nat) (ev : Instr) : (s.schedule a p ev).paramBase = s.paramBase := rfl
@[simp] theorem State.schedule_mmb (s : State) (a p : Nat) (ev : Instr) : (s.schedule a p ev).mmb = s.mmb := rfl
@[simp] theorem State.schedule_devFaults (s : State) (a p : Nat) (ev : Instr) : (s.schedule a p ev).devFaults = s.devFaults := rfl
@[simp] theorem State.schedule_heat (s : State) (a p : Nat) (ev : Instr) : (s.schedule a p ev).heat = s.heat := rfl
@[simp] theorem State.schedule_moves (s : State) (a p : Nat) (ev : Instr) : (s.schedule a p ev).moves = s.moves := rfl
@[simp] theorem State.schedule_tensors (s : State) (a p : Nat) (ev : Instr) : (s.schedule a p ev).tensors = s.tensors := rfl
@[simp] theorem State.schedule_near (s : State) (a p : Nat) (ev : Instr) : (s.schedule a p ev).near = s.near := rfl
@[simp] theorem State.schedule_hbm (s : State) (a p : Nat) (ev : Instr) : (s.schedule a p ev).hbm = s.hbm := rfl
@[simp] theorem State.schedule_hbmGroups (s : State) (a p : Nat) (ev : Instr) : (s.schedule a p ev).hbmGroups = s.hbmGroups := rfl
@[simp] theorem State.schedule_badWords (s : State) (a p : Nat) (ev : Instr) : (s.schedule a p ev).badWords = s.badWords := rfl
@[simp] theorem State.schedule_link (s : State) (a p : Nat) (ev : Instr) : (s.schedule a p ev).link = s.link := rfl
@[simp] theorem State.schedule_ctls (s : State) (a p : Nat) (ev : Instr) : (s.schedule a p ev).ctls = s.ctls := rfl
@[simp] theorem State.schedule_mons (s : State) (a p : Nat) (ev : Instr) : (s.schedule a p ev).mons = s.mons := rfl
@[simp] theorem State.schedule_sec (s : State) (a p : Nat) (ev : Instr) : (s.schedule a p ev).sec = s.sec := rfl
@[simp] theorem State.schedule_jrn (s : State) (a p : Nat) (ev : Instr) : (s.schedule a p ev).jrn = s.jrn := rfl
@[simp] theorem State.schedule_freq (s : State) (a p : Nat) (ev : Instr) : (s.schedule a p ev).freq = s.freq := rfl
@[simp] theorem State.schedule_clusters (s : State) (a p : Nat) (ev : Instr) : (s.schedule a p ev).clusters = s.clusters := rfl
@[simp] theorem State.schedule_dieStacks (s : State) (a p : Nat) (ev : Instr) : (s.schedule a p ev).dieStacks = s.dieStacks := rfl
@[simp] theorem State.schedule_parity (s : State) (a p : Nat) (ev : Instr) : (s.schedule a p ev).parity = s.parity := rfl
@[simp] theorem State.schedule_flips (s : State) (a p : Nat) (ev : Instr) : (s.schedule a p ev).flips = s.flips := rfl

/-! setCmd -/

@[simp] theorem State.setCmd_mem (s : State) (k : Cmd) : (s.setCmd k).mem = s.mem := rfl
@[simp] theorem State.setCmd_clock (s : State) (k : Cmd) : (s.setCmd k).clock = s.clock := rfl
@[simp] theorem State.setCmd_wall (s : State) (k : Cmd) : (s.setCmd k).wall = s.wall := rfl
@[simp] theorem State.setCmd_stage (s : State) (k : Cmd) : (s.setCmd k).stage = s.stage := rfl
@[simp] theorem State.setCmd_ix (s : State) (k : Cmd) : (s.setCmd k).ix = s.ix := rfl
@[simp] theorem State.setCmd_stim (s : State) (k : Cmd) : (s.setCmd k).stim = s.stim := rfl
@[simp] theorem State.setCmd_agenda (s : State) (k : Cmd) : (s.setCmd k).agenda = s.agenda := rfl
@[simp] theorem State.setCmd_inputs (s : State) (k : Cmd) : (s.setCmd k).inputs = s.inputs := rfl
@[simp] theorem State.setCmd_freeCount (s : State) (k : Cmd) : (s.setCmd k).freeCount = s.freeCount := rfl
@[simp] theorem State.setCmd_nextId (s : State) (k : Cmd) : (s.setCmd k).nextId = s.nextId := rfl
@[simp] theorem State.setCmd_cores (s : State) (k : Cmd) : (s.setCmd k).cores = s.cores := rfl
@[simp] theorem State.setCmd_accs (s : State) (k : Cmd) : (s.setCmd k).accs = s.accs := rfl
@[simp] theorem State.setCmd_memPend (s : State) (k : Cmd) : (s.setCmd k).memPend = s.memPend := rfl
@[simp] theorem State.setCmd_memRecent (s : State) (k : Cmd) : (s.setCmd k).memRecent = s.memRecent := rfl
@[simp] theorem State.setCmd_bufPend (s : State) (k : Cmd) : (s.setCmd k).bufPend = s.bufPend := rfl
@[simp] theorem State.setCmd_pairs (s : State) (k : Cmd) : (s.setCmd k).pairs = s.pairs := rfl
@[simp] theorem State.setCmd_binds (s : State) (k : Cmd) : (s.setCmd k).binds = s.binds := rfl
@[simp] theorem State.setCmd_winAcc (s : State) (k : Cmd) : (s.setCmd k).winAcc = s.winAcc := rfl
@[simp] theorem State.setCmd_fab (s : State) (k : Cmd) : (s.setCmd k).fab = s.fab := rfl
@[simp] theorem State.setCmd_cmds (s : State) (k : Cmd) : (s.setCmd k).cmds = s.cmds.map fun j => if j.id == k.id then k else j := rfl
@[simp] theorem State.setCmd_groups (s : State) (k : Cmd) : (s.setCmd k).groups = s.groups := rfl
@[simp] theorem State.setCmd_sysWait (s : State) (k : Cmd) : (s.setCmd k).sysWait = s.sysWait := rfl
@[simp] theorem State.setCmd_sysOut (s : State) (k : Cmd) : (s.setCmd k).sysOut = s.sysOut := rfl
@[simp] theorem State.setCmd_images (s : State) (k : Cmd) : (s.setCmd k).images = s.images := rfl
@[simp] theorem State.setCmd_queues (s : State) (k : Cmd) : (s.setCmd k).queues = s.queues := rfl
@[simp] theorem State.setCmd_graphs (s : State) (k : Cmd) : (s.setCmd k).graphs = s.graphs := rfl
@[simp] theorem State.setCmd_nextLid (s : State) (k : Cmd) : (s.setCmd k).nextLid = s.nextLid := rfl
@[simp] theorem State.setCmd_lastBound (s : State) (k : Cmd) : (s.setCmd k).lastBound = s.lastBound := rfl
@[simp] theorem State.setCmd_paramBase (s : State) (k : Cmd) : (s.setCmd k).paramBase = s.paramBase := rfl
@[simp] theorem State.setCmd_mmb (s : State) (k : Cmd) : (s.setCmd k).mmb = s.mmb := rfl
@[simp] theorem State.setCmd_devFaults (s : State) (k : Cmd) : (s.setCmd k).devFaults = s.devFaults := rfl
@[simp] theorem State.setCmd_heat (s : State) (k : Cmd) : (s.setCmd k).heat = s.heat := rfl
@[simp] theorem State.setCmd_moves (s : State) (k : Cmd) : (s.setCmd k).moves = s.moves := rfl
@[simp] theorem State.setCmd_tensors (s : State) (k : Cmd) : (s.setCmd k).tensors = s.tensors := rfl
@[simp] theorem State.setCmd_near (s : State) (k : Cmd) : (s.setCmd k).near = s.near := rfl
@[simp] theorem State.setCmd_hbm (s : State) (k : Cmd) : (s.setCmd k).hbm = s.hbm := rfl
@[simp] theorem State.setCmd_hbmGroups (s : State) (k : Cmd) : (s.setCmd k).hbmGroups = s.hbmGroups := rfl
@[simp] theorem State.setCmd_badWords (s : State) (k : Cmd) : (s.setCmd k).badWords = s.badWords := rfl
@[simp] theorem State.setCmd_link (s : State) (k : Cmd) : (s.setCmd k).link = s.link := rfl
@[simp] theorem State.setCmd_ctls (s : State) (k : Cmd) : (s.setCmd k).ctls = s.ctls := rfl
@[simp] theorem State.setCmd_mons (s : State) (k : Cmd) : (s.setCmd k).mons = s.mons := rfl
@[simp] theorem State.setCmd_sec (s : State) (k : Cmd) : (s.setCmd k).sec = s.sec := rfl
@[simp] theorem State.setCmd_jrn (s : State) (k : Cmd) : (s.setCmd k).jrn = s.jrn := rfl
@[simp] theorem State.setCmd_freq (s : State) (k : Cmd) : (s.setCmd k).freq = s.freq := rfl
@[simp] theorem State.setCmd_clusters (s : State) (k : Cmd) : (s.setCmd k).clusters = s.clusters := rfl
@[simp] theorem State.setCmd_dieStacks (s : State) (k : Cmd) : (s.setCmd k).dieStacks = s.dieStacks := rfl
@[simp] theorem State.setCmd_parity (s : State) (k : Cmd) : (s.setCmd k).parity = s.parity := rfl
@[simp] theorem State.setCmd_flips (s : State) (k : Cmd) : (s.setCmd k).flips = s.flips := rfl

/-! dropCmd -/

@[simp] theorem State.dropCmd_mem (s : State) (i : Nat) : (s.dropCmd i).mem = s.mem := rfl
@[simp] theorem State.dropCmd_clock (s : State) (i : Nat) : (s.dropCmd i).clock = s.clock := rfl
@[simp] theorem State.dropCmd_wall (s : State) (i : Nat) : (s.dropCmd i).wall = s.wall := rfl
@[simp] theorem State.dropCmd_stage (s : State) (i : Nat) : (s.dropCmd i).stage = s.stage := rfl
@[simp] theorem State.dropCmd_ix (s : State) (i : Nat) : (s.dropCmd i).ix = s.ix := rfl
@[simp] theorem State.dropCmd_stim (s : State) (i : Nat) : (s.dropCmd i).stim = s.stim := rfl
@[simp] theorem State.dropCmd_agenda (s : State) (i : Nat) : (s.dropCmd i).agenda = s.agenda := rfl
@[simp] theorem State.dropCmd_inputs (s : State) (i : Nat) : (s.dropCmd i).inputs = s.inputs := rfl
@[simp] theorem State.dropCmd_freeCount (s : State) (i : Nat) : (s.dropCmd i).freeCount = s.freeCount := rfl
@[simp] theorem State.dropCmd_nextId (s : State) (i : Nat) : (s.dropCmd i).nextId = s.nextId := rfl
@[simp] theorem State.dropCmd_cores (s : State) (i : Nat) : (s.dropCmd i).cores = s.cores := rfl
@[simp] theorem State.dropCmd_accs (s : State) (i : Nat) : (s.dropCmd i).accs = s.accs := rfl
@[simp] theorem State.dropCmd_memPend (s : State) (i : Nat) : (s.dropCmd i).memPend = s.memPend := rfl
@[simp] theorem State.dropCmd_memRecent (s : State) (i : Nat) : (s.dropCmd i).memRecent = s.memRecent := rfl
@[simp] theorem State.dropCmd_bufPend (s : State) (i : Nat) : (s.dropCmd i).bufPend = s.bufPend := rfl
@[simp] theorem State.dropCmd_pairs (s : State) (i : Nat) : (s.dropCmd i).pairs = s.pairs := rfl
@[simp] theorem State.dropCmd_binds (s : State) (i : Nat) : (s.dropCmd i).binds = s.binds := rfl
@[simp] theorem State.dropCmd_winAcc (s : State) (i : Nat) : (s.dropCmd i).winAcc = s.winAcc := rfl
@[simp] theorem State.dropCmd_fab (s : State) (i : Nat) : (s.dropCmd i).fab = s.fab := rfl
@[simp] theorem State.dropCmd_cmds (s : State) (i : Nat) : (s.dropCmd i).cmds = s.cmds.filter fun j => j.id != i := rfl
@[simp] theorem State.dropCmd_groups (s : State) (i : Nat) : (s.dropCmd i).groups = s.groups := rfl
@[simp] theorem State.dropCmd_sysWait (s : State) (i : Nat) : (s.dropCmd i).sysWait = s.sysWait := rfl
@[simp] theorem State.dropCmd_sysOut (s : State) (i : Nat) : (s.dropCmd i).sysOut = s.sysOut := rfl
@[simp] theorem State.dropCmd_images (s : State) (i : Nat) : (s.dropCmd i).images = s.images := rfl
@[simp] theorem State.dropCmd_queues (s : State) (i : Nat) : (s.dropCmd i).queues = s.queues := rfl
@[simp] theorem State.dropCmd_graphs (s : State) (i : Nat) : (s.dropCmd i).graphs = s.graphs := rfl
@[simp] theorem State.dropCmd_nextLid (s : State) (i : Nat) : (s.dropCmd i).nextLid = s.nextLid := rfl
@[simp] theorem State.dropCmd_lastBound (s : State) (i : Nat) : (s.dropCmd i).lastBound = s.lastBound := rfl
@[simp] theorem State.dropCmd_paramBase (s : State) (i : Nat) : (s.dropCmd i).paramBase = s.paramBase := rfl
@[simp] theorem State.dropCmd_mmb (s : State) (i : Nat) : (s.dropCmd i).mmb = s.mmb := rfl
@[simp] theorem State.dropCmd_devFaults (s : State) (i : Nat) : (s.dropCmd i).devFaults = s.devFaults := rfl
@[simp] theorem State.dropCmd_heat (s : State) (i : Nat) : (s.dropCmd i).heat = s.heat := rfl
@[simp] theorem State.dropCmd_moves (s : State) (i : Nat) : (s.dropCmd i).moves = s.moves := rfl
@[simp] theorem State.dropCmd_tensors (s : State) (i : Nat) : (s.dropCmd i).tensors = s.tensors := rfl
@[simp] theorem State.dropCmd_near (s : State) (i : Nat) : (s.dropCmd i).near = s.near := rfl
@[simp] theorem State.dropCmd_hbm (s : State) (i : Nat) : (s.dropCmd i).hbm = s.hbm := rfl
@[simp] theorem State.dropCmd_hbmGroups (s : State) (i : Nat) : (s.dropCmd i).hbmGroups = s.hbmGroups := rfl
@[simp] theorem State.dropCmd_badWords (s : State) (i : Nat) : (s.dropCmd i).badWords = s.badWords := rfl
@[simp] theorem State.dropCmd_link (s : State) (i : Nat) : (s.dropCmd i).link = s.link := rfl
@[simp] theorem State.dropCmd_ctls (s : State) (i : Nat) : (s.dropCmd i).ctls = s.ctls := rfl
@[simp] theorem State.dropCmd_mons (s : State) (i : Nat) : (s.dropCmd i).mons = s.mons := rfl
@[simp] theorem State.dropCmd_sec (s : State) (i : Nat) : (s.dropCmd i).sec = s.sec := rfl
@[simp] theorem State.dropCmd_jrn (s : State) (i : Nat) : (s.dropCmd i).jrn = s.jrn := rfl
@[simp] theorem State.dropCmd_freq (s : State) (i : Nat) : (s.dropCmd i).freq = s.freq := rfl
@[simp] theorem State.dropCmd_clusters (s : State) (i : Nat) : (s.dropCmd i).clusters = s.clusters := rfl
@[simp] theorem State.dropCmd_dieStacks (s : State) (i : Nat) : (s.dropCmd i).dieStacks = s.dieStacks := rfl
@[simp] theorem State.dropCmd_parity (s : State) (i : Nat) : (s.dropCmd i).parity = s.parity := rfl
@[simp] theorem State.dropCmd_flips (s : State) (i : Nat) : (s.dropCmd i).flips = s.flips := rfl

/-! setQueue -/

@[simp] theorem State.setQueue_mem (s : State) (q : Nat) (x : Queue) : (s.setQueue q x).mem = s.mem := rfl
@[simp] theorem State.setQueue_clock (s : State) (q : Nat) (x : Queue) : (s.setQueue q x).clock = s.clock := rfl
@[simp] theorem State.setQueue_wall (s : State) (q : Nat) (x : Queue) : (s.setQueue q x).wall = s.wall := rfl
@[simp] theorem State.setQueue_stage (s : State) (q : Nat) (x : Queue) : (s.setQueue q x).stage = s.stage := rfl
@[simp] theorem State.setQueue_ix (s : State) (q : Nat) (x : Queue) : (s.setQueue q x).ix = s.ix := rfl
@[simp] theorem State.setQueue_stim (s : State) (q : Nat) (x : Queue) : (s.setQueue q x).stim = s.stim := rfl
@[simp] theorem State.setQueue_agenda (s : State) (q : Nat) (x : Queue) : (s.setQueue q x).agenda = s.agenda := rfl
@[simp] theorem State.setQueue_inputs (s : State) (q : Nat) (x : Queue) : (s.setQueue q x).inputs = s.inputs := rfl
@[simp] theorem State.setQueue_freeCount (s : State) (q : Nat) (x : Queue) : (s.setQueue q x).freeCount = s.freeCount := rfl
@[simp] theorem State.setQueue_nextId (s : State) (q : Nat) (x : Queue) : (s.setQueue q x).nextId = s.nextId := rfl
@[simp] theorem State.setQueue_cores (s : State) (q : Nat) (x : Queue) : (s.setQueue q x).cores = s.cores := rfl
@[simp] theorem State.setQueue_accs (s : State) (q : Nat) (x : Queue) : (s.setQueue q x).accs = s.accs := rfl
@[simp] theorem State.setQueue_memPend (s : State) (q : Nat) (x : Queue) : (s.setQueue q x).memPend = s.memPend := rfl
@[simp] theorem State.setQueue_memRecent (s : State) (q : Nat) (x : Queue) : (s.setQueue q x).memRecent = s.memRecent := rfl
@[simp] theorem State.setQueue_bufPend (s : State) (q : Nat) (x : Queue) : (s.setQueue q x).bufPend = s.bufPend := rfl
@[simp] theorem State.setQueue_pairs (s : State) (q : Nat) (x : Queue) : (s.setQueue q x).pairs = s.pairs := rfl
@[simp] theorem State.setQueue_binds (s : State) (q : Nat) (x : Queue) : (s.setQueue q x).binds = s.binds := rfl
@[simp] theorem State.setQueue_winAcc (s : State) (q : Nat) (x : Queue) : (s.setQueue q x).winAcc = s.winAcc := rfl
@[simp] theorem State.setQueue_fab (s : State) (q : Nat) (x : Queue) : (s.setQueue q x).fab = s.fab := rfl
@[simp] theorem State.setQueue_cmds (s : State) (q : Nat) (x : Queue) : (s.setQueue q x).cmds = s.cmds := rfl
@[simp] theorem State.setQueue_groups (s : State) (q : Nat) (x : Queue) : (s.setQueue q x).groups = s.groups := rfl
@[simp] theorem State.setQueue_sysWait (s : State) (q : Nat) (x : Queue) : (s.setQueue q x).sysWait = s.sysWait := rfl
@[simp] theorem State.setQueue_sysOut (s : State) (q : Nat) (x : Queue) : (s.setQueue q x).sysOut = s.sysOut := rfl
@[simp] theorem State.setQueue_images (s : State) (q : Nat) (x : Queue) : (s.setQueue q x).images = s.images := rfl
@[simp] theorem State.setQueue_queues (s : State) (q : Nat) (x : Queue) : (s.setQueue q x).queues = SMap.put Queue.init s.queues q x := rfl
@[simp] theorem State.setQueue_graphs (s : State) (q : Nat) (x : Queue) : (s.setQueue q x).graphs = s.graphs := rfl
@[simp] theorem State.setQueue_nextLid (s : State) (q : Nat) (x : Queue) : (s.setQueue q x).nextLid = s.nextLid := rfl
@[simp] theorem State.setQueue_lastBound (s : State) (q : Nat) (x : Queue) : (s.setQueue q x).lastBound = s.lastBound := rfl
@[simp] theorem State.setQueue_paramBase (s : State) (q : Nat) (x : Queue) : (s.setQueue q x).paramBase = s.paramBase := rfl
@[simp] theorem State.setQueue_mmb (s : State) (q : Nat) (x : Queue) : (s.setQueue q x).mmb = s.mmb := rfl
@[simp] theorem State.setQueue_devFaults (s : State) (q : Nat) (x : Queue) : (s.setQueue q x).devFaults = s.devFaults := rfl
@[simp] theorem State.setQueue_heat (s : State) (q : Nat) (x : Queue) : (s.setQueue q x).heat = s.heat := rfl
@[simp] theorem State.setQueue_moves (s : State) (q : Nat) (x : Queue) : (s.setQueue q x).moves = s.moves := rfl
@[simp] theorem State.setQueue_tensors (s : State) (q : Nat) (x : Queue) : (s.setQueue q x).tensors = s.tensors := rfl
@[simp] theorem State.setQueue_near (s : State) (q : Nat) (x : Queue) : (s.setQueue q x).near = s.near := rfl
@[simp] theorem State.setQueue_hbm (s : State) (q : Nat) (x : Queue) : (s.setQueue q x).hbm = s.hbm := rfl
@[simp] theorem State.setQueue_hbmGroups (s : State) (q : Nat) (x : Queue) : (s.setQueue q x).hbmGroups = s.hbmGroups := rfl
@[simp] theorem State.setQueue_badWords (s : State) (q : Nat) (x : Queue) : (s.setQueue q x).badWords = s.badWords := rfl
@[simp] theorem State.setQueue_link (s : State) (q : Nat) (x : Queue) : (s.setQueue q x).link = s.link := rfl
@[simp] theorem State.setQueue_ctls (s : State) (q : Nat) (x : Queue) : (s.setQueue q x).ctls = s.ctls := rfl
@[simp] theorem State.setQueue_mons (s : State) (q : Nat) (x : Queue) : (s.setQueue q x).mons = s.mons := rfl
@[simp] theorem State.setQueue_sec (s : State) (q : Nat) (x : Queue) : (s.setQueue q x).sec = s.sec := rfl
@[simp] theorem State.setQueue_jrn (s : State) (q : Nat) (x : Queue) : (s.setQueue q x).jrn = s.jrn := rfl
@[simp] theorem State.setQueue_freq (s : State) (q : Nat) (x : Queue) : (s.setQueue q x).freq = s.freq := rfl
@[simp] theorem State.setQueue_clusters (s : State) (q : Nat) (x : Queue) : (s.setQueue q x).clusters = s.clusters := rfl
@[simp] theorem State.setQueue_dieStacks (s : State) (q : Nat) (x : Queue) : (s.setQueue q x).dieStacks = s.dieStacks := rfl
@[simp] theorem State.setQueue_parity (s : State) (q : Nat) (x : Queue) : (s.setQueue q x).parity = s.parity := rfl
@[simp] theorem State.setQueue_flips (s : State) (q : Nat) (x : Queue) : (s.setQueue q x).flips = s.flips := rfl

/-! setCtl -/

@[simp] theorem State.setCtl_mem (s : State) (k : Nat) (c : Ctl) : (s.setCtl k c).mem = s.mem := rfl
@[simp] theorem State.setCtl_clock (s : State) (k : Nat) (c : Ctl) : (s.setCtl k c).clock = s.clock := rfl
@[simp] theorem State.setCtl_wall (s : State) (k : Nat) (c : Ctl) : (s.setCtl k c).wall = s.wall := rfl
@[simp] theorem State.setCtl_stage (s : State) (k : Nat) (c : Ctl) : (s.setCtl k c).stage = s.stage := rfl
@[simp] theorem State.setCtl_ix (s : State) (k : Nat) (c : Ctl) : (s.setCtl k c).ix = s.ix := rfl
@[simp] theorem State.setCtl_stim (s : State) (k : Nat) (c : Ctl) : (s.setCtl k c).stim = s.stim := rfl
@[simp] theorem State.setCtl_agenda (s : State) (k : Nat) (c : Ctl) : (s.setCtl k c).agenda = s.agenda := rfl
@[simp] theorem State.setCtl_inputs (s : State) (k : Nat) (c : Ctl) : (s.setCtl k c).inputs = s.inputs := rfl
@[simp] theorem State.setCtl_freeCount (s : State) (k : Nat) (c : Ctl) : (s.setCtl k c).freeCount = s.freeCount := rfl
@[simp] theorem State.setCtl_nextId (s : State) (k : Nat) (c : Ctl) : (s.setCtl k c).nextId = s.nextId := rfl
@[simp] theorem State.setCtl_cores (s : State) (k : Nat) (c : Ctl) : (s.setCtl k c).cores = s.cores := rfl
@[simp] theorem State.setCtl_accs (s : State) (k : Nat) (c : Ctl) : (s.setCtl k c).accs = s.accs := rfl
@[simp] theorem State.setCtl_memPend (s : State) (k : Nat) (c : Ctl) : (s.setCtl k c).memPend = s.memPend := rfl
@[simp] theorem State.setCtl_memRecent (s : State) (k : Nat) (c : Ctl) : (s.setCtl k c).memRecent = s.memRecent := rfl
@[simp] theorem State.setCtl_bufPend (s : State) (k : Nat) (c : Ctl) : (s.setCtl k c).bufPend = s.bufPend := rfl
@[simp] theorem State.setCtl_pairs (s : State) (k : Nat) (c : Ctl) : (s.setCtl k c).pairs = s.pairs := rfl
@[simp] theorem State.setCtl_binds (s : State) (k : Nat) (c : Ctl) : (s.setCtl k c).binds = s.binds := rfl
@[simp] theorem State.setCtl_winAcc (s : State) (k : Nat) (c : Ctl) : (s.setCtl k c).winAcc = s.winAcc := rfl
@[simp] theorem State.setCtl_fab (s : State) (k : Nat) (c : Ctl) : (s.setCtl k c).fab = s.fab := rfl
@[simp] theorem State.setCtl_cmds (s : State) (k : Nat) (c : Ctl) : (s.setCtl k c).cmds = s.cmds := rfl
@[simp] theorem State.setCtl_groups (s : State) (k : Nat) (c : Ctl) : (s.setCtl k c).groups = s.groups := rfl
@[simp] theorem State.setCtl_sysWait (s : State) (k : Nat) (c : Ctl) : (s.setCtl k c).sysWait = s.sysWait := rfl
@[simp] theorem State.setCtl_sysOut (s : State) (k : Nat) (c : Ctl) : (s.setCtl k c).sysOut = s.sysOut := rfl
@[simp] theorem State.setCtl_images (s : State) (k : Nat) (c : Ctl) : (s.setCtl k c).images = s.images := rfl
@[simp] theorem State.setCtl_queues (s : State) (k : Nat) (c : Ctl) : (s.setCtl k c).queues = s.queues := rfl
@[simp] theorem State.setCtl_graphs (s : State) (k : Nat) (c : Ctl) : (s.setCtl k c).graphs = s.graphs := rfl
@[simp] theorem State.setCtl_nextLid (s : State) (k : Nat) (c : Ctl) : (s.setCtl k c).nextLid = s.nextLid := rfl
@[simp] theorem State.setCtl_lastBound (s : State) (k : Nat) (c : Ctl) : (s.setCtl k c).lastBound = s.lastBound := rfl
@[simp] theorem State.setCtl_paramBase (s : State) (k : Nat) (c : Ctl) : (s.setCtl k c).paramBase = s.paramBase := rfl
@[simp] theorem State.setCtl_mmb (s : State) (k : Nat) (c : Ctl) : (s.setCtl k c).mmb = s.mmb := rfl
@[simp] theorem State.setCtl_devFaults (s : State) (k : Nat) (c : Ctl) : (s.setCtl k c).devFaults = s.devFaults := rfl
@[simp] theorem State.setCtl_heat (s : State) (k : Nat) (c : Ctl) : (s.setCtl k c).heat = s.heat := rfl
@[simp] theorem State.setCtl_moves (s : State) (k : Nat) (c : Ctl) : (s.setCtl k c).moves = s.moves := rfl
@[simp] theorem State.setCtl_tensors (s : State) (k : Nat) (c : Ctl) : (s.setCtl k c).tensors = s.tensors := rfl
@[simp] theorem State.setCtl_near (s : State) (k : Nat) (c : Ctl) : (s.setCtl k c).near = s.near := rfl
@[simp] theorem State.setCtl_hbm (s : State) (k : Nat) (c : Ctl) : (s.setCtl k c).hbm = s.hbm := rfl
@[simp] theorem State.setCtl_hbmGroups (s : State) (k : Nat) (c : Ctl) : (s.setCtl k c).hbmGroups = s.hbmGroups := rfl
@[simp] theorem State.setCtl_badWords (s : State) (k : Nat) (c : Ctl) : (s.setCtl k c).badWords = s.badWords := rfl
@[simp] theorem State.setCtl_link (s : State) (k : Nat) (c : Ctl) : (s.setCtl k c).link = s.link := rfl
@[simp] theorem State.setCtl_ctls (s : State) (k : Nat) (c : Ctl) : (s.setCtl k c).ctls = SMap.put Ctl.init s.ctls k c := rfl
@[simp] theorem State.setCtl_mons (s : State) (k : Nat) (c : Ctl) : (s.setCtl k c).mons = s.mons := rfl
@[simp] theorem State.setCtl_sec (s : State) (k : Nat) (c : Ctl) : (s.setCtl k c).sec = s.sec := rfl
@[simp] theorem State.setCtl_jrn (s : State) (k : Nat) (c : Ctl) : (s.setCtl k c).jrn = s.jrn := rfl
@[simp] theorem State.setCtl_freq (s : State) (k : Nat) (c : Ctl) : (s.setCtl k c).freq = s.freq := rfl
@[simp] theorem State.setCtl_clusters (s : State) (k : Nat) (c : Ctl) : (s.setCtl k c).clusters = s.clusters := rfl
@[simp] theorem State.setCtl_dieStacks (s : State) (k : Nat) (c : Ctl) : (s.setCtl k c).dieStacks = s.dieStacks := rfl
@[simp] theorem State.setCtl_parity (s : State) (k : Nat) (c : Ctl) : (s.setCtl k c).parity = s.parity := rfl
@[simp] theorem State.setCtl_flips (s : State) (k : Nat) (c : Ctl) : (s.setCtl k c).flips = s.flips := rfl

/-! setMon -/

@[simp] theorem State.setMon_mem (s : State) (k : Nat) (x : Monitor) : (s.setMon k x).mem = s.mem := rfl
@[simp] theorem State.setMon_clock (s : State) (k : Nat) (x : Monitor) : (s.setMon k x).clock = s.clock := rfl
@[simp] theorem State.setMon_wall (s : State) (k : Nat) (x : Monitor) : (s.setMon k x).wall = s.wall := rfl
@[simp] theorem State.setMon_stage (s : State) (k : Nat) (x : Monitor) : (s.setMon k x).stage = s.stage := rfl
@[simp] theorem State.setMon_ix (s : State) (k : Nat) (x : Monitor) : (s.setMon k x).ix = s.ix := rfl
@[simp] theorem State.setMon_stim (s : State) (k : Nat) (x : Monitor) : (s.setMon k x).stim = s.stim := rfl
@[simp] theorem State.setMon_agenda (s : State) (k : Nat) (x : Monitor) : (s.setMon k x).agenda = s.agenda := rfl
@[simp] theorem State.setMon_inputs (s : State) (k : Nat) (x : Monitor) : (s.setMon k x).inputs = s.inputs := rfl
@[simp] theorem State.setMon_freeCount (s : State) (k : Nat) (x : Monitor) : (s.setMon k x).freeCount = s.freeCount := rfl
@[simp] theorem State.setMon_nextId (s : State) (k : Nat) (x : Monitor) : (s.setMon k x).nextId = s.nextId := rfl
@[simp] theorem State.setMon_cores (s : State) (k : Nat) (x : Monitor) : (s.setMon k x).cores = s.cores := rfl
@[simp] theorem State.setMon_accs (s : State) (k : Nat) (x : Monitor) : (s.setMon k x).accs = s.accs := rfl
@[simp] theorem State.setMon_memPend (s : State) (k : Nat) (x : Monitor) : (s.setMon k x).memPend = s.memPend := rfl
@[simp] theorem State.setMon_memRecent (s : State) (k : Nat) (x : Monitor) : (s.setMon k x).memRecent = s.memRecent := rfl
@[simp] theorem State.setMon_bufPend (s : State) (k : Nat) (x : Monitor) : (s.setMon k x).bufPend = s.bufPend := rfl
@[simp] theorem State.setMon_pairs (s : State) (k : Nat) (x : Monitor) : (s.setMon k x).pairs = s.pairs := rfl
@[simp] theorem State.setMon_binds (s : State) (k : Nat) (x : Monitor) : (s.setMon k x).binds = s.binds := rfl
@[simp] theorem State.setMon_winAcc (s : State) (k : Nat) (x : Monitor) : (s.setMon k x).winAcc = s.winAcc := rfl
@[simp] theorem State.setMon_fab (s : State) (k : Nat) (x : Monitor) : (s.setMon k x).fab = s.fab := rfl
@[simp] theorem State.setMon_cmds (s : State) (k : Nat) (x : Monitor) : (s.setMon k x).cmds = s.cmds := rfl
@[simp] theorem State.setMon_groups (s : State) (k : Nat) (x : Monitor) : (s.setMon k x).groups = s.groups := rfl
@[simp] theorem State.setMon_sysWait (s : State) (k : Nat) (x : Monitor) : (s.setMon k x).sysWait = s.sysWait := rfl
@[simp] theorem State.setMon_sysOut (s : State) (k : Nat) (x : Monitor) : (s.setMon k x).sysOut = s.sysOut := rfl
@[simp] theorem State.setMon_images (s : State) (k : Nat) (x : Monitor) : (s.setMon k x).images = s.images := rfl
@[simp] theorem State.setMon_queues (s : State) (k : Nat) (x : Monitor) : (s.setMon k x).queues = s.queues := rfl
@[simp] theorem State.setMon_graphs (s : State) (k : Nat) (x : Monitor) : (s.setMon k x).graphs = s.graphs := rfl
@[simp] theorem State.setMon_nextLid (s : State) (k : Nat) (x : Monitor) : (s.setMon k x).nextLid = s.nextLid := rfl
@[simp] theorem State.setMon_lastBound (s : State) (k : Nat) (x : Monitor) : (s.setMon k x).lastBound = s.lastBound := rfl
@[simp] theorem State.setMon_paramBase (s : State) (k : Nat) (x : Monitor) : (s.setMon k x).paramBase = s.paramBase := rfl
@[simp] theorem State.setMon_mmb (s : State) (k : Nat) (x : Monitor) : (s.setMon k x).mmb = s.mmb := rfl
@[simp] theorem State.setMon_devFaults (s : State) (k : Nat) (x : Monitor) : (s.setMon k x).devFaults = s.devFaults := rfl
@[simp] theorem State.setMon_heat (s : State) (k : Nat) (x : Monitor) : (s.setMon k x).heat = s.heat := rfl
@[simp] theorem State.setMon_moves (s : State) (k : Nat) (x : Monitor) : (s.setMon k x).moves = s.moves := rfl
@[simp] theorem State.setMon_tensors (s : State) (k : Nat) (x : Monitor) : (s.setMon k x).tensors = s.tensors := rfl
@[simp] theorem State.setMon_near (s : State) (k : Nat) (x : Monitor) : (s.setMon k x).near = s.near := rfl
@[simp] theorem State.setMon_hbm (s : State) (k : Nat) (x : Monitor) : (s.setMon k x).hbm = s.hbm := rfl
@[simp] theorem State.setMon_hbmGroups (s : State) (k : Nat) (x : Monitor) : (s.setMon k x).hbmGroups = s.hbmGroups := rfl
@[simp] theorem State.setMon_badWords (s : State) (k : Nat) (x : Monitor) : (s.setMon k x).badWords = s.badWords := rfl
@[simp] theorem State.setMon_link (s : State) (k : Nat) (x : Monitor) : (s.setMon k x).link = s.link := rfl
@[simp] theorem State.setMon_ctls (s : State) (k : Nat) (x : Monitor) : (s.setMon k x).ctls = s.ctls := rfl
@[simp] theorem State.setMon_mons (s : State) (k : Nat) (x : Monitor) : (s.setMon k x).mons = SMap.put Monitor.init s.mons k x := rfl
@[simp] theorem State.setMon_sec (s : State) (k : Nat) (x : Monitor) : (s.setMon k x).sec = s.sec := rfl
@[simp] theorem State.setMon_jrn (s : State) (k : Nat) (x : Monitor) : (s.setMon k x).jrn = s.jrn := rfl
@[simp] theorem State.setMon_freq (s : State) (k : Nat) (x : Monitor) : (s.setMon k x).freq = s.freq := rfl
@[simp] theorem State.setMon_clusters (s : State) (k : Nat) (x : Monitor) : (s.setMon k x).clusters = s.clusters := rfl
@[simp] theorem State.setMon_dieStacks (s : State) (k : Nat) (x : Monitor) : (s.setMon k x).dieStacks = s.dieStacks := rfl
@[simp] theorem State.setMon_parity (s : State) (k : Nat) (x : Monitor) : (s.setMon k x).parity = s.parity := rfl
@[simp] theorem State.setMon_flips (s : State) (k : Nat) (x : Monitor) : (s.setMon k x).flips = s.flips := rfl

/-! setJrn -/

@[simp] theorem State.setJrn_mem (s : State) (j : Journal) : (s.setJrn j).mem = s.mem := rfl
@[simp] theorem State.setJrn_clock (s : State) (j : Journal) : (s.setJrn j).clock = s.clock := rfl
@[simp] theorem State.setJrn_wall (s : State) (j : Journal) : (s.setJrn j).wall = s.wall := rfl
@[simp] theorem State.setJrn_stage (s : State) (j : Journal) : (s.setJrn j).stage = s.stage := rfl
@[simp] theorem State.setJrn_ix (s : State) (j : Journal) : (s.setJrn j).ix = s.ix := rfl
@[simp] theorem State.setJrn_stim (s : State) (j : Journal) : (s.setJrn j).stim = s.stim := rfl
@[simp] theorem State.setJrn_agenda (s : State) (j : Journal) : (s.setJrn j).agenda = s.agenda := rfl
@[simp] theorem State.setJrn_inputs (s : State) (j : Journal) : (s.setJrn j).inputs = s.inputs := rfl
@[simp] theorem State.setJrn_freeCount (s : State) (j : Journal) : (s.setJrn j).freeCount = s.freeCount := rfl
@[simp] theorem State.setJrn_nextId (s : State) (j : Journal) : (s.setJrn j).nextId = s.nextId := rfl
@[simp] theorem State.setJrn_cores (s : State) (j : Journal) : (s.setJrn j).cores = s.cores := rfl
@[simp] theorem State.setJrn_accs (s : State) (j : Journal) : (s.setJrn j).accs = s.accs := rfl
@[simp] theorem State.setJrn_memPend (s : State) (j : Journal) : (s.setJrn j).memPend = s.memPend := rfl
@[simp] theorem State.setJrn_memRecent (s : State) (j : Journal) : (s.setJrn j).memRecent = s.memRecent := rfl
@[simp] theorem State.setJrn_bufPend (s : State) (j : Journal) : (s.setJrn j).bufPend = s.bufPend := rfl
@[simp] theorem State.setJrn_pairs (s : State) (j : Journal) : (s.setJrn j).pairs = s.pairs := rfl
@[simp] theorem State.setJrn_binds (s : State) (j : Journal) : (s.setJrn j).binds = s.binds := rfl
@[simp] theorem State.setJrn_winAcc (s : State) (j : Journal) : (s.setJrn j).winAcc = s.winAcc := rfl
@[simp] theorem State.setJrn_fab (s : State) (j : Journal) : (s.setJrn j).fab = s.fab := rfl
@[simp] theorem State.setJrn_cmds (s : State) (j : Journal) : (s.setJrn j).cmds = s.cmds := rfl
@[simp] theorem State.setJrn_groups (s : State) (j : Journal) : (s.setJrn j).groups = s.groups := rfl
@[simp] theorem State.setJrn_sysWait (s : State) (j : Journal) : (s.setJrn j).sysWait = s.sysWait := rfl
@[simp] theorem State.setJrn_sysOut (s : State) (j : Journal) : (s.setJrn j).sysOut = s.sysOut := rfl
@[simp] theorem State.setJrn_images (s : State) (j : Journal) : (s.setJrn j).images = s.images := rfl
@[simp] theorem State.setJrn_queues (s : State) (j : Journal) : (s.setJrn j).queues = s.queues := rfl
@[simp] theorem State.setJrn_graphs (s : State) (j : Journal) : (s.setJrn j).graphs = s.graphs := rfl
@[simp] theorem State.setJrn_nextLid (s : State) (j : Journal) : (s.setJrn j).nextLid = s.nextLid := rfl
@[simp] theorem State.setJrn_lastBound (s : State) (j : Journal) : (s.setJrn j).lastBound = s.lastBound := rfl
@[simp] theorem State.setJrn_paramBase (s : State) (j : Journal) : (s.setJrn j).paramBase = s.paramBase := rfl
@[simp] theorem State.setJrn_mmb (s : State) (j : Journal) : (s.setJrn j).mmb = s.mmb := rfl
@[simp] theorem State.setJrn_devFaults (s : State) (j : Journal) : (s.setJrn j).devFaults = s.devFaults := rfl
@[simp] theorem State.setJrn_heat (s : State) (j : Journal) : (s.setJrn j).heat = s.heat := rfl
@[simp] theorem State.setJrn_moves (s : State) (j : Journal) : (s.setJrn j).moves = s.moves := rfl
@[simp] theorem State.setJrn_tensors (s : State) (j : Journal) : (s.setJrn j).tensors = s.tensors := rfl
@[simp] theorem State.setJrn_near (s : State) (j : Journal) : (s.setJrn j).near = s.near := rfl
@[simp] theorem State.setJrn_hbm (s : State) (j : Journal) : (s.setJrn j).hbm = s.hbm := rfl
@[simp] theorem State.setJrn_hbmGroups (s : State) (j : Journal) : (s.setJrn j).hbmGroups = s.hbmGroups := rfl
@[simp] theorem State.setJrn_badWords (s : State) (j : Journal) : (s.setJrn j).badWords = s.badWords := rfl
@[simp] theorem State.setJrn_link (s : State) (j : Journal) : (s.setJrn j).link = s.link := rfl
@[simp] theorem State.setJrn_ctls (s : State) (j : Journal) : (s.setJrn j).ctls = s.ctls := rfl
@[simp] theorem State.setJrn_mons (s : State) (j : Journal) : (s.setJrn j).mons = s.mons := rfl
@[simp] theorem State.setJrn_sec (s : State) (j : Journal) : (s.setJrn j).sec = s.sec := rfl
@[simp] theorem State.setJrn_jrn (s : State) (j : Journal) : (s.setJrn j).jrn = j := rfl
@[simp] theorem State.setJrn_freq (s : State) (j : Journal) : (s.setJrn j).freq = s.freq := rfl
@[simp] theorem State.setJrn_clusters (s : State) (j : Journal) : (s.setJrn j).clusters = s.clusters := rfl
@[simp] theorem State.setJrn_dieStacks (s : State) (j : Journal) : (s.setJrn j).dieStacks = s.dieStacks := rfl
@[simp] theorem State.setJrn_parity (s : State) (j : Journal) : (s.setJrn j).parity = s.parity := rfl
@[simp] theorem State.setJrn_flips (s : State) (j : Journal) : (s.setJrn j).flips = s.flips := rfl

/-! setDest -/

@[simp] theorem State.setDest_mem (s : State) (d : Nat) (x : Dest) : (s.setDest d x).mem = s.mem := rfl
@[simp] theorem State.setDest_clock (s : State) (d : Nat) (x : Dest) : (s.setDest d x).clock = s.clock := rfl
@[simp] theorem State.setDest_wall (s : State) (d : Nat) (x : Dest) : (s.setDest d x).wall = s.wall := rfl
@[simp] theorem State.setDest_stage (s : State) (d : Nat) (x : Dest) : (s.setDest d x).stage = s.stage := rfl
@[simp] theorem State.setDest_ix (s : State) (d : Nat) (x : Dest) : (s.setDest d x).ix = s.ix := rfl
@[simp] theorem State.setDest_stim (s : State) (d : Nat) (x : Dest) : (s.setDest d x).stim = s.stim := rfl
@[simp] theorem State.setDest_agenda (s : State) (d : Nat) (x : Dest) : (s.setDest d x).agenda = s.agenda := rfl
@[simp] theorem State.setDest_inputs (s : State) (d : Nat) (x : Dest) : (s.setDest d x).inputs = s.inputs := rfl
@[simp] theorem State.setDest_freeCount (s : State) (d : Nat) (x : Dest) : (s.setDest d x).freeCount = s.freeCount := rfl
@[simp] theorem State.setDest_nextId (s : State) (d : Nat) (x : Dest) : (s.setDest d x).nextId = s.nextId := rfl
@[simp] theorem State.setDest_cores (s : State) (d : Nat) (x : Dest) : (s.setDest d x).cores = s.cores := rfl
@[simp] theorem State.setDest_accs (s : State) (d : Nat) (x : Dest) : (s.setDest d x).accs = s.accs := rfl
@[simp] theorem State.setDest_memPend (s : State) (d : Nat) (x : Dest) : (s.setDest d x).memPend = s.memPend := rfl
@[simp] theorem State.setDest_memRecent (s : State) (d : Nat) (x : Dest) : (s.setDest d x).memRecent = s.memRecent := rfl
@[simp] theorem State.setDest_bufPend (s : State) (d : Nat) (x : Dest) : (s.setDest d x).bufPend = s.bufPend := rfl
@[simp] theorem State.setDest_pairs (s : State) (d : Nat) (x : Dest) : (s.setDest d x).pairs = s.pairs := rfl
@[simp] theorem State.setDest_binds (s : State) (d : Nat) (x : Dest) : (s.setDest d x).binds = s.binds := rfl
@[simp] theorem State.setDest_winAcc (s : State) (d : Nat) (x : Dest) : (s.setDest d x).winAcc = s.winAcc := rfl
@[simp] theorem State.setDest_fab (s : State) (d : Nat) (x : Dest) : (s.setDest d x).fab = { s.fab with dests := SMap.put Dest.init s.fab.dests d x } := rfl
@[simp] theorem State.setDest_cmds (s : State) (d : Nat) (x : Dest) : (s.setDest d x).cmds = s.cmds := rfl
@[simp] theorem State.setDest_groups (s : State) (d : Nat) (x : Dest) : (s.setDest d x).groups = s.groups := rfl
@[simp] theorem State.setDest_sysWait (s : State) (d : Nat) (x : Dest) : (s.setDest d x).sysWait = s.sysWait := rfl
@[simp] theorem State.setDest_sysOut (s : State) (d : Nat) (x : Dest) : (s.setDest d x).sysOut = s.sysOut := rfl
@[simp] theorem State.setDest_images (s : State) (d : Nat) (x : Dest) : (s.setDest d x).images = s.images := rfl
@[simp] theorem State.setDest_queues (s : State) (d : Nat) (x : Dest) : (s.setDest d x).queues = s.queues := rfl
@[simp] theorem State.setDest_graphs (s : State) (d : Nat) (x : Dest) : (s.setDest d x).graphs = s.graphs := rfl
@[simp] theorem State.setDest_nextLid (s : State) (d : Nat) (x : Dest) : (s.setDest d x).nextLid = s.nextLid := rfl
@[simp] theorem State.setDest_lastBound (s : State) (d : Nat) (x : Dest) : (s.setDest d x).lastBound = s.lastBound := rfl
@[simp] theorem State.setDest_paramBase (s : State) (d : Nat) (x : Dest) : (s.setDest d x).paramBase = s.paramBase := rfl
@[simp] theorem State.setDest_mmb (s : State) (d : Nat) (x : Dest) : (s.setDest d x).mmb = s.mmb := rfl
@[simp] theorem State.setDest_devFaults (s : State) (d : Nat) (x : Dest) : (s.setDest d x).devFaults = s.devFaults := rfl
@[simp] theorem State.setDest_heat (s : State) (d : Nat) (x : Dest) : (s.setDest d x).heat = s.heat := rfl
@[simp] theorem State.setDest_moves (s : State) (d : Nat) (x : Dest) : (s.setDest d x).moves = s.moves := rfl
@[simp] theorem State.setDest_tensors (s : State) (d : Nat) (x : Dest) : (s.setDest d x).tensors = s.tensors := rfl
@[simp] theorem State.setDest_near (s : State) (d : Nat) (x : Dest) : (s.setDest d x).near = s.near := rfl
@[simp] theorem State.setDest_hbm (s : State) (d : Nat) (x : Dest) : (s.setDest d x).hbm = s.hbm := rfl
@[simp] theorem State.setDest_hbmGroups (s : State) (d : Nat) (x : Dest) : (s.setDest d x).hbmGroups = s.hbmGroups := rfl
@[simp] theorem State.setDest_badWords (s : State) (d : Nat) (x : Dest) : (s.setDest d x).badWords = s.badWords := rfl
@[simp] theorem State.setDest_link (s : State) (d : Nat) (x : Dest) : (s.setDest d x).link = s.link := rfl
@[simp] theorem State.setDest_ctls (s : State) (d : Nat) (x : Dest) : (s.setDest d x).ctls = s.ctls := rfl
@[simp] theorem State.setDest_mons (s : State) (d : Nat) (x : Dest) : (s.setDest d x).mons = s.mons := rfl
@[simp] theorem State.setDest_sec (s : State) (d : Nat) (x : Dest) : (s.setDest d x).sec = s.sec := rfl
@[simp] theorem State.setDest_jrn (s : State) (d : Nat) (x : Dest) : (s.setDest d x).jrn = s.jrn := rfl
@[simp] theorem State.setDest_freq (s : State) (d : Nat) (x : Dest) : (s.setDest d x).freq = s.freq := rfl
@[simp] theorem State.setDest_clusters (s : State) (d : Nat) (x : Dest) : (s.setDest d x).clusters = s.clusters := rfl
@[simp] theorem State.setDest_dieStacks (s : State) (d : Nat) (x : Dest) : (s.setDest d x).dieStacks = s.dieStacks := rfl
@[simp] theorem State.setDest_parity (s : State) (d : Nat) (x : Dest) : (s.setDest d x).parity = s.parity := rfl
@[simp] theorem State.setDest_flips (s : State) (d : Nat) (x : Dest) : (s.setDest d x).flips = s.flips := rfl

/-! setSource -/

@[simp] theorem State.setSource_mem (s : State) (d : Nat) (x : Source) : (s.setSource d x).mem = s.mem := rfl
@[simp] theorem State.setSource_clock (s : State) (d : Nat) (x : Source) : (s.setSource d x).clock = s.clock := rfl
@[simp] theorem State.setSource_wall (s : State) (d : Nat) (x : Source) : (s.setSource d x).wall = s.wall := rfl
@[simp] theorem State.setSource_stage (s : State) (d : Nat) (x : Source) : (s.setSource d x).stage = s.stage := rfl
@[simp] theorem State.setSource_ix (s : State) (d : Nat) (x : Source) : (s.setSource d x).ix = s.ix := rfl
@[simp] theorem State.setSource_stim (s : State) (d : Nat) (x : Source) : (s.setSource d x).stim = s.stim := rfl
@[simp] theorem State.setSource_agenda (s : State) (d : Nat) (x : Source) : (s.setSource d x).agenda = s.agenda := rfl
@[simp] theorem State.setSource_inputs (s : State) (d : Nat) (x : Source) : (s.setSource d x).inputs = s.inputs := rfl
@[simp] theorem State.setSource_freeCount (s : State) (d : Nat) (x : Source) : (s.setSource d x).freeCount = s.freeCount := rfl
@[simp] theorem State.setSource_nextId (s : State) (d : Nat) (x : Source) : (s.setSource d x).nextId = s.nextId := rfl
@[simp] theorem State.setSource_cores (s : State) (d : Nat) (x : Source) : (s.setSource d x).cores = s.cores := rfl
@[simp] theorem State.setSource_accs (s : State) (d : Nat) (x : Source) : (s.setSource d x).accs = s.accs := rfl
@[simp] theorem State.setSource_memPend (s : State) (d : Nat) (x : Source) : (s.setSource d x).memPend = s.memPend := rfl
@[simp] theorem State.setSource_memRecent (s : State) (d : Nat) (x : Source) : (s.setSource d x).memRecent = s.memRecent := rfl
@[simp] theorem State.setSource_bufPend (s : State) (d : Nat) (x : Source) : (s.setSource d x).bufPend = s.bufPend := rfl
@[simp] theorem State.setSource_pairs (s : State) (d : Nat) (x : Source) : (s.setSource d x).pairs = s.pairs := rfl
@[simp] theorem State.setSource_binds (s : State) (d : Nat) (x : Source) : (s.setSource d x).binds = s.binds := rfl
@[simp] theorem State.setSource_winAcc (s : State) (d : Nat) (x : Source) : (s.setSource d x).winAcc = s.winAcc := rfl
@[simp] theorem State.setSource_fab (s : State) (d : Nat) (x : Source) : (s.setSource d x).fab = { s.fab with srcs := SMap.put Source.init s.fab.srcs d x } := rfl
@[simp] theorem State.setSource_cmds (s : State) (d : Nat) (x : Source) : (s.setSource d x).cmds = s.cmds := rfl
@[simp] theorem State.setSource_groups (s : State) (d : Nat) (x : Source) : (s.setSource d x).groups = s.groups := rfl
@[simp] theorem State.setSource_sysWait (s : State) (d : Nat) (x : Source) : (s.setSource d x).sysWait = s.sysWait := rfl
@[simp] theorem State.setSource_sysOut (s : State) (d : Nat) (x : Source) : (s.setSource d x).sysOut = s.sysOut := rfl
@[simp] theorem State.setSource_images (s : State) (d : Nat) (x : Source) : (s.setSource d x).images = s.images := rfl
@[simp] theorem State.setSource_queues (s : State) (d : Nat) (x : Source) : (s.setSource d x).queues = s.queues := rfl
@[simp] theorem State.setSource_graphs (s : State) (d : Nat) (x : Source) : (s.setSource d x).graphs = s.graphs := rfl
@[simp] theorem State.setSource_nextLid (s : State) (d : Nat) (x : Source) : (s.setSource d x).nextLid = s.nextLid := rfl
@[simp] theorem State.setSource_lastBound (s : State) (d : Nat) (x : Source) : (s.setSource d x).lastBound = s.lastBound := rfl
@[simp] theorem State.setSource_paramBase (s : State) (d : Nat) (x : Source) : (s.setSource d x).paramBase = s.paramBase := rfl
@[simp] theorem State.setSource_mmb (s : State) (d : Nat) (x : Source) : (s.setSource d x).mmb = s.mmb := rfl
@[simp] theorem State.setSource_devFaults (s : State) (d : Nat) (x : Source) : (s.setSource d x).devFaults = s.devFaults := rfl
@[simp] theorem State.setSource_heat (s : State) (d : Nat) (x : Source) : (s.setSource d x).heat = s.heat := rfl
@[simp] theorem State.setSource_moves (s : State) (d : Nat) (x : Source) : (s.setSource d x).moves = s.moves := rfl
@[simp] theorem State.setSource_tensors (s : State) (d : Nat) (x : Source) : (s.setSource d x).tensors = s.tensors := rfl
@[simp] theorem State.setSource_near (s : State) (d : Nat) (x : Source) : (s.setSource d x).near = s.near := rfl
@[simp] theorem State.setSource_hbm (s : State) (d : Nat) (x : Source) : (s.setSource d x).hbm = s.hbm := rfl
@[simp] theorem State.setSource_hbmGroups (s : State) (d : Nat) (x : Source) : (s.setSource d x).hbmGroups = s.hbmGroups := rfl
@[simp] theorem State.setSource_badWords (s : State) (d : Nat) (x : Source) : (s.setSource d x).badWords = s.badWords := rfl
@[simp] theorem State.setSource_link (s : State) (d : Nat) (x : Source) : (s.setSource d x).link = s.link := rfl
@[simp] theorem State.setSource_ctls (s : State) (d : Nat) (x : Source) : (s.setSource d x).ctls = s.ctls := rfl
@[simp] theorem State.setSource_mons (s : State) (d : Nat) (x : Source) : (s.setSource d x).mons = s.mons := rfl
@[simp] theorem State.setSource_sec (s : State) (d : Nat) (x : Source) : (s.setSource d x).sec = s.sec := rfl
@[simp] theorem State.setSource_jrn (s : State) (d : Nat) (x : Source) : (s.setSource d x).jrn = s.jrn := rfl
@[simp] theorem State.setSource_freq (s : State) (d : Nat) (x : Source) : (s.setSource d x).freq = s.freq := rfl
@[simp] theorem State.setSource_clusters (s : State) (d : Nat) (x : Source) : (s.setSource d x).clusters = s.clusters := rfl
@[simp] theorem State.setSource_dieStacks (s : State) (d : Nat) (x : Source) : (s.setSource d x).dieStacks = s.dieStacks := rfl
@[simp] theorem State.setSource_parity (s : State) (d : Nat) (x : Source) : (s.setSource d x).parity = s.parity := rfl
@[simp] theorem State.setSource_flips (s : State) (d : Nat) (x : Source) : (s.setSource d x).flips = s.flips := rfl

/-! enqueue -/

@[simp] theorem State.enqueue_mem (s : State) (c : OutCell) : (s.enqueue c).mem = s.mem := rfl
@[simp] theorem State.enqueue_clock (s : State) (c : OutCell) : (s.enqueue c).clock = s.clock := rfl
@[simp] theorem State.enqueue_wall (s : State) (c : OutCell) : (s.enqueue c).wall = s.wall := rfl
@[simp] theorem State.enqueue_stage (s : State) (c : OutCell) : (s.enqueue c).stage = s.stage := rfl
@[simp] theorem State.enqueue_ix (s : State) (c : OutCell) : (s.enqueue c).ix = s.ix := rfl
@[simp] theorem State.enqueue_stim (s : State) (c : OutCell) : (s.enqueue c).stim = s.stim := rfl
@[simp] theorem State.enqueue_agenda (s : State) (c : OutCell) : (s.enqueue c).agenda = s.agenda := rfl
@[simp] theorem State.enqueue_inputs (s : State) (c : OutCell) : (s.enqueue c).inputs = s.inputs := rfl
@[simp] theorem State.enqueue_freeCount (s : State) (c : OutCell) : (s.enqueue c).freeCount = s.freeCount := rfl
@[simp] theorem State.enqueue_nextId (s : State) (c : OutCell) : (s.enqueue c).nextId = s.nextId := rfl
@[simp] theorem State.enqueue_cores (s : State) (c : OutCell) : (s.enqueue c).cores = s.cores := rfl
@[simp] theorem State.enqueue_accs (s : State) (c : OutCell) : (s.enqueue c).accs = s.accs := rfl
@[simp] theorem State.enqueue_memPend (s : State) (c : OutCell) : (s.enqueue c).memPend = s.memPend := rfl
@[simp] theorem State.enqueue_memRecent (s : State) (c : OutCell) : (s.enqueue c).memRecent = s.memRecent := rfl
@[simp] theorem State.enqueue_bufPend (s : State) (c : OutCell) : (s.enqueue c).bufPend = s.bufPend := rfl
@[simp] theorem State.enqueue_pairs (s : State) (c : OutCell) : (s.enqueue c).pairs = s.pairs := rfl
@[simp] theorem State.enqueue_binds (s : State) (c : OutCell) : (s.enqueue c).binds = s.binds := rfl
@[simp] theorem State.enqueue_winAcc (s : State) (c : OutCell) : (s.enqueue c).winAcc = s.winAcc := rfl
@[simp] theorem State.enqueue_fab (s : State) (c : OutCell) : (s.enqueue c).fab = { s.fab with queue := s.fab.queue ++ [c] } := rfl
@[simp] theorem State.enqueue_cmds (s : State) (c : OutCell) : (s.enqueue c).cmds = s.cmds := rfl
@[simp] theorem State.enqueue_groups (s : State) (c : OutCell) : (s.enqueue c).groups = s.groups := rfl
@[simp] theorem State.enqueue_sysWait (s : State) (c : OutCell) : (s.enqueue c).sysWait = s.sysWait := rfl
@[simp] theorem State.enqueue_sysOut (s : State) (c : OutCell) : (s.enqueue c).sysOut = s.sysOut := rfl
@[simp] theorem State.enqueue_images (s : State) (c : OutCell) : (s.enqueue c).images = s.images := rfl
@[simp] theorem State.enqueue_queues (s : State) (c : OutCell) : (s.enqueue c).queues = s.queues := rfl
@[simp] theorem State.enqueue_graphs (s : State) (c : OutCell) : (s.enqueue c).graphs = s.graphs := rfl
@[simp] theorem State.enqueue_nextLid (s : State) (c : OutCell) : (s.enqueue c).nextLid = s.nextLid := rfl
@[simp] theorem State.enqueue_lastBound (s : State) (c : OutCell) : (s.enqueue c).lastBound = s.lastBound := rfl
@[simp] theorem State.enqueue_paramBase (s : State) (c : OutCell) : (s.enqueue c).paramBase = s.paramBase := rfl
@[simp] theorem State.enqueue_mmb (s : State) (c : OutCell) : (s.enqueue c).mmb = s.mmb := rfl
@[simp] theorem State.enqueue_devFaults (s : State) (c : OutCell) : (s.enqueue c).devFaults = s.devFaults := rfl
@[simp] theorem State.enqueue_heat (s : State) (c : OutCell) : (s.enqueue c).heat = s.heat := rfl
@[simp] theorem State.enqueue_moves (s : State) (c : OutCell) : (s.enqueue c).moves = s.moves := rfl
@[simp] theorem State.enqueue_tensors (s : State) (c : OutCell) : (s.enqueue c).tensors = s.tensors := rfl
@[simp] theorem State.enqueue_near (s : State) (c : OutCell) : (s.enqueue c).near = s.near := rfl
@[simp] theorem State.enqueue_hbm (s : State) (c : OutCell) : (s.enqueue c).hbm = s.hbm := rfl
@[simp] theorem State.enqueue_hbmGroups (s : State) (c : OutCell) : (s.enqueue c).hbmGroups = s.hbmGroups := rfl
@[simp] theorem State.enqueue_badWords (s : State) (c : OutCell) : (s.enqueue c).badWords = s.badWords := rfl
@[simp] theorem State.enqueue_link (s : State) (c : OutCell) : (s.enqueue c).link = s.link := rfl
@[simp] theorem State.enqueue_ctls (s : State) (c : OutCell) : (s.enqueue c).ctls = s.ctls := rfl
@[simp] theorem State.enqueue_mons (s : State) (c : OutCell) : (s.enqueue c).mons = s.mons := rfl
@[simp] theorem State.enqueue_sec (s : State) (c : OutCell) : (s.enqueue c).sec = s.sec := rfl
@[simp] theorem State.enqueue_jrn (s : State) (c : OutCell) : (s.enqueue c).jrn = s.jrn := rfl
@[simp] theorem State.enqueue_freq (s : State) (c : OutCell) : (s.enqueue c).freq = s.freq := rfl
@[simp] theorem State.enqueue_clusters (s : State) (c : OutCell) : (s.enqueue c).clusters = s.clusters := rfl
@[simp] theorem State.enqueue_dieStacks (s : State) (c : OutCell) : (s.enqueue c).dieStacks = s.dieStacks := rfl
@[simp] theorem State.enqueue_parity (s : State) (c : OutCell) : (s.enqueue c).parity = s.parity := rfl
@[simp] theorem State.enqueue_flips (s : State) (c : OutCell) : (s.enqueue c).flips = s.flips := rfl

/-! Updates that test something first -/

theorem State.scheduleOnce_eq (s : State) (a p : Nat) (ev : Instr) : s.scheduleOnce a p ev = { s with agenda := (s.scheduleOnce a p ev).agenda } := by
  unfold State.scheduleOnce; split <;> rfl

theorem State.addMem_eq (s : State) (v b o : Nat) (d : List (Nat × Byte)) (st : Nat) :
    s.addMem v b o d st = { s with memPend := (s.addMem v b o d st).memPend, agenda := (s.addMem v b o d st).agenda } := by
  unfold State.addMem
  split
  · rfl
  · rw [State.scheduleOnce_eq]

theorem State.addWrite_eq (s : State) (w : RegWrite) (lat : Nat) (fl : BitVec 6) (acc : Nat) :
    s.addWrite w lat fl acc = { s with cores := (s.addWrite w lat fl acc).cores, agenda := (s.addWrite w lat fl acc).agenda } := by
  unfold State.addWrite
  rw [State.scheduleOnce_eq]; rfl

theorem State.addBuf_eq (s : State) (e : Bool) (c b : Nat) (st : BufState) (k : BitVec 4) (fi : Nat) (h : Bool) :
    s.addBuf e c b st k fi h = { s with bufPend := (s.addBuf e c b st k fi h).bufPend, agenda := (s.addBuf e c b st k fi h).agenda } := by
  unfold State.addBuf
  rw [State.scheduleOnce_eq]

theorem State.sendMsg_eq (s : State) (t f a : Nat) (p : List Byte) (k : Nat) : s.sendMsg t f a p k = { s with link := (s.sendMsg t f a p k).link } := by
  unfold State.sendMsg
  dsimp only
  split <;> rfl

@[simp] theorem State.freeNat_snd (s : State) : s.freeNat.2 = { s with freeCount := s.freeCount + 1 } := rfl
@[simp] theorem State.fresh_snd (s : State) : s.fresh.2 = { s with nextId := s.nextId + 1 } := rfl
@[simp] theorem State.fresh_fst (s : State) : s.fresh.1 = s.nextId := rfl

end Sys2Proof.Machine
end

