-- ==== Sys2Proof/Laws/Ops.lean ====
section
/-! SUPPORT. One lemma for each shared operation that says what it can do: memory, cores, the agenda, writes in flight, and exceptions. -/

namespace Sys2Proof.Machine

/-! Memory keeps its canonical form -/

theorem memWriteByte_wf (m : Memory) (a : Nat) (b : Byte) (w : Memory.wf m = true) : Memory.wf (memWriteByte m a b) = true :=
  SMap.put_wf memDefault m a b w

theorem memWriteAll_wf (m : Memory) (l : List (Nat × Byte)) (w : Memory.wf m = true) : Memory.wf (memWriteAll m l) = true :=
  SMap.putAll_wf memDefault l m w

theorem clearRange_wf (m : Memory) (a n : Nat) (w : Memory.wf m = true) : Memory.wf (clearRange m a n) = true :=
  SMap.filter_wf memDefault _ m w

theorem copyRange_wf (m : Memory) (src dst n : Nat) (w : Memory.wf m = true) : Memory.wf (copyRange m src dst n) = true :=
  memWriteAll_wf _ _ (clearRange_wf m dst n w)

theorem State.reset_mem_wf : Memory.wf State.reset.mem = true := rfl

@[simp] theorem memByte_writeByte_same (m : Memory) (a : Nat) (b : Byte) (w : Memory.wf m = true) : memByte (memWriteByte m a b) a = b :=
  SMap.get_put_same memDefault m a b w

@[simp] theorem memByte_writeByte_other (m : Memory) (a j : Nat) (b : Byte) (w : Memory.wf m = true) (h : j ≠ a) :
    memByte (memWriteByte m a b) j = memByte m j :=
  SMap.get_put_other memDefault m a j b h w

/-- A list of writes leaves every address that it does not name. -/
theorem memByte_writeAll_other (m : Memory) (l : List (Nat × Byte)) (j : Nat) (w : Memory.wf m = true) (h : ∀ x ∈ l, x.1 ≠ j) :
    memByte (memWriteAll m l) j = memByte m j := by
  induction l generalizing m with
  | nil => rfl
  | cons e r ih =>
    have h1 : j ≠ e.1 := fun x => h e (by simp) x.symm
    have h2 := ih (memWriteByte m e.1 e.2) (memWriteByte_wf m _ _ w) (fun x hx => h x (by simp [hx]))
    rw [memByte_writeByte_other m e.1 j e.2 w h1] at h2
    exact h2

/-! Cores -/

/-- A core as it was written, in a canonical map. -/
@[simp] theorem State.core_setCore_same (s : State) (n : Nat) (c : Core) (w : SMap.wf Core.init s.cores = true) : (s.setCore n c).core n = c :=
  SMap.get_put_same Core.init s.cores n c w

@[simp] theorem State.core_setCore_other (s : State) (n k : Nat) (c : Core) (w : SMap.wf Core.init s.cores = true) (h : k ≠ n) :
    (s.setCore n c).core k = s.core k :=
  SMap.get_put_other Core.init s.cores n k c h w

theorem State.core_setCore_same_of_ne (s : State) (n : Nat) (c : Core) (h : c ≠ Core.init) : (s.setCore n c).core n = c :=
  SMap.get_put_same_of_ne Core.init s.cores n c h

theorem State.core_setCore_other_of_ne (s : State) (n k : Nat) (c : Core) (hc : c ≠ Core.init) (h : k ≠ n) : (s.setCore n c).core k = s.core k :=
  SMap.get_put_other_of_ne Core.init s.cores n k c hc h

theorem State.setCore_wf (s : State) (n : Nat) (c : Core) (w : SMap.wf Core.init s.cores = true) : SMap.wf Core.init (s.setCore n c).cores = true :=
  SMap.put_wf Core.init s.cores n c w

theorem Core.ne_init_of_pend (c : Core) (h : c.pend ≠ []) : c ≠ Core.init := fun e => h (by rw [e]; rfl)

theorem Core.ne_init_of_run (c : Core) (h : c.run ≠ .off) : c ≠ Core.init := fun e => h (by rw [e]; rfl)

/-! The agenda -/

theorem mem_insertAgenda (a x : Agenda) (l : List Agenda) : x ∈ insertAgenda a l ↔ x = a ∨ x ∈ l := by
  induction l with
  | nil => simp [insertAgenda]
  | cons b r ih =>
    unfold insertAgenda
    split
    · simp
    · simp only [List.mem_cons, ih]; tauto

/-- After `schedule` the event stands on the agenda, with all that stood there. -/
theorem State.mem_schedule (s : State) (a p : Nat) (ev : Instr) (x : Agenda) : x ∈ (s.schedule a p ev).agenda ↔ x = ⟨a, p, ev⟩ ∨ x ∈ s.agenda :=
  mem_insertAgenda ⟨a, p, ev⟩ x s.agenda

/-- After `scheduleOnce` an event of this kind stands for the cycle, and nothing has left the agenda. -/
theorem State.scheduleOnce_spec (s : State) (a p : Nat) (ev : Instr) :
    (∃ x ∈ (s.scheduleOnce a p ev).agenda, x.at_ = a ∧ x.ev = ev) ∧ ∀ x ∈ s.agenda, x ∈ (s.scheduleOnce a p ev).agenda := by
  unfold State.scheduleOnce
  split
  · rename_i h
    rw [List.any_eq_true] at h
    obtain ⟨x, hx, hp⟩ := h
    simp only [Bool.and_eq_true, beq_iff_eq] at hp
    exact ⟨⟨x, hx, hp⟩, fun x hx => hx⟩
  · refine ⟨⟨⟨a, p, ev⟩, ?_, rfl, rfl⟩, fun x hx => ?_⟩
    · rw [State.mem_schedule]; exact Or.inl rfl
    · rw [State.mem_schedule]; exact Or.inr hx

@[simp] theorem State.scheduleOnce_cores (s : State) (a p : Nat) (ev : Instr) : (s.scheduleOnce a p ev).cores = s.cores := by rw [State.scheduleOnce_eq]
@[simp] theorem State.scheduleOnce_mem (s : State) (a p : Nat) (ev : Instr) : (s.scheduleOnce a p ev).mem = s.mem := by rw [State.scheduleOnce_eq]
@[simp] theorem State.scheduleOnce_memPend (s : State) (a p : Nat) (ev : Instr) : (s.scheduleOnce a p ev).memPend = s.memPend := by
  rw [State.scheduleOnce_eq]
@[simp] theorem State.scheduleOnce_core (s : State) (a p : Nat) (ev : Instr) (n : Nat) : (s.scheduleOnce a p ev).core n = s.core n := by
  unfold State.core; rw [State.scheduleOnce_cores]
@[simp] theorem State.scheduleOnce_ix (s : State) (a p : Nat) (ev : Instr) : (s.scheduleOnce a p ev).ix = s.ix := by rw [State.scheduleOnce_eq]

/-! Writes in flight -/

/-- A write of a register: the issuing core's list is longer by it; no other core changes; WRITE_VISIBLE is due. -/
theorem State.addWrite_spec (s : State) (w : RegWrite) (lat : Nat) (fl : BitVec 6) (acc : Nat) :
    (s.addWrite w lat fl acc).core s.ix.core =
      { s.cur with pend := s.cur.pend ++ [⟨s.clock + lat, s.clock, s.ix.slot, s.ix.addr, s.cur.tcyc, w, fl, acc⟩] } ∧
    (∀ k, k ≠ s.ix.core → (s.addWrite w lat fl acc).core k = s.core k) ∧ (s.addWrite w lat fl acc).mem = s.mem ∧
    ∃ x ∈ (s.addWrite w lat fl acc).agenda, x.at_ = s.clock + lat ∧ x.ev = .writeVisible := by
  have hne : ∀ p : PendWrite, ({ s.cur with pend := s.cur.pend ++ [p] } : Core) ≠ Core.init := fun p =>
    Core.ne_init_of_pend _ (by simp)
  unfold State.addWrite
  refine ⟨?_, ?_, ?_, (State.scheduleOnce_spec _ _ _ _).1⟩
  · rw [State.scheduleOnce_core]; exact State.core_setCore_same_of_ne _ _ _ (hne _)
  · intro k hk; rw [State.scheduleOnce_core]; exact State.core_setCore_other_of_ne _ _ _ _ (hne _) hk
  · rw [State.scheduleOnce_mem]; rfl

/-- Bytes to write join the writes in flight; memory stands until they become visible. -/
theorem State.addMem_spec (s : State) (v b o : Nat) (d : List (Nat × Byte)) (st : Nat) :
    (s.addMem v b o d st).memPend = (if d.isEmpty then s.memPend else s.memPend ++ [⟨v, b, o, st, d⟩]) ∧ (s.addMem v b o d st).mem = s.mem ∧
    (s.addMem v b o d st).cores = s.cores := by
  unfold State.addMem
  split
  · exact ⟨rfl, rfl, rfl⟩
  · simp

/-! Exceptions -/

/-- What taking an exception does to the core, the other cores and memory (R12, R76). -/
theorem State.takeException_spec (s : State) (n : Nat) (cause detail : BitVec 8) (slot addr : Nat) :
    (s.takeException n cause detail slot addr).cores = (s.setCore n { s.core n with
      frec := frecWord cause detail slot ((s.core n).region.kind == .sealed) addr, late := none, hold := none,
      run := if (s.core n).run == .ended then .ended else .stopped }).cores ∧
    (s.takeException n cause detail slot addr).mem = s.mem ∧ (s.takeException n cause detail slot addr).memPend = s.memPend := by
  unfold State.takeException
  dsimp only
  split
  · exact ⟨rfl, rfl, rfl⟩
  · split
    · simp
    · unfold State.endLaunch
      simp

/-- A trap of the bundle being issued leaves memory, and every core but the issuing one where the map of cores is canonical. -/
theorem State.takeTrap_mem (s : State) (t : Trap) : (s.takeTrap t).mem = s.mem ∧ (s.takeTrap t).memPend = s.memPend := by
  have h (s : State) (n : Nat) (c d : BitVec 8) (k a : Nat) := (State.takeException_spec s n c d k a).2
  have hb (s : State) (off : Nat) : (s.badLaunch off).mem = s.mem ∧ (s.badLaunch off).memPend = s.memPend ∧ (s.badLaunch off).ix = s.ix := by
    unfold State.badLaunch
    split <;> exact ⟨rfl, rfl, rfl⟩
  have hl (s : State) (o : Option Nat) : (match o with
      | some off => s.badLaunch off
      | none => s).mem = s.mem ∧ (match o with
      | some off => s.badLaunch off
      | none => s).memPend = s.memPend := by
    cases o with
    | none => exact ⟨rfl, rfl⟩
    | some off => exact ⟨(hb s off).1, (hb s off).2.1⟩
  unfold State.takeTrap
  cases t.oor with
  | none => exact ⟨(h _ _ _ _ _ _).1.trans (hl _ _).1, (h _ _ _ _ _ _).2.trans (hl _ _).2⟩
  | some w => exact ⟨(h _ _ _ _ _ _).1.trans (hl (s.modCur _) _).1, (h _ _ _ _ _ _).2.trans (hl (s.modCur _) _).2⟩

/-- An instruction as a bundle of its own always answers a next state: its effects or its exception. -/
theorem runOp_next (f : Op) (s : State) : ∃ t, runOp f s = .next t ∧ (f s s = .ok t ∨ ∃ x, f s s = .error x ∧ t = s.takeTrap x) := by
  unfold runOp
  cases h : f s s with
  | ok t => exact ⟨t, rfl, Or.inl rfl⟩
  | error x => exact ⟨s.takeTrap x, rfl, Or.inr ⟨x, rfl, rfl⟩⟩

theorem runOp_ok {f : Op} {s t : State} (h : f s s = .ok t) : runOp f s = .next t := by unfold runOp; rw [h]

theorem runOp_error {f : Op} {s : State} {x : Trap} (h : f s s = .error x) : runOp f s = .next (s.takeTrap x) := by unfold runOp; rw [h]

/-- A fault found after issue changes its core only; an issuing core holds it (R419). -/
theorem State.lateFault_running (s : State) (n : Nat) (cause detail : BitVec 8) (slot addr issued : Nat) (h : (s.core n).run = .running) :
    ∃ g, s.lateFault n cause detail slot addr issued = s.setCore n { s.core n with late := some g } := by
  unfold State.lateFault
  dsimp only
  rw [h]
  exact ⟨_, rfl⟩

end Sys2Proof.Machine
end

