-- ==== Sys2Proof/Laws/PerInstr.lean ====
section
/-! SUPPORT. Families of lemmas with one lemma for each instruction. -/

namespace Sys2Proof.Laws.EncodingLength

/-- An instruction of a slot takes one or two words, a step of the part none (R21, R27 to R38). -/
def Statement (i : Instr) : Prop := (encode i).length ≤ 2

theorem b p off : Statement (.b p off) := Nat.ble_eq.mp rfl
theorem call p off : Statement (.call p off) := Nat.ble_eq.mp rfl
theorem calli p sa : Statement (.calli p sa) := Nat.ble_eq.mp rfl
theorem ret p sa : Statement (.ret p sa) := Nat.ble_eq.mp rfl
theorem loop sa e : Statement (.loop sa e) := Nat.ble_eq.mp rfl
theorem loopLit l e : Statement (.loopLit l e) := Nat.ble_eq.mp rfl
theorem brkl p n off : Statement (.brkl p n off) := Nat.ble_eq.mp rfl
theorem lidx p sd d : Statement (.lidx p sd d) := Nat.ble_eq.mp rfl
theorem region kind b nr : Statement (.region kind b nr) := Nat.ble_eq.mp rfl
theorem phase g l w j : Statement (.phase g l w j) := Nat.ble_eq.mp rfl
theorem resync g w j : Statement (.resync g w j) := Nat.ble_eq.mp rfl
theorem trigger p : Statement (.trigger p) := Nat.ble_eq.mp rfl
theorem trap p code : Statement (.trap p code) := Nat.ble_eq.mp rfl
theorem sys p code : Statement (.sys p code) := Nat.ble_eq.mp rfl
theorem replay l st d : Statement (.replay l st d) := Nat.ble_eq.mp rfl
theorem pand p o : Statement (.pand p o) := Nat.ble_eq.mp rfl
theorem por p o : Statement (.por p o) := Nat.ble_eq.mp rfl
theorem pxor p o : Statement (.pxor p o) := Nat.ble_eq.mp rfl
theorem pget p sd h : Statement (.pget p sd h) := Nat.ble_eq.mp rfl
theorem pset p sa h : Statement (.pset p sa h) := Nat.ble_eq.mp rfl
theorem tltest p t r : Statement (.tltest p t r) := Nat.ble_eq.mp rfl
theorem tltestLit p t l : Statement (.tltestLit p t l) := Nat.ble_eq.mp rfl
theorem add o : Statement (.add o) := Nat.ble_eq.mp rfl
theorem sub o : Statement (.sub o) := Nat.ble_eq.mp rfl
theorem mul o : Statement (.mul o) := Nat.ble_eq.mp rfl
theorem mulh o : Statement (.mulh o) := Nat.ble_eq.mp rfl
theorem mulhu o : Statement (.mulhu o) := Nat.ble_eq.mp rfl
theorem div o : Statement (.div o) := Nat.ble_eq.mp rfl
theorem divu o : Statement (.divu o) := Nat.ble_eq.mp rfl
theorem rem o : Statement (.rem o) := Nat.ble_eq.mp rfl
theorem remu o : Statement (.remu o) := Nat.ble_eq.mp rfl
theorem and o : Statement (.and o) := Nat.ble_eq.mp rfl
theorem or o : Statement (.or o) := Nat.ble_eq.mp rfl
theorem xor o : Statement (.xor o) := Nat.ble_eq.mp rfl
theorem andn o : Statement (.andn o) := Nat.ble_eq.mp rfl
theorem shl o : Statement (.shl o) := Nat.ble_eq.mp rfl
theorem shr o : Statement (.shr o) := Nat.ble_eq.mp rfl
theorem sar o : Statement (.sar o) := Nat.ble_eq.mp rfl
theorem rot o : Statement (.rot o) := Nat.ble_eq.mp rfl
theorem min o : Statement (.min o) := Nat.ble_eq.mp rfl
theorem max o : Statement (.max o) := Nat.ble_eq.mp rfl
theorem minu o : Statement (.minu o) := Nat.ble_eq.mp rfl
theorem maxu o : Statement (.maxu o) := Nat.ble_eq.mp rfl
theorem cmp o : Statement (.cmp o) := Nat.ble_eq.mp rfl
theorem cmpu o : Statement (.cmpu o) := Nat.ble_eq.mp rfl
theorem sel o : Statement (.sel o) := Nat.ble_eq.mp rfl
theorem mov o : Statement (.mov o) := Nat.ble_eq.mp rfl
theorem lit o : Statement (.lit o) := Nat.ble_eq.mp rfl
theorem clz o : Statement (.clz o) := Nat.ble_eq.mp rfl
theorem popc o : Statement (.popc o) := Nat.ble_eq.mp rfl
theorem bfx o : Statement (.bfx o) := Nat.ble_eq.mp rfl
theorem bfi o : Statement (.bfi o) := Nat.ble_eq.mp rfl
theorem sext o : Statement (.sext o) := Nat.ble_eq.mp rfl
theorem zext o : Statement (.zext o) := Nat.ble_eq.mp rfl
theorem fadd o : Statement (.fadd o) := Nat.ble_eq.mp rfl
theorem fsub o : Statement (.fsub o) := Nat.ble_eq.mp rfl
theorem fmul o : Statement (.fmul o) := Nat.ble_eq.mp rfl
theorem ffma o : Statement (.ffma o) := Nat.ble_eq.mp rfl
theorem fmin o : Statement (.fmin o) := Nat.ble_eq.mp rfl
theorem fmax o : Statement (.fmax o) := Nat.ble_eq.mp rfl
theorem fminp o : Statement (.fminp o) := Nat.ble_eq.mp rfl
theorem fmaxp o : Statement (.fmaxp o) := Nat.ble_eq.mp rfl
theorem fcmp o : Statement (.fcmp o) := Nat.ble_eq.mp rfl
theorem fsgn o : Statement (.fsgn o) := Nat.ble_eq.mp rfl
theorem fcvt o : Statement (.fcvt o) := Nat.ble_eq.mp rfl
theorem fdiv o : Statement (.fdiv o) := Nat.ble_eq.mp rfl
theorem fsqrt o : Statement (.fsqrt o) := Nat.ble_eq.mp rfl
theorem sld o : Statement (.sld o) := Nat.ble_eq.mp rfl
theorem slds o : Statement (.slds o) := Nat.ble_eq.mp rfl
theorem sst o : Statement (.sst o) := Nat.ble_eq.mp rfl
theorem gset g f l : Statement (.gset g f l) := Nat.ble_eq.mp rfl
theorem gsets g f sa : Statement (.gsets g f sa) := Nat.ble_eq.mp rfl
theorem gld g sa off : Statement (.gld g sa off) := Nat.ble_eq.mp rfl
theorem gst g sa off : Statement (.gst g sa off) := Nat.ble_eq.mp rfl
theorem gadv g carry l n : Statement (.gadv g carry l n) := Nat.ble_eq.mp rfl
theorem grst g : Statement (.grst g) := Nat.ble_eq.mp rfl
theorem gpos g l v : Statement (.gpos g l v) := Nat.ble_eq.mp rfl
theorem gmap g l b : Statement (.gmap g l b) := Nat.ble_eq.mp rfl
theorem vld o : Statement (.vld o) := Nat.ble_eq.mp rfl
theorem vst o : Statement (.vst o) := Nat.ble_eq.mp rfl
theorem vlda o : Statement (.vlda o) := Nat.ble_eq.mp rfl
theorem vsta o : Statement (.vsta o) := Nat.ble_eq.mp rfl
theorem vgth o : Statement (.vgth o) := Nat.ble_eq.mp rfl
theorem vsct o : Statement (.vsct o) := Nat.ble_eq.mp rfl
theorem vldb o : Statement (.vldb o) := Nat.ble_eq.mp rfl
theorem bufset o : Statement (.bufset o) := Nat.ble_eq.mp rfl
theorem bufq o : Statement (.bufq o) := Nat.ble_eq.mp rfl
theorem atom o : Statement (.atom o) := Nat.ble_eq.mp rfl
theorem rlsend o : Statement (.rlsend o) := Nat.ble_eq.mp rfl
theorem rlrecv o : Statement (.rlrecv o) := Nat.ble_eq.mp rfl
theorem rlfree o : Statement (.rlfree o) := Nat.ble_eq.mp rfl
theorem vadd o : Statement (.vadd o) := Nat.ble_eq.mp rfl
theorem vsub o : Statement (.vsub o) := Nat.ble_eq.mp rfl
theorem vmul o : Statement (.vmul o) := Nat.ble_eq.mp rfl
theorem vfma o : Statement (.vfma o) := Nat.ble_eq.mp rfl
theorem vfms o : Statement (.vfms o) := Nat.ble_eq.mp rfl
theorem vfnma o : Statement (.vfnma o) := Nat.ble_eq.mp rfl
theorem vmin o : Statement (.vmin o) := Nat.ble_eq.mp rfl
theorem vmax o : Statement (.vmax o) := Nat.ble_eq.mp rfl
theorem vminp o : Statement (.vminp o) := Nat.ble_eq.mp rfl
theorem vmaxp o : Statement (.vmaxp o) := Nat.ble_eq.mp rfl
theorem vabs o : Statement (.vabs o) := Nat.ble_eq.mp rfl
theorem vneg o : Statement (.vneg o) := Nat.ble_eq.mp rfl
theorem vcmp o : Statement (.vcmp o) := Nat.ble_eq.mp rfl
theorem vsel o : Statement (.vsel o) := Nat.ble_eq.mp rfl
theorem vand o : Statement (.vand o) := Nat.ble_eq.mp rfl
theorem vor o : Statement (.vor o) := Nat.ble_eq.mp rfl
theorem vxor o : Statement (.vxor o) := Nat.ble_eq.mp rfl
theorem vnot o : Statement (.vnot o) := Nat.ble_eq.mp rfl
theorem vshl o : Statement (.vshl o) := Nat.ble_eq.mp rfl
theorem vshr o : Statement (.vshr o) := Nat.ble_eq.mp rfl
theorem vsar o : Statement (.vsar o) := Nat.ble_eq.mp rfl
theorem vmov o : Statement (.vmov o) := Nat.ble_eq.mp rfl
theorem vfill o : Statement (.vfill o) := Nat.ble_eq.mp rfl
theorem viota o : Statement (.viota o) := Nat.ble_eq.mp rfl
theorem vext o : Statement (.vext o) := Nat.ble_eq.mp rfl
theorem vins o : Statement (.vins o) := Nat.ble_eq.mp rfl
theorem vcvt o : Statement (.vcvt o) := Nat.ble_eq.mp rfl
theorem vcvts o : Statement (.vcvts o) := Nat.ble_eq.mp rfl
theorem vqnt o : Statement (.vqnt o) := Nat.ble_eq.mp rfl
theorem vfold o : Statement (.vfold o) := Nat.ble_eq.mp rfl
theorem vsplit o : Statement (.vsplit o) := Nat.ble_eq.mp rfl
theorem vexp2 o : Statement (.vexp2 o) := Nat.ble_eq.mp rfl
theorem vlog2 o : Statement (.vlog2 o) := Nat.ble_eq.mp rfl
theorem vrcp o : Statement (.vrcp o) := Nat.ble_eq.mp rfl
theorem vrsq o : Statement (.vrsq o) := Nat.ble_eq.mp rfl
theorem vsqrt o : Statement (.vsqrt o) := Nat.ble_eq.mp rfl
theorem vtanh o : Statement (.vtanh o) := Nat.ble_eq.mp rfl
theorem vsigm o : Statement (.vsigm o) := Nat.ble_eq.mp rfl
theorem vgelu o : Statement (.vgelu o) := Nat.ble_eq.mp rfl
theorem vrsum o : Statement (.vrsum o) := Nat.ble_eq.mp rfl
theorem vrmax o : Statement (.vrmax o) := Nat.ble_eq.mp rfl
theorem vrmin o : Statement (.vrmin o) := Nat.ble_eq.mp rfl
theorem vramax o : Statement (.vramax o) := Nat.ble_eq.mp rfl
theorem vscan o : Statement (.vscan o) := Nat.ble_eq.mp rfl
theorem vperm o : Statement (.vperm o) := Nat.ble_eq.mp rfl
theorem vrot o : Statement (.vrot o) := Nat.ble_eq.mp rfl
theorem vbcl o : Statement (.vbcl o) := Nat.ble_eq.mp rfl
theorem vzip o : Statement (.vzip o) := Nat.ble_eq.mp rfl
theorem vunzp o : Statement (.vunzp o) := Nat.ble_eq.mp rfl
theorem vrng o : Statement (.vrng o) := Nat.ble_eq.mp rfl
theorem kand o : Statement (.kand o) := Nat.ble_eq.mp rfl
theorem kor o : Statement (.kor o) := Nat.ble_eq.mp rfl
theorem kxor o : Statement (.kxor o) := Nat.ble_eq.mp rfl
theorem knot o : Statement (.knot o) := Nat.ble_eq.mp rfl
theorem kpop o : Statement (.kpop o) := Nat.ble_eq.mp rfl
theorem kset o : Statement (.kset o) := Nat.ble_eq.mp rfl
theorem ksetImm o : Statement (.ksetImm o) := Nat.ble_eq.mp rfl
theorem mma o : Statement (.mma o) := Nat.ble_eq.mp rfl
theorem mzero o : Statement (.mzero o) := Nat.ble_eq.mp rfl
theorem mfold o : Statement (.mfold o) := Nat.ble_eq.mp rfl
theorem msave o : Statement (.msave o) := Nat.ble_eq.mp rfl
theorem mload o : Statement (.mload o) := Nat.ble_eq.mp rfl
theorem mpre o : Statement (.mpre o) := Nat.ble_eq.mp rfl
theorem mtrn o : Statement (.mtrn o) := Nat.ble_eq.mp rfl
theorem cpyt o : Statement (.cpyt o) := Nat.ble_eq.mp rfl
theorem cpyu o : Statement (.cpyu o) := Nat.ble_eq.mp rfl
theorem cpym o : Statement (.cpym o) := Nat.ble_eq.mp rfl
theorem cfill o : Statement (.cfill o) := Nat.ble_eq.mp rfl
theorem cseal o : Statement (.cseal o) := Nat.ble_eq.mp rfl
theorem amo o : Statement (.amo o) := Nat.ble_eq.mp rfl
theorem amof o : Statement (.amof o) := Nat.ble_eq.mp rfl
theorem rtopk o : Statement (.rtopk o) := Nat.ble_eq.mp rfl
theorem rcap o : Statement (.rcap o) := Nat.ble_eq.mp rfl
theorem rdisp o : Statement (.rdisp o) := Nat.ble_eq.mp rfl
theorem tlife o : Statement (.tlife o) := Nat.ble_eq.mp rfl
theorem tdrop o : Statement (.tdrop o) := Nat.ble_eq.mp rfl
theorem fsend o : Statement (.fsend o) := Nat.ble_eq.mp rfl
theorem frdc o : Statement (.frdc o) := Nat.ble_eq.mp rfl
theorem fag o : Statement (.fag o) := Nat.ble_eq.mp rfl
theorem fa2a o : Statement (.fa2a o) := Nat.ble_eq.mp rfl
theorem jrnl o : Statement (.jrnl o) := Nat.ble_eq.mp rfl
theorem emit o : Statement (.emit o) := Nat.ble_eq.mp rfl
theorem jtrunc o : Statement (.jtrunc o) := Nat.ble_eq.mp rfl
theorem hflush o : Statement (.hflush o) := Nat.ble_eq.mp rfl
theorem hnote o : Statement (.hnote o) := Nat.ble_eq.mp rfl
theorem xlat o : Statement (.xlat o) := Nat.ble_eq.mp rfl
theorem xvalid o : Statement (.xvalid o) := Nat.ble_eq.mp rfl
theorem csrr o : Statement (.csrr o) := Nat.ble_eq.mp rfl
theorem csrw o : Statement (.csrw o) := Nat.ble_eq.mp rfl
theorem csrs o : Statement (.csrs o) := Nat.ble_eq.mp rfl
theorem csrc o : Statement (.csrc o) := Nat.ble_eq.mp rfl
theorem flgr o : Statement (.flgr o) := Nat.ble_eq.mp rfl
theorem flgc o : Statement (.flgc o) := Nat.ble_eq.mp rfl
theorem tcr o : Statement (.tcr o) := Nat.ble_eq.mp rfl
theorem pgate o : Statement (.pgate o) := Nat.ble_eq.mp rfl
theorem pgq o : Statement (.pgq o) := Nat.ble_eq.mp rfl
theorem moncap o : Statement (.moncap o) := Nat.ble_eq.mp rfl
theorem tlrd o : Statement (.tlrd o) := Nat.ble_eq.mp rfl
theorem bundleIssue core : Statement (.bundleIssue core) := Nat.ble_eq.mp rfl
theorem sealedRegionTimeout core : Statement (.sealedRegionTimeout core) := Nat.ble_eq.mp rfl
theorem rendezvousRelease group : Statement (.rendezvousRelease group) := Nat.ble_eq.mp rfl
theorem freeze req : Statement (.freeze req) := Nat.ble_eq.mp rfl
theorem restart bind : Statement (.restart bind) := Nat.ble_eq.mp rfl
theorem domainStop bind : Statement (.domainStop bind) := Nat.ble_eq.mp rfl
theorem retryWindowExpiry core group : Statement (.retryWindowExpiry core group) := Nat.ble_eq.mp rfl
theorem scrub word : Statement (.scrub word) := Nat.ble_eq.mp rfl
theorem mmaOperandClaim core op step isB : Statement (.mmaOperandClaim core op step isB) := Nat.ble_eq.mp rfl
theorem matrixWriteComplete core op : Statement (.matrixWriteComplete core op) := Nat.ble_eq.mp rfl
theorem msaveRowClaim core op row : Statement (.msaveRowClaim core op row) := Nat.ble_eq.mp rfl
theorem blockCapture core cmd : Statement (.blockCapture core cmd) := Nat.ble_eq.mp rfl
theorem timedCommandStart core cmd : Statement (.timedCommandStart core cmd) := Nat.ble_eq.mp rfl
theorem copyBeat core cmd beat dst : Statement (.copyBeat core cmd beat dst) := Nat.ble_eq.mp rfl
theorem timedCopyEnd core cmd : Statement (.timedCopyEnd core cmd) := Nat.ble_eq.mp rfl
theorem untimedComplete op : Statement (.untimedComplete op) := Nat.ble_eq.mp rfl
theorem xlatResult core x : Statement (.xlatResult core x) := Nat.ble_eq.mp rfl
theorem routingComplete core cmd : Statement (.routingComplete core cmd) := Nat.ble_eq.mp rfl
theorem atomicApply op : Statement (.atomicApply op) := Nat.ble_eq.mp rfl
theorem hbmGroup core cmd item : Statement (.hbmGroup core cmd item) := Nat.ble_eq.mp rfl
theorem hbmRefresh stack pc bank : Statement (.hbmRefresh stack pc bank) := Nat.ble_eq.mp rfl
theorem rillEntryReady pair up : Statement (.rillEntryReady pair up) := Nat.ble_eq.mp rfl
theorem rillSlotFreed pair up : Statement (.rillSlotFreed pair up) := Nat.ble_eq.mp rfl
theorem powerGateDecision req : Statement (.powerGateDecision req) := Nat.ble_eq.mp rfl
theorem gatingComplete core : Statement (.gatingComplete core) := Nat.ble_eq.mp rfl
theorem wakeComplete core : Statement (.wakeComplete core) := Nat.ble_eq.mp rfl
theorem realignmentComplete stack : Statement (.realignmentComplete stack) := Nat.ble_eq.mp rfl
theorem migrationMove move : Statement (.migrationMove move) := Nat.ble_eq.mp rfl
theorem launchWord q w src : Statement (.launchWord q w src) := Nat.ble_eq.mp rfl
theorem queueAgeing q : Statement (.queueAgeing q) := Nat.ble_eq.mp rfl
theorem preemption bind : Statement (.preemption bind) := Nat.ble_eq.mp rfl
theorem dispatch bind : Statement (.dispatch bind) := Nat.ble_eq.mp rfl
theorem launchStart bind : Statement (.launchStart bind) := Nat.ble_eq.mp rfl
theorem launchComplete bind : Statement (.launchComplete bind) := Nat.ble_eq.mp rfl
theorem resume bind : Statement (.resume bind) := Nat.ble_eq.mp rfl
theorem variantRebind bind : Statement (.variantRebind bind) := Nat.ble_eq.mp rfl
theorem imageLoad slot addr len : Statement (.imageLoad slot addr len) := Nat.ble_eq.mp rfl
theorem watchdogExpiry ctl : Statement (.watchdogExpiry ctl) := Nat.ble_eq.mp rfl
theorem handoverRecordWrite ctl : Statement (.handoverRecordWrite ctl) := Nat.ble_eq.mp rfl
theorem monitorClear mon : Statement (.monitorClear mon) := Nat.ble_eq.mp rfl
theorem monitorCapture mon : Statement (.monitorCapture mon) := Nat.ble_eq.mp rfl
theorem retransmit dest : Statement (.retransmit dest) := Nat.ble_eq.mp rfl
theorem collectiveCell op : Statement (.collectiveCell op) := Nat.ble_eq.mp rfl
theorem patchAckDeadline patch : Statement (.patchAckDeadline patch) := Nat.ble_eq.mp rfl
theorem patchSwitch patch : Statement (.patchSwitch patch) := Nat.ble_eq.mp rfl
theorem journalAck end_ : Statement (.journalAck end_) := Nat.ble_eq.mp rfl
theorem emissionRelease op : Statement (.emissionRelease op) := Nat.ble_eq.mp rfl
theorem reset laneTest : Statement (.reset laneTest) := Nat.ble_eq.mp rfl
theorem doubledRefresh stack need : Statement (.doubledRefresh stack need) := Nat.ble_eq.mp rfl
theorem endTask : Statement .endTask := Nat.ble_eq.mp rfl
theorem writeVisible : Statement .writeVisible := Nat.ble_eq.mp rfl
theorem bankAccess : Statement .bankAccess := Nat.ble_eq.mp rfl
theorem meshHop : Statement .meshHop := Nat.ble_eq.mp rfl
theorem droopStretch : Statement .droopStretch := Nat.ble_eq.mp rfl
theorem clockCrossingSlip : Statement .clockCrossingSlip := Nat.ble_eq.mp rfl
theorem frequencyStepDown : Statement .frequencyStepDown := Nat.ble_eq.mp rfl
theorem frequencyStepUp : Statement .frequencyStepUp := Nat.ble_eq.mp rfl
theorem thermalFreeze : Statement .thermalFreeze := Nat.ble_eq.mp rfl
theorem powerFreeze : Statement .powerFreeze := Nat.ble_eq.mp rfl
theorem freezeRelease : Statement .freezeRelease := Nat.ble_eq.mp rfl
theorem hotnessInterval : Statement .hotnessInterval := Nat.ble_eq.mp rfl
theorem updateRecord : Statement .updateRecord := Nat.ble_eq.mp rfl
theorem faultRecord : Statement .faultRecord := Nat.ble_eq.mp rfl
theorem faultRetry : Statement .faultRetry := Nat.ble_eq.mp rfl
theorem faultUnresolvable : Statement .faultUnresolvable := Nat.ble_eq.mp rfl
theorem windowSample : Statement .windowSample := Nat.ble_eq.mp rfl
theorem bindDecision : Statement .bindDecision := Nat.ble_eq.mp rfl
theorem wwrite : Statement .wwrite := Nat.ble_eq.mp rfl
theorem wread : Statement .wread := Nat.ble_eq.mp rfl
theorem mgmtw : Statement .mgmtw := Nat.ble_eq.mp rfl
theorem mgmtr : Statement .mgmtr := Nat.ble_eq.mp rfl
theorem memw : Statement .memw := Nat.ble_eq.mp rfl
theorem memr : Statement .memr := Nat.ble_eq.mp rfl
theorem inval : Statement .inval := Nat.ble_eq.mp rfl
theorem resend : Statement .resend := Nat.ble_eq.mp rfl
theorem sysdone : Statement .sysdone := Nat.ble_eq.mp rfl
theorem hack : Statement .hack := Nat.ble_eq.mp rfl
theorem keyExchange : Statement .keyExchange := Nat.ble_eq.mp rfl
theorem stage : Statement .stage := Nat.ble_eq.mp rfl
theorem commit : Statement .commit := Nat.ble_eq.mp rfl
theorem abort : Statement .abort := Nat.ble_eq.mp rfl
theorem takeover : Statement .takeover := Nat.ble_eq.mp rfl
theorem heartbeat : Statement .heartbeat := Nat.ble_eq.mp rfl
theorem monitorSample : Statement .monitorSample := Nat.ble_eq.mp rfl
theorem rptreq : Statement .rptreq := Nat.ble_eq.mp rfl
theorem reportWritten : Statement .reportWritten := Nat.ble_eq.mp rfl
theorem securityAlarm : Statement .securityAlarm := Nat.ble_eq.mp rfl
theorem registerWrite : Statement .registerWrite := Nat.ble_eq.mp rfl
theorem cellSend : Statement .cellSend := Nat.ble_eq.mp rfl
theorem cellReceive : Statement .cellReceive := Nat.ble_eq.mp rfl
theorem peerLeft : Statement .peerLeft := Nat.ble_eq.mp rfl
theorem lineDrift : Statement .lineDrift := Nat.ble_eq.mp rfl
theorem lineFailure : Statement .lineFailure := Nat.ble_eq.mp rfl
theorem lineRelock : Statement .lineRelock := Nat.ble_eq.mp rfl
theorem repairPatch : Statement .repairPatch := Nat.ble_eq.mp rfl
theorem patchReceive : Statement .patchReceive := Nat.ble_eq.mp rfl
theorem journalRecord : Statement .journalRecord := Nat.ble_eq.mp rfl
theorem partnerLost : Statement .partnerLost := Nat.ble_eq.mp rfl
theorem partnerRestore : Statement .partnerRestore := Nat.ble_eq.mp rfl
theorem replayExtract : Statement .replayExtract := Nat.ble_eq.mp rfl

end Sys2Proof.Laws.EncodingLength
end

