-- ==== Sys2Proof/Safety.lean ====
section
/-! DEFINITION. What counts as a safe run: no step of it ends in a fault or a refusal. -/

namespace Sys2Proof

open Sys2Proof.Machine

/-- One step goes on. -/
def goesOn (s : State) : Prop := ∃ t, step s = .next t

/-- n steps from s go on. -/
def safeFor (s : State) (n : Nat) : Prop :=
  match n with
  | 0 => True
  | n + 1 => ∃ t, step s = .next t ∧ safeFor t n

end Sys2Proof
end

