-- ==== Sys2Proof/Tests/Slice0.lean ====
section
/-! SUPPORT. Small tests: the checks of WellFormed refuse what they should, words written out from the encoding chapters decode to their instructions, and for each
statement of Certificates/Slice0/Obligations.lean that has hypotheses, states and operands that meet them, clause by clause, at the edges of their ranges, with the results that the
spec's rules give there. -/

namespace Sys2Proof.Tests

set_option Elab.async false

open Sys2Proof.Machine Sys2Proof.Claim

/-! A small state: core 0 (lower die, cluster 0) issues slot 1 of a bundle at 0x100 in cycle 1,000, for launch 0 with cores 0 and 1 -/

def regs0 : Vector Word 32 :=
  #v[0x100000, 5, 0xFFFFFFFFFFFFFFFD, 0x8000000000000000, 0xFFFFFFFFFFFFFFFF, 0, 0x3F8000003FC00000, 0x7F8000017FC00000, 0xB0F, 0x1234567800000000,
     0x200, 0x40000, 0x102, 2 ^ 40, 0xFF00004000, 0x100000000, 0x80, 0, 0, 0, 0, 0, 0, 0, 0, 0, 0, 0, 0, 0, 0, 0]

def core0 : Core :=
  { Core.init with run := .running, pc := 0x100, bind := some 0, tcyc := 500, s := regs0, p := 0x5, nextIssue := 1000 }

def core1 : Core := { core0 with nextIssue := 2000, pc := 0x400 }

def launch0 : Launch := { Launch.free with st := 3, lid := 9, cores := [0, 1] }

def st : State :=
  { State.reset with clock := 1000, cores := [(0, core0), (1, core1)], binds := [(0, launch0)], ix := ⟨0, 0x100, 8, 3, [7, 0xFFFFFFFE, 0x80000000], 1, false, 0, none⟩,
                     nextId := 40 }

/-- The outcome is a next state of which p holds. -/
def nextIs (r : Host.Outcome State Fault Refusal) (p : State → Bool) : Bool :=
  match r with
  | .next t => p t
  | _ => false

/-- Change the issuing core. -/
def withCore (s : State) (f : Core → Core) : State := s.modCore 0 f

def always : Pred := ⟨0, false⟩
def never : Pred := ⟨0, true⟩

/-- The outcome is exactly the next state t. -/
def same (r : Host.Outcome State Fault Refusal) (t : State) : Bool := nextIs r fun u => decide (u = t)

/-- A command of core 0, number 12, issued at cycle 980. -/
def cmd0 (i : Instr) (timed : Bool) (stage : CmdStage) : Cmd :=
  { id := 12, core := 0, bind := some 0, slot := 9, addr := 0x80, stamp := 480, issued := 980, instr := i, ctx := 0, timed := timed, batch := .none, tS := 510,
    start := 0, dur := 4, base := 13, span := 8, lost := [], block := 0, stage := stage, writing := false, args := [0, 0, 0, 0, 0, 0, 0, 0x1000], data := [],
    flags := 0, status := 0, detail := 0, value := 0, bno := 0, pos := 0, dead := false, beat := 0, bad := [] }

def stLits (l : List (BitVec 32)) : State := { st with ix := { st.ix with lits := l } }

def okAnd {α : Type} (e : Except Trap α) (p : α → Bool) : Bool :=
  match e with
  | .ok x => p x
  | .error _ => false
def errAnd {α : Type} (e : Except Trap α) (p : Trap → Bool) : Bool :=
  match e with
  | .ok _ => false
  | .error x => p x

def setR (s : State) (r : Nat) (v : Word) : State := withCore s fun c => { c with s := c.s.set! r v }
def strictly (s : State) : State := { s with binds := [(0, { launch0 with strict := true })] }
/-- Bytes FE FF at 0x100000 of slice 0. -/
def stMem : State := { st with mem := [(nearBase + 0x100000, 0xFE), (nearBase + 0x100001, 0xFF)] }
/-- Buffer 0 is declared over the 64 bytes from 0x100000, in a state. -/
def buffered (b : BufState) (held : Bool) (s : State) : State := withCore s fun c => { c with bufs := [(0, ⟨0x100000, 1, b, true, 0, 0, held⟩)] }

def reachesB (ea : Nat) (load : Bool) : Bool :=
  @decide (reachesNothing ea load) (by unfold reachesNothing; infer_instance)

def inRegion (k : RegionKind) (s : State) : State := withCore s fun c => { c with region := ⟨k, 900, 0x40, false⟩ }

/-- Window 1: 4 KiB at 0x2000 of package 0, allowance 1. -/
def windowed (s : State) : State := withCore s fun c => { c with win := [(1, ⟨0x100000002000, 0x1000, 1, 0⟩)] }

/-- k1 selects the last of 128 lanes, k2 none, k3 lanes 0 and 1. -/
def masked (s : State) : State := withCore s fun c => { c with k := (c.k.set 1 (BitVec.ofNat 512 (2 ^ 127))).set 3 3, rows := [(7, 0x0807060504030201)] }

/-- Rows with large, negative and special lanes; k1 the last of 128 lanes, k2 none, k3 lanes 0 and 1. -/
def vst : State :=
  withCore (masked st) fun c => { c with rows := [(1, BitVec.ofNat 4096 (0x7F800001_80000000 + 0x3F800000 * 2 ^ 4064)), (2, BitVec.ofNat 4096 (0x3FC00000_FFFFFFFF + 0x40000000 * 2 ^ 4064)), (4, 0x00010001_7FFFFFFF), (5, 0x0000001F_00000020), (6, 0x40000000_3F800000), (7, BitVec.ofNat 4096 (0x3F800000 + 0x40000000 * 2 ^ 64))] }
def vo (view : BitVec 3) (mask : BitVec 4) (sat : Bool) : VOps := ⟨3, 1, 2, 0, mask, view, 0, sat, false⟩

/-- A context with batch 3 open (one member done), TLCNT 2. -/
def stCtx : State := withCore st fun c => { c with ctx := c.ctx.set 4 { Ctx.init with closed := 3, cnt := 2, cur := ⟨1, 0, 0, 0, 0, 0⟩ } }

def canonB (s : State) : Bool := Memory.wf s.mem && SMap.wf Core.init s.cores

/-- A checkpoint at 0x40 with s1 and rows 5 to 5 and tile 1; the core frozen with rows 5, 6 and 128; a launch whose domain has stopped to be rewound. -/
def ckpt0 : Checkpoint :=
  { entry := false, taken := 900, addr := 0x40, loops := [⟨3, 1, 0x20, 0x80, none⟩], tcyc := 400, phaseno := 2, flagsA := 5, flagsB := 0, fevrec := 0, s := (Vector.replicate 32 0).set 1 7, p := 5,
    g := Vector.replicate 16 0, rows := [(5, 5)], tiles := 2, bufs := [], closed := List.replicate 8 0, opens := List.replicate 8 .empty, mapPhase := 0, awaits := [] }

/-- A block with fields: byte offset and value. -/
def blk (l : List (Nat × Nat)) : Desc := BitVec.ofNat 512 (l.foldl (fun a x => a + x.2 * 2 ^ (8 * x.1)) 0)
/-- Memory from (address, length, value), in rising order. -/
def memOf (l : List (Nat × Nat × Nat)) : Memory := (l.flatMap fun x => (leBytes x.2.1 x.2.2).zipIdx.map fun b => (x.1 + b.2, b.1)).filter fun b => b.2 != 0
/-- An image of sections: type and bytes. -/
def img (secs : List (Nat × List Byte)) : Image :=
  let head : List Byte := leBytes 12 0 ++ leBytes 4 secs.length ++ List.replicate 112 0
  let (table, body, _) := secs.foldl (fun (a : List Byte × List Byte × Nat) x =>
    (a.1 ++ leBytes 4 x.1 ++ leBytes 4 a.2.2 ++ leBytes 8 x.2.length, a.2.1 ++ x.2, a.2.2 + x.2.length)) ([], [], 128 + 16 * secs.length)
  ⟨head ++ table ++ body⟩
def mop0 (i : Instr) : MOp :=
  { id := 12, instr := i, addr := 0x80, stamp := 490, issued := 990, done := 1000, base := 990, tiles := [6], input := [], descA := 0, descB := 0, capA := [], capB := [], panel := none,
    hit := false, dead := false }
def g1024 : Desc := BitVec.ofNat 512 (2 + 0xFFF * 2 ^ 16 + 0x100000 * 2 ^ 32 + 1024 * 2 ^ 96)

def nowIn (t : State) (ev : Instr) : Bool := t.agenda.any fun a => a.at_ == t.clock && a.ev == ev
def noUnit (r : Host.Outcome State Fault Refusal) : Bool :=
  match r with
  | .fault .noSuchUnit => true
  | _ => false
def toldB (s t : State) (typ flags arg : Nat) (payload : List Byte) (key : Nat) : Bool := @decide (told s t typ flags arg payload key) (by unfold told; infer_instance)
/-! Ill-formed terms: one for each check of WellFormed -/

def sOk : SOps := ⟨5, 6, .reg 7, ⟨2, false⟩, 0⟩
def lOk : LOps := ⟨5, 0, true, 3, 0x40, 1, 1⟩
def zL : LOps := ⟨0, 0, false, 0, 0, 0, 0⟩
def vOk : VOps := ⟨3, 1, 2, 0, 0, 1, 0, false, false⟩
def v1Ok : VOps := ⟨3, 1, 0, 0, 0, 1, 0, false, false⟩
def kOk : VOps := ⟨3, 1, 2, 0, 0, 0, 0, false, false⟩

def illC : List Instr :=
  [.brkl ⟨0, false⟩ 0 1, .brkl ⟨0, false⟩ 7 1, .lidx ⟨0, false⟩ 1 6, .region 3 0 0, .region 0 0 5, .replay 0 1 0, .replay 1 0 0, .replay 1 1 7]

def illS : List Instr :=
  ([Instr.add, .sub, .mul, .mulh, .mulhu, .div, .divu, .rem, .remu, .and, .or, .xor, .andn, .shl, .shr, .sar, .rot, .min, .max, .minu, .maxu,
    .bfi].map fun f => f { sOk with mod := 1 }) ++
  [.cmp { sOk with sd := 16 }, .cmp { sOk with mod := 6 }, .cmpu { sOk with sd := 16 }, .cmpu { sOk with mod := 6 }, .mov sOk,
   .mov { sOk with sa := 0, mod := 1 }, .lit { sOk with sa := 0 }, .lit { sOk with src := .lit 0 }, .lit { sOk with src := .lit 0, sa := 0, mod := 4 },
   .clz sOk, .clz { sOk with src := .reg 0, mod := 1 }, .popc sOk, .popc { sOk with src := .lit 0 }, .popc { sOk with src := .reg 0, mod := 1 },
   .bfx { sOk with mod := 2 }, .sext sOk, .sext { sOk with src := .reg 0, mod := 3 }, .zext sOk, .zext { sOk with src := .reg 0, mod := 3 },
   .fmin { sOk with mod := 2 }, .fmax { sOk with mod := 2 }, .fminp { sOk with mod := 2 }, .fmaxp { sOk with mod := 2 }, .fsgn { sOk with mod := 6 },
   .fcvt { sOk with src := .lit 0 }, .fcvt { sOk with src := .reg 12 }, .fcvt { sOk with mod := 1 }, .fsqrt sOk, .sld { sOk with mod := 4 },
   .slds { sOk with mod := 4 }, .sst { sOk with mod := 4 }, .gmap 0 0 6]

def illL : List Instr :=
  ([Instr.vld, .vst, .vldb].flatMap fun f =>
    [f { lOk with stream := 1 }, f { lOk with mode := false }, f { lOk with mod := 7 }, f { lOk with mod := 9 }]) ++
  ([Instr.vlda, .vsta].flatMap fun f =>
    [f lOk, f { lOk with mode := false }, f { lOk with mode := false, scalar := 0, mod := 7 }, f { lOk with mode := false, scalar := 0, mod := 0x21 }]) ++
  ([Instr.vgth, .vsct].flatMap fun f => [f { lOk with stream := 1 }, f { lOk with mod := 3 }, f { lOk with mod := 9 }]) ++
  ([{ zL with row := 1 }, { zL with stream := 1 }, { zL with mode := true }, { zL with scalar := 1 }, { zL with mask := 1 }, { zL with off := 0x40 },
    { zL with mod := 4 }].map Instr.bufset) ++
  ([{ zL with row := 1 }, { zL with stream := 1 }, { zL with mode := true }, { zL with mask := 1 }, { zL with off := 0x40 }, { zL with mod := 1 }].map Instr.bufq) ++
  [.atom lOk, .atom { lOk with mask := 0, stream := 1 }, .atom { lOk with mask := 0, mod := 15 }, .atom { lOk with mask := 0, mod := 0x10 },
   .atom { lOk with mask := 0, mod := 0x1D }, .atom { lOk with mask := 0, mod := 0x20 }] ++
  ([{ zL with stream := 1 }, { zL with mode := true }, { zL with scalar := 1 }, { zL with off := 1 }, { zL with mask := 1 }, { zL with mod := 1 }].map Instr.rlsend) ++
  ([{ zL with stream := 1 }, { zL with mode := true }, { zL with scalar := 1 }, { zL with off := 1 }, { zL with mod := 7 }].map Instr.rlrecv) ++
  ([{ zL with row := 1 }, { zL with stream := 1 }, { zL with mode := true }, { zL with off := 1 }, { zL with mask := 1 }, { zL with mod := 2 }].map Instr.rlfree)

def illV : List Instr :=
  ([Instr.vadd, .vsub].flatMap fun f => [f { vOk with view := 7 }, f { vOk with vc := 1 }, f { vOk with view := 2, rnd := 1 }, f { vOk with sat := true },
    f { vOk with lit := true, vb := 8 }, f { vOk with view := 0, rnd := 1 }]) ++
  ([Instr.vmul, .vfma, .vfms, .vfnma].flatMap fun f => [f { vOk with view := 0 }, f { vOk with view := 2, rnd := 1 }, f { vOk with sat := true },
    f { vOk with lit := true, vb := 8 }]) ++ [.vmul { vOk with vc := 1 }] ++
  ([Instr.vmin, .vmax].flatMap fun f => [f { vOk with view := 7 }, f { vOk with rnd := 1 }, f { vOk with vc := 1 }, f { vOk with view := 2, vc := 2 },
    f { vOk with view := 2, sat := true }]) ++
  ([Instr.vminp, .vmaxp].flatMap fun f => [f { vOk with view := 2 }, f { vOk with vc := 1 }]) ++
  ([Instr.vabs, .vneg].flatMap fun f => [f vOk, f { v1Ok with vc := 1 }, f { v1Ok with lit := true }, f { v1Ok with sat := true }, f { v1Ok with rnd := 1 }]) ++
  [.vcmp { vOk with vd := 16 }, .vcmp { vOk with vc := 8 }, .vcmp { vOk with view := 2, vc := 6 }, .vcmp { vOk with view := 2, vc := 12 }, .vcmp { vOk with rnd := 1 },
   .vsel { vOk with vc := 16 }, .vsel { vOk with view := 7 }] ++
  ([Instr.vand, .vor, .vxor].flatMap fun f => [f { vOk with vc := 1 }, f { vOk with view := 7 }, f { vOk with sat := true }]) ++
  [.vnot vOk, .vnot { v1Ok with vc := 1 }, .vnot { v1Ok with lit := true }] ++
  ([Instr.vshl, .vshr, .vsar].flatMap fun f => [f vOk, f { vOk with view := 2, vc := 1 }]) ++
  [.vmov vOk, .vmov { v1Ok with vc := 1 }, .vfill { v1Ok with lit := true }, .vfill { v1Ok with va := 32 }, .vfill vOk, .vfill { v1Ok with vc := 1 },
   .viota { v1Ok with view := 0, va := 0 }, .viota v1Ok, .viota { vOk with va := 0 }, .viota { v1Ok with va := 0, vc := 1 },
   .vext { v1Ok with vd := 32 }, .vext { v1Ok with mask := 1 }, .vext vOk, .vext { v1Ok with vc := 128 }, .vins { v1Ok with va := 32 }, .vins { v1Ok with mask := 1 },
   .vins vOk, .vins { v1Ok with vc := 128 }, .vcvt vOk, .vcvt { v1Ok with vc := 7 }, .vcvt { v1Ok with vc := 0x40 }, .vcvt { v1Ok with vc := 0x0A },
   .vcvts { v1Ok with view := 0 }, .vcvts { vOk with vb := 32 }, .vcvts { v1Ok with rnd := 1 }, .vcvts { v1Ok with vc := 0x0A },
   .vqnt { v1Ok with vc := 2 }, .vqnt { v1Ok with vc := 20 }, .vqnt { vOk with vc := 3 }, .vqnt { v1Ok with vc := 3, mask := 1 }, .vqnt { v1Ok with vc := 3, view := 2 },
   .vfold { v1Ok with view := 4 }, .vfold vOk, .vfold { v1Ok with vc := 2 }, .vsplit { v1Ok with rnd := 1 }, .vsplit vOk, .vsplit { v1Ok with vc := 2 }] ++
  ([Instr.vexp2, .vlog2, .vrcp, .vrsq, .vsqrt, .vtanh, .vsigm, .vgelu].flatMap fun f => [f { v1Ok with view := 2 }, f vOk, f { v1Ok with vc := 1 }]) ++
  [.vrsum vOk, .vrsum { v1Ok with vc := 1 }, .vrmax vOk, .vrmax { v1Ok with vc := 1 }, .vrmin vOk, .vrmin { v1Ok with vc := 1 }, .vramax { v1Ok with view := 0 },
   .vramax vOk, .vramax { v1Ok with vc := 1 }, .vscan { v1Ok with view := 3 }, .vscan vOk, .vscan { v1Ok with vc := 2 }, .vperm { vOk with vc := 1 },
   .vperm { vOk with lit := true }, .vrot vOk, .vrot { v1Ok with vc := 128 }, .vbcl vOk, .vbcl { v1Ok with vc := 128 }, .vzip { vOk with vc := 2 },
   .vunzp { vOk with vc := 2 }, .vrng { v1Ok with view := 0 }, .vrng { v1Ok with va := 32 }, .vrng vOk, .vrng { v1Ok with vc := 1 }] ++
  ([Instr.kand, .kor, .kxor].flatMap fun f => [f { kOk with view := 1 }, f { kOk with mask := 1 }, f { kOk with vd := 16 }, f { kOk with va := 16 },
    f { kOk with vb := 16 }, f { kOk with vc := 1 }]) ++
  [.knot kOk, .knot { kOk with vb := 0, view := 1 }, .knot { kOk with vb := 0, mask := 1 }, .knot { kOk with vb := 0, vd := 16 }, .knot { kOk with vb := 0, va := 16 },
   .knot { kOk with vb := 0, vc := 1 }, .kpop kOk, .kpop { kOk with vb := 0, mask := 1 }, .kpop { kOk with vb := 0, va := 16 }, .kpop { kOk with vb := 0, vc := 1 },
   .kset kOk, .kset { kOk with vb := 0, mask := 1 }, .kset { kOk with vb := 0, vd := 16 }, .kset { kOk with vb := 0, vc := 1 },
   .ksetImm { kOk with va := 0 }, .ksetImm { kOk with lit := true }, .ksetImm { kOk with va := 0, lit := true, view := 1 },
   .ksetImm { kOk with va := 0, lit := true, mask := 1 }, .ksetImm { kOk with va := 0, lit := true, vd := 16 }, .ksetImm { kOk with va := 0, lit := true, vc := 1 },
   .ksetImm { kOk with va := 0, lit := true, vb := 8 }]

def mOk : MOps := ⟨6, 1, 2, 16, 0, 0⟩
def mzOk : MOps := ⟨6, 0, 0, 0, 0, 0⟩
def eOk : EOps := ⟨0, 0, 4, 0⟩
def xOk : XOps := ⟨7, 0, 0x10⟩

def illM : List Instr :=
  [.mma { mOk with k := 0 }, .mma { mOk with tile := 7, mode := 2 }, .mma { mOk with mode := 2, low := 0x180000 }, .mma { mOk with mode := 1, low := 0x080000 },
   .mma { mOk with low := 0x100000 }, .mma { mOk with mode := 10 }, .mma { mOk with low := 0x040000 }, .mma { mOk with sb := 0, mode := 4, low := 0x040000 },
   .mma { mOk with low := 1 }, .mzero { mzOk with sa := 1 }, .mzero { mzOk with sb := 1 }, .mzero { mzOk with k := 1 }, .mzero { mzOk with low := 1 },
   .mzero { mzOk with mode := 8 }, .mzero { mzOk with mode := 4 }, .mzero { mzOk with mode := 1 }, .mzero { mzOk with tile := 7, mode := 2 },
   .mfold { mzOk with sa := 1 }, .mfold { mzOk with sb := 1 }, .mfold { mzOk with k := 1 }, .mfold { mzOk with mode := 2 }, .mfold { mzOk with low := 1 },
   .mfold { mzOk with low := 0x100000 }, .msave { mzOk with sb := 1 }, .msave { mzOk with k := 1 }, .msave { mzOk with mode := 2 }, .mload { mzOk with sb := 1 },
   .mload { mzOk with k := 1 }, .mload { mzOk with mode := 2 }, .mpre { mOk with sa := 0 }, .mpre { mOk with tile := 0 }, .mpre { mOk with tile := 0, sa := 0, k := 0 },
   .mpre { mOk with tile := 0, sa := 0, mode := 8 }, .mpre { mOk with tile := 0, sa := 0, mode := 2 }, .mpre { mOk with tile := 0, sa := 0, mode := 1 },
   .mpre { mOk with tile := 0, sa := 0, low := 1 }, .mtrn { mzOk with sa := 1 }, .mtrn { mzOk with sb := 1 }, .mtrn { mzOk with k := 1 }, .mtrn { mzOk with mode := 8 },
   .mtrn { mzOk with mode := 4 }, .mtrn { mzOk with mode := 1 }, .mtrn { mzOk with low := 1 }, .mtrn { mzOk with tile := 7, mode := 2 },
   .mtrn { mzOk with mode := 2, low := 0x100000 }]

def illE : List Instr :=
  ([Instr.cpyt, .cpyu, .cpym, .cfill].map fun f => f { eOk with ctx := 4 }) ++
  [.cpyt { eOk with low := 1 }, .cpyu { eOk with low := 1 }, .cpym { eOk with low := 1 }, .cfill { eOk with low := 2 }, .cseal { eOk with start := 1 },
   .cseal eOk, .cseal { eOk with sd := 0, low := 1 }, .amo eOk, .amo { eOk with ctx := 7, low := 0xF00000 }, .amo { eOk with ctx := 7, low := 0x080000 },
   .amo { eOk with ctx := 7, low := 1 }, .amof eOk, .amof { eOk with ctx := 7, low := 0xF00000 }, .amof { eOk with ctx := 7, low := 1 }, .rtopk eOk,
   .rtopk { eOk with ctx := 4, low := 2 }] ++
  ([Instr.rcap, .rdisp].flatMap fun f => [f eOk, f { eOk with ctx := 4, low := 1 }]) ++
  ([Instr.tlife, .tdrop, .hflush, .hnote].flatMap fun f => [f eOk, f { eOk with ctx := 7, low := 1 }]) ++ [.fsend eOk, .fsend { eOk with ctx := 5, low := 1 }] ++
  ([Instr.frdc, .fag, .fa2a].flatMap fun f => [f eOk, f { eOk with ctx := 5, low := 1 }, f { eOk with ctx := 5, low := 0x400000 }]) ++
  ([Instr.jrnl, .emit, .jtrunc].flatMap fun f => [f eOk, f { eOk with ctx := 6, low := 1 }])

def illX : List Instr :=
  [.xlat ⟨8, 0, 0x1000⟩, .xlat ⟨7, 0, 0x1001⟩, .xlat ⟨7, 0, 0⟩, .xvalid ⟨16, 0, 0⟩, .xvalid ⟨1, 8, 0⟩, .xvalid ⟨1, 0, 2⟩, .csrr { xOk with sa := 1 },
   .csrr { xOk with low := 0x11 }, .csrr { xOk with low := 0xD0 }, .csrr { xOk with low := 0x480 }, .csrr { xOk with low := 0x1000 }, .csrr { xOk with low := 0x1FF0 },
   .csrr { xOk with low := 0x2000 }, .csrr { xOk with low := 0x2FF0 }, .csrr { xOk with low := 0x3000 }, .csrr { xOk with low := 0x3FF0 }] ++
  ([Instr.csrw, .csrs, .csrc].flatMap fun f => [f xOk, f { xOk with sd := 0, low := 0x11 }, f { xOk with sd := 0, low := 0xD0 }]) ++
  ([Instr.flgr, .flgc].flatMap fun f => [f ⟨1, 1, 0⟩, f ⟨1, 0, 1⟩]) ++
  [.tcr ⟨1, 1, 0⟩, .tcr ⟨1, 0, 1⟩, .tcr ⟨1, 0, 0x3000⟩, .pgate ⟨1, 1, 3⟩, .pgq ⟨1, 1, 1⟩, .moncap ⟨1, 0, 0⟩, .moncap ⟨0, 1, 0⟩, .moncap ⟨0, 0, 1⟩, .moncap ⟨0, 0, 0x2000⟩,
   .tlrd ⟨1, 1, 1⟩]

def illSteps : List Instr :=
  [.bundleIssue 768, .sealedRegionTimeout 768, .rendezvousRelease 256, .freeze ⟨64, 0, 0, false⟩, .restart 64, .domainStop 64, .retryWindowExpiry 768 0,
   .retryWindowExpiry 0 34, .scrub 0x20000000, .scrub (192 * 2 ^ 19), .mmaOperandClaim 768 0 0 false, .matrixWriteComplete 768 0, .msaveRowClaim 768 0 0,
   .msaveRowClaim 0 0 128, .blockCapture 768 0, .timedCommandStart 768 0, .copyBeat 768 0 0 false, .timedCopyEnd 768 0, .xlatResult 768 0, .xlatResult 0 8,
   .routingComplete 768 0, .hbmGroup 768 0 0, .hbmRefresh 8 0 0, .hbmRefresh 0 64 0, .hbmRefresh 0 0 16, .rillEntryReady 384 true, .rillSlotFreed 384 true,
   .powerGateDecision ⟨768, 0, false, false, 0, 0⟩, .powerGateDecision ⟨0, 1024, false, false, 0, 0⟩, .gatingComplete 768, .wakeComplete 768, .realignmentComplete 2,
   .launchWord 64 0 (.core 0), .queueAgeing 64, .preemption 64, .dispatch 64, .launchStart 64, .launchComplete 64, .resume 64, .variantRebind 64, .imageLoad 256 0 0,
   .watchdogExpiry 4, .handoverRecordWrite 4, .monitorClear (.pkg 7), .monitorCapture (.cluster 48 2), .monitorCapture (.cluster 0 6), .monitorCapture (.cluster 0 1),
   .retransmit 4096, .doubledRefresh 8 0, .doubledRefresh 0 3]

theorem test_illFormedRefused :
    (illC ++ illS ++ illL).all (fun i => !wfInstr i) = true ∧ illV.all (fun i => !wfInstr i) = true ∧
    (illM ++ illE ++ illX ++ illSteps).all (fun i => !wfInstr i) = true := by decide +kernel

/-- The terms that the lists above change are well formed. -/
theorem test_bases :
    [Instr.add sOk, .vld lOk, .bufq zL, .rlsend zL, .rlrecv zL, .rlfree zL, .bufset zL, .vadd vOk, .vnot v1Ok, .kand kOk, .mma mOk, .mzero mzOk, .msave mzOk,
     .mtrn mzOk, .cpyt eOk, .csrr xOk, .atom { lOk with mask := 0 }, .vlda { lOk with mode := false, scalar := 0 }].all wfInstr = true := by decide +kernel
/-! Words written out from the encodings of R27 to R38, R46, R89 and R136, field by field, one for every constructor of a slot -/

def wordsC1 : List (BitVec 32 × Instr) :=
  [(0x013FFFFE, .b ⟨3, true⟩ (-2)),
   (0x02380005, .call ⟨3, true⟩ 5),
   (0x0339C000, .calli ⟨3, true⟩ 7),
   (0x043F8000, .ret ⟨3, true⟩ 30),
   (0x05012021, .loop 9 33),
   (0x05068021, .loopLit 5 33),
   (0x063AFFFD, .brkl ⟨3, true⟩ 2 (-3)),
   (0x0739B800, .lidx ⟨3, true⟩ 6 7),
   (0x08046000, .region 2 1 4),
   (0x09042E98, .phase 0x85 6 2 3),
   (0x0A042898, .resync 0x85 2 3),
   (0x0B380000, .trigger ⟨3, true⟩),
   (0x0C000000, .endTask),
   (0x0D3D2800, .trap ⟨3, true⟩ 0xA5),
   (0x0E3D2800, .sys ⟨3, true⟩ 0xA5),
   (0x0F010B40, .replay 0x21 3 2),
   (0x103892C0, .pand ⟨3, true⟩ ⟨1, 2, 5, true, false⟩),
   (0x113892C0, .por ⟨3, true⟩ ⟨1, 2, 5, true, false⟩),
   (0x123892C0, .pxor ⟨3, true⟩ ⟨1, 2, 5, true, false⟩),
   (0x1339A000, .pget ⟨3, true⟩ 6 true)]

theorem test_decodeC1 : wordsC1.all (fun x => decodeC x.1 == some x.2) = true := by decide +kernel

def wordsC2 : List (BitVec 32 × Instr) :=
  [(0x14398000, .pset ⟨3, true⟩ 6 false),
   (0x153A6A20, .tltest ⟨3, true⟩ ⟨4, true, 5⟩ 17),
   (0x153A6F00, .tltestLit ⟨3, true⟩ ⟨4, true, 5⟩ 6)]

theorem test_decodeC2 : wordsC2.all (fun x => decodeC x.1 == some x.2) = true := by decide +kernel

def wordsS1 : List (BitVec 32 × Instr) :=
  [(0x40299628, .add ⟨5, 6, .reg 11, ⟨2, true⟩, 0⟩),
   (0x41299628, .sub ⟨5, 6, .reg 11, ⟨2, true⟩, 0⟩),
   (0x42299628, .mul ⟨5, 6, .reg 11, ⟨2, true⟩, 0⟩),
   (0x43299628, .mulh ⟨5, 6, .reg 11, ⟨2, true⟩, 0⟩),
   (0x44299628, .mulhu ⟨5, 6, .reg 11, ⟨2, true⟩, 0⟩),
   (0x45299628, .div ⟨5, 6, .reg 11, ⟨2, true⟩, 0⟩),
   (0x46299628, .divu ⟨5, 6, .reg 11, ⟨2, true⟩, 0⟩),
   (0x47299628, .rem ⟨5, 6, .reg 11, ⟨2, true⟩, 0⟩),
   (0x48299628, .remu ⟨5, 6, .reg 11, ⟨2, true⟩, 0⟩),
   (0x49299628, .and ⟨5, 6, .reg 11, ⟨2, true⟩, 0⟩),
   (0x4A299628, .or ⟨5, 6, .reg 11, ⟨2, true⟩, 0⟩),
   (0x4B299628, .xor ⟨5, 6, .reg 11, ⟨2, true⟩, 0⟩),
   (0x4C299628, .andn ⟨5, 6, .reg 11, ⟨2, true⟩, 0⟩),
   (0x4D299628, .shl ⟨5, 6, .reg 11, ⟨2, true⟩, 0⟩),
   (0x4E299628, .shr ⟨5, 6, .reg 11, ⟨2, true⟩, 0⟩),
   (0x4F299628, .sar ⟨5, 6, .reg 11, ⟨2, true⟩, 0⟩),
   (0x50299628, .rot ⟨5, 6, .reg 11, ⟨2, true⟩, 0⟩),
   (0x51299628, .min ⟨5, 6, .reg 11, ⟨2, true⟩, 0⟩),
   (0x52299628, .max ⟨5, 6, .reg 11, ⟨2, true⟩, 0⟩),
   (0x53299628, .minu ⟨5, 6, .reg 11, ⟨2, true⟩, 0⟩)]

theorem test_decodeS1 : wordsS1.all (fun x => decodeS x.1 == some x.2) = true := by decide +kernel

def wordsS2 : List (BitVec 32 × Instr) :=
  [(0x54299628, .maxu ⟨5, 6, .reg 11, ⟨2, true⟩, 0⟩),
   (0x5549962D, .cmp ⟨9, 6, .reg 11, ⟨2, true⟩, 5⟩),
   (0x5649962D, .cmpu ⟨9, 6, .reg 11, ⟨2, true⟩, 5⟩),
   (0x5729962F, .sel ⟨5, 6, .reg 11, ⟨2, true⟩, 7⟩),
   (0x58280728, .mov ⟨5, 0, .lit 3, ⟨2, true⟩, 0⟩),
   (0x5928072A, .lit ⟨5, 0, .lit 3, ⟨2, true⟩, 2⟩),
   (0x5A298028, .clz ⟨5, 6, .reg 0, ⟨2, true⟩, 0⟩),
   (0x5B298028, .popc ⟨5, 6, .reg 0, ⟨2, true⟩, 0⟩),
   (0x5C299629, .bfx ⟨5, 6, .reg 11, ⟨2, true⟩, 1⟩),
   (0x5D299628, .bfi ⟨5, 6, .reg 11, ⟨2, true⟩, 0⟩),
   (0x5E29802A, .sext ⟨5, 6, .reg 0, ⟨2, true⟩, 2⟩),
   (0x5F29802A, .zext ⟨5, 6, .reg 0, ⟨2, true⟩, 2⟩),
   (0x6029892F, .fadd ⟨5, 6, .lit 4, ⟨2, true⟩, 7⟩),
   (0x6129892F, .fsub ⟨5, 6, .lit 4, ⟨2, true⟩, 7⟩),
   (0x6229892F, .fmul ⟨5, 6, .lit 4, ⟨2, true⟩, 7⟩),
   (0x6329892F, .ffma ⟨5, 6, .lit 4, ⟨2, true⟩, 7⟩),
   (0x64299629, .fmin ⟨5, 6, .reg 11, ⟨2, true⟩, 1⟩),
   (0x65299629, .fmax ⟨5, 6, .reg 11, ⟨2, true⟩, 1⟩),
   (0x66299629, .fminp ⟨5, 6, .reg 11, ⟨2, true⟩, 1⟩),
   (0x67299629, .fmaxp ⟨5, 6, .reg 11, ⟨2, true⟩, 1⟩)]

theorem test_decodeS2 : wordsS2.all (fun x => decodeS x.1 == some x.2) = true := by decide +kernel

def wordsS3 : List (BitVec 32 × Instr) :=
  [(0x68C9962F, .fcmp ⟨25, 6, .reg 11, ⟨2, true⟩, 7⟩),
   (0x6929962D, .fsgn ⟨5, 6, .reg 11, ⟨2, true⟩, 5⟩),
   (0x6A29962E, .fcvt ⟨5, 6, .reg 11, ⟨2, true⟩, 6⟩),
   (0x6B29892F, .fdiv ⟨5, 6, .lit 4, ⟨2, true⟩, 7⟩),
   (0x6C29802F, .fsqrt ⟨5, 6, .reg 0, ⟨2, true⟩, 7⟩),
   (0xA029892B, .sld ⟨5, 6, .lit 4, ⟨2, true⟩, 3⟩),
   (0xA129892B, .slds ⟨5, 6, .lit 4, ⟨2, true⟩, 3⟩),
   (0xA229892B, .sst ⟨5, 6, .lit 4, ⟨2, true⟩, 3⟩)]

theorem test_decodeS3 : wordsS3.all (fun x => decodeS x.1 == some x.2) = true := by decide +kernel

def wordsA1 : List (BitVec 32 × Instr) :=
  [(0x019C0005, .gset 9 12 5),
   (0x029C0015, .gsets 9 12 21),
   (0x0390AC03, .gld 9 21 0x403),
   (0x0490AC03, .gst 9 21 0x403),
   (0x05968001, .gadv 9 true 2 0x8001),
   (0x06900000, .grst 9),
   (0x07938001, .gpos 9 3 0x8001),
   (0x08930005, .gmap 9 3 5)]

theorem test_decodeA1 : wordsA1.all (fun x => decodeA x.1 == some x.2) = true := by decide +kernel

def wordsL1 : List (BitVec 64 × Instr) :=
  [(0x0180AA055E6F7C86, .vld ⟨1029, 5, false, 0, 11259375, 9, 6⟩),
   (0x0280AA055E6F7C86, .vst ⟨1029, 5, false, 0, 11259375, 9, 6⟩),
   (0x0780AA055E6F7C86, .vldb ⟨1029, 5, false, 0, 11259375, 9, 6⟩),
   (0x0180A19D5E6F7C86, .vld ⟨1029, 0, true, 19, 11259375, 9, 6⟩),
   (0x0380AA055E6F7C9E, .vlda ⟨1029, 5, false, 0, 11259375, 9, 30⟩),
   (0x0480AA055E6F7C9E, .vsta ⟨1029, 5, false, 0, 11259375, 9, 30⟩),
   (0x0580A19D5E6F7C82, .vgth ⟨1029, 0, true, 19, 11259375, 9, 2⟩),
   (0x0680A19D5E6F7C82, .vsct ⟨1029, 0, true, 19, 11259375, 9, 2⟩),
   (0x0800000000015003, .bufset ⟨0, 0, false, 0, 42, 0, 3⟩),
   (0x0900008800015000, .bufq ⟨0, 0, false, 17, 42, 0, 0⟩),
   (0x1080A19D5E6F781C, .atom ⟨1029, 0, true, 19, 11259375, 0, 28⟩),
   (0x2080A00000000000, .rlsend ⟨1029, 0, false, 0, 0, 0, 0⟩),
   (0x2180A00000000486, .rlrecv ⟨1029, 0, false, 0, 0, 9, 6⟩),
   (0x2200008800000001, .rlfree ⟨0, 0, false, 17, 0, 0, 1⟩)]

theorem test_decodeL1 : wordsL1.all (fun x => decodeL x.1 == some x.2) = true := by decide +kernel

def wordsV1 : List (BitVec 64 × Instr) :=
  [(0x01C0700681000930, .vadd ⟨1539, 1025, 1282, 0, 9, 1, 2, false, false⟩),
   (0x02C0700681000930, .vsub ⟨1539, 1025, 1282, 0, 9, 1, 2, false, false⟩),
   (0x03C0700681000930, .vmul ⟨1539, 1025, 1282, 0, 9, 1, 2, false, false⟩),
   (0x04C0700681704968, .vfma ⟨1539, 1025, 1282, 1796, 9, 3, 1, false, false⟩),
   (0x05C0700681704968, .vfms ⟨1539, 1025, 1282, 1796, 9, 3, 1, false, false⟩),
   (0x06C0700681704968, .vfnma ⟨1539, 1025, 1282, 1796, 9, 3, 1, false, false⟩),
   (0x07C07006810019A0, .vmin ⟨1539, 1025, 1282, 1, 9, 5, 0, false, false⟩),
   (0x08C07006810019A0, .vmax ⟨1539, 1025, 1282, 1, 9, 5, 0, false, false⟩),
   (0x09C0700681000980, .vminp ⟨1539, 1025, 1282, 0, 9, 4, 0, false, false⟩),
   (0x0AC0700681000980, .vmaxp ⟨1539, 1025, 1282, 0, 9, 4, 0, false, false⟩),
   (0x0BC07004000009C4, .vabs ⟨1539, 1025, 0, 0, 9, 6, 0, true, false⟩),
   (0x0CC07004000009C4, .vneg ⟨1539, 1025, 0, 0, 9, 6, 0, true, false⟩),
   (0x0D01B0068100B940, .vcmp ⟨13, 1025, 1282, 11, 9, 2, 0, false, false⟩),
   (0x0EC070068100C9C0, .vsel ⟨1539, 1025, 1282, 12, 9, 6, 0, false, false⟩),
   (0x10C0700402800902, .vand ⟨1539, 1025, 5, 0, 9, 0, 0, false, true⟩),
   (0x11C0700402800902, .vor ⟨1539, 1025, 5, 0, 9, 0, 0, false, true⟩),
   (0x12C0700402800902, .vxor ⟨1539, 1025, 5, 0, 9, 0, 0, false, true⟩),
   (0x13C07004000009C0, .vnot ⟨1539, 1025, 0, 0, 9, 6, 0, false, false⟩),
   (0x14C07006810009A0, .vshl ⟨1539, 1025, 1282, 0, 9, 5, 0, false, false⟩),
   (0x15C07006810009A0, .vshr ⟨1539, 1025, 1282, 0, 9, 5, 0, false, false⟩)]

theorem test_decodeV1 : wordsV1.all (fun x => decodeV x.1 == some x.2) = true := by decide +kernel

def wordsV2 : List (BitVec 64 × Instr) :=
  [(0x16C07006810009A0, .vsar ⟨1539, 1025, 1282, 0, 9, 5, 0, false, false⟩),
   (0x18C07004000009C0, .vmov ⟨1539, 1025, 0, 0, 9, 6, 0, false, false⟩),
   (0x19C06000028009C2, .vfill ⟨1539, 0, 5, 0, 9, 6, 0, false, true⟩),
   (0x1AC060000280093A, .viota ⟨1539, 0, 5, 0, 9, 1, 3, false, true⟩),
   (0x1B02B004001FF0C0, .vext ⟨21, 1025, 0, 511, 0, 6, 0, false, false⟩),
   (0x1CC06054001FF0C0, .vins ⟨1539, 21, 0, 511, 0, 6, 0, false, false⟩),
   (0x20C070040000B92C, .vcvt ⟨1539, 1025, 0, 11, 9, 1, 1, true, false⟩),
   (0x21C070040980B924, .vcvts ⟨1539, 1025, 19, 11, 9, 1, 0, true, false⟩),
   (0x22C0700681013070, .vqnt ⟨1539, 1025, 1282, 19, 0, 3, 2, false, false⟩),
   (0x24C0700400001930, .vfold ⟨1539, 1025, 0, 1, 9, 1, 2, false, false⟩),
   (0x25C0700400003960, .vsplit ⟨1539, 1025, 0, 3, 9, 3, 0, false, false⟩),
   (0x28C0700400000980, .vexp2 ⟨1539, 1025, 0, 0, 9, 4, 0, false, false⟩),
   (0x29C0700400000980, .vlog2 ⟨1539, 1025, 0, 0, 9, 4, 0, false, false⟩),
   (0x2AC0700400000980, .vrcp ⟨1539, 1025, 0, 0, 9, 4, 0, false, false⟩),
   (0x2BC0700400000980, .vrsq ⟨1539, 1025, 0, 0, 9, 4, 0, false, false⟩),
   (0x2CC0700400000980, .vsqrt ⟨1539, 1025, 0, 0, 9, 4, 0, false, false⟩),
   (0x2DC0700400000980, .vtanh ⟨1539, 1025, 0, 0, 9, 4, 0, false, false⟩),
   (0x2EC0700400000980, .vsigm ⟨1539, 1025, 0, 0, 9, 4, 0, false, false⟩),
   (0x2FC0700400000980, .vgelu ⟨1539, 1025, 0, 0, 9, 4, 0, false, false⟩),
   (0x30C0700400000944, .vrsum ⟨1539, 1025, 0, 0, 9, 2, 0, true, false⟩)]

theorem test_decodeV2 : wordsV2.all (fun x => decodeV x.1 == some x.2) = true := by decide +kernel

def wordsV3 : List (BitVec 64 × Instr) :=
  [(0x31C0700400001940, .vrmax ⟨1539, 1025, 0, 1, 9, 2, 0, false, false⟩),
   (0x32C07004000019C0, .vrmin ⟨1539, 1025, 0, 1, 9, 6, 0, false, false⟩),
   (0x33C07004000009C0, .vramax ⟨1539, 1025, 0, 0, 9, 6, 0, false, false⟩),
   (0x34C0700400001938, .vscan ⟨1539, 1025, 0, 1, 9, 1, 3, false, false⟩),
   (0x38C07006810009C0, .vperm ⟨1539, 1025, 1282, 0, 9, 6, 0, false, false⟩),
   (0x39C07004001FF9C0, .vrot ⟨1539, 1025, 0, 511, 9, 6, 0, false, false⟩),
   (0x3AC07004001FF9C0, .vbcl ⟨1539, 1025, 0, 511, 9, 6, 0, false, false⟩),
   (0x3BC07006810019C0, .vzip ⟨1539, 1025, 1282, 1, 9, 6, 0, false, false⟩),
   (0x3CC07006810019C0, .vunzp ⟨1539, 1025, 1282, 1, 9, 6, 0, false, false⟩),
   (0x40C0605400000920, .vrng ⟨1539, 21, 0, 0, 9, 1, 0, false, false⟩),
   (0x4801A03807800000, .kand ⟨13, 14, 15, 0, 0, 0, 0, false, false⟩),
   (0x4901A03807800000, .kor ⟨13, 14, 15, 0, 0, 0, 0, false, false⟩),
   (0x4A01A03807800000, .kxor ⟨13, 14, 15, 0, 0, 0, 0, false, false⟩),
   (0x4B01A03800000000, .knot ⟨13, 14, 0, 0, 0, 0, 0, false, false⟩),
   (0x4CC06038000000C0, .kpop ⟨1539, 14, 0, 0, 0, 6, 0, false, false⟩),
   (0x4D01B004000000C0, .kset ⟨13, 1025, 0, 0, 0, 6, 0, false, false⟩),
   (0x4D01A00002800002, .ksetImm ⟨13, 0, 5, 0, 0, 0, 0, false, true⟩)]

theorem test_decodeV3 : wordsV3.all (fun x => decodeV x.1 == some x.2) = true := by decide +kernel

def wordsM1 : List (BitVec 64 × Instr) :=
  [(0x017568123CB80000, .mma ⟨7, 5, 6, 33059, 12, 12058624⟩),
   (0x0270000000000000, .mzero ⟨7, 0, 0, 0, 0, 0⟩),
   (0x0380000000C00000, .mfold ⟨8, 0, 0, 0, 0, 12582912⟩),
   (0x0475000000100000, .msave ⟨7, 5, 0, 0, 0, 1048576⟩),
   (0x0575000000000000, .mload ⟨7, 5, 0, 0, 0, 0⟩),
   (0x0600681234000000, .mpre ⟨0, 0, 6, 33059, 4, 0⟩),
   (0x0770000000B00000, .mtrn ⟨7, 0, 0, 0, 0, 11534336⟩)]

theorem test_decodeM1 : wordsM1.all (fun x => decodeM x.1 == some x.2) = true := by decide +kernel

def wordsE1 : List (BitVec 64 × Instr) :=
  [(0x015579BDF5000000, .cpyt ⟨2, 11259375, 21, 0⟩),
   (0x025579BDF5000000, .cpyu ⟨2, 11259375, 21, 0⟩),
   (0x035579BDF5A50000, .cpym ⟨2, 11259375, 21, 10813440⟩),
   (0x045579BDF5000001, .cfill ⟨2, 11259375, 21, 1⟩),
   (0x05C0000000000000, .cseal ⟨6, 0, 0, 0⟩),
   (0x08F579BDF5CC0000, .amo ⟨7, 11259375, 21, 13369344⟩),
   (0x09F579BDF5CC0000, .amof ⟨7, 11259375, 21, 13369344⟩),
   (0x109579BDF5000001, .rtopk ⟨4, 11259375, 21, 1⟩),
   (0x119579BDF5000000, .rcap ⟨4, 11259375, 21, 0⟩),
   (0x129579BDF5000000, .rdisp ⟨4, 11259375, 21, 0⟩),
   (0x18F579BDF5000000, .tlife ⟨7, 11259375, 21, 0⟩),
   (0x19F579BDF5000000, .tdrop ⟨7, 11259375, 21, 0⟩),
   (0x30F579BDF5000000, .hflush ⟨7, 11259375, 21, 0⟩),
   (0x31F579BDF5000000, .hnote ⟨7, 11259375, 21, 0⟩),
   (0x20B579BDF5000000, .fsend ⟨5, 11259375, 21, 0⟩),
   (0x21B579BDF53F0000, .frdc ⟨5, 11259375, 21, 4128768⟩),
   (0x22B579BDF53F0000, .fag ⟨5, 11259375, 21, 4128768⟩),
   (0x23B579BDF53F0000, .fa2a ⟨5, 11259375, 21, 4128768⟩),
   (0x28D579BDF5000000, .jrnl ⟨6, 11259375, 21, 0⟩),
   (0x29D579BDF5000000, .emit ⟨6, 11259375, 21, 0⟩)]

theorem test_decodeE1 : wordsE1.all (fun x => decodeE x.1 == some x.2) = true := by decide +kernel

def wordsE2 : List (BitVec 64 × Instr) :=
  [(0x2AD579BDF5000000, .jtrunc ⟨6, 11259375, 21, 0⟩)]

theorem test_decodeE2 : wordsE2.all (fun x => decodeE x.1 == some x.2) = true := by decide +kernel

def wordsX1 : List (BitVec 32 × Instr) :=
  [(0x013D7000, .xlat ⟨7, 21, 12288⟩),
   (0x0269C001, .xvalid ⟨13, 7, 1⟩),
   (0x03A80470, .csrr ⟨21, 0, 1136⟩),
   (0x04054470, .csrw ⟨0, 21, 1136⟩),
   (0x05054470, .csrs ⟨0, 21, 1136⟩),
   (0x06054470, .csrc ⟨0, 21, 1136⟩),
   (0x07A83FE0, .flgr ⟨21, 0, 16352⟩),
   (0x08A83FE0, .flgc ⟨21, 0, 16352⟩),
   (0x09A82000, .tcr ⟨21, 0, 8192⟩),
   (0x0AAD8002, .pgate ⟨21, 22, 2⟩),
   (0x0BAD8000, .pgq ⟨21, 22, 0⟩),
   (0x0C001000, .moncap ⟨0, 0, 4096⟩),
   (0x0DADB800, .tlrd ⟨21, 22, 14336⟩)]

theorem test_decodeX1 : wordsX1.all (fun x => decodeX x.1 == some x.2) = true := by decide +kernel



/-- The words of the statement DecodeWords. -/
theorem test_decodeWords : Obligations.DecodeWords := by
  unfold Obligations.DecodeWords; refine ⟨?_, ?_, ?_, ?_, ?_, ?_, ?_, ?_, ?_⟩ <;> decide +kernel

/-! Witnesses: for each statement, states and operands that meet the hypotheses of its clauses, at the boundaries of their ranges, where also the
conclusion is evaluated -/

theorem wit_IssuedWrites : [
    decide (guardOf (.add ⟨1, 2, .reg 3, never, 0⟩) = some never),
    decide (st.cur.holds never = false),
    same (exec (.add ⟨1, 2, .reg 3, never, 0⟩) st) st].all id = true := by decide +kernel

/-- R91 on the boundary values of the table: sums that wrap, signs that differ, shift amounts above 63, for registers and a literal. -/
theorem wit_ScalarIntegerResults : [
    [(⟨1, 2, .reg 3, always, 0⟩ : SOps), ⟨1, 3, .reg 4, always, 0⟩, ⟨31, 9, .reg 10, always, 0⟩, ⟨0, 4, .lit 1, ⟨2, false⟩, 0⟩].all (fun o =>
      st.cur.holds o.p && (intTable o (st.cur.sreg o.sa) (st.srcInt o.src)).all fun x => same (exec x.1 st) (st.writeS o.sd x.2.1 x.2.2))].all id = true := by decide +kernel

/-- R92: a divisor of 0, the overflow, and signs that differ. -/
theorem wit_DivisionResults : [
    [(⟨1, 2, .reg 5, always, 0⟩ : SOps), ⟨1, 3, .reg 4, always, 0⟩, ⟨1, 1, .reg 2, always, 0⟩, ⟨1, 2, .reg 1, always, 0⟩].all (fun o =>
      st.cur.holds o.p && (divTable o (st.cur.sreg o.sa) (st.srcInt o.src)).all fun x => same (exec x.1 st) (st.writeS o.sd x.2.1 x.2.2 0)),
    decide ((divTable ⟨1, 2, .reg 1, always, 0⟩ (-3) 5).map (·.2.1) = [0, 0x3333333333333332, -3, 3])].all id = true := by decide +kernel

/-- R94: SEL both ways, LIT with each modifier. -/
theorem wit_ScalarSelectAndLiteral : [
    st.cur.holds always,
    st.cur.preg 2,
    decide (st.cur.preg 3 = false),
    decide (st.lit 1 < 2 ^ 32),
    decide (st.lit 2 < 2 ^ 32),
    same (exec (.sel ⟨1, 2, .reg 3, always, 2⟩) st) (st.writeS 1 0xFFFFFFFFFFFFFFFD 1),
    same (exec (.sel ⟨1, 2, .reg 3, always, 3⟩) st) (st.writeS 1 0x8000000000000000 1),
    same (exec (.mov ⟨1, 0, .lit 1, always, 0⟩) st) (st.writeS 1 0xFFFFFFFFFFFFFFFE 1),
    same (exec (.lit ⟨1, 0, .lit 1, always, 0⟩) st) (st.writeS 1 0xFFFFFFFFFFFFFFFE 1),
    same (exec (.lit ⟨1, 0, .lit 1, always, 1⟩) st) (st.writeS 1 0x00000000FFFFFFFE 1),
    same (exec (.lit ⟨1, 0, .lit 1, always, 2⟩) st) (st.writeS 1 0x80000000FFFFFFFE 1),
    same (exec (.lit ⟨1, 0, .lit 1, always, 3⟩) st) (st.writeS 1 0xFFFFFFFE00000005 1)].all id = true := by decide +kernel

/-- R93, R95: a count of 64 leading zeros, fields that end at bit 63, every condition on equal, smaller and greater operands. -/
theorem wit_ScalarBitAndCompareResults : [
    st.cur.holds always,
    same (exec (.clz ⟨1, 5, .reg 0, always, 0⟩) st) (st.writeS 1 64 1),
    same (exec (.clz ⟨1, 1, .reg 0, always, 0⟩) st) (st.writeS 1 61 1),
    same (exec (.popc ⟨1, 2, .reg 0, always, 0⟩) st) (st.writeS 1 63 1),
    same (exec (.bfx ⟨1, 2, .reg 8, always, 0⟩) st) (st.writeS 1 0xFFF 1),
    same (exec (.bfx ⟨1, 2, .reg 8, always, 1⟩) st) (st.writeS 1 (-1) 1),
    same (exec (.bfi ⟨2, 5, .reg 8, always, 0⟩) st) (st.writeS 2 0xFFFFFFFFF8007FFD 1),
    same (exec (.sext ⟨1, 16, .reg 0, always, 0⟩) st) (st.writeS 1 0xFFFFFFFFFFFFFF80 1),
    same (exec (.zext ⟨1, 2, .reg 0, always, 2⟩) st) (st.writeS 1 0xFFFFFFFD 1),
    (List.range 6).all (fun c => same (exec (.cmp ⟨4, 2, .reg 1, always, BitVec.ofNat 3 c⟩) st)
      (st.writeP 4 ([false, true, true, false, true, false].getD c false) 1)),
    (List.range 6).all (fun c => same (exec (.cmpu ⟨4, 2, .reg 1, always, BitVec.ofNat 3 c⟩) st)
      (st.writeP 4 ([false, true, false, true, false, true].getD c false) 1)),
    (List.range 6).all (fun c => same (exec (.cmp ⟨4, 2, .reg 2, always, BitVec.ofNat 3 c⟩) st)
      (st.writeP 4 ([true, false, false, true, true, false].getD c false) 1))].all id = true := by decide +kernel

/-- R97 to R99 on pairs of halves (1.5, 1.0) and (signalling NaN, infinity), both forms; FCMP's four conditions; R100's kinds. -/
theorem wit_ScalarFloatResults : [
    [(⟨1, 6, .reg 7, always, 0⟩ : SOps), ⟨1, 6, .reg 7, always, 1⟩, ⟨1, 6, .reg 6, always, 3⟩].all (fun o =>
      st.cur.holds o.p && (fpTable o).all fun x => same (exec x.1 st) (st.writeS o.sd (fpPair st o x.2.1).1 x.2.2 (fpPair st o x.2.1).2)),
    same (exec (.fadd ⟨1, 6, .reg 6, always, 1⟩) st) (st.writeS 1 0x4000000040400000 4 0),
    same (exec (.fcmp ⟨4, 6, .reg 7, always, 0⟩) st) (st.writeP 4 false 4 0),
    same (exec (.fcmp ⟨20, 6, .reg 6, always, 0⟩) st) (st.writeP 4 false 4 0),
    same (exec (.fcmp ⟨4, 6, .reg 6, always, 5⟩) st) (st.writeP 4 true 4 0),
    same (exec (.fcmp ⟨4, 6, .reg 7, always, 6⟩) st) (st.writeP 4 true 4 0),
    same (exec (.fcmp ⟨4, 6, .reg 7, always, 7⟩) st) (st.writeP 4 true 4 flNV)].all id = true := by decide +kernel

/-- R58. -/
theorem wit_TrapRaisesItsCode : [
    st.cur.holds always,
    decide (st.cur.holds never = false),
    same (exec (.trap always 0xA5) st) (trapped st 0x08 0xA5),
    decide (((trapped st 0x08 0xA5).core 0).frec.toNat % 2 ^ 20 = 0x1A508),
    decide (((trapped st 0x08 0xA5).core 0).run = .stopped)].all id = true := by decide +kernel
/-! The C slot -/

def lvl (n : BitVec 32) : LoopLevel := ⟨n, 4, 0x80, 0x100, none⟩
/-- The issuing core with k loop levels of count n. -/
def stLoops (k : Nat) (n : BitVec 32) : State := withCore st fun c => { c with loops := List.replicate k (lvl n) }
def stAt (addr : Nat) : State := { st with ix := { st.ix with addr := addr } }

/-- R49, R52: targets at both ends of the code store, an address one past it, a misaligned one, and BRKL of all levels and of one more. -/
theorem wit_ControlTransfers : [
    st.cur.holds always,
    same (exec (.b always (-64)) st) (goTo st 0),
    same (exec (.call always 1) st) ((goTo st 0x104).writeS 30 0x108 1),
    decide ((st.cur.sreg 16).toNat < 2 ^ 18) && decide ((st.cur.sreg 16).toNat % 4 = 0),
    same (exec (.calli always 16) st) ((goTo st 0x80).writeS 30 0x108 1),
    same (exec (.ret always 5) st) (goTo st 0),
    decide ((2 : BitVec 3).toNat ≤ (stLoops 2 1).cur.loops.length),
    same (exec (.brkl always 2 3) (stLoops 2 1)) (goTo st 0x10C),
    decide ((st.cur.sreg 11).toNat / 2 ^ 18 ≠ 0),
    decide ((st.cur.sreg 12).toNat % 4 ≠ 0),
    same (exec (.calli always 11) st) (trapped st 0x02 0x06),
    same (exec (.ret always 12) st) (trapped st 0x02 0x06),
    decide ((stLoops 2 1).cur.loops.length < (3 : BitVec 3).toNat),
    same (exec (.brkl always 3 3) (stLoops 2 1)) (trapped (stLoops 2 1) 0x02 0x02)].all id = true := by decide +kernel

/-- A bundle at 0x3FFF4 whose block can end at the last word; with LC 1 in that word's bundle it runs past the code store. -/
def stTop : State := stAt 0x3FFF4
def stTopLong : State := { stTop with mem := [(codeBase 0 + 0x3FFFD, 8)] }

/-- R50, R67: ends before the start, at the start, at the last word and one past it; counts 0 and 1; five and six levels. -/
theorem wit_LoopAndReplayResults : [
    same (exec (.loop 1 1) st) (trapped st 0x02 0x00),
    same (exec (.loop 1 3) stTop) (trapped stTop 0x02 0x00),
    same (exec (.loop 5 2) st) (goTo st 0x10C),
    same (exec (.loopLit 0 2) st) (goTo (st.pushLevel ⟨7, 0, 0x108, 0x108, none⟩) 0x108),
    same (exec (.loop 5 2) stTop) (goTo stTop 0x40000),
    same (exec (.loop 5 2) stTopLong) (stTopLong.takeException 0 0x01 0x00 15 0x3FFF4),
    same (exec (.loop 1 2) (stLoops 6 1)) (trapped (stLoops 6 1) 0x02 0x01),
    same (exec (.loop 1 2) (stLoops 5 1)) (goTo ((stLoops 5 1).pushLevel ⟨5, 0, 0x108, 0x108, none⟩) 0x108),
    decide (lit32 { st with ix := { st.ix with lits := [0] } } 0 = 0),
    same (exec (.replay 2 3 2) { st with ix := { st.ix with lits := [0] } }) (goTo { st with ix := { st.ix with lits := [0] } } 0x110),
    decide (lit32 st 0 ≠ 0),
    same (exec (.replay 2 3 2) (stLoops 6 1)) (trapped (stLoops 6 1) 0x02 0x01),
    nextIs (exec (.replay 2 3 2) st) fun t => t.cur.loops ==
      [⟨9, 0, 0x108, 0, some ⟨7, 3, [(0xF, 0xFFFFFFE), (0x8, 0)], 0x110⟩⟩] && t.cur.pend.length == 19 &&
      (t.cur.pend.drop 16).map (·.w) == [.p 8 true, .p 9 false, .p 10 false] && decide (replayLevel st 2 3 2 = t.cur.loops.headD (lvl 1)),
    (let u := (stLoops 5 1).pushLevel (lvl 2)
     decide (u.cur.pend = onEveryStream (stLoops 5 1) (.push 5)) && decide ((u.cur.pend.map fun w => (w.due, w.w)).take 1 = [(1001, .g 0 (.push 5))])),
    (let rp : Replay := ⟨7, 3, [], 0x110⟩
     decide ((st.stagePreds rp 8).cur.pend = stageWrites st rp 8) && decide ((stageWrites st rp 8).map (·.w) = [.p 8 false, .p 9 false, .p 10 true]))].all id = true := by decide +kernel

/-- R16, R48, R51: a transfer; no level; a level that ends elsewhere; count 2; counts 1 and 0 before a level of count 2; all levels done. -/
theorem wit_BundleEndAndLoops : [
    decide ((goTo st 0x40).finishBundle.cur.pc = 0x40) && decide ((goTo st 0x40).finishBundle.cur.nextIssue = 1004),
    decide (st.ix.transfer = false) && decide (st.finishBundle.cur.pc = 0x108),
    decide (∀ l ∈ ({ stLoops 1 2 with ix := { st.ix with addr := 0xF8 } } : State).cur.loops.head?, l.endsAt 0xF8 8 = false),
    decide (({ stLoops 1 2 with ix := { st.ix with addr := 0xF8 } } : State).finishBundle.cur.pc = 0x100),
    (lvl 2).endsAt 0x100 8 && decide (1 < (lvl 2).count.toNat),
    decide ((stLoops 1 2).finishBundle.cur.pc = 0x80) && decide ((stLoops 1 2).finishBundle.cur.loops = [{ lvl 1 with index := 5 }]),
    decide ((withCore st fun c => { c with loops := [lvl 1, lvl 0, lvl 2] }).finishBundle.cur.loops = [{ lvl 1 with index := 5 }]),
    decide ((stLoops 2 1).finishBundle.cur.loops = []) && decide ((stLoops 2 1).finishBundle.cur.pc = 0x108) && decide ((stLoops 2 1).finishBundle.cur.pend = []),
    (let rp : Replay := ⟨3, 2, [(0xF, 5), (0x8, 0)], 0x108⟩
     let l : LoopLevel := ⟨3, 0, 0x80, 0x100, some rp⟩
     let s := withCore st fun c => { c with loops := [lvl 1, l, lvl 9] }
     l.endsAt 0x100 8 && decide (s.finishBundle.cur.loops.head? = some { l with count := 2, index := 1 }) && decide (s.finishBundle.cur.pend.length = 20) &&
       decide (s.finishBundle.cur.pend = backWrites { s with ix := { s.ix with slot := 15 } } { l with count := 2, index := 1 } 1) &&
       decide ((s.finishBundle.cur.pend.take 5).map (·.w) = [.g 15 (.delta 5), .g 8 (.delta 0), .p 8 true, .p 9 true, .g 0 (.advance 1)]))].all id = true := by decide +kernel

/-- R53, R55, R56. -/
theorem wit_PredicateResults : [
    same (exec (.pand always ⟨4, 0, 2, false, true⟩) st) (st.writeP 4 false 1),
    same (exec (.por always ⟨4, 3, 1, false, true⟩) st) (st.writeP 4 true 1),
    same (exec (.pxor always ⟨4, 0, 2, false, false⟩) st) (st.writeP 4 false 1),
    same (exec (.pget always 6 false) st) (st.writeS 6 5 1),
    nextIs (exec (.pset always 8 true) st) fun t => t.cur.pend.map (·.w) ==
      [.p 8 true, .p 9 true, .p 10 true, .p 11 true, .p 12 false, .p 13 false, .p 14 false, .p 15 false],
    same (exec (.lidx always 6 5) (stLoops 6 1)) ((stLoops 6 1).writeS 6 4 1),
    same (exec (.lidx always 6 5) (stLoops 5 1)) ((stLoops 5 1).writeS 6 0 1),
    same (exec (.lidx always 6 7) (stLoops 5 1)) ((stLoops 5 1).writeS 6 5 1)].all id = true := by decide +kernel

/-- R57, R59 to R61: TLTEST of both kinds, SYS, TRIGGER of the last core, END. -/
theorem wit_TimelineTestSysTriggerEnd : [
    nextIs (exec (.tltestLit always ⟨5, false, 4⟩ 0) stCtx) fun t => decide ((t.cur.ctxAt 4).closed = 4) && t.cur.pend.map (fun w => (w.due, w.w)) == [(1002, .p 5 false)],
    nextIs (exec (.tltest always ⟨5, true, 4⟩ 1) stCtx) fun t => t.cur.pend.map (·.w) == [.p 5 true],
    nextIs (exec (.sys always 0xA5) st) fun t => decide (t.sysWait = [40]) && decide (t.cmds.length = 1) &&
      decide ((t.cmds.map (·.args.take 4)) = [[0xA5, 0, 500, 0x100000]]) && decide (t.cur.sysCount = 1) && decide ((t.cur.ctxAt 7).cur.members = 1),
    decide (st.cur.bind = some 0) && decide (st.ix.core ∈ (st.launch 0).cores),
    nextIs (exec (.trigger always) st) fun t => t.cur.triggered && !(t.launch 0).triggered,
    nextIs (exec (.trigger always) (st.modCore 1 fun c => { c with run := .ended })) fun t => (t.launch 0).triggered,
    nextIs (exec .endTask (stLoops 2 1)) fun t => decide (t.cur.run = .ended) && decide (t.cur.loops = []) && decide (t.core 1 = core1)].all id = true := by decide +kernel

/-- Masks of s1, p2 and g3, no tile, and row ranges. -/
def cutLits : List (BitVec 32) := [2, 0x80004, 1, 0x00050005, 0x07FF0000]

def busyPair : State := { stLits cutLits with pairs := [(corePair 0, { Pair.init with up := ⟨[(1002, 5)], 0, 15, []⟩ })] }

/-- R63 to R65, R73, R232: reserved bits, a range whose last row is its first and one that ends before it starts; a sealed region; a row pushed in the
cycle before; the checkpoint. -/
theorem wit_RegionMarkers : [
    !regionLitsOk (stLits [0, 0, 0x10000]) 0 0 && same (exec (.region 1 0 0) (stLits [0, 0, 0x10000])) (trapped (stLits [0, 0, 0x10000]) 0x02 0),
    !regionLitsOk (stLits [0, 0, 0, 0x00040005]) 0 1,
    !regionLitsOk (stLits [0, 0, 0, 0x00050800]) 0 1,
    regionLitsOk (stLits cutLits) 0 2,
    same (exec (.region 0 0 2) (inRegion .sealed (stLits cutLits))) (trapped (inRegion .sealed (stLits cutLits)) 0x02 0x05),
    same (exec (.region 1 0 2) (stLits cutLits)) (withCore (stLits cutLits) fun c => { c with region := ⟨.sealed, 1000, 0x100, false⟩ }),
    busyPair.pairBusy 0 && same (exec (.region 2 0 2) busyPair) (trapped busyPair 0x02 0x12),
    !(stLits cutLits).pairBusy 0,
    nextIs (exec (.region 2 0 2) (stLits cutLits)) fun t => decide (t.cur.cutTcyc = 500) && (match t.cur.ckpt with
      | some k => decide (k.s[1] = 5) && decide (k.s[0] = 0) && k.p.getLsbD 2 && !k.p.getLsbD 1 && decide (k.tiles = 1) && decide (k.rows = [(5, 5), (0, 0x7FF)]) && decide (k.addr = 0x100)
      | none => false)].all id = true := by decide +kernel

/-- Group 3 holds cores 0 and 1; core 1 is held in a PHASE 7 of it. -/
def stGroup : State := { stLits [7, 4, 0x80000000, 0] with groups := [(3, (9, [0, 1]))] }
def heldBy (resync : Bool) (n : BitVec 32) : State := stGroup.modCore 1 fun c => { c with run := .held, hold := some ⟨3, resync, n, 490, [], 990, true, 0x400, false⟩ }
/-- Context 0 has one closed batch that writes device memory and is not complete; context 4 may be left out. -/
def stWrites (c : Nat) : State := (heldBy false 7).modCore 0 fun k =>
  { k with ctx := k.ctx.set! c { Ctx.init with closed := 4, cnt := 3, batches := [(4, ⟨1, 1, 1, 0, 0, 0⟩)] } }
def timedAt (n : Nat) : State := { heldBy false 7 with cmds := [{ cmd0 (.cpyt ⟨0, 0, 4, 0⟩) true .captured with tS := n }] }

/-- R68, R69, R71, R196, R334: no member; a RESYNC met by a PHASE; another number; a context that no wait covers, one that a wait covers exactly, and one (4) that
needs none; a timed command that could never start and one that just can; both kinds of hold. -/
theorem wit_PhaseAndResyncArrive : [
    decide (0 ∉ st.members 3) && same (exec (.phase 3 0 0 0) st) (trapped st 0x02 0x08),
    same (exec (.phase 3 0 0 0) (heldBy true 7)) (trapped (heldBy true 7) 0x02 0x0A),
    same (exec (.resync 3 0 0) (heldBy false 7)) (trapped (heldBy false 7) 0x02 0x0A),
    same (exec (.phase 3 1 0 0) (heldBy false 7)) (trapped (heldBy false 7) 0x02 0x09),
    same (exec (.phase 3 0 0 0) (stWrites 0)) (trapped (stWrites 0) 0x06 0x06),
    decide (waitList (stWrites 0) 1 1 = [⟨true, 0, 4⟩]),
    nextIs (exec (.phase 3 0 1 1) { stWrites 0 with ix := { st.ix with lits := [7, 4, 0, 0] } }) fun t => decide (t.cur.run = .held) &&
      decide (t.cur.hold = some ⟨3, false, 7, 508, [⟨false, 0, 4⟩], 1000, false, 0x100, false⟩),
    nextIs (exec (.phase 3 0 0 0) (stWrites 4)) fun t => decide (t.cur.run = .held),
    same (exec (.phase 3 0 0 0) (timedAt 508)) (trapped (timedAt 508) 0x12 0),
    nextIs (exec (.phase 3 0 0 0) (timedAt 507)) fun t => decide (t.cur.run = .held),
    nextIs (exec (.resync 3 0 0) (heldBy true 7)) fun t => decide (t.cur.hold = some ⟨3, true, 0, 508, [], 1000, false, 0x100, false⟩)].all id = true := by decide +kernel
/-! Memory -/

def ld (w : BitVec 3) (r : BitVec 5) : SOps := ⟨1, r, .reg 5, always, w⟩

/-- R101 to R103, R143: loads from the own slice in every width, the last byte below 2^32, the last word of the coherent window, and the first addresses that reach
nothing, in both modes. -/
theorem wit_ScalarLoads : [
    decide (scalarAddr stMem (ld 1 0) 2 < 2 ^ 32) && okAnd (stMem.checkReq ⟨0x100000, 2, false, none⟩ (List.range 2)) (fun o => o == none),
    nextIs (exec (.sld (ld 1 0)) stMem) fun t => t.cur.pend.map (fun w => (w.due, w.w)) == [(1008, .s 1 0xFFFE)],
    nextIs (exec (.slds (ld 1 0)) stMem) fun t => t.cur.pend.map (fun w => (w.due, w.w)) == [(1008, .s 1 0xFFFFFFFFFFFFFFFE)],
    nextIs (exec (.slds (ld 3 0)) stMem) fun t => t.cur.pend.map (fun w => (w.due, w.w)) == [(1008, .s 1 0xFFFE)],
    errAnd ((buffered .empty false stMem).checkReq ⟨0x100000, 2, false, none⟩ (List.range 2)) fun x =>
      same (exec (.sld (ld 1 0)) (buffered .empty false stMem)) ((buffered .empty false stMem).takeTrap x) && decide (x.cause = 5),
    decide (scalarAddr (setR st 1 0xFFFFFFFF) (ld 0 1) 1 < 2 ^ 32) &&
      nextIs (exec (.sld (ld 0 1)) (setR st 1 0xFFFFFFFF)) fun t => t.cur.pend.map (fun w => (w.due, w.w)) == [(1008, .s 1 0)] && t.cur.oorrec.getLsbD 41,
    decide (scalarAddr (setR st 1 0xFF0000FFFF) (ld 3 1) 8 = 0xFF0000FFF8) &&
      same (exec (.slds (ld 3 1)) (setR st 1 0xFF0000FFFF)) ((setR st 1 0xFF0000FFFF).windowAccess 0xFFF8 8 false 0 1 true),
    reachesB (2 ^ 40) true && reachesB 0xFF00010000 true && reachesB (2 ^ 32) true && reachesB (254 * 2 ^ 32) true,
    (strictly st).strict 0 && same (exec (.sld (ld 0 13)) (strictly st)) (strictTrap (strictly st) (2 ^ 40) false),
    !st.strict 0 && same (exec (.sld (ld 0 13)) st) ((st.recordOor false (some (2 ^ 40))).writeS 1 0 8),
    same (exec (.sld (ld 0 1)) (setR st 1 0xFF00010000)) (((setR st 1 0xFF00010000).recordOor false (some 0xFF00010000)).writeS 1 0 48)].all id = true := by decide +kernel

/-- R142: the last 64 bytes of a slice with one bank lent, and the byte after them. -/
theorem wit_OwnSliceAccess : [
    (let s := withCore st fun c => { c with lent := 1 }
     let ea := 15 * 2 ^ 18 - 64
     (List.range 64).all (fun i => decide (coreOfAddr (ea + i) = some 0 ∧ (ea + i) / 2 ^ 22 = ea / 2 ^ 22 ∧ ea + i < 2 ^ 32 ∧ (ea + i) / 2 ^ 18 % 16 < 16 - s.cur.lent)) &&
       decide (s.cur.bufs = []) && okAnd (s.checkReq ⟨ea, 64, true, none⟩ (List.range 64)) (· == none) &&
       okAnd (s.checkReq ⟨ea + 64, 1, true, none⟩ (List.range 1)) (· == some (ea + 64)) && decide (s.rowLat 0 0 = 8))].all id = true := by decide +kernel

def limited (n : Word) (s : State) : State := withCore s fun c => { c with slim := n }

/-- R87, R101, R103, R143, R303, R369: each clause of StoreRule: below SLIM and at it, a full buffer, the own slice, windows with and without place, the coherent window
below 0x200, at 0x200 and in its free part, and addresses that reach nothing. -/
theorem wit_ScalarStores : [
    same (exec (.sst (ld 3 0)) (limited 0x100001 st)) (trapped (limited 0x100001 st) 0x04 0),
    same (exec (.sst (ld 3 0)) (limited 0x100000 st)) ((limited 0x100000 st).storeReq (limited 0x100000 st) ⟨0x100000, 8, true, none⟩ (List.range 8) none 0 (leBytes 8 5)).2,
    errAnd ((buffered .full false st).checkReq ⟨0x100000, 1, true, none⟩ [0]) fun x => same (exec (.sst (ld 0 0)) (buffered .full false st)) ((buffered .full false st).takeTrap x),
    nextIs (exec (.sst (ld 1 0)) st) fun t =>
      t.memPend.map (fun m => (m.vis, m.data)) == [(1008, [(nearBase + 0x100000, 5), (nearBase + 0x100001, 0)])],
    okAnd ((windowed (setR st 1 0x100000FF8)).postWrite (windowed (setR st 1 0x100000FF8)) 0x100000FF8 8 [(0, leBytes 8 0x100000FF8)]) fun x =>
      same (exec (.sst (ld 3 1)) (windowed (setR st 1 0x100000FF8))) x,
    okAnd (st.postWrite st 0x100000000 8 [(0, leBytes 8 5)]) fun x => same (exec (.sst (ld 3 15)) st) x && x.cur.oorrec.getLsbD 41,
    errAnd ((strictly st).postWrite (strictly st) 0x100000000 8 [(0, leBytes 8 5)]) fun x => same (exec (.sst (ld 3 15)) (strictly st)) ((strictly st).takeTrap x),
    same (exec (.sst (ld 3 1)) (setR st 1 0xFF000001F8)) ((setR st 1 0xFF000001F8).windowAccess 0x1F8 8 true 0xFF000001F8 0 false),
    same (exec (.sst (ld 0 14)) st) (st.windowAccess 0x4000 1 true 5 0 false),
    same (exec (.sst (ld 3 1)) (setR st 1 0xFF00000200)) (((setR st 1 0xFF00000200).recordOor true (some 0xFF00000200)).badLaunch 0x200),
    same (exec (.sst (ld 2 1)) (setR st 1 0xFF000001F8)) (((setR st 1 0xFF000001F8).recordOor true (some 0xFF000001F8)).badLaunch 0x1F8),
    same (exec (.sst (ld 3 1)) (strictly (setR st 1 0xFF00003FF8))) (strictTrap (strictly (setR st 1 0xFF00003FF8)) 0xFF00003FF8 true),
    same (exec (.sst (ld 3 13)) (strictly st)) (strictTrap (strictly st) (2 ^ 40) true),
    reachesB (2 ^ 40) false && !reachesB (2 ^ 32) false,
    same (exec (.sst (ld 3 13)) st) (st.recordOor true (some (2 ^ 40))),
    (let s := st
     let r : Req := ⟨0x3FFFFE, 4, true, none⟩
     decide (s.liveBytes r [0, 1, 2, 3] = [(0, 0x3FFFFE), (1, 0x3FFFFF)]) && decide ((s.storeReq s r [0, 1, 2, 3] none 3 [1, 2, 3, 4]).2.memPend =
       [⟨1011, 1000 + s.bankLat 0 0 + 3, 40, 0, [(nearBase + 0x3FFFFE, 1), (nearBase + 0x3FFFFF, 2)]⟩]) && decide (s.liveBytes r [2, 3] = []))].all id = true := by decide +kernel

/-- Extents 5, indices 3, strides 1. -/
def d5 : Desc := BitVec.ofNat 512 (0xFFF * 2 ^ 16 + 0x0005000500050005 * 2 ^ 160 + 0x0003000300030003 * 2 ^ 224)

/-- R132, R136 to R139: the four levels, indices at and past the extent, an extent of 0, an advance through 0; GLD and GST at the end of the slice and against a buffer. -/
theorem wit_StreamInstructions : [
    decide (d5.toNat / 2 ^ (160 + 16 * 3) % 2 ^ 16 = 5) && decide (((GChange.pos 3 5).apply d5).toNat / 2 ^ (224 + 48) % 2 ^ 16 = 0),
    decide (((GChange.pos 0 0xFFFF).apply (0 : Desc)).toNat / 2 ^ 224 % 2 ^ 16 = 0xFFFF),
    decide (((GChange.field 3 0xABCDEF).apply d5).toNat / 2 ^ 72 % 2 ^ 24 = 0xABCDEF) && decide ((((GChange.field 15 0xABCDEF).apply d5).toNat / 2 ^ 480) = 0xCDEF) &&
      decide (fieldPlace 15 = (480, 16)),
    decide (((GChange.adv 0 7 true).apply d5).toNat / 2 ^ 224 % 2 ^ 64 = 0x0003000400000000) && decide (((GChange.adv 3 2 true).apply d5).toNat / 2 ^ 224 % 2 ^ 64 = 0x0000000300030003) &&
      decide ((List.range 4).map (fun k => carryIdx (extOf d5) (idxOf d5) k 7 [0, 1, 2, 3]) = [0, 0, 4, 3]) && decide (carryIdx (fun j => if j = 1 then 0 else 5) (fun _ => 3) 2 7 [0, 1, 2, 3] = 0),
    decide (((GChange.push 5).apply (d5 &&& ~~~(BitVec.ofNat 512 (2 * 2 ^ 19)))).toNat / 2 ^ 224 % 2 ^ 64 = 0x0003000300000003) &&
      decide (boundOf (d5 &&& ~~~(BitVec.ofNat 512 (2 * 2 ^ 19))) 1 = 5) && decide (((GChange.advance 5).apply (d5 &&& ~~~(BitVec.ofNat 512 (2 * 2 ^ 19)))).toNat / 2 ^ 224 % 2 ^ 64 = 0x0003000300040003),
    decide (((GChange.delta 0xFFFFFFF).apply (0 : Desc)).toNat / 2 ^ 32 = 0xFFFFFFFFFF) && decide (((GChange.delta 0xFFFFFFF).apply (0x20 : Desc)).toNat / 2 ^ 32 = 0x3FFFFF),
    decide (((GChange.adv 2 (-4) false).apply d5).toNat / 2 ^ (224 + 32) % 2 ^ 16 = 4) && decide (((GChange.adv 2 2 false).apply d5).toNat / 2 ^ (224 + 32) % 2 ^ 16 = 0),
    same (exec (.gset 3 2 1) (stLits [1, 2, 3])) ((stLits [1, 2, 3]).addWrite (.g 3 (.field 2 0x300000002)) 1),
    errAnd ((buffered .empty false st).checkReq ⟨0x100000, 64, false, none⟩ (List.range 64)) fun x =>
      same (exec (.gld 3 0 0) (buffered .empty false st)) ((buffered .empty false st).takeTrap x),
    okAnd (stMem.checkReq ⟨0x100000, 64, false, none⟩ (List.range 64)) fun o => o == none,
    nextIs (exec (.gld 3 0 0) stMem) fun t => t.cur.pend.map (fun w => (w.due, w.w)) == [(1008, .g 3 (.load 0xFFFE))],
    errAnd ((buffered .full false st).checkReq ⟨0x100000, 64, true, none⟩ (List.range 64)) fun x =>
      same (exec (.gst 3 0 0) (buffered .full false st)) ((buffered .full false st).takeTrap x),
    nextIs (exec (.gst 3 0 (-1)) (withCore st fun c => { c with g := c.g.set 3 0xABCD })) fun t =>
      (t.memPend.map fun m => m.data.take 3) == [[(nearBase + 0xFFFC0, 0xCD), (nearBase + 0xFFFC1, 0xAB), (nearBase + 0xFFFC2, 0)]]].all id = true := by decide +kernel
/-! The L slot -/

/-- What `StoreEffect` says of the bytes in flight and the writes. -/
def storedB (s t : State) (parts : List (List (Nat × Byte))) (vis bank : Nat) (ws : List PendWrite) : Bool :=
  decide (t.memPend = s.memPend ++ (parts.filter (!·.isEmpty)).map fun d => ⟨vis, bank, s.nextId, s.ix.core, d⟩) && decide (t.cur.pend = s.cur.pend ++ ws)

def rowOp (row : BitVec 11) (mask : BitVec 4) (view : BitVec 7) : LOps := ⟨row, 0, true, 0, 0, mask, view⟩
/-- g1: FP32 at 0x100000; g2 names undeclared buffer 3; g3 has a reserved bit; g4: MXFP8 at 0x100000 with scales at +0x1000 and a pitch of 64. -/
def g1 : Desc := BitVec.ofNat 512 (0xFFF * 2 ^ 16 + 0x100000 * 2 ^ 32)
def g2 : Desc := BitVec.ofNat 512 (0x320 + 0xFFF * 2 ^ 16)
def g4 : Desc := BitVec.ofNat 512 (12 + 0xFFF * 2 ^ 16 + 0x100000 * 2 ^ 32 + 0x1000 * 2 ^ 72 + 64 * 2 ^ 96)
def streamed (s : State) : State := withCore (masked s) fun c => { c with g := (((c.g.set 1 g1).set 2 g2).set 3 0x8000).set 4 g4 }
def elemOp (g : BitVec 4) (mask : BitVec 4) : LOps := ⟨7, g, false, 0, 0, mask, 1⟩

/-- R130, R146, R148 to R150: an illegal stream, an undeclared buffer, a strict access out of range, one lane at the end of the row and all of them. -/
theorem wit_RowLoads : [
    errAnd (lBase (streamed st) (elemOp 3 0) 0) fun x => decide (x.cause = 2) && same (exec (.vld (elemOp 3 0)) (streamed st)) ((streamed st).takeTrap x) &&
      same (exec (.vgth (elemOp 3 0)) (streamed st)) ((streamed st).takeTrap x) && same (exec (.atom (elemOp 3 0)) (streamed st)) ((streamed st).takeTrap x),
    errAnd (lBase (streamed st) (elemOp 2 0) 0) fun x => decide (x.cause = 5) && same (exec (.vsta (elemOp 2 0)) (streamed st)) ((streamed st).takeTrap x),
    (let s := strictly (setR st 0 0x30000000)
     okAnd (lBase s (rowOp 7 0 1) 0) fun e => decide (e = (0x30000000, none)) && errAnd (checkParts s none [rowPart s (rowOp 7 0 1) 0x30000000 false]) fun x =>
       same (exec (.vld (rowOp 7 0 1)) s) (s.takeTrap x)),
    (let s := masked stMem
     okAnd (checkParts s none [rowPart s (rowOp 7 3 1) 0x100000 false]) fun x => decide (x = none) &&
       nextIs (exec (.vld (rowOp 7 3 1)) s) fun t => t.cur.pend.map (fun w => (w.due, w.w)) == [(1008, .row 7 0xFFFE 0xFF)]),
    (let s := masked stMem
     nextIs (exec (.vldb (rowOp 7 1 1)) s) fun t => t.cur.pend.map (fun w => (w.due, w.w)) == [(1008, .row 7 (BitVec.ofNat 4096 (0xFFFE * 2 ^ 4064)) (BitVec.ofNat 512 (15 * 2 ^ 508)))])].all id = true := by decide +kernel

/-- R150, R369: the last selected lane to the own slice, and by a window: no lane, one run at its end, an allowance too small, no place. -/
theorem wit_RowStores : [
    (let s := masked st
     okAnd (checkParts s none [rowPart s (rowOp 7 3 1) 0x100000 true]) fun x => decide (x = none) && nextIs (exec (.vst (rowOp 7 3 1)) s) fun t =>
       decide ((t.memPend.map fun m => (m.vis, m.data.map (·.2))) = [(1008, [1, 2, 3, 4, 5, 6, 7, 8])]) && storedB s t [vstData s (rowOp 7 3 1) none 0x100000] 1008 1006 []),
    (let s := setR (masked st) 0 0x3FFF00
     okAnd (checkParts s none [rowPart s (rowOp 7 0 3) 0x3FFF00 true]) fun x => decide (x = some (0x400000, true)) && nextIs (exec (.vst (rowOp 7 0 3)) s) fun t =>
       decide ((t.memPend.map fun m => m.data.length) = [256]) && storedB s t [vstData s (rowOp 7 0 3) none 0x3FFF00] 1008 1006 []),
    (let s := buffered .full false (masked st)
     errAnd (checkParts s none [rowPart s (rowOp 7 3 1) 0x100000 true]) fun x => same (exec (.vst (rowOp 7 3 1)) s) (s.takeTrap x)),
    (let s := windowed (setR (masked st) 0 0x100000E00)
     okAnd (lBase s (rowOp 7 3 1) 0) (fun e => decide (e = (0x100000E00, none))) && same (exec (.vst (rowOp 7 2 1)) s) s &&
       (s.windowTakes (s.cur.window 1) 0xE00 8 && decide ((s.cur.window 1).outst + 1 ≤ (s.cur.window 1).limit)) &&
       okAnd (s.postWrite s 0x100000E00 512 [(508, [0, 0, 0, 0])]) (fun x => same (exec (.vst (rowOp 7 1 1)) s) x && decide ((x.cur.window 1).outst = 1) &&
         decide ((x.fab.queue.map fun c => (c.addr, c.entry, c.kind)) = [(0x2FFC, 1002, 1)])) &&
       errAnd (s.postWrite s 0x100000E00 8 [(0, [1]), (4, [5])]) (fun x => decide (x = ⟨0x18, 0, 1, none, none⟩))),
    (let s := setR (masked st) 0 0x100000E01
     !s.windowTakes (s.cur.window 1) 0xE00 8 && !s.strict 0 && okAnd (s.postWrite s 0x100000E00 8 [(0, [1])]) fun x => same (exec (.vst (rowOp 7 3 1)) s) x),
    (let s := strictly (setR (masked st) 0 0x100000E01)
     errAnd (s.postWrite s 0x100000E00 8 [(0, [1, 2, 3, 4, 5, 6, 7, 8])]) fun x => same (exec (.vst (rowOp 7 3 1)) s) (s.takeTrap x))].all id = true := by decide +kernel

/-- R151, R152: an unscaled stream and a block format; gather and scatter with one lane, and against a buffer. -/
theorem wit_ElementAccesses : [
    (let s := streamed stMem
     okAnd (elemRun s (elemOp 1 3)) fun r => decide (r.first = 0x100000) && nextIs (exec (.vlda (elemOp 1 3)) s) fun t =>
       t.cur.pend.map (fun w => (w.due, w.w)) == [(1010, .row 7 0xFFFE 0xFF)]),
    (let s := streamed st
     okAnd (elemRun s (elemOp 4 3)) fun r => okAnd (checkParts s r.win (r.parts 128 (lMask s (elemOp 4 3)) false)) (fun x => decide (x = none)) &&
       nextIs (exec (.vlda (elemOp 4 3)) s) fun t => decide (t.accs.length = 2) && decide (t.cur.pend.map (·.due) = [1010])),
    (let s := streamed st
     okAnd (elemRun s (elemOp 1 3)) fun r => nextIs (exec (.vsta (elemOp 1 3)) s) fun t => storedB s t (vstaData s (elemOp 1 3) r) 1010 1008 [inFlight s .none 10 0 40] &&
       decide (vstaData s (elemOp 1 3) r = [(List.range 8).map fun i => (nearBase + (0x100000 + i), BitVec.ofNat 8 (i + 1))])),
    (let s := streamed st
     okAnd (elemRun s (elemOp 4 3)) fun r => okAnd (checkParts s r.win (vstaParts s (elemOp 4 3) r)) (fun x => decide (x = none)) && nextIs (exec (.vsta (elemOp 4 3)) s) fun t =>
       storedB s t (vstaData s (elemOp 4 3) r) 1010 1008 [inFlight s .none 10 (vstaOut s (elemOp 4 3) r).2.2 40] && decide ((vstaData s (elemOp 4 3) r).map (·.length) = [32, 1])),
    (let s := withCore (streamed stMem) fun c => { c with g := c.g.set 1 (BitVec.ofNat 512 (5 + 0xFFF * 2 ^ 16 + 0x100000 * 2 ^ 32)) }
     okAnd (elemRun s (elemOp 1 3)) fun r => decide (fmtBits (Desc.fmt r.d) < 8) && nextIs (exec (.vsta (elemOp 1 3)) s) fun t =>
       storedB s t (vstaData s (elemOp 1 3) r) 1010 1008 [inFlight s .none 10 (vstaOut s (elemOp 1 3) r).2.2 40]),
    (let s := streamed stMem
     okAnd (lBase s { rowOp 7 3 1 with off := 5 * 2 ^ 13 } (({ rowOp 7 3 1 with off := 5 * 2 ^ 13 } : LOps).off.extractLsb' 0 13).toInt) (fun e => decide (e = (0x100000, none))) &&
       nextIs (exec (.vgth { rowOp 7 3 1 with off := 5 * 2 ^ 13 }) s) fun t => t.cur.pend.map (fun w => (w.due, w.w)) == [(1016, .row 7 0x0000FFFE0000FFFE 0xFF)]),
    (let s := streamed st
     let o : LOps := { rowOp 7 3 1 with off := 5 * 2 ^ 13 }
     nextIs (exec (.vsct o) s) fun t => storedB s t [vsctData s o 0x100000 none] 1016 1013 [] &&
       decide (vsctData s o 0x100000 none = (List.range 8).map fun i => (nearBase + (0x100000 + i % 4), BitVec.ofNat 8 (i + 1)))),
    (let s := buffered .filling false (streamed st)
     nextIs (exec (.vgth (rowOp 7 3 1)) s) fun t => decide (t.cur.run = .stopped))].all id = true := by decide +kernel

/-- R145, R147, R153: an undeclared, a held and a free buffer, in the four states. -/
theorem wit_BufferInstructions : [
    decide (st.cur.buf 63 = Buf.undeclared) && same (exec (.bufset ⟨0, 0, false, 0, 63, 0, 2⟩) st) (trapped st 0x05 0) &&
      same (exec (.bufq ⟨0, 0, false, 6, 63, 0, 0⟩) st) (st.writeS 6 0 2),
    (let s := buffered .empty true st
     ((s.cur.buf 0).held && same (exec (.bufset ⟨0, 0, false, 0, 0, 0, 2⟩) s) (trapped s 0x05 0))),
    (let s := buffered .empty false st
     ((s.cur.buf 0).decl && same (exec (.bufset ⟨0, 0, false, 0, 0, 0, 0⟩) s) (s.addBuf false 0 0 .empty 0 0 false) &&
       same (exec (.bufset ⟨0, 0, false, 0, 0, 0, 1⟩) s) (s.addBuf false 0 0 .filling 1 0 false) && same (exec (.bufset ⟨0, 0, false, 0, 0, 0, 3⟩) s) (s.addBuf false 0 0 .draining 0 0 false) &&
       same (exec (.bufq ⟨0, 0, false, 6, 0, 0, 0⟩) s) (s.writeS 6 0x2000500000 2)))].all id = true := by decide +kernel

/-- R62, R154, R155, R326: operands in range at the end of the slice, past it, in a buffer; each group of operations at its edges. -/
theorem wit_AtomicInstruction : [
    (let s := masked st
     let o : LOps := { rowOp 7 0 0 with off := BitVec.ofNat 24 0x2FFFFC }
     okAnd (lBase s o o.off.toInt) (fun e => decide (e = (0x3FFFFC, none))) && nextIs (exec (.atom o) s) fun t => t.cur.region.closing &&
       decide (t.memPend = [⟨1008, 1006, 40, 0, [(nearBase + 0x3FFFFC, 1), (nearBase + 0x3FFFFD, 2), (nearBase + 0x3FFFFE, 3), (nearBase + 0x3FFFFF, 4)]⟩]) &&
       decide (t.cur.pend.map (fun w => (w.due, w.w, w.acc)) = [(1008, laneWrite 7 0 [(0, 0), (1, 0)], 40)]) &&
       decide ((t.accs.map fun a => (a.target, a.cycle, a.bytes, a.atom, a.write)) = [(0, 1006, [0x3FFFFC, 0x3FFFFD, 0x3FFFFE, 0x3FFFFF], true, true)])),
    (let s := inRegion .sealed (masked (setR st 0 0x30000000))
     nextIs (exec (.atom (rowOp 7 0 0x10)) s) fun t => decide (t.cur.region = s.cur.region) && decide (t.cur.pend.map (·.w) = [.row 7 0 0xFFFF]) && decide (t.accs = [])),
    same (exec (.atom (rowOp 7 0 0)) (buffered .empty false (masked st))) (trapped (buffered .empty false (masked st)) 0x05 0),
    (let s := strictly (masked (setR st 0 0x30000000))
     nextIs (exec (.atom (rowOp 7 0 0)) s) fun t => decide (t.cur.frec.toNat % 256 = 7)),
    decide (atomApply 0 false 0xFFFFFFFF 1 0 = (0, false, 0)) && decide (atomApply 12 false 5 9 5 = (9, false, 0)) && decide (atomApply 12 false 5 9 4 = (5, true, 0)) &&
      decide (atomApply 13 false 5 0 6 = (6, false, 0)) && decide (atomApply 13 false 6 0 6 = (0, false, 0)) && decide ((atomApply 4 false 0x80000000 1 0).1 = 0x80000000) &&
      decide ((atomApply 5 false 0x80000000 1 0).1 = 1) && decide ((atomApply 5 false 7 7 0).1 = 7),
    decide (atomApply 2 false 0x3F800000 0x40000000 0 = (0x40400000, false, 0)) && decide (atomApply 3 false 0x3F804000 0x40004000 0 = (0x40404080, false, 0)) &&
      decide ((atomApply 6 false 0x3F800000 0xBF800000 0).1 = 0xBF800000) && decide ((atomApply 7 false 0x3F800000 0xBF800000 0).1 = 0x3F800000) &&
      decide (atomApply 14 false 5 6 11 = (11, false, 0)) && decide (atomApply 14 false 5 6 10 = (5, true, 0)),
    decide (atomApply 1 false 0xFFFFFFFFFFFFFFFF 2 0 = (1, false, 0)) && decide (atomApply 8 true 0xF000000000000001 0x8000000000000003 0 = (0x8000000000000001, false, 0)) &&
      decide (atomApply 11 true 1 (2 ^ 63) 0 = (2 ^ 63, false, 0)) && decide (atomApply 12 true (2 ^ 63) 7 (2 ^ 63) = (7, false, 0)) && decide (atomApply 12 true (2 ^ 63) 7 0 = (2 ^ 63, true, 0))].all id = true := by decide +kernel

def rl : LOps := ⟨7, 0, false, 0, 0, 0, 0⟩
/-- Core 192 lies above core 0, in the same launch; the FIFOs of their pair. -/
def pairWith (up down : Rill) : State :=
  { masked st with pairs := [(corePair 0, { Pair.init with up := up, down := down })], cores := (masked st).cores ++ [(192, core1)] }

/-- R229, R231: a partner outside the domain, no free slot, the last free slot, no ready row, one ready row. -/
theorem wit_RillInstructions : [
    decide (corePartner 0 = 192) && decide ((masked st).partnerDetail 0 = some 2) && same (exec (.rlsend rl) (masked st)) (trapped (masked st) 0x16 2),
    (let s := pairWith ⟨[], 0, 0, []⟩ .init
     decide (s.partnerDetail 0 = none) && same (exec (.rlsend rl) s) (trapped s 0x16 0)),
    (let s := pairWith ⟨[], 0, 1, []⟩ .init
     nextIs (exec (.rlsend rl) s) fun t => decide ((t.pair 0).up = ⟨[(1003, 0x0807060504030201)], 0, 0, []⟩) && decide (t.cores = s.cores)),
    (let s := pairWith .init ⟨[(1001, 5)], 0, 15, []⟩
     same (exec (.rlrecv rl) s) (trapped s 0x17 0) && same (exec (.rlrecv rl) (masked st)) (trapped (masked st) 0x17 2)),
    (let s := pairWith .init ⟨[(1000, 5), (1002, 6)], 1, 14, []⟩
     nextIs (exec (.rlrecv { rl with mask := 3, mod := 1 }) s) fun t => decide ((t.pair 0).down = ⟨[(1002, 6)], 0, 14, [1003]⟩) &&
       decide (t.cur.pend.map (fun w => (w.due, w.w)) = [(1002, .row 7 5 0xFF)])),
    (let s := pairWith ⟨[], 0, 9, []⟩ ⟨[(1000, 5)], 1, 14, []⟩
     same (exec (.rlfree { rl with row := 0, scalar := 6 }) s) (s.writeS 6 9 1) && same (exec (.rlfree { rl with row := 0, scalar := 6, mod := 1 }) s) (s.writeS 6 1 1))].all id = true := by decide +kernel
/-! The vector slots -/

def arithHolds (s : State) (o : VOps) : Bool :=
  (vecArith o).all fun x => !wfInstr x.1 || same (exec x.1 s) (lanesTo s o 4 fun n => x.2 (la s o n) (lb s o n) (lc s o n))

/-- R159: every instruction is well formed in some view; wrapping and saturating, a literal, no lane, the last lane. -/
theorem wit_VectorArithmetic : [
    (vecArith (vo 1 3 false)).all fun x => wfInstr x.1 || (match x.1 with
      | .vabs _ | .vneg _ => true
      | _ => false),
    (vecArith { vo 2 3 true with vb := 0 }).any fun x => wfInstr x.1,
    arithHolds vst (vo 1 3 false),
    arithHolds vst (vo 2 3 true),
    arithHolds vst { vo 2 1 false with vc := 1 },
    arithHolds vst { vo 0 3 false with vb := 0, lit := true } && arithHolds vst { vo 2 2 false with vb := 1, lit := true },
    nextIs (exec (.vadd (vo 2 3 true)) vst) fun t => t.cur.pend.map (fun w => (w.due, w.w, w.flags)) ==
      [(1004, .row 3 (BitVec.ofNat 4096 (0x7FFFFFFF_80000000)) 0xFF, flSV)]].all id = true := by decide +kernel

def lanesHold (s : State) (l : List (Instr × Nat × (Nat → Nat × Flags))) (o : VOps) : Bool := l.all fun x => !wfInstr x.1 || same (exec x.1 s) (lanesTo s o x.2.1 x.2.2)

/-- R161 to R163, R168, R169, R172, R173: every instruction is well formed in some view; shifts by the width and more, the last lane, lane numbers at the end. -/
theorem wit_VectorLaneResults : [
    (vecLanes vst (vo 2 3 false)).all fun x => wfInstr x.1 || !(match x.1 with
      | .vsel _ | .vand _ | .vor _ | .vxor _ | .vshl _ | .vshr _ | .vsar _ | .vperm _ | .vzip _ | .vunzp _ => true
      | _ => false),
    (vecLanes vst { vo 1 3 false with vb := 0 }).all fun x => wfInstr x.1 || (match x.1 with
      | .vshl _ | .vshr _ | .vsar _ | .viota _ => true
      | _ => false),
    lanesHold vst ((vecLanes vst { vo 2 3 false with vb := 5 }).take 11) { vo 2 3 false with vb := 5 },
    lanesHold vst ((vecLanes vst { vo 0 3 false with vb := 0, vc := 1 }).drop 19) { vo 0 3 false with vb := 0, vc := 1 },
    lanesHold vst ((vecLanes vst { vo 1 1 false with vb := 0, vc := 127 }).drop 19) { vo 1 1 false with vb := 0, vc := 127 },
    lanesHold vst ((vecLanes vst { vo 5 3 true with va := 0, vb := 1, lit := true }).take 11) { vo 5 3 true with va := 0, vb := 1, lit := true },
    nextIs (exec (.vshl { vo 2 3 false with va := 4, vb := 0, lit := true }) vst) fun t => t.cur.pend.map (·.w) == [.row 3 (BitVec.ofNat 4096 0x00800080_FFFFFF80) 0xFF],
    nextIs (exec (.vrot { vo 2 3 false with vb := 0, vc := 127 }) vst) fun t => t.cur.pend.map (·.w) == [.row 3 (BitVec.ofNat 4096 (0x3F800000 + 0x80000000 * 2 ^ 32)) 0xFF]].all id = true := by decide +kernel
/-- R163 to R167: lane 127, f32 to bf16 and back, FP4 codes of a small row, the second half of VFOLD. -/
theorem test_VectorMoves : [
    same (exec (.vext { vo 1 0 false with vd := 6, vb := 0, vc := 127 }) vst) (vst.writeS 6 0x3F800000 2),
    nextIs (exec (.vins { vo 1 0 false with va := 1, vb := 0, vc := 127 }) vst) fun t =>
      t.cur.pend.map (fun w => (w.due, w.w)) == [(1002, .row 3 (BitVec.ofNat 4096 (5 * 2 ^ 4064)) (BitVec.ofNat 512 (15 * 2 ^ 508)))],
    nextIs (exec (.vcvt { vo 3 3 false with va := 6, vb := 0, vc := 1 }) vst) fun t => t.cur.pend.map (fun w => (w.due, w.w)) == [(1005, .row 3 0x40003F80 0xF)],
    nextIs (exec (.vcvt { vo 1 3 false with va := 6, vb := 0, vc := 3 }) vst) fun t => t.cur.pend.map (fun w => (w.due, w.w)) == [(1005, .row 3 0x3F80000000000000 0xFF)],
    nextIs (exec (.vfold { vo 1 3 false with va := 6, vb := 0, vc := 0 }) vst) fun t => t.cur.pend.map (fun w => (w.due, w.w)) == [(1005, .row 3 0x0000000040400000 0xFF)]
    ].all id = true := by decide +kernel

/-- R170, R171: no lane; sums of integers that saturate; f32 and f32x2; the scan. -/
theorem wit_VectorReductions : [
    decide (picked vst (vo 1 2 false) = []) && same (exec (.vrsum { vo 1 2 false with vb := 0 }) vst) (vst.addWrite (.row 3 0 0) 9),
    decide (picked vst (vo 2 3 true) = [0, 1]) && nextIs (exec (.vrsum { vo 2 3 true with va := 4, vb := 0 }) vst) fun t =>
      t.cur.pend.map (fun w => (w.due, w.w, w.flags)) == [(1009, .row 3 0x7FFFFFFF 0xF, flSV)],
    decide (picked vst (vo 0 3 false) ≠ []) && nextIs (exec (.vrsum { vo 0 3 false with va := 7, vb := 0 }) vst) fun t => t.cur.pend.map (·.w) == [.row 3 0x40400000 0xFF],
    decide (viewInt 1 = false) && nextIs (exec (.vrsum { vo 1 3 false with va := 6, vb := 0 }) vst) fun t => t.cur.pend.map (·.w) == [.row 3 0x40400000 0xF],
    nextIs (exec (.vrmax { vo 2 3 false with va := 4, vb := 0 }) vst) fun t => t.cur.pend.map (·.w) == [.row 3 0x7FFFFFFF 0xF],
    nextIs (exec (.vrmin { vo 2 3 false with va := 4, vb := 0 }) vst) fun t => t.cur.pend.map (·.w) == [.row 3 0x00010001 0xF],
    nextIs (exec (.vscan { vo 2 3 false with va := 5, vb := 0 }) vst) fun t => t.cur.pend.map (·.w) == [.row 3 0x0000003F_00000020 0xFF],
    nextIs (exec (.vscan { vo 2 3 false with va := 5, vb := 0, vc := 1 }) vst) fun t => t.cur.pend.map (·.w) == [.row 3 0x00000020_00000000 0xFF]].all id = true := by decide +kernel

/-- R160, R174: signed and unsigned conditions, an unselected lane, lanes above the lane count; counts 0, 3 and 512 and more. -/
theorem wit_VectorCompareAndMasks : [
    wfInstr (.vcmp (vo 2 3 false)) && wfInstr (.vcmp { vo 2 3 false with vc := 8 }) && wfInstr (.vcmp { vo 1 3 false with vc := 7 }),
    nextIs (exec (.vcmp { vo 2 3 false with vc := 2 }) vst) fun t => t.cur.pend.map (fun w => (w.due, w.w)) == [(1004, .k 3 1 (BitVec.allOnes 512 - BitVec.ofNat 512 (2 ^ 128 - 1) + 3))],
    nextIs (exec (.vcmp { vo 2 3 false with vc := 8 }) vst) fun t => t.cur.pend.map (·.w) == [.k 3 1 (BitVec.allOnes 512 - BitVec.ofNat 512 (2 ^ 128 - 1) + 3)],
    nextIs (exec (.kpop ⟨3, 1, 0, 0, 0, 1, 0, false, false⟩) vst) fun t => t.cur.pend.map (fun w => (w.due, w.w)) == [(1002, .row 3 1 0xF)],
    nextIs (exec (.kand ⟨3, 0, 1, 0, 0, 0, 0, false, false⟩) vst) fun t => t.cur.pend.map (fun w => (w.due, w.w)) == [(1001, .k 3 (BitVec.ofNat 512 (2 ^ 127)) (BitVec.allOnes 512))],
    nextIs (exec (.kset ⟨3, 5, 0, 0, 0, 2, 0, false, false⟩) vst) fun t => t.cur.pend.map (fun w => (w.due, w.w)) == [(1002, .k 3 3 (BitVec.allOnes 512))],
    [(0, 0), (3, 7), (512, 2 ^ 512 - 1), (0xFFFFFFFF, 2 ^ 512 - 1)].all fun c => nextIs (exec (.ksetImm ⟨3, 0, 0, 0, 0, 0, 0, false, true⟩) { vst with ix := { vst.ix with lits := [BitVec.ofNat 32 c.1] } }) fun t =>
      t.cur.pend.map (·.w) == [.k 3 (BitVec.ofNat 512 c.2) (BitVec.allOnes 512)]].all id = true := by decide +kernel
/-! The M, E and X slots -/

/-- g1: BF16 at 0x100000, pitch 1,024; g2: undeclared buffer 3; g5: INT8 at 0x200000, pitch 128. -/
def mst : State := withCore st fun c => { c with g := (((c.g.set 1 (BitVec.ofNat 512 (2 + 0xFFF * 2 ^ 16 + 0x100000 * 2 ^ 32 + 1024 * 2 ^ 96))).set 2 (BitVec.ofNat 512 (0x322 + 0xFFF * 2 ^ 16))).set 5
  (BitVec.ofNat 512 (8 + 0xFFF * 2 ^ 16 + 0x200000 * 2 ^ 32 + 128 * 2 ^ 96))) }
def busyM (n : Nat) (s : State) : State := withCore s fun c => { c with mBusyUntil := n }
def mop (s : State) (f : MOp → Bool) : Bool :=
  match s.cur.mops with
  | [m] => f m
  | _ => false

/-- R177 to R190: an engine busy until the next cycle and free from this one; MMA of one step and of three, MPRE at its full depth, MSAVE and MLOAD. -/
theorem wit_MatrixInstructions : [
    decide ((busyM 1001 st).clock < 1001) && same (exec (.mzero ⟨6, 0, 0, 0, 0, 0⟩) (busyM 1001 st)) (trapped (busyM 1001 st) 0x12 0) &&
      same (exec (.mtrn ⟨6, 0, 0, 0, 0, 0⟩) (busyM 1001 st)) (trapped (busyM 1001 st) 0x12 0),
    nextIs (exec (.mzero ⟨6, 0, 0, 0, 2, 0⟩) (busyM 1000 st)) fun t => mop t fun m => decide (m.tiles = [6, 7]) && decide (m.done = 1002) && decide (t.cur.mBusyUntil = 1001),
    nextIs (exec (.mfold ⟨6, 0, 0, 0, 0, 0x200000⟩) st) fun t => mop t fun m => decide (m.done = 1024) && decide (m.input.map (·.1) = [2, 3]) && decide (m.tiles = [6]),
    decide (¬((fun (o : MOps) => o.rb) ⟨6, 1, 1, 16, 0, 0⟩ = true)) && Desc.useOk (mst.cur.greg 1) && bOk (mst.cur.greg 1) false && !undeclared mst (mst.cur.greg 1) && undeclared mst (mst.cur.greg 2),
    nextIs (exec (.mma ⟨6, 1, 1, 1, 0, 0⟩) mst) fun t => mop t fun m => decide (m.done = 1030) && decide (t.cur.mBusyUntil = 1008) && decide (m.input.map (·.1) = [6]) &&
      decide ((t.agenda.filter fun a => a.ev == .mmaOperandClaim 0 40 0 false || a.ev == .mmaOperandClaim 0 40 0 true).map (·.at_) = [1002, 1006]),
    nextIs (exec (.mma ⟨6, 1, 1, 40, 1, 0⟩) mst) fun t => mop t fun m => decide (m.done = 1062) && decide (m.input = []),
    nextIs (exec (.mma ⟨6, 5, 5, 64, 8, 0⟩) mst) fun t => mop t fun m => decide (m.done = 1054),
    nextIs (exec (.mpre ⟨0, 0, 5, BitVec.ofNat 16 (panelDepth 8), 0, 0⟩) mst) fun t => decide (t.cur.panel.map (·.k) = some (panelDepth 8)),
    same (exec (.mpre ⟨0, 0, 5, BitVec.ofNat 16 (panelDepth 8 + 1), 0, 0⟩) mst) (trapped mst 0x02 0),
    rowStreamOk (mst.cur.greg 5) && nextIs (exec (.msave ⟨6, 5, 0, 0, 0, 0⟩) mst) fun t => (t.agenda.filter fun a => a.ev == .msaveRowClaim 0 40 126).map (·.at_) == [1067],
    nextIs (exec (.mload ⟨6, 5, 0, 0, 0, 0⟩) mst) fun t => (t.agenda.filter fun a => a.ev == .msaveRowClaim 0 40 0).map (·.at_) == [1004]].all id = true := by decide +kernel

def eop (ctx : BitVec 3) (start : BitVec 24) (sd : BitVec 5) : EOps := ⟨ctx, start, sd, 0⟩

/-- R192 to R195, R204, R205: an address off 64 bytes and one of another slice; the nearest start (8 cycles on), the farthest and one past it; 63 and 64 waiting; CSEAL. -/
theorem wit_EngineCommands : [
    same (exec (.cpyt (eop 0 508 12)) st) (trapped st 0x02 0) && same (exec (.cpyu (eop 0 0 1)) (setR st 1 0x400000)) (trapped (setR st 1 0x400000) 0x02 0),
    nextIs (exec (.cpyt (eop 0 508 0)) st) fun t => decide (t.cmds.map (fun k => (k.id, k.tS, k.timed, k.stage)) = [(40, 508, true, .issued)]),
    nextIs (exec (.cpyt (eop 0 (508 + 0x7FFFFF) 0)) st) fun t => decide (t.cmds.map (·.tS) = [508 + 0x7FFFFF]),
    same (exec (.cpyt (eop 0 (508 + 0x800000) 0)) st) (trapped st 0x15 0),
    (let s := withCore st fun c => { c with run := .held, hold := some ⟨3, false, 7, 509, [], 1000, false, 0x100, false⟩ }
     same (exec (.cpyt (eop 0 509 0)) s) (s.takeTrap ⟨0x12, 0, 0, none, none⟩) && nextIs (exec (.cpyt (eop 0 508 0)) s) fun t => decide (t.cmds.length = 1)),
    errAnd ((buffered .empty false st).checkReq ⟨0x100000, 64, false, none⟩ (List.range 64)) fun x => same (exec (.cpyt (eop 0 508 0)) (buffered .empty false st)) ((buffered .empty false st).takeTrap x),
    nextIs (exec (.jrnl (eop 6 0 0)) st) fun t => decide (t.cmds.map (fun k => (k.timed, k.writing)) = [(false, false)]) && decide ((t.cur.ctxAt 6).cur.members = 1),
    (let full (n : Nat) : State := { st with cmds := List.replicate n { cmd0 (.cpyu (eop 0 0 0)) false .issued with batch := .opn } }
     decide ((full 64).queued 0 0 = 64) && same (exec (.cpyu (eop 0 0 0)) (full 64)) (trapped (full 64) 0x12 0) &&
       nextIs (exec (.cpyu (eop 0 0 0)) (full 63)) fun t => decide (t.cmds.length = 64)),
    same (exec (.cseal (eop 4 0 0)) stCtx) (stCtx.closeBatch 0 4) && decide (((stCtx.closeBatch 0 4).cur.ctxAt 4).closed = 4)].all id = true := by decide +kernel

/-- R80, R82, R124 to R126, R143: every writable number and its neighbours, reserved bits; VWIDTH; the last window. -/
theorem wit_CsrInstructions : [
    same (exec (.csrr ⟨6, 0, 0x0A0⟩) st) (st.writeS 6 0 2) && same (exec (.csrr ⟨6, 0, 0x3FE0⟩) (windowed st)) ((windowed st).writeS 6 0 2) && same (exec (.csrr ⟨6, 0, 0x3010⟩) (windowed st)) ((windowed st).writeS 6 1 2),
    nextIs (exec (.csrr ⟨6, 0, 0x090⟩) st) fun t => t.cur.bus.ack,
    nextIs (exec (.csrw ⟨0, 4, 0x030⟩) st) fun t => decide (t.cur.flagsA = 0x003FFFFFFFFFFFFF),
    nextIs (exec (.csrs ⟨0, 4, 0x040⟩) st) fun t => decide (t.cur.flagsB = 7),
    nextIs (exec (.csrw ⟨0, 4, 0x050⟩) st) fun t => decide (t.cur.fevrec = 0xFFFFFFFF8FFFFFFF),
    nextIs (exec (.csrw ⟨0, 4, 0x070⟩) st) fun t => decide (t.cur.oorrec = 0xFFFF3FFFFFFFFFFF),
    nextIs (exec (.csrc ⟨0, 1, 0x080⟩) (withCore st fun c => { c with gkey := 7 })) fun t => decide (t.cur.gkey = 2),
    [0x000, 0x020, 0x060, 0x090, 0x0A0, 0x400].all fun n => same (exec (.csrw ⟨0, 4, n⟩) st) (trapped st 0x03 0) && same (exec (.csrc ⟨0, 4, n⟩) st) (trapped st 0x03 0)].all id = true := by decide +kernel

/-- R83, R208, R209, R211, R218, R219, R234, R235: TCR of each kind, PGQ inside the cluster, at its border and outside the part. -/
theorem wit_XSlotResults : [
    nextIs (exec (.xlat ⟨7, 0, 0x3000⟩) st) fun t => !(t.cur.xreg 7).valid && decide ((t.cur.xreg 7).pend = some (1096, 3, 0x100000)),
    same (exec (.tcr ⟨6, 0, 0⟩) st) (st.writeS 6 500 1) && same (exec (.tcr ⟨6, 0, 0x2000⟩) st) (st.writeS 6 0 1),
    same (exec (.pgq ⟨6, 1, 0⟩) (setR st 1 4)) ((setR st 1 4).writeS 6 0x8000000000000000 2) && same (exec (.pgq ⟨6, 1, 0⟩) (setR st 1 768)) ((setR st 1 768).writeS 6 0x8000000000000000 2),
    decide (coreCluster 3 = coreCluster 0) && nextIs (exec (.pgq ⟨6, 1, 0⟩) (setR st 1 3)) fun t => t.cur.pend.map (fun w => (w.due, w.w)) == [(1002, .gateCounts 6 3 ((setR st 1 3).gateWord 0 3))],
    (let s (since : Nat) : State :=
       { st with cores := [(0, core0), (4, { core0 with run := .ended, gate := .waking, region := ⟨.normal, since, 0, false⟩ })],
                 pairs := [(corePair 4, { Pair.init with up := ⟨(List.range 31).map fun i => (990, BitVec.ofNat 4096 i), 0, 0, []⟩, down := ⟨[(1005, 0)], 0, 0, []⟩, discard := 0xFFFF })] }
     let w := (s 990).gateWord 0 4
     decide (w = 0xFFFF000F) && decide ((s 1000).gateWord 0 4 = 0xFFFF000B) && decide (((s 990).countGate ⟨1002, 1000, 10, 0x80, 480, .gateCounts 6 (corePair 4) w, 0, 0⟩).w = .s 6 (BitVec.ofNat 64 (0xFFFF000F + 31 * 16 + 512))) &&
       decide (st.gateWord 0 5 = 4)),
    nextIs (exec (.moncap ⟨0, 0, 0x1000⟩) st) fun t => decide ((t.agenda.filter fun a => a.at_ = 1001).length = 7),
    nextIs (exec (.pgate ⟨6, 1, 1⟩) st) fun t => (t.agenda.filter fun a => a.at_ = 1002).map (·.ev) == [.powerGateDecision ⟨0, 5, false, true, 6, 1000⟩],
    nextIs (exec (.flgc ⟨6, 0, 0x3FE0⟩) (withCore st fun c => { c with flagsA := 0x3FFFFFFFFFFFFF })) fun t => decide (t.cur.flagsA = 0)].all id = true := by decide +kernel
/-! Exceptions, visibility and steps -/

/-- R12, R76: a recoverable cause, one in a sealed region, the second uncorrectable read, a program error, the last slot. -/
theorem wit_ExceptionEntry : [
    decide ((st.core 0).bind = some 0),
    (let t := st.takeException 0 0x1A 0x03 10 0x3FFFC
     decide ((t.core 0).frec = 0x3FFFC000A031A) && decide ((t.core 0).run = .stopped) && t.agenda.any (fun a => a.at_ == 1000 && a.ev == .freeze ⟨0, 0x1A, 0x03, false⟩)),
    (let t := st.takeException 0 0x1A 0x04 10 0x100
     decide ((t.launch 0).ending.isSome) && t.agenda.any (fun a => a.at_ == 1064 && a.ev == .domainStop 0)),
    (let t := (inRegion .sealed st).takeException 0 0x10 0 15 0x100
     (t.core 0).frec.getLsbD 20 && (t.launch 0).ending.isSome),
    decide (((withCore st fun c => { c with run := .ended }).takeException 0 0x08 1 0 0x100 |>.core 0).run = .ended)].all id = true := by decide +kernel

def lateOf (issued slot : Nat) : LateFault := ⟨1000, issued, slot, 0x13, 0, 0x80, false⟩
/-- Core 0 has ended with a late fault; cores 0 and 1 are held in group 3. -/
def stEndedLate (done : Bool) : State := withCore st fun c => { c with run := .ended, late := some { lateOf 990 3 with done := done } }

/-- R419: a first fault, a later one, an earlier one of the same cycle, and the boundary; a held core and an ended one, before and after its fault; a rendezvous that a member leaves. -/
theorem wit_LateFaults : [
    same (st.lateFault 0 0x13 0 3 0x80 990 |> Host.Outcome.next) (withCore st fun c => { c with late := some (lateOf 990 3) }),
    (let s := withCore st fun c => { c with late := some (lateOf 990 3) }
     same (.next (s.lateFault 0 0x13 0 4 0x80 990)) s && same (.next (s.lateFault 0 0x13 0 2 0x80 990)) (withCore st fun c => { c with late := some (lateOf 990 2) }) &&
       decide ((s.core 0).nextIssue ≤ s.clock) && same (exec (.bundleIssue 0) s) (s.takeException 0 0x13 0 3 0x80)),
    (let s := withCore st fun c => { c with run := .held }
     let t := s.lateFault 0 0x13 0 3 0x80 990
     decide ((t.core 0).late = some (lateOf 990 3)) && nowIn t (.bundleIssue 0) && nextIs (exec (.bundleIssue 0) t) fun u => decide ((u.core 0).run = .stopped) && decide ((u.core 0).frec.toNat % 256 = 0x13)),
    (let t := (stEndedLate true).lateFault 0 0x13 0 1 0x80 980
     decide ((t.core 0).late = some { lateOf 990 3 with done := true }) && same (exec (.bundleIssue 0) (stEndedLate true)) (stEndedLate true) &&
       nextIs (exec (.bundleIssue 0) (stEndedLate false)) fun u => decide ((u.core 0).run = .ended) && decide ((u.core 0).late = some { lateOf 990 3 with done := true })),
    (let h : Hold := ⟨3, false, 7, 490, [], 990, true, 0x100, false⟩
     let s : State := { st with cores := [(0, { core0 with run := .held, hold := some h }), (1, { core1 with run := .held, hold := some h }), (2, { core1 with run := .held, hold := some { h with group := 4 } })] }
     let t := s.leaveRendezvous 0
     canonB s && decide (t.core 0 = s.core 0) && decide (((t.core 1).hold).map (·.void) = some true) && decide (t.core 2 = s.core 2))].all id = true := by decide +kernel

def stFrozen : State :=
  { st with cores := [(0, { core0 with run := .frozen, ckpt := some ckpt0, rows := [(5, 1), (6, 2), (128, 3)], frec := 0x1A, bind := some 0 })],
            binds := [(0, { launch0 with cores := [0], stop := some ⟨0x1A, 3, .rewind, false, true, 0, 0, 480, 1000⟩ })] }

/-- R75, R416. -/
theorem wit_RestartReturns : [
    stFrozen.restartDue (stFrozen.launch 0),
    nextIs (exec (.restart 0) stFrozen) fun t => let c := t.core 0
      decide (c.run = .running) && decide (c.pc = 0x40) && decide (c.tcyc = 400) && decide (c.rows = [(5, 1), (128, 3)]) && decide (c.s[1] = 7) && decide (c.s[0] = 0) &&
      decide (c.loops.length = 1) && decide (c.frec = 0x1A) && decide (c.nextIssue = 1000),
    (let b (p : Nat) : Batch := { Batch.empty with pending := p }
     let y : Ctx := { Ctx.init with closed := 5, cnt := 1, batches := [(3, b 2), (4, b 1), (5, b 1)] }
     let s := withCore stFrozen fun c => { c with run := .running, ckpt := some { ckpt0 with closed := [0, 0, 0, 0, 3, 0, 0, 0] }, ctx := c.ctx.set 4 y }
     let x : Stop := ⟨0x1A, 3, .rewind, false, true, 0, 0, 480, 1000⟩
     let z := ((s.stopDomain 0 x).core 0).ctx[4]
     SMap.wf Batch.empty y.batches && decide (z.closed = 3) && decide (z.cnt = 2) && decide ((z.batch 3).pending = 2) && decide (z.batch 4 = .empty) && decide (z.cur = .empty))].all id = true := by decide +kernel

def pw (due issued slot : Nat) (w : RegWrite) : PendWrite := ⟨due, issued, slot, 0x80, 480, w, 0, 0⟩
/-- Two writes of s1 issued in one cycle, one of s2 not due, predicates, a mask, a row, a stream. -/
def stPend : State := withCore st fun c => { c with pend := [pw 1000 996 1 (.s 1 11), pw 1000 996 4 (.s 1 12), pw 1001 996 1 (.s 2 13), pw 1000 996 1 (.p 3 true),
  pw 1000 996 4 (.k 2 0xF0 0xFF), pw 1000 998 3 (.row 7 0xABCD 0x1), pw 1000 999 2 (.g 4 .rst)] }

/-- R18, R19, R78. -/
theorem wit_RegisterWritesBecomeVisible : [
    canonB stPend && decide ((dueOn stPend (stPend.core 0) (0, 1)).length = 2) && decide (dueOn stPend (stPend.core 0) (0, 2) = []),
    decide ((dueOn stPend (stPend.core 0) (4, 4)).length = 1) && decide ((stPend.cur.pend.filter fun w => decide (w.due ≤ 1000) && w.isRow).length = 1),
    nextIs (exec .writeVisible stPend) fun t => decide (t.cur.sreg 1 = 12) && decide (t.cur.sreg 2 = stPend.cur.sreg 2) && t.cur.preg 3 && decide (t.cur.kreg 2 = 0xF0) &&
      decide (t.cur.rows = [(7, 0xCD)]) && decide (t.cur.pend.length = 1) && t.cur.flagsB.getLsbD 0,
    (let s (l : List PendWrite) : State := withCore st fun c => { c with pend := l, g := c.g.set 4 d5 }
     let wcol (l : List PendWrite) : Bool := nextIs (exec .writeVisible (s l)) fun t => t.cur.flagsB.getLsbD 0
     wcol [pw 1000 996 1 (.p 0 true), pw 1000 996 4 (.p 0 true)] && !wcol [pw 1000 996 1 (.s 1 11), pw 1001 996 4 (.s 1 12)] &&
       wcol [pw 1000 999 2 (.g 4 .rst), pw 1000 998 2 (.g 4 (.load d5))] && wcol [pw 1000 999 2 (.g 4 (.load d5)), pw 1000 998 2 (.g 4 (.load 0))] &&
       !wcol [pw 1000 999 2 (.g 4 (.push 5)), pw 1000 998 2 (.g 4 (.load 0))] && wcol [pw 1000 999 2 (.g 4 (.push 0)), pw 1000 998 2 (.g 4 (.load 0))]),
    (let ev (slot : Nat) (f : BitVec 6) : PendWrite := { pw 1000 996 slot .none with flags := f }
     let s (c : Nat) (l : List PendWrite) : State := withCore st fun k => { k with pend := l, fevrec := BitVec.ofNat 64 (c * 2 ^ 31) }
     nextIs (exec .writeVisible (s 0 [ev 9 0x21, ev 3 0x02])) (fun t => decide (t.cur.fevrec = BitVec.ofNat 64 (0x80 + 3 * 2 ^ 18 + 2 * 2 ^ 22 + 2 ^ 31 + 480 * 2 ^ 32)) && t.cur.flagsB.getLsbD 1 &&
       decide (t.cur.flagsA = BitVec.ofNat 64 (2 ^ 48 + 2 ^ 53 + 2 ^ 13))) &&
       nextIs (exec .writeVisible (s 0 [ev 1 1])) (fun t => !t.cur.flagsB.getLsbD 1 && decide (t.cur.flagsA = 0x40)) &&
       nextIs (exec .writeVisible (s 1 [ev 1 1])) (fun t => t.cur.flagsB.getLsbD 1 && decide (t.cur.fevrec = 0x80000000)) &&
       nextIs (exec .writeVisible (s 0 [ev 2 1])) fun t => decide (t.cur.flagsA = 0) && decide (t.cur.fevrec = 0))].all id = true := by decide +kernel

/-- Three stores: two of one byte, the later in the write order due now, and one due in the next cycle. -/
def stStores : State := { st with memPend := [⟨1000, 990, 41, 0, [(nearBase + 5, 1)]⟩, ⟨1000, 992, 42, 0, [(nearBase + 9, 2)]⟩, ⟨1001, 993, 43, 0, [(nearBase + 5, 3)]⟩], memRecent := [(nearBase + 9, 992)] }

/-- R326, R327. -/
theorem wit_StoresBecomeVisible : [
    canonB stStores && decide (∀ x ∈ stStores.memRecent, x.1 = nearBase + 9 → x.2 ≤ 992),
    nextIs (exec .writeVisible stStores) fun t => decide (memByte t.mem (nearBase + 5) = 1) && decide (memByte t.mem (nearBase + 9) = 2) && decide (memByte t.mem (nearBase + 6) = 0) &&
      decide (t.memPend.length = 1)].all id = true := by decide +kernel

theorem wit_RegisterInstructionFrame : [
    decide (destinations (.add ⟨1, 2, .reg 3, always, 0⟩) = some [(0, 1)]) && nextIs (exec (.add ⟨1, 2, .reg 3, always, 0⟩) st) fun _ => true,
    decide (destinations (.vadd ⟨3, 1, 2, 0, 0, 1, 0, false, false⟩) = some [(3, 3)]) && decide (destinations (.tlrd ⟨1, 1, 0⟩) = some [(0, 1)])].all id = true := by decide +kernel

theorem wit_IssueIsLocal : [
    decide (slotsOf (.sst (⟨1, 0, .reg 5, always, 3⟩)) ≠ []) && canonB st && nextIs (exec (.sst ⟨1, 0, .reg 5, always, 3⟩) st) fun t => decide (t.mem = st.mem) && decide (t.core 1 = st.core 1)].all id = true := by decide +kernel

/-- A bundle at 0x100: its words as bytes of core 0's code store. -/
def codeAt (ws : List Nat) : Memory := (ws.zipIdx.flatMap fun x => (List.range 4).map fun i => (codeBase 0 + 0x100 + 4 * x.2 + i, BitVec.ofNat 8 (x.1 / 2 ^ (8 * i)))).filter fun b => b.2 != 0
/-- ADD s5, s6, s7 alone with IDLE 2; with a TRAP 1; a header with BK 2; an opcode that no slot has. -/
def addWord : Nat := 0x40 * 2 ^ 24 + 5 * 2 ^ 19 + 6 * 2 ^ 14 + 7 * 2 ^ 9
def codeSt (ws : List Nat) : State := { st with mem := codeAt ws, stage := .issue [0, 1] }

/-- R3, R16: one state for each clause, with events due, an event of a later cycle, cores to issue, and inputs. -/
theorem wit_StepOrder : [
    (let s : State := { st with agenda := [⟨1000, 99, .writeVisible⟩, ⟨1000, 100, .meshHop⟩] }
     match step s, exec .writeVisible { s with agenda := [⟨1000, 100, .meshHop⟩], stim := noStim } with
     | .next a, .next b => decide (a = b)
     | _, _ => false),
    (let s : State := { st with agenda := [⟨1000, 100, .meshHop⟩] }
     decide (s.scan = none) && same (step s) { s with stage := .issue s.dueCores } && decide (s.dueCores = [0])),
    (let s : State := { stFrozen with agenda := [⟨1001, 0, .writeVisible⟩] }
     decide (s.scan = some (.restart 0)) && nextIs (step s) fun t => decide ((t.core 0).run = .running)),
    nextIs (step (codeSt [2, addWord])) fun t => decide (t.stage = .issue [1]),
    same (step { st with stage := .issue [] }) { st with stage := .after },
    (let s : State := { st with stage := .after, agenda := [⟨1000, 999, .meshHop⟩] }
     nextIs (step s) fun t => decide (t.agenda = [])),
    (let s : State := { (withCore st fun c => { c with run := .ended, bind := some 0 }) with stage := .after, binds := [(0, { launch0 with cores := [0], st := 3 })] }
     decide (s.endScan = some (.launchComplete 0)) && nextIs (step s) fun t => decide ((t.core 0).bind = none)),
    (let s : State := { st with stage := .after, inputs := [⟨1000, .lineRelock, { noStim with unit := 15, index := 71 }⟩] }
     nextIs (step s) fun t => decide (t.inputs = [])),
    (let s : State := { st with stage := .after, inputs := [⟨1001, .lineRelock, noStim⟩], agenda := [⟨1000, 1000, .meshHop⟩] }
     decide (s.endScan = none) && nextIs (step s) fun t => decide (t.clock = 1001) && decide ((t.core 0).tcyc = 501) && decide (t.stage = .events) && SMap.wf Core.init s.cores)].all id = true := by decide +kernel

def bundleOf (s : State) (n : Nat) : Option Bundle :=
  match decodeBundle (s.headerAt n) (s.core n).pc.toNat with
  | .ok b => some b
  | .error _ => none

/-- R8, R16, R42. -/
theorem wit_StepRunsDecodedInstruction : [
    (let s := codeSt [2 * 2 ^ 16 + 2, addWord]
     decide ((bundleOf s 0).map (fun b => (b.slots, b.idle, b.len)) = some ([(1, .add ⟨5, 6, .reg 7, ⟨0, false⟩, 0⟩)], 2, 8)) && decide ((s.core 0).late = none) && decide ((s.launch 0).stop = none) &&
       nextIs (step s) fun t => decide (t.cur.pend.map (fun w => (w.due, w.w)) = [(1001, .s 5 (st.cur.sreg 6 + st.cur.sreg 7))]) && decide (t.cur.pc = 0x108) && decide (t.cur.nextIssue = 1003)),
    (let s := codeSt [1, 0x0D000000 + 0xA5 * 2 ^ 11]
     nextIs (step s) fun t => decide ((t.core 0).frec = 0x0000010000000008 + 0xA500)),
    nextIs (step (codeSt [2 * 2 ^ 14 + 2, addWord])) fun t => decide ((t.core 0).frec.toNat % 2 ^ 20 = 0xF0001),
    nextIs (step (codeSt [2, 0xFF000000])) fun t => decide ((t.core 0).frec.toNat % 2 ^ 20 = 0x10002) && decide ((st.core 0).loops = [])].all id = true := by decide +kernel

/-- R8, R42: two instructions of which the second would trap; an illegal instruction and a trap. -/
theorem wit_BundlesAreAtomic : [
    (let s := codeSt [3, 0x0D000000, addWord]
     decide ((bundleOf s 0).map (·.slots.length) = some 2) && nextIs (exec (.bundleIssue 0) s) fun t => decide ((t.core 0).pend = []) && decide ((t.core 0).frec.toNat % 256 = 8)),
    (let s := codeSt [3, addWord, addWord + 2 ^ 19]
     decide ((bundleOf s 0).map (·.slots.length) = some 2) && nextIs (exec (.bundleIssue 0) s) fun t => decide ((t.core 0).pend.map (·.slot) = [0, 1]))].all id = true := by decide +kernel

theorem wit_RoundTrip : [
    wfInstr (.sst ⟨1, 0, .lit 7, never, 3⟩) && decide (slotsOf (.sst ⟨1, 0, .lit 7, never, 3⟩) = [1]) && decide (slotWord (encode (.sst ⟨31, 0, .lit 7, never, 3⟩)) ≠ 0),
    decide (((0xFFFFFFFF : BitVec 32).zeroExtend 64).extractLsb' 32 32 = 0) && decide (decodeSlot (slotFmt 0) 0x0C000000 = some .endTask)].all id = true := by decide +kernel

theorem wit_CanonicalKept : [
    canonB stStores && nextIs (step { stStores with agenda := [⟨1000, 0, .writeVisible⟩] }) fun t => canonB t && decide (t.mem ≠ [])].all id = true := by decide +kernel
/-! Steps of the part -/

/-- Group 3 holds both cores of launch 0; both are held in PHASE 7 of it, ready. -/
def heldCore (arr : Nat) : Core := { core0 with run := .held, hold := some ⟨3, false, 7, arr, [], 990, true, 0x100, false⟩ }
def rvs : State :=
  { st with groups := [(3, (9, [0, 1]))], cores := [(0, heldCore 495), (1, heldCore 499)],
            binds := [(0, { launch0 with tasks := [⟨7, 3, [0, 1], 0, 0⟩] })] }

/-- R64, R69, R72, R74, R76, R88, R287: a sealed region of 4,096 cycles and of one less; a rendezvous of two members; freezes with an open region, of issuing and of held
cores; the stop of a domain, with and without its stack reserve. -/
theorem wit_SequencerEvents : [
    (let s (d : Nat) : State := withCore { st with clock := 5000 } fun c => { c with region := ⟨.sealed, 5000 - d, 0x80, false⟩ }
     nextIs (exec (.sealedRegionTimeout 0) (s 4096)) (fun t => decide ((t.core 0).frec.toNat % 2 ^ 16 = 0x0402)) && same (exec (.sealedRegionTimeout 0) (s 4095)) (s 4095)),
    decide ((rvs.heldIn 3).head?.map (·.1) = some 0) && decide (rvs.groupBind 3 = some 0) && decide (rvs.podMembers 3 = []) && rvs.localReady 3 && decide (releaseTcyc (rvs.heldIn 3) = 499) &&
      decide (∀ t ∈ (rvs.launch 0).tasks, 7 ≤ t.phase) && decide ((rvs.launch 0).hbm = 0),
    nextIs (exec (.rendezvousRelease 3) rvs) fun t => decide ((t.core 0).tcyc = 499) && decide ((t.core 1).tcyc = 499) && decide ((t.core 0).phaseno = 7) && decide ((t.core 1).run = .running),
    (let s := { withCore st fun c => { c with region := ⟨.cut, 900, 0x80, true⟩ } with binds := [(0, { launch0 with cores := [0] })] }
     (s.regionOpen (s.launch 0) && nextIs (exec (.freeze ⟨0, 0x1A, 3, false⟩) s) fun t => decide ((t.launch 0).stop.map (fun x => (x.cause, x.atCut, x.stopped)) = some (0x1A, true, false)))),
    (let s : State := { st with cores := [(0, core0), (1, heldCore 495)] }
     nextIs (exec (.freeze ⟨0, 0x1A, 3, false⟩) s) fun t => !s.regionOpen (s.launch 0) && decide ((t.core 1).run = .frozen) && decide ((t.core 0).run = .running)),
    (let s : State := { st with cores := [(0, { heldCore 495 with ckpt := some ckpt0 }), (1, { core0 with run := .ended })] }
     !s.regionOpen (s.launch 0) && nextIs (exec (.freeze ⟨0, 0x1A, 3, false⟩) s) fun t => decide ((t.core 0).run = .frozen) && decide ((t.core 0).pc = 0x40) && decide ((t.core 0).tcyc = 400)),
    (let s : State := { st with binds := [(0, { launch0 with stop := some ⟨0x1A, 3, .rewind, false, false, 0, 0, 480, 0⟩ })] }
     nextIs (exec (.bundleIssue 0) s) fun t => decide ((t.core 0).run = .frozen)),
    (let s : State := { st with binds := [(0, { launch0 with ending := some ⟨1, 8, 0, 0, 0⟩ })] }
     decide (s.grantReserve (s.launch 0) ⟨1, 8, 0, 0, 0⟩ = none) && nextIs (exec (.domainStop 0) s) fun t => decide ((t.launch 0).st = 6) && decide ((t.core 1).run = .stopped)),
    (let e : Ending := ⟨1, 0x04, 0, 0, 0⟩
     let s : State := { withCore st fun c => { c with slim := 0x2000, reserve := 0x1000, frec := 0x04 } with binds := [(0, { launch0 with ending := some e })] }
     match s.grantReserve (s.launch 0) e with
     | none => false
     | some l => nextIs (exec (.domainStop 0) s) fun t => (t.core 0).reserveUsed && decide ((t.core 0).slim.toNat % 2 ^ 22 = l)),
    (let e : Ending := ⟨1, 0x10, 1, 0, 0⟩
     let late : LateFault := { lateOf 990 15 with cause := 0x10 }
     let s : State := { st with cores := [(0, { core0 with late := some late }), (1, { core1 with run := .stopped, frec := 0x10 })], binds := [(0, { launch0 with ending := some e })] }
     nextIs (exec (.domainStop 0) s) fun t => decide ((t.launch 0).ending.map (·.core) = some 0) && decide ((t.core 0).run = .stopped) && decide ((t.core 0).frec.toNat % 256 = 0x10))].all id = true := by decide +kernel

/-- R229 to R235, R239: a row and a slot due; every code of the power controller; forced gating that discards rows; gating and waking complete; a retry window passed. -/
theorem wit_ClusterEvents : [
    (let s : State := { st with pairs := [(383, { Pair.init with up := ⟨[(1000, 5), (1001, 6)], 0, 12, [1000, 1001]⟩ })] }
     nextIs (exec (.rillEntryReady 383 true) s) (fun t => decide ((t.pair 383).up.ready = 1)) && nextIs (exec (.rillSlotFreed 383 true) s) fun t => decide ((t.pair 383).up = ⟨[(1000, 5), (1001, 6)], 0, 13, [1001]⟩)),
    (let q (n : Nat) (w f : Bool) : GateReq := ⟨0, n, w, f, 6, 998⟩
     let s : State := { st with cores := [(0, { core0 with pend := [pw 1002 998 10 (.later 6)] }), (1, { Core.init with gate := .gated }), (2, { Core.init with rows := [(3, 9)] }), (3, { Core.init with gate := .waking })],
                                pairs := [(2, { Pair.init with up := ⟨[(990, 5)], 1, 15, []⟩ })], mem := [(codeBase 2 + 5, 7)] }
     decide (gateCodeOf s (q 767 false false) = 3) && decide (gateCodeOf s (q 0 false false) = 3) && decide (gateCodeOf s (q 3 true false) = 5) && decide (gateCodeOf s (q 1 false false) = 4) &&
       decide (gateCodeOf s (q 1 true false) = 0) && decide (gateCodeOf s (q 2 false false) = 1) && decide (gateCodeOf s (q 2 false true) = 0) &&
       decide (gateCodeOf { s with cores := [(0, core0), (1, core1)] } (q 1 false false) = 2) &&
       decide (s.savedAwait 0 998 10 = none) && nextIs (exec (.powerGateDecision (q 2 false true)) s) (fun t => decide (t.cur.pend.map (fun w => (w.due, w.w)) = [(1002, .s 6 0x100)]) && decide ((t.core 2).gate = .gating) && decide ((t.core 2).rows = []) &&
         decide (memByte t.mem (codeBase 2 + 5) = 0) && decide ((t.pair 2).discard = 1)) &&
       nextIs (exec (.powerGateDecision (q 1 true false)) s) (fun t => decide ((t.core 1).gate = .waking) && t.agenda.any fun a => a.at_ == 2700 && a.ev == .wakeComplete 1) &&
       nextIs (exec (.powerGateDecision (q 2 false false)) s) (fun t => decide (t.cur.pend.map (·.w) = [.s 6 0x101])) &&
       nextIs (exec (.wakeComplete 3) s) fun t => decide ((t.core 3).gate = .on)),
    (let s (d : Nat) : State := withCore { st with clock := 900000 } fun c => { c with bus := { c.bus with count := [(33, (1, 900000 - d))] } }
     nextIs (exec (.retryWindowExpiry 0 33) (s 850000)) (fun t => decide ((t.core 0).bus.count = [])) && same (exec (.retryWindowExpiry 0 33) (s 849999)) (s 849999))].all id = true := by decide +kernel

/-- R238, R240, R253, R266 to R271, R289, R324: no, one and two flipped bits; each need; each stimulus of a stack; frequencies 8 and 15; both resets. -/
theorem wit_StackEvents : [
    (let s (f : Nat) : State := { st with flips := if f = 0 then [] else [(5, f)] }
     same (exec (.scrub 5) (s 0)) (s 0) && nextIs (exec (.scrub 5) (s (2 ^ 71))) (fun t => decide (t.flips = []) && decide ((t.stackAt 0).eccHead = 1)) &&
       nextIs (exec (.scrub 5) (s (2 ^ 71 + 1))) fun t => decide (t.flips ≠ []) && decide ((t.stackAt 0).eccHead = 1)),
    (let s : State := { st with binds := [(0, { launch0 with hbm := 0x80 })], freq := 15 }
     nextIs (exec (.doubledRefresh 7 1) s) (fun t => t.agenda.any fun a => a.at_ == 1000 && a.ev == .freeze ⟨0, 0x30, 0x40, true⟩) && same (exec (.hbmRefresh 7 63 15) s) s),
    (let s (i : Nat) : State := { st with stim := { noStim with unit := 1, index := i } }
     nextIs (exec .droopStretch (s 0)) (fun t => decide (t.stackAt 1 = { Stack.init with droop := some 1000 })) &&
       (let d (n : Nat) : State := { s 23 with mons := [(16 + 8 * 47 + 4, { Monitor.init with cfg := 0x1000 })], dieStacks := [(1, { Stack.init with droop := some n })] }
        same (exec .droopStretch (d 937)) ((d 937).nextCycle .droopStretch (d 937).stim) && nextIs (exec .droopStretch (d 936)) fun t => decide ((t.mon (16 + 8 * 47 + 4)).count = 1)) &&
       nextIs (exec .clockCrossingSlip (s 4)) (fun t => decide ((t.stackAt 1).realign = some 2700) && decide (SMap.get 2 (t.stackAt 1).occ 4 = 0)) &&
       nextIs (exec .clockCrossingSlip (s 3)) (fun t => decide ((t.stackAt 0).realign = some 2700)) &&
       nextIs (exec .thermalFreeze (s 0)) (fun t => decide ((t.stackAt 1).critical = [0x30])) &&
       nextIs (exec .freezeRelease { s 0 with dieStacks := [(1, { Stack.init with critical := [0x31] })] }) fun t => decide ((t.stackAt 1).critical = [])),
    (let s (e : Nat) : State := { st with dieStacks := [(0, { Stack.init with occ := [(3, 0)], realign := some e })] }
     nextIs (exec (.realignmentComplete 0) (s 1000)) (fun t => decide (t.dieStacks = [(0, { Stack.init with aligned := 1000 })])) && same (exec (.realignmentComplete 0) (s 1001)) (s 1001)),
    (let s : State := { st with cores := [], stim := { noStim with index := 8 } }
     decide ((s.ctl 2).window = false) && nextIs (exec .frequencyStepDown s) (fun t => decide (t.freq = 8)) &&
       nextIs (exec .frequencyStepUp { s with freq := 8, stim := { noStim with index := 16 } }) (fun t => decide (t.freq = 16)) &&
       nextIs (exec .frequencyStepDown { st with stim := { noStim with index := 15 } }) fun t => decide (t.freq = 16) && t.agenda.any fun a => a.ev == .freeze ⟨0, 0, 0, true⟩),
    canonB stMem && nextIs (exec (.reset false) stMem) fun t => decide (t.mem = []) && decide ((t.core 0).run = .off)].all id = true := by decide +kernel

def acc0 (core target : Nat) (banks : List Nat) : Acc :=
  { op := 30 + core, kind := .core, core := core, slot := 1, addr := 0x80, issued := 994, stamp := 494, cycle := 1000, target := target, banks := banks, units := 1, write := false,
    hops := [], remote := false, bytes := [], atom := false }

/-- R141, R154, R236, R261, R262: alone at a bank, an atomic, two in bank 15, two on one link. -/
theorem wit_AccessEvents : [
    (let a := acc0 0 0 [15]
     let s : State := { st with accs := [a] }
     decide (atBank s = [a]) && decide (s.arrival a = none) && decide (s.parity = []) && decide (s.flips = []) && decide (s.routingHolds 0 = none) && same (exec .bankAccess s) { s with accs := [] }),
    (let a : Acc := { acc0 0 0 [4] with write := true, atom := true, bytes := [0x100000, 0x100001, 0x100002, 0x100003] }
     let s : State := { stMem with accs := [a], memPend := [⟨1002, 1000, 30, 0, [(nearBase + 0x100000, 1)]⟩] }
     decide (atBank s = [a]) && same (exec .bankAccess s) { s with accs := [] }),
    (let s : State := { st with accs := [acc0 0 0 [15], acc0 1 0 [15]], memPend := [⟨1003, 1000, 31, 1, [(nearBase + 7, 1)]⟩] }
     decide ((atBank s).length = 2) && nextIs (exec .bankAccess s) fun t => decide (t.memPend = []) && decide ((t.core 0).late ≠ none) && decide ((t.core 1).late ≠ none)),
    (let s : State := { st with accs := [{ acc0 0 0 [15] with cycle := 1003, hops := [(1000, ⟨1, 5⟩)] }, { acc0 1 0 [14] with cycle := 1003, hops := [(1000, ⟨1, 5⟩)] }] }
     decide (s.accs.filterMap s.linkNow = [⟨1, 5⟩, ⟨1, 5⟩]) && nextIs (exec .meshHop s) (fun t => decide ((t.core 0).late ≠ none)) && same (exec .meshHop st) st)].all id = true := by decide +kernel
def withMop (m : MOp) (s : State) : State := withCore s fun c => { c with mops := [m] }
def dst0 : Desc := BitVec.ofNat 512 (0xFFF * 2 ^ 16 + 0x100000 * 2 ^ 32 + 512 * 2 ^ 96)

/-- R185 to R191, R209, R213, R214: a claim that passes and one that a buffer refuses; the last row claim; MZERO and MTRN complete; x7; RTOPK of one token. -/
theorem wit_MatrixTranslationRoutingEvents : [
    (let m : MOp := { mop0 (.mma ⟨6, 1, 1, 1, 0, 0⟩) with descA := g1024, descB := g1024 }
     nextIs (exec (.mmaOperandClaim 0 12 0 true) (withMop m stMem)) (fun t => decide (((t.core 0).mop 12).map (·.capB.length) = some 1)) &&
       nextIs (exec (.mmaOperandClaim 0 12 0 false) (buffered .empty false (withMop m stMem))) fun t => decide (((t.core 0).mop 12).map (·.dead) = some true) && decide ((t.core 0).late ≠ none)),
    (let m : MOp := { mop0 (.msave ⟨6, 5, 0, 0, 0, 0⟩) with descA := dst0, input := [(6, .rows ((List.range 128).map fun i => BitVec.ofNat 4096 i))] }
     !(withMop m st).runsRefused 0 true [] && nextIs (exec (.msaveRowClaim 0 12 126) (withMop m st)) fun t =>
       decide ((t.memPend.map fun p => (p.vis, p.bank, (p.data.map (·.1)).take 1, (p.data.map (·.2)).take 1)) = [(1062, 1000, [nearBase + 0x100000 + 126 * 512], [126]), (1062, 1000, [nearBase + 0x100000 + 127 * 512], [127])])),
    (let m : MOp := { mop0 (.mload ⟨6, 5, 0, 0, 0, 0⟩) with descA := dst0 }
     nextIs (exec (.msaveRowClaim 0 12 0) (withMop m stMem)) fun t => decide (t.memPend = []) && decide (((t.core 0).mop 12).map (·.capA.length) ≠ some 0)),
    (let s := withCore (withMop (mop0 (.mzero ⟨6, 0, 0, 0, 0, 0⟩)) st) fun c => { c with rows := [(5, 1), (768, 9), (895, 9), (896, 2)] }
     canonB s && nextIs (exec (.matrixWriteComplete 0 12) s) fun t => decide ((t.core 0).rows = [(5, 1), (896, 2)]) && decide ((t.core 0).mops = [])),
    (let s := withCore st fun c => { c with x := c.x.set 7 ⟨0, false, 0, some (1000, 1, 0x5008)⟩ }
     decide (((s.core 0).xreg (BitVec.ofNat 3 7)).pend = some (s.clock, 1, 0x5008))),
    (let d := blk [(0, 0x1000), (5, 0), (6, 64), (8, 1), (10, 1), (12, 1), (13, 0), (16, 0x2000), (21, 0x3000)]
     let s : State := { st with cmds := [{ cmd0 (.rtopk ⟨4, 0, 4, 0⟩) true .running with ctx := 4, block := d }] }
     nextIs (exec (.routingComplete 0 12) s) fun t => decide (t.cmds = []) && decide ((t.memPend.flatMap (·.data)) = [(nearBase + 0x2000, 0), (nearBase + 0x3000, 0), (nearBase + 0x3001, 0), (nearBase + 0x3002, 0x80), (nearBase + 0x3003, 0x3F)])),
    (let d := blk [(8, 1), (10, 1), (12, 1), (14, 1), (16, 0x2000), (26, 0x3000), (31, 0x4000), (36, 0x5000)]
     let s : State := { st with cmds := [{ cmd0 (.rcap ⟨4, 0, 4, 0⟩) true .running with ctx := 4, block := d }] }
     nextIs (exec (.routingComplete 0 12) s) fun t => decide ((t.memPend.flatMap (·.data)) = [(nearBase + 0x3000, 0), (nearBase + 0x3001, 0), (nearBase + 0x5000, 1), (nearBase + 0x5001, 0)])),
    (let d := blk [(8, 1), (10, 1), (12, 1), (16, 0x2000), (26, 0x3000), (36, 0x5000), (41, 0x6000), (46, 0x7000), (51, 64)]
     let s : State := { st with cmds := [{ cmd0 (.rdisp ⟨4, 0, 4, 0⟩) true .running with ctx := 4, block := d }] }
     nextIs (exec (.routingComplete 0 12) s) fun t => decide ((t.memPend.flatMap (·.data)).length = 64))].all id = true := by decide +kernel

/-- A copy of 8 FP32 elements from 0x100000 to 0x200000 of the own slice, of a duration. -/
def cpBlk (dur : Nat) : Desc := blk [(0, 0x100000), (8, 0x200000), (16, 0x0001000100010008), (52, dur)]
def copy0 : Cmd := { cmd0 (.cpyt ⟨0, 510, 4, 0⟩) true .issued with args := [0, 0, 0, 0, 0, 0, 0, 0x1000] }
def capt (dur : Nat) : State := { st with cmds := [copy0], mem := memOf [(nearBase + 0x1000, 8, 0x100000), (nearBase + 0x1008, 8, 0x200000), (nearBase + 0x1010, 8, 0x0001000100010008), (nearBase + 0x1034, 3, dur)] }
def captured (i : Instr) : Cmd := { cmd0 i true .captured with block := cpBlk 13, dur := 13 }
/-- An extent of one page of 4 KiB at far address 0x9000, its entry at 0x5000. -/
def farMem : Memory := memOf [(0x5000, 8, 0x10000), (0x5008, 8, 0x1000), (0x5010, 1, 3), (0x5011, 1, 0x80), (0x5018, 8, 0x6000), (0x6000, 8, 0x9000), (0x9000, 8, 5)]
def extWord : Nat := 2 ^ 61
/-- One entry of the timetable: N 94, one item at cycle 40 of one column. -/
def ttImage : Image := img [(10, leBytes 8 (94 + 2 ^ 24) ++ leBytes 8 (40 + 20 * 2 ^ 34))]
def farCmd (i : Instr) (d : Desc) (timed : Bool) : Cmd := { cmd0 i timed .running with block := d, args := [0, 0, 0x5000, 0, 0, 0x5000, 0, 0x1000] }
def farSt (k : Cmd) : State := { st with cmds := [k], mem := farMem, images := [(0, ttImage)] }

/-- R193 to R195, R200, R201, R204 to R206, R208, R215, R216, R290: a duration one too short and the natural one; a channel busy until the next cycle and free now; both halves of a
beat; the end; an HBM column; atomics; the completion of untimed commands. -/
theorem wit_EngineEvents : [
    (let c (n : Nat) := (capt n).withBlock copy0 (cpBlk n) (Desc.field (cpBlk n) 0 8) (Desc.field (cpBlk n) 8 8)
     (capt 12).copyInvalid (c 12) && nextIs (exec (.blockCapture 0 12) (capt 12)) (fun t => decide (t.cmds = []) && decide ((t.core 0).late.map (fun l => (l.cause, l.detail)) = some (2, 0x10))) &&
       !(capt 13).copyInvalid (c 13) && decide ((capt 13).copyRefused (c 13) = none) && decide ((capt 13).hbmSide (c 13) = none) &&
       nextIs (exec (.blockCapture 0 12) (capt 13)) fun t => (t.agenda.any fun a => a.at_ == 1010 && a.ev == .timedCommandStart 0 12) && decide (t.cmds.map (·.dur) = [13])),
    (let s (n : Nat) : State := { withCore st fun c => { c with chan := [(0, n)] } with cmds := [captured (.cpyt ⟨0, 510, 4, 0⟩)] }
     nextIs (exec (.timedCommandStart 0 12) (s 1001)) (fun t => decide (t.cmds = []) && decide ((t.core 0).late ≠ none)) &&
       nextIs (exec (.timedCommandStart 0 12) (s 1000)) fun t => decide ((t.core 0).chan = [(0, 1013)]) && (t.agenda.any fun a => a.at_ == 1013 && a.ev == .timedCopyEnd 0 12) && decide (t.cmds.map (·.start) = [1000])),
    (let s : State := { st with cmds := [{ captured (.rdisp ⟨4, 510, 4, 0⟩) with ctx := 4, dur := 17 }] }
     nextIs (exec (.timedCommandStart 0 12) s) fun t => t.agenda.any fun a => a.at_ == 1017 && a.ev == .routingComplete 0 12),
    (let s : State := { stMem with cmds := [{ captured (.cpyt ⟨0, 510, 4, 0⟩) with stage := .running }] }
     nextIs (exec (.copyBeat 0 12 0 false) s) fun t => decide (t.memPend = []) && (match t.cmds with
       | [k] => decide (SMap.get 0 (SMap.get [] k.data 0) 0 = 0xFE) && nextIs (exec (.copyBeat 0 12 0 true) t) fun u =>
           decide ((u.memPend.map fun m => (m.vis, m.bank, m.op, m.data.length)) = [(1002, 1000, 14, 32)]) && decide ((u.memPend.flatMap (·.data)).take 2 = [(nearBase + 0x200000, 0xFE), (nearBase + 0x200001, 0xFF)])
       | _ => false)),
    (let s : State := { st with cmds := [{ captured (.cpyt ⟨0, 510, 4, 0⟩) with stage := .running }] }
     nextIs (exec (.timedCopyEnd 0 12) s) fun t => decide (t.cmds = []) && decide (((t.core 0).ctxAt 0).timed = recordWord 0 0 true false 0)),
    (let k := { farCmd (.amo ⟨7, 0, 4, 0⟩) (blk [(0, extWord), (8, 3), (24, 1)]) true with ctx := 7 }
     decide ((farSt k).atomicPlace k = .phys 0x9000 0x10000) && !(farSt k).badRead 0x9000 8 && nextIs (exec (.hbmGroup 0 12 0) (farSt k)) fun t =>
       decide ((t.memPend.map fun m => (m.vis, m.data)) = [(1030, [(0x9000, 8), (0x9001, 0), (0x9002, 0), (0x9003, 0)])])),
    (let k := { farCmd (.cpyt ⟨0, 0, 4, 0⟩) (blk [(0, 0x100000), (8, extWord), (16, 0x0001000100010010), (52, 94), (56, 1)]) true with dur := 94 }
     decide ((farSt k).hbmSide k = some (1, cpDst k.block)) && decide (((farSt k).ttOf k 1).map (·.n) = some 94) && nextIs (exec (.hbmGroup 0 12 0) (farSt k)) fun t =>
       (t.memPend.all fun m => m.vis == 1030 && m.bank == 1000) && decide (t.mem = farMem)),
    (let k := { farCmd (.amo ⟨7, 0, 4, 0⟩) (blk [(0, extWord), (8, 3)]) false with ctx := 7, batch := .num 1, bind := none }
     decide ((farSt k).atomicPlace k = .phys 0x9000 0x10000) && !isHost 0x9000 && (farSt k).physExists 0x9000 && nextIs (exec (.atomicApply 12) (farSt k)) fun t =>
       decide ((t.memPend.map fun m => (m.vis, m.data)) = [(1000, [(0x9000, 8), (0x9001, 0), (0x9002, 0), (0x9003, 0)])])),
    (let c (n : Nat) : Core := { core0 with ctx := core0.ctx.set! n { Ctx.init with closed := 1, batches := [(1, ⟨1, 1, 0, 0, 0, 0⟩)] } }
     let s (i : Instr) (n : Nat) (g : CmdStage) : State := { st with cores := [(0, c n), (1, core1)], cmds := [{ cmd0 i false g with ctx := n, batch := .num 1, bind := none, block := cpBlk 0 }] }
     [((.hflush ⟨7, 0, 4, 0⟩ : Instr), 7, CmdStage.captured), (.jtrunc ⟨6, 0, 4, 0⟩, 6, .running), (.emit ⟨6, 0, 4, 0⟩, 6, .running), (.tlife ⟨7, 0, 4, 0⟩, 7, .captured), (.cpyu ⟨0, 0, 4, 0⟩, 0, .running)].all fun x =>
       nextIs (exec (.untimedComplete 12) (s x.1 x.2.1 x.2.2)) fun t => decide (t.cmds = []) && decide (((t.core 0).ctxAt (BitVec.ofNat 3 x.2.1)).cnt = 1))].all id = true := by decide +kernel
/-! Package memory and launches -/

def fault0 (seq : Option Nat) (cmd : Nat) : DevFault := ⟨seq, if cmd = 0 then 0 else 1, 0, 0, 1, 0x10000, 0, 0, 0, cmd⟩
/-- Page tables of ASID 0: the block of VA 0 lies at 0x80000, 16 leaves that migration may move. -/
def tables : Memory := memOf ([(0x10000, 8, 0x11001), (0x11000, 8, 0x12001), (0x12000, 8, 0x13001), (0x13000, 8, 0x14001)] ++
  (List.range 16).map fun i => (0x14000 + 8 * i, 8, 0x80000 + 4096 * i + 0x4F))
def pst : State := { st with mem := tables, mmb := { Mmb.init with asids := [(0, 0x10001)] } }
def move0 (ptes : List (Nat × Word)) (new : Nat) : Move := ⟨50, 0, 0, 0x80000, new, 0, ptes, .heat, none⟩
def leaves : List (Nat × Word) := (List.range 16).map fun i => (0x14000 + 8 * i, BitVec.ofNat 64 (0x80000 + 4096 * i + 0x4F))
/-- The update ring with one record: PTE address, old value, new value, flags. -/
def upd (a o n f : Nat) : State :=
  { pst with mem := memOf ([(0x4000, 8, a), (0x4008, 8, o), (0x4010, 8, n), (0x4019, 1, f)]) ++ tables, mmb := { pst.mmb with upd := 0x4000, uqTail := 1 } }
def pinAt (va : Nat) (s : State) : State := { s with binds := [(0, { launch0 with pins := [⟨0, 0, va, 0, 4096, 3, va, 4096⟩] })] }
def winA (n off : Nat) (w : Bool) : WinAcc := ⟨1000, 30 + n, n, 1, 0x80, 990, 490, off, 8, w, 77, 6, false⟩

/-- R207, R276, R281 to R285, R295, R296: a full ring and one with a place; a fault of a dispatch and of a command; the update ring in each of its cases; a move whose leaves have changed, one
that a pin holds, one that is made, one that begins; loads and stores of the coherent window and two that meet. -/
theorem wit_PackageMemoryEvents : [
    same (exec .faultRecord st) st,
    (let s (h : Nat) : State := { st with devFaults := [fault0 none 0], mmb := { Mmb.init with fault := 0x7000, frHead := h } }
     same (exec .faultRecord (s 16)) (s 16) && nextIs (exec .faultRecord (s 15)) fun t => decide (t.mmb.frHead = 16) && decide (t.devFaults.map (·.seq) = [some 15]) &&
       decide ((t.memPend.flatMap (·.data)).take 1 = [(0x7000 + 32 * 15, 15)]) && decide ((t.memPend.flatMap (·.data)).length = 32)),
    (let s (c : Nat) : State := { st with devFaults := [fault0 (some 5) c], cmds := if c = 0 then [] else [cmd0 (.cpyu ⟨0, 0, 4, 0⟩) false .faulted], stim := { noStim with value := 5 } }
     nextIs (exec .faultRetry (s 0)) (fun t => decide (t.devFaults = []) && t.agenda.any fun a => a.at_ == 1000 && a.ev == .dispatch 0) &&
       nextIs (exec .faultRetry (s 12)) (fun t => decide (t.cmds.map (fun k => (k.stage, k.args[6]?)) = [(.captured, some 1)])) &&
       nextIs (exec .faultUnresolvable (s 12)) (fun t => decide (t.cmds = []) && decide ((t.launch 0).ending.map (·.status) = some 2)) &&
       same (exec .faultRetry { s 0 with stim := { noStim with value := 6 } }) { s 0 with stim := { noStim with value := 6 } }),
    (let old := 0x8004F
     same (exec .updateRecord pst) pst && nextIs (exec .updateRecord (upd 0x14004 0 0 0)) (fun t => decide ((t.memPend.flatMap (·.data)) = [(0x401C, 2)])) &&
       nextIs (exec .updateRecord (upd 0x14000 1 0 0)) (fun t => decide ((t.memPend.flatMap (·.data)) = [(0x401C, 1)])) &&
       nextIs (exec .updateRecord (upd 0x14000 old 0x77 0)) (fun t => decide ((t.memPend.flatMap (·.data)).take 1 = [(0x14000, 0x77)]) && decide (t.mmb.uqDone = 1)) &&
       (pinAt 0 (upd 0x14000 old 0x77 0)).pinnedPte 0x14000 && !(pinAt 0x1000 (upd 0x14000 old 0x77 0)).pinnedPte 0x14000),
    (let s (m : Move) : State := { pst with moves := [m] }
     let torn : State := { pst with mem := tables.map fun x => if x.1 = 0x14000 then (x.1, 0x41) else x, moves := [move0 leaves 0x90000] }
     let bad : State := { torn with mem := tables, badWords := [0x14078] }
     let ue : State := { pst with badWords := [0x8FFF8], moves := [move0 leaves 0x90000] }
     decide (torn.blockPtes 0 0 = none) && decide (torn.blockFault 0 0 = some (0, 4)) &&
       same (exec (.migrationMove 50) torn) ((torn.postFault ⟨none, 4, 4, 0, 1, 0, 0xFFFF, 0xFF, 0, 0⟩).dropMove 50) &&
       decide (bad.blockPtes 0 0 = none) && decide (bad.blockFault 0 0 = some (0xF000, 5)) &&
       same (exec (.migrationMove 50) bad) (((bad.logTorn 0 0xF000).postFault ⟨none, 4, 5, 0, 1, 0xF000, 0xFFFF, 0xFF, 0, 0⟩).dropMove 50) &&
       (ue.frameTorn 0x80000).1 && nextIs (exec (.migrationMove 50) ue) (fun t => decide (t.moves = []) && decide (t.memPend = []) &&
         decide (t.devFaults = [⟨none, 4, 5, 0, 1, 0, 0xFFFF, 0xFF, 0, 0⟩]) && decide ((SMap.get HbmStack.init t.hbm 7).head = 1)) &&
       decide (pst.blockFault 0 0x10000 = none) && decide (pst.blockPtes 0 0x10000 = none) && !(pst.frameTorn 0x80000).1 && !(s (move0 [] 0x90000)).moveWaits (move0 [] 0x90000) && decide (pst.blockPtes 0 0 = some leaves) && decide (frameOf leaves = 0x80000) &&
       same (exec (.migrationMove 50) (s (move0 (leaves.drop 1) 0x90000))) ((s (move0 (leaves.drop 1) 0x90000)).dropMove 50) &&
       (pinAt 0xF000 (s (move0 leaves 0x90000))).blockHeld 0 0 (leaves.map (·.1)) && !(pinAt 0x10000 (s (move0 leaves 0x90000))).blockHeld 0 0 (leaves.map (·.1)) && pst.mmb.logRoom &&
       !{ pst.mmb with mlHead := 16 }.logRoom && pst.mmb.migen && decide (frameOf leaves ≠ 0x90000)),
    nextIs (exec .hotnessInterval { st with heat := [(3, ⟨5, 0⟩)], freq := 16 }) fun t => decide ((SMap.get (⟨0, 0⟩ : Heat) t.heat 3).count = 0) && t.agenda.any fun a => a.at_ == 1000 + 850000 && a.ev == .hotnessInterval,
    (let s (l : List WinAcc) : State := { withCore st (fun c => { c with pend := [pw 1038 990 1 (.later 6)] }) with winAcc := l, mem := [(windowBase + 0x4000, 9)] }
     decide ((s []).savedAwait 0 990 1 = none) && nextIs (exec .windowSample (s [winA 0 0x4000 false])) (fun t => decide (t.cur.pend.map (fun w => (w.due, w.w)) = [(1038, .s 6 9)])) &&
       nextIs (exec .windowSample (s [winA 0 0x1F8 true])) (fun t => t.agenda.any fun a => a.at_ == 1000 && a.ev == .launchWord 63 77 (.core 0)) &&
       nextIs (exec .windowSample (s [winA 0 0xFFF8 true])) (fun t => decide ((t.memPend.flatMap (·.data)).take 1 = [(windowBase + 0xFFF8, 77)])) &&
       nextIs (exec .windowSample (s [winA 0 0x4FF8 true, winA 1 0x4000 false])) fun t => decide (t.memPend = []) && decide ((t.core 0).late ≠ none) && decide ((t.core 1).late ≠ none))].all id = true := by decide +kernel

/-- An image with one start vector: one task of phase 0 in group 3, cores 0 and 1 with entries 0x40 and 0x80, limit 0x2000, stack 0x3000. -/
def entryRec (core entry lend : Nat) : List Byte :=
  leBytes 4 core ++ leBytes 4 entry ++ leBytes 4 0x3000 ++ leBytes 4 0x2000 ++ leBytes 4 0 ++ leBytes 4 0x500 ++ leBytes 4 0x600 ++ leBytes 4 lend
def launchImg : Image := img [(2, leBytes 2 1 ++ leBytes 2 2 ++ leBytes 12 0 ++ leBytes 4 0 ++ leBytes 1 3 ++ leBytes 11 0 ++ entryRec 0 0x40 1 ++ entryRec 1 0x80 0)]
def idle : Core := Core.init
def lst (l : Launch) : State := { State.reset with clock := 2176, images := [(0, launchImg)], binds := [(0, l)] }
def bound0 (k : Launch) : Launch := { k with lid := 9, cores := [0, 1], tasks := launchImg.tasks 0 }
def prepared (st2 : Launch) : State := { lst st2 with cores := [(0, { idle with run := .waiting, bind := some 0, pc := 0x40 }), (1, { idle with run := .waiting, bind := some 0, pc := 0x80 })] }
def ended0 (l : Launch) : State := { lst l with cores := [(0, { idle with run := .ended, bind := some 0 }), (1, { idle with run := .ended, bind := some 0 })] }
def frozen0 (l : Launch) : State := { lst l with cores := [(0, { idle with run := .frozen, bind := some 0, tcyc := 7 }), (1, { idle with run := .ended, bind := some 0 })] }
def withQueue (s : State) : State := { s with queues := [(63, { Queue.init with cfg := 0xF, words := [⟨5, 0, 0, [], none, none, 0, false⟩] })] }

/-- R299, R303, R305 to R307, R311, R317, R320, R323, R325, R350: image loads into a free slot, a used one and during a takeover; launch words accepted and refused; ageing of an empty and of a full
queue; Noon's one head; dispatch, start, completion in two parts, pre-emption with and without stores in flight, resumption, and a half-width variant that is missing. -/
theorem wit_LaunchEvents : [
    !(lst Launch.free).slotUsed 255 && (lst (bound0 { Launch.free with st := 3 })).slotUsed 0 && !((lst Launch.free).ctl 3).window &&
      same (exec (.imageLoad 0 0 16) (lst (bound0 { Launch.free with st := 3 }))) (lst (bound0 { Launch.free with st := 3 })),
    (let s : State := { lst Launch.free with ctls := [(3, { Ctl.init with window := true })] }
     (s.ctl 3).window && nextIs (exec (.imageLoad 255 0 16) s) fun t => t.agenda.any fun a => a.at_ == 2177 && a.ev == .imageLoad 255 0 16),
    (match (lst Launch.free).checkWord 63 0 with
     | .ok _ => false
     | .error r => decide (r = 1)) && nextIs (exec (.launchWord 63 0 (.core 0)) (lst Launch.free)) fun t => decide ((t.queue 63).lastCode = 1),
    same (exec (.queueAgeing 63) st) st && nextIs (exec (.queueAgeing 63) (withQueue st)) fun t => decide ((t.queue 63).words.length = 1),
    decide (((List.range 64).filterMap (lst Launch.free).refreshGraphs.wantOf).length = 0) && !((lst Launch.free).ctl 0).window &&
      same (exec .bindDecision { lst Launch.free with ctls := [(0, { Ctl.init with window := true })] }) { lst Launch.free with ctls := [(0, { Ctl.init with window := true })] },
    (let s := withQueue (lst Launch.free)
     match (List.range 64).filterMap s.wantOf with
     | [w] => !s.cutTooLong w && decide (s.holders w = []) && !s.blocked w && w.word.resume.isNone && (s.imageAt w.word.image).isSome && decide (w.cores = [0, 1])
     | _ => false),
    (let s := lst (bound0 { Launch.free with st := 1, waiting := true })
     decide ((s.imageAt 0).isSome) && decide ((launchImg.entries 0).map (fun e => (e.core, e.entry, e.lend)) = [(0, 0x40, 1), (1, 0x80, 0)]) && decide (((launchImg.entries 0).map (·.core)).Nodup) && canonB s &&
       (launchImg.entries 0).all (fun e => decide ((([0, 1].foldl State.wakeCore (s.setLaunch 0 { s.launch 0 with st := 2 })).returned e.core e.lend) = []) && decide ((s.core e.core).gate ≠ .gating)) &&
       (match (readied s 0 launchImg).prepRanges 0 (rangesOf s 0 launchImg) with
        | .ok rs => !rangesClash (s.launch 0).tasks rs
        | _ => false)),
    !(lst Launch.free).startDue Launch.free,
    (let s := prepared (bound0 { Launch.free with st := 2 })
     s.startDue (s.launch 0) && nextIs (exec (.launchStart 0) s) fun t => decide ((t.core 1).run = .running) && decide ((t.core 1).pc = 0x80) && decide ((t.launch 0).st = 3)),
    (let s := ended0 (bound0 { Launch.free with st := 3 })
     let b : State := { s with cmds := [cmd0 (.cpyu ⟨0, 0, 4, 0⟩) false .running] }
     s.completeDue (s.launch 0) && !s.launchBusy { s.launch 0 with st := 6 } && b.launchBusy { b.launch 0 with st := 6 } && canonB s && s.linkUp &&
       nextIs (exec (.launchComplete 0) b) (fun t => decide ((t.launch 0).st = 6)) && nextIs (exec (.launchComplete 0) s) fun t => decide (t.binds = []) && decide ((t.core 0).bind = none) && decide (t.link.sent.length = 1)),
    (let s := frozen0 (bound0 { Launch.free with st := 3, stop := some ⟨0, 0, .preempt, false, true, 0, 0xFFFF, 0, 2170⟩ })
     canonB s && nextIs (exec (.preemption 0) { s with memPend := [⟨2177, 2170, 9, 0, [(nearBase, 1)]⟩] }) (fun t => decide (t.cores = s.cores)) &&
       nextIs (exec (.preemption 0) s) fun t => decide ((t.launch 0).st = 5) && decide ((t.core 0).bind = none) && decide ((t.queue 0).words.map (·.resume) = [some 0])),
    (let s := lst (bound0 { Launch.free with st := 1, waiting := true, resume := true, saved := [(0, { idle with run := .frozen, tcyc := 7 }), (1, { idle with run := .ended })] })
     (launchImg.entries 0).all (fun e => decide (s.returned e.core e.lend = [])) && nextIs (exec (.resume 0) s) fun t => decide ((t.core 0).tcyc = 7) && decide ((t.core 0).run = .frozen) && decide ((t.core 0).lent = 1) && decide ((t.launch 0).st = 2)),
    (let s := frozen0 (bound0 { Launch.free with st := 3, stop := some ⟨0, 0, .variant, false, true, 0, 0xFFFF, 0, 2170⟩ })
     !launchImg.has 7 && nextIs (exec (.variantRebind 0) s) fun t => decide ((t.launch 0).ending.map (·.status) = some 4)),
    (let s := lst { bound0 { Launch.free with st := 1, waiting := true } with cores := [0] }
     nextIs (exec (.dispatch 0) s) fun t => decide ((t.launch 0).ending = some ⟨3, 0, 0xFFFF, 0, 0⟩) && decide ((t.launch 0).st = 6)),
    (let s := lst (bound0 { Launch.free with st := 5, resume := true, ctxa := 0x9000, saved := [(0, { idle with run := .frozen, tcyc := 7 })] })
     nextIs (exec (.preemption 0) s) fun t => decide ((t.memPend.flatMap (·.data)).length = 64) && decide ((t.launch 0).saved = (s.launch 0).saved))].all id = true := by decide +kernel
/-- R303, R305: a word is accepted whenever its parameter block (whose length the image's format, which the spec does not lay out, gives) lies in the arena (whose size the spec does not give). -/
theorem wit_LaunchWordAccepted (h : Config.paramLength (launchImg.section 9) 0 ≤ Config.arenaBytes) :
    ∃ copy, (withQueue (lst Launch.free)).checkWord 63 (63 * 2 ^ 16) = .ok (none, copy) := by
  have e : (withQueue (lst Launch.free)).checkWord 63 (63 * 2 ^ 16) =
      ((withQueue (lst Launch.free)).paramCopy 0 (Config.paramLength (launchImg.section 9) 0) false).map fun c => (none, c) := by rfl
  rw [e]
  have u : ∀ len, ((withQueue (lst Launch.free)).paramTorn 0 len false) = [] := by
    intro len
    simp [State.paramTorn, State.badIn, withQueue, lst, State.reset]
  simp [State.paramCopy, Nat.not_lt.mpr h, u, Except.map]

/-! Normal completion -/

/-- The hypotheses of `Obligations.NormalCompletion` on the issuing core, and that byte a is its own. -/
def plainB (s : State) (a : Nat) : Bool := decide (s.cur.bufs = []) && !s.strict s.ix.core && decide (a < 2 ^ 32) && decide (coreOfAddr a = some s.ix.core)
def rawB (d : Desc) : Bool := Desc.useOk d && decide (Desc.kind d = 0) && !Desc.bufMode d
/-- One word waits in the last queue of an idle package; its image binds cores 0 and 1, with no bank lent. -/
def idleImg : Image := img [(2, leBytes 2 1 ++ leBytes 2 2 ++ leBytes 12 0 ++ leBytes 4 0 ++ leBytes 1 3 ++ leBytes 11 0 ++ entryRec 0 0x40 0 ++ entryRec 1 0x80 0)]
def idleSt (l : Launch) : State := { lst { l with bind := 0 } with images := [(0, idleImg)] }

/-- R136 to R155: the slots A and L: the whole own slice's end, a row, an element, a lane, gather, scatter, an atomic; scalar and stream bases. -/
theorem wit_NormalCompletionAL : [
    plainB stMem 0x100000 && nextIs (exec (.gld 3 0 0) stMem) (fun t => t.cur.pend.map (fun w => (w.due, w.w)) == [(1008, .g 3 (.load 0xFFFE))]) &&
      decide (laneAt stMem none ⟨0x100000, (List.range 64).map fun i => (0x100000 + i, true), false, 1⟩ 0x100000 64 0 = 0xFFFE),
    plainB st 0xFFFC0 && nextIs (exec (.gst 3 0 (-1)) st) fun t => decide ((t.memPend.map fun m => (m.vis, m.bank, m.data.length)) = [(1008, 1006, 64)]),
    (let s := streamed stMem
     plainB s 0x100000 && rawB (s.cur.greg 1) && decide (lAddr s (elemOp 1 3) 0 = 0x100000) && decide (lAddr s (rowOp 7 3 1) 0 = 0x100000) &&
       [LOps.mk 7 1 false 0 0 3 1, rowOp 7 3 1].all fun o =>
         nextIs (exec (.vld o) s) (fun t => t.cur.pend.map (fun w => (w.due, w.w)) == [(1008, .row 7 0xFFFE 0xFF)]) &&
         nextIs (exec (.vst o) s) (fun t => decide (t.memPend.map (fun m => (m.vis, m.bank, m.data.map (·.2))) = [(1008, 1006, [1, 2, 3, 4, 5, 6, 7, 8])])) &&
         nextIs (exec (.vldb o) s) (fun t => t.cur.pend.map (fun w => (w.due, w.w)) == [(1008, .row 7 0x0000FFFE0000FFFE 0xFF)]) && (outOf s (rowPart s o 0x100000 true)).isNone),
    (let s := streamed stMem
     decide (fmtBlock (Desc.fmt (s.cur.greg 1)) = 0) && !Desc.banded (s.cur.greg 1) && nextIs (exec (.vlda (elemOp 1 3)) s) (fun t => decide (t.cur.pend.map (·.due) = [1010])) &&
       nextIs (exec (.vsta (elemOp 1 3)) s) fun t => decide (t.memPend.map (fun m => (m.vis, m.bank)) = [(1010, 1008)])),
    (let s := streamed stMem
     let o : LOps := { rowOp 7 3 1 with off := 5 * 2 ^ 13 }
     nextIs (exec (.vgth o) s) (fun t => decide (t.cur.pend.map (·.due) = [1016])) && nextIs (exec (.vsct o) s) fun t => decide (t.memPend.map (fun m => (m.vis, m.bank)) = [(1016, 1013)])),
    (let s := masked st
     let o : LOps := { rowOp 7 0 0 with off := BitVec.ofNat 24 0x2FFFFC }
     plainB s 0x3FFFFC && (List.range 4).all (fun i => s.byteIn 0x3FFFFC none (0x3FFFFC + i)) && nextIs (exec (.atom o) s) fun t => decide (t.accs.map (·.cycle) = [1006]))].all id = true := by decide +kernel

/-- R177 to R195, R204: the slots M and E: a free engine, raw streams, operands of one step and more; a block at the first byte of its run, the nearest start, 63 waiting. -/
theorem wit_NormalCompletionME : [
    plainB mst 0x100000 && rawB (mst.cur.greg 1) && rawB (mst.cur.greg 5) && decide (mst.cur.mBusyUntil ≤ mst.clock) && decide (Desc.rpitch (mst.cur.greg 5) % 64 = 0) &&
      decide (8 ≤ Desc.fmt (mst.cur.greg 5)) && decide (Desc.fmt (mst.cur.greg 5) ≤ 11) && !Desc.band (mst.cur.greg 5),
    nextIs (exec (.mma ⟨6, 1, 1, 1, 0, 0⟩) mst) (fun t => mop t fun m => decide (m.done = 1030)) && nextIs (exec (.mma ⟨6, 5, 5, 64, 8, 0⟩) mst) (fun t => mop t fun m => decide (m.done = 1054)),
    nextIs (exec (.mma ⟨6, 1, 1, 16, 4, 0⟩) (withCore mst fun c => { c with panel := some ⟨3, 16, false, c.greg 1, []⟩ })) fun t => mop t fun m => m.instr == .mma ⟨6, 1, 1, 16, 4, 0⟩,
    nextIs (exec (.msave ⟨6, 5, 0, 0, 0, 0⟩) mst) (fun t => t.agenda.any fun a => a.ev == .msaveRowClaim 0 40 126) && nextIs (exec (.mload ⟨6, 5, 0, 0, 0, 0⟩) mst) fun t => t.agenda.any fun a => a.ev == .msaveRowClaim 0 40 0,
    decide ((List.range 2).map (fun k => (st.core k).bufs) = [[], []]) && decide (st.cur.run ≠ .held) && (engineTable (eop 6 508 0)).all fun x =>
      nextIs (exec x.1 st) fun t => decide (t.cmds.map (fun k => (k.id, k.timed, k.stage)) = [(40, x.2.1, .issued)]) && t.agenda.any fun a => a.at_ == 1006 && a.ev == .blockCapture 0 40].all id = true := by decide +kernel

/-- R303 to R323: an image into a free slot, the one word of an idle package, and the stages of its launch. -/
theorem wit_NormalCompletionLaunch : [
    (let s := withQueue (idleSt Launch.free)
     !(s.ctl 0).window && decide (s.graphs = []) && s.launches.all (fun l => decide (l.st = 0)) && decide (s.cores = []) && canonB s && SMap.wf Queue.init s.queues &&
       decide ((s.queue 63).words.length = 1) && decide (idleImg.cutMax ≤ 100000) && (idleImg.entries 0).all (fun e => decide ((s.core e.core).bus.wstate ≠ 2) && decide ((s.core e.core).lent = e.lend))),
    (let s := idleSt (bound0 { Launch.free with st := 1, waiting := true })
     canonB s && decide ((s.launch 0).bind = 0) && (idleImg.entries 0).all (fun e => decide ((s.core e.core).gate = .on) && decide ((s.core e.core).lent = e.lend)) &&
       decide (((idleImg.entries 0).map (·.core)).Nodup) && (s.launch 0).tasks.all (fun k => decide ((idleImg.taskRanges k).length = 0)) && !(s.launch 0).half),
    (let s := prepared (bound0 { Launch.free with st := 2 })
     (s.launch 0).cores.all (fun n => decide ((s.core n).gate = .on) && decide ((s.stackAt (coreStack n)).critical = []) && decide ((s.stackAt (coreStack n)).realign = none)) &&
       nextIs (exec (.launchStart 0) s) fun t => decide ((t.core 1).run = .running)),
    (let s := ended0 (bound0 { Launch.free with st := 3 })
     (s.launch 0).cores.all (fun n => decide ((s.core n).run = .ended) && decide ((s.core n).win = [])) && decide (s.cmds = []) && nextIs (exec (.launchComplete 0) s) fun t => decide (t.binds = [])),
    (let s := idleSt (bound0 { Launch.free with st := 1, waiting := true, resume := true })
     (s.launch 0).cores.all (fun n => decide ((s.core n).gate = .on)) && nextIs (exec (.resume 0) s) fun t => decide ((t.core 1).bind = some 0) && decide ((t.launch 0).st = 2))].all id = true := by decide +kernel

/-! The host and the controllers -/

/-- A message held with a number, a type and a payload. -/
def msg0 (n typ : Nat) (p : List Byte) : SentMsg := ⟨n, typ, 0, 0, p, 0, 0, linkIv true 0 n⟩
/-- Message number 1 of the host, in a state after reset. -/
def hst (typ : BitVec 8) (arg : Word) (p : List Byte) : State :=
  { State.reset with clock := 2176, stim := { noStim with msg := ⟨1, typ, 0, arg, p, true, BitVec.ofNat 16 p.length⟩ } }
def heardB (s : State) (typ : Nat) : Bool := @decide (heard s typ) (by unfold heard; infer_instance)
def answeredB (s t : State) (typ outcome : Nat) (flags : Nat := 0) : Bool := @decide (answered s t typ outcome flags) (by unfold answered noted told; infer_instance)
def dataBackB (s t : State) (typ : Nat) (l : List Byte) (flags : Nat := 0) : Bool := @decide (dataBack s t typ l flags) (by unfold dataBack noted told; infer_instance)
def linkOnlyB (s t : State) : Bool := @decide (linkOnly s t) (by unfold linkOnly; infer_instance)
def sub (ev : Instr) (s : State) (typ outcome : Nat) (p : State → Bool) (flags : Nat := 0) : Bool := heardB s typ && nextIs (exec ev s) fun t => answeredB s t typ outcome flags && p t

/-- R296, R298, R303, R304, R338 to R343, R351: a bad tag, no key, a number out of order, a repeated one; a message too long; then each message at the edges of its cases. -/
theorem wit_HostMessages : [
    (let s := hst 2 0 [8]
     let bad : State := { s with stim := { s.stim with msg := { s.stim.msg with tagOk := false } } }
     let cold : State := { s with link := { s.link with keyed := false } }
     let late : State := { s with stim := { s.stim with msg := { s.stim.msg with seq := 2 } } }
     let again : State := { s with link := { s.link with lastRx := 5, received := [(5, ⟨5, 2, 0x13, 0, 1⟩)] }, stim := { s.stim with msg := { s.stim.msg with seq := 5 } } }
     same (exec .wread bad) bad && same (exec .wread cold) cold && late.linkUp && decide (2 ^ 31 ≤ counterDiff late.link.lastRx 2) && decide (counterDiff again.link.lastRx 5 < 2 ^ 31) &&
       nextIs (exec .wread late) (fun t => linkOnlyB late t && toldB late t 0x82 0 (2 + 0x10 * 2 ^ 32) (leBytes 8 1) 0) &&
       nextIs (exec .wread again) fun t => linkOnlyB again t && toldB again t 0x82 3 (5 + 0x13 * 2 ^ 32 + 2 ^ 40) (leBytes 8 0) 0),
    (let s := hst 2 0 [8]
     let f : State := { s with stim := { s.stim with msg := { s.stim.msg with flags := 4 } } }
     let l : State := { s with stim := { s.stim with msg := { s.stim.msg with payload := List.replicate 4097 0 } } }
     let x : State := { s with stim := { s.stim with msg := { s.stim.msg with len := 2 } } }
     nextIs (exec .wread f) (fun t => linkOnlyB f t && answeredB f t 2 0x11) && nextIs (exec .wread l) (fun t => answeredB l t 2 0x11) && nextIs (exec .wread x) fun t => answeredB x t 2 0x11),
    sub .wwrite (hst 1 0 [1, 2, 3]) 1 0x11 fun _ => true,
    sub .wwrite (hst 1 0xFFF9 (leBytes 8 7)) 1 0x13 fun _ => true,
    sub .wwrite { hst 1 0x400 [1] with queues := [(0, { Queue.init with cfg := 8 })] } 1 0x13 (fun _ => true) 1,
    sub .wwrite (hst 1 0x3FFF [1]) 1 0x13 fun _ => true,
    sub .wwrite { hst 1 0x1F9 [1] with queues := [(63, { Queue.init with cfg := 8 })] } 1 1 (fun t => decide ((t.queue 63).lastCode = 1)) 1,
    sub .wwrite (hst 1 0x1F4 (leBytes 8 7)) 1 1 fun t => decide ((t.queue 62).lastCode = 1) && decide ((t.queue 63).lastCode = 1) && decide ((t.queue 61).lastCode = 0),
    heardB (hst 1 0x1F8 (leBytes 8 7)) 1 && nextIs (exec .wwrite (hst 1 0x1F8 (leBytes 8 7))) fun t => nowIn t (.launchWord 63 7 (.host 1)),
    sub .wwrite (hst 1 0x3F8 (leBytes 8 0xABCD1234F)) 1 0 fun t => decide ((t.queue 63).cfg = 0xBCD1000F) && decide (queueAt t 0x3F8 = 0),
    sub .wwrite (hst 1 0xFFFC (leBytes 4 0x01020304)) 1 0 fun t => decide (t.memPend.map (·.data) = [[(windowBase + 0xFFFC, 4), (windowBase + 0xFFFD, 3), (windowBase + 0xFFFE, 2), (windowBase + 0xFFFF, 1)]]),
    sub .wwrite (hst 1 0x4000 [9]) 1 0 fun t => decide (t.memPend.map (·.data) = [[(windowBase + 0x4000, 9)]]),
    heardB (hst 2 0xFF01 [255]) 2 && nextIs (exec .wread (hst 2 0xFF01 [255])) fun t => dataBackB (hst 2 0xFF01 [255]) t 2 (List.replicate 255 0),
    heardB (hst 2 0x800 [8]) 2 && nextIs (exec .wread (hst 2 0x800 [8])) fun t => dataBackB (hst 2 0x800 [8]) t 2 [1, 0, 0, 0, 0, 0, 0, 0],
    sub .wread (hst 2 0xFF02 [255]) 2 0x13 fun _ => true,
    sub .wread (hst 2 0 []) 2 0x11 fun _ => true,
    sub .mgmtw (hst 3 0xC000 (leBytes 7 1)) 3 0x11 fun _ => true,
    sub .mgmtw (hst 3 0x4FFF9 (leBytes 8 1)) 3 0x13 fun _ => true,
    sub .mgmtw (hst 3 0x50000 (leBytes 8 1)) 3 0x13 fun _ => true,
    sub .mgmtw (hst 3 0xC000 (leBytes 8 0x4000)) 3 0 fun t => decide (t.paramBase = 0x4000),
    sub .mgmtw (hst 3 0x130010 (leBytes 8 0x100000063)) 3 0 fun t => decide (t.ctl 3 = { Ctl.init with wdog := 0x63 }),
    sub .mgmtr (hst 4 0xC000 [0]) 4 0x11 fun _ => true,
    sub .mgmtr (hst 4 0x170000 []) 4 0x13 fun _ => true,
    heardB (hst 4 0xC000 []) 4 && nextIs (exec .mgmtr { hst 4 0xC000 [] with paramBase := 0x4000 }) fun t => dataBackB { hst 4 0xC000 [] with paramBase := 0x4000 } t 4 (leBytes 8 0x4000),
    sub .memw (hst 5 0x7FFFFFFFFF [1]) 5 0 fun t => decide (t.link.hostWrites = [(0x7FFFFFFFFF, 1)]) && decide (t.mem = []),
    sub .memw (hst 5 0x7FFFFFFFFF [1, 2]) 5 0x13 fun t => decide (t.link.hostWrites = []),
    sub .memr (hst 6 0 [1, 0, 0]) 6 0x11 fun _ => true,
    sub .memr (hst 6 0 [1, 0x10]) 6 0x11 fun _ => true,
    sub .memr (hst 6 0x7FFFFFFFFF [2, 0]) 6 0x13 fun _ => true,
    (let s : State := { hst 6 0x100 [3, 0] with mem := [(0x101, 5), (0x102, 6)], link := { Niulo.init with hostWrites := [(0x102, 7)] } }
     heardB s 6 && s.devSpan 0x100 3 && nextIs (exec .memr s) fun t => dataBackB s t 6 [0, 5, 7]),
    sub .inval (hst 7 0 (List.replicate 15 0)) 7 0x11 fun _ => true,
    sub .inval { hst 7 0 (List.replicate 16 0) with link := { Niulo.init with hostWrites := [(0x102, 7)] } } 7 0 fun t => decide (t.link.hostWrites = []) && decide (t.link.invSeq = 1) && decide (t.memPend.map (·.data) = [[(0x102, 7)]]),
    sub .resend (hst 8 1 [0]) 8 0x11 (fun _ => true),
    sub .hack (hst 10 1 [0]) 10 0x11 (fun _ => true),
    sub .resend (hst 8 1 []) 8 0 fun t => decide (t.link.again = []) && decide (2 ^ 31 ≤ counterDiff 0 1),
    sub .resend { hst 8 3 [] with link := { Niulo.init with lastTx := 5, sent := [(4, msg0 4 0x87 []), (5, msg0 5 0x87 [])] } } 8 0 fun t => decide (t.link.again.map (·.seq) = [4, 5]),
    (let s (arg : Word) (p : List Byte) : State := { hst 9 arg p with cmds := [{ cmd0 (.sys always 7) false .away with args := List.replicate 11 0 ++ [0x1FFFF] }], sysOut := [12] }
     sub .sysdone (s (0xFFFF * 2 ^ 18) [1, 2, 3]) 9 0x11 (fun _ => true) && sub .sysdone (s (0xFFFE * 2 ^ 18) [1, 2, 3, 4]) 9 0x12 (fun t => decide (t.sysOut = [12])) &&
       sub .sysdone (s (0xFFFF * 2 ^ 18) [1, 2, 3, 4]) 9 0 (fun t => decide (t.sysOut = []) && (t.cmd 12).isNone) 1),
    sub .hack { hst 10 4 [] with link := { Niulo.init with lastTx := 5, sent := [(4, msg0 4 0x87 []), (5, msg0 5 0x87 [])] } } 10 0 fun t =>
      decide (t.link.hostAck = 4) && decide ((SMap.get SentMsg.none t.link.sent 4).st = 1) && decide ((SMap.get SentMsg.none t.link.sent 5).st = 0),
    (let s : State := hst 1 0 []
     let cold : State := { s with sec := { s.sec with idKey := false } }
     let busy : State := { s with ctls := [(3, { Ctl.init with window := true })] }
     let m : SentMsg := { msg0 0 0x87 [1] with arg := 2 }
     let wait : State := { s with link := { Niulo.init with keyed := false, waiting := [m] } }
     same (exec .keyExchange cold) cold && nextIs (exec .keyExchange busy) (fun t => decide (t.link = busy.link) && t.inputs.any fun i => i.at_ == 2177 && i.ev == .keyExchange) &&
       nextIs (exec .keyExchange s) (fun t => linkOnlyB s t && decide (t.link = { s.link with epoch := 1 })) &&
       nextIs (exec .keyExchange wait) fun t => linkOnlyB wait t && t.link.keyed && toldB wait t m.typ m.flags m.arg m.payload m.key)].all id = true := by decide +kernel

/-- Controller 2 in a state. -/
def cst (c : Ctl) : State := { State.reset with clock := 2176, ctls := [(2, c)], stim := { noStim with unit := 2, value := 77 } }
def ctlIs (t : State) (c : Ctl) : Bool := decide (t.ctl 2 = c)
def rolled0 (c : Ctl) : Ctl := { c with st := 0, active := !c.active, image := c.old, old := [], rollbacks := (c.rollbacks + 1) % 2 ^ 32, lastRb := 2176, deadline := none, window := false }
def tried : Ctl := { Ctl.init with st := 3, old := [1, 2], image := [3], rollbacks := 0xFFFFFFFF, deadline := some 2176, window := true }
def monSt (m : Monitor) (x : Word) : State := { State.reset with mons := [(6, m)], stim := { noStim with mon := .pkg 6, value := x } }
def mon0 : Monitor := { Monitor.init with cfg := 0x1000 + 63 + 3 * 256 }
def secSt (reg : MgmtReg) (v : Word) : State := { State.reset with clock := 2176, stim := { noStim with reg := reg, value := v } }
def regSt (reg : MgmtReg) (v : Word) (p : State → Bool) : Bool := nextIs (exec .registerWrite (secSt reg v)) p
/-- Launch 0 runs on core 0; launch 1 has been pre-empted. -/
def alarmSt : State :=
  { st with binds := [(0, launch0), (1, { launch0 with bind := 1, st := 5, cores := [] })], sec := { Sec.init with alarmCfg := 1 + 2 * 4 + 3 * 16 } }

/-- R344 to R350, R352 to R354, R368, R387, R389: staging in each state of a controller, commit, abort, takeover, heartbeat, the watchdog before and at its deadline, both hand-over records; a monitor
cleared, captured, sampled in its gap, disabled, below its first edge, in its last bin and saturated; a report asked for, waiting, unsigned, to a bad address, and one that can be written; alarms of
level 1, 2 and 3; and each register. -/
theorem wit_ControllerEvents : [
    same (exec .stage (cst Ctl.init)) ((cst Ctl.init).setCtl 2 { Ctl.init with st := 1, staged := [], stagedLen := 0 }),
    (let s : State := { cst { Ctl.init with st := 1 } with ctls := [(2, { Ctl.init with st := 1 }), (3, { Ctl.init with window := true })] }
     same (exec .stage s) (s.nextCycle .stage { noStim with unit := 2, value := 1 }) &&
       nextIs (exec .stage s) fun t => nextIs (exec .abort { t with stim := { noStim with unit := 2 } }) fun u => decide (u.inputs = [])),
    same (exec .stage (cst tried)) (cst tried),
    (let s := cst { Ctl.init with st := 1, staged := [(5, 1)] }
     !(s.ctl 3).window && !(s.ctl 2).accepts 2 && nextIs (exec .stage s) fun t => ctlIs t { Ctl.init with st := 0, staged := [(5, 1)] } && decide (t.mem = [])),
    same (exec .commit (cst tried)) ((cst tried).setCtl 2 { tried with st := 0, old := [] }),
    (let s : State := { cst tried with ctls := [(2, tried), (3, { Ctl.init with window := true })] }
     same (exec .commit s) (s.nextCycle .commit { noStim with unit := 2 }) && nextIs (exec .commit s) fun t => nextIs (exec .abort { t with stim := { noStim with unit := 2 }, ctls := [(2, { tried with st := 2 })] }) fun u => decide (u.inputs = [])),
    same (exec .commit (cst { tried with st := 2 })) (cst { tried with st := 2 }),
    same (exec .abort (cst Ctl.init)) (cst Ctl.init),
    nextIs (exec .abort (cst { tried with st := 1 })) (fun t => ctlIs t { tried with st := 0 }) && nextIs (exec .abort (cst { tried with st := 2 })) fun t => ctlIs t { tried with st := 0 },
    nextIs (exec .abort (cst tried)) fun t => ctlIs t (rolled0 tried),
    same (exec .takeover (cst tried)) (cst tried),
    (let c : Ctl := { Ctl.init with st := 2, image := [3], staged := [(1, 9)], stagedLen := 3, wdog := 100 }
     nextIs (exec .takeover (cst c)) fun t => decide ((t.ctl 2).st = 3) && (t.ctl 2).active && decide ((t.ctl 2).old = [3]) && decide ((t.ctl 2).image = [0, 9, 0]) && (t.ctl 2).window &&
       decide ((t.ctl 2).gen = 1) && decide ((t.ctl 2).deadline = some 2276) && t.agenda.any fun a => a.at_ == 2276 && a.ev == .watchdogExpiry 2),
    (let s : State := { cst Ctl.init with ctls := [(1, { Ctl.init with st := 2, wdog := 100 })], stim := { noStim with unit := 1 }, fab := { Fabric.init with slotAt := 2176, pslot := 64 } }
     let late : State := { s with fab := { s.fab with pslot := 65 } }
     decide (s.clock = s.fab.slotAt) && decide (s.fab.pslot % 64 = 0) && same (exec .takeover late) (late.nextCycle .takeover late.stim) && nextIs (exec .takeover s) fun t => decide ((t.ctl 1).st = 3) && (t.ctl 1).window),
    nextIs (exec .heartbeat (cst tried)) fun t => ctlIs t { tried with beat := 77, deadline := some (2176 + 42500000), window := false } && t.agenda.any fun a => a.at_ == 2176 + 42500000 && a.ev == .watchdogExpiry 2,
    same (exec (.watchdogExpiry 2) (cst Ctl.init)) (cst Ctl.init),
    same (exec (.watchdogExpiry 2) (cst { tried with deadline := some 2177 })) (cst { tried with deadline := some 2177 }),
    nextIs (exec (.watchdogExpiry 2) (cst tried)) fun t => ctlIs t (rolled0 tried),
    nextIs (exec (.watchdogExpiry 2) (cst { tried with st := 2 })) fun t => ctlIs t { tried with st := 0, deadline := none, window := false },
    MonId.exists_ (.pkg 6) && !MonId.exists_ (.pkg 7) && MonId.exists_ (.cluster 47 5) && !MonId.exists_ (.cluster 47 6) && !MonId.exists_ (.cluster 48 5) && !MonId.exists_ (.cluster 0 1),
    same (exec (.monitorClear (.pkg 6)) (monSt mon0 0)) ((monSt mon0 0).setMon 6 { mon0 with min := 0xFFFFFFFF, max := 0, count := 0, gaps := 0, bins := [] }),
    nextIs (exec (.monitorCapture (.cluster 47 5)) State.reset) fun t => decide (SMap.get 0 (t.mon (MonId.key (.cluster 47 5))).cap 1 = 0xFFFFFFFF),
    same (exec .monitorSample (monSt { mon0 with cfg := 0 } 5)) { monSt mon0 5 with mons := [] },
    (let s : State := { monSt mon0 5 with ctls := [(1, { Ctl.init with window := true })] }
     s.gap (MonId.quantity (.pkg 6)) && same (exec .monitorSample s) s),
    decide (mon0.e = -1) && decide (mon0.p = 3) && mon0.en &&
      nextIs (exec .monitorSample (monSt mon0 0)) (fun t => decide ((t.mon 6).bins = [(0, 1)]) && decide ((t.mon 6).min = 0) && decide ((t.mon 6).count = 1)) &&
      nextIs (exec .monitorSample (monSt mon0 (BitVec.ofNat 64 (2 ^ 62)))) (fun t => decide ((t.mon 6).max = 0xFFFFFFFF) && decide ((t.mon 6).bins.map (·.1) = [16])) &&
      nextIs (exec .monitorSample (monSt { mon0 with cfg := 0x101F } (BitVec.ofNat 64 (2 ^ 62)))) (fun t => decide ((t.mon 6).bins.map (·.1) = [31])) &&
      nextIs (exec .monitorSample (monSt { mon0 with bins := [(0, 0xFFFFFFFF)], count := 0xFFFFFFFF } 0)) fun t => decide ((t.mon 6).bins = [(0, 0xFFFFFFFF)]) && decide ((t.mon 6).count = 0xFFFFFFFF),
    (let hot (x : Nat) (y : Stack) : State := { State.reset with clock := 2176, wall := 1000 * microsecond + 6, dieStacks := [(1, y)], stim := { noStim with mon := .cluster 24 5, value := BitVec.ofNat 64 x } }
     let y : Stack := { Stack.init with limit := 1520, crit := 1760, above := [(24, 7)] }
     nextIs (exec .monitorSample (hot 1760 y)) (fun t => decide ((t.stackAt 1).critical = [0x30])) &&
       nextIs (exec .monitorSample (hot 1759 y)) fun t => decide ((t.stackAt 1).critical = []) && decide (SMap.wf Stack.init (hot 1759 y).dieStacks) && decide ((hot 0 y).freq = 16) &&
         t.inputs.any fun i => i.at_ == 2177 && i.ev == .frequencyStepDown && i.stim.index == 15),
    (let y : Stack := { Stack.init with amps := 700, above := [(48, 7)] }
     let s (x : Nat) : State := { secSt (.stackCurrent 1) (BitVec.ofNat 64 x) with wall := 1000 * microsecond + 6, dieStacks := [(1, y)] }
     nextIs (exec .registerWrite (s 701)) (fun t => t.inputs.any fun i => i.at_ == 2177 && i.ev == .frequencyStepDown && i.stim.index == 15) && nextIs (exec .registerWrite (s 700)) fun t => decide (t.inputs = [])),
    (let s (l : List Nat) : State := { State.reset with clock := 2176, sec := { Sec.init with outside := l } }
     decide ((s [3]).temperatureAlarm 3 2000 = s []) && decide ((s [3]).temperatureAlarm 3 (-321) = s [3]) && decide (((s [4]).temperatureAlarm 3 2001).sec.outside = [4, 3]) &&
       ((s []).temperatureAlarm 3 (-321)).inputs.any fun i => i.at_ == 2177 && i.ev == .securityAlarm && i.stim.index == 2),
    nextIs (exec .rptreq { State.reset with sec := { Sec.init with done := true } }) fun t => decide (t.sec = Sec.init),
    (let s : State := { cst Ctl.init with ctls := [(3, { Ctl.init with window := true })] }
     nextIs (exec .reportWritten s) fun t => decide (t.sec = s.sec) && t.agenda.any fun a => a.at_ == 2177 && a.ev == .reportWritten),
    (let s : State := { cst Ctl.init with sec := { Sec.init with idKey := false } }
     same (exec .reportWritten s) s),
    (let s (a : Nat) : State := { cst Ctl.init with sec := { Sec.init with rptAddr := a } }
     same (exec .reportWritten (s 0x800)) { s 0x800 with sec := { (s 0x800).sec with badAddr := true } } && same (exec .reportWritten (s 0x7FFFFF9000)) { s 0x7FFFFF9000 with sec := { (s 0x7FFFFF9000).sec with badAddr := true } } &&
       decide (0x7FFFFF8000 % 4096 = 0) && decide (0x7FFFFF8000 + 32768 ≤ 2 ^ 39) && (s 0x7FFFFF8000).sec.idKey && !((s 0x7FFFFF8000).ctl 3).window),
    (let s (i : Nat) : State := { alarmSt with stim := { noStim with index := i } }
     SMap.wf Launch.free alarmSt.binds && alarmSt.binds.all (fun x => decide (x.2.bind = x.1)) && decide (alarmSt.sec.level 0 = 1) && decide (alarmSt.sec.level 1 = 2) && decide (alarmSt.sec.level 2 = 3) &&
       nextIs (exec .securityAlarm (s 0)) (fun t => t.link.keyed && t.sec.idKey && decide (t.binds = alarmSt.binds) && decide (t.cores = alarmSt.cores)) &&
       nextIs (exec .securityAlarm (s 1)) (fun t => !t.link.keyed && t.sec.idKey && decide ((t.launch 0).st = 6) && decide ((t.launch 0).ending = some ⟨7, 0, 0xFFFF, 0, 0⟩) && decide ((t.launch 1).st = 5) &&
         decide ((t.core 0).run = .stopped ∨ (t.core 0).run = .ended)) &&
       nextIs (exec .securityAlarm (s 2)) fun t => !t.link.keyed && !t.sec.idKey),
    noUnit (exec .registerWrite (secSt (.winBase 768 1) 0)) && noUnit (exec .registerWrite (secSt (.winBase 0 0) 0)) &&
      noUnit (exec .registerWrite (secSt (.winBase 0 255) 0)),
    regSt (.winBase 767 254) 0x12345 fun t => decide (((t.core 767).window 254).base = 0x12340),
    regSt (.winPeer 767 254) 0x3FFF fun t => decide (((t.core 767).window 254).peer = 0x1FFF),
    regSt (.winAllow 767 1) 0x3FF fun t => decide (((t.core 767).window 1).allow = 0x1FF),
    regSt (.podGroup 255) 0x1FF fun t => decide (t.fab.podMap = [(255, 0xFF)]),
    regSt (.path 4095) 7 fun t => decide (t.fab.path = [(4095, 7)]),
    regSt .livePeers 0 fun t => decide (t.fab.livePeers = 1),
    regSt (.podTime 23) 64 (fun t => decide (t.fab.pslot = 64) && decide (t.fab.slotAt = 2176) && decide (t.fab.phase = 23 * 720720)) && noUnit (exec .registerWrite (secSt (.podTime 24) 0)),
    regSt .hostLink 1 fun t => t.link.down,
    regSt (.thermalLimits 1) 0x2BC06E005F0 fun t => decide ((t.stackAt 1).amps = 700) && decide ((t.stackAt 1).limit = 0x5F0) && decide ((t.stackAt 1).crit = 0x6E0),
    regSt .home 0x7F fun t => decide (t.fab.home = 0x3F),
    regSt (.bitFlip (2 ^ 29 - 1) 71) 0 fun t => decide (t.flips = [(2 ^ 29 - 1, 2 ^ 71)]),
    isHost 0x4FFFFFFFFFFF8 && isHost (0x4FFFFFFFFFFF8 + 7) && regSt (.hostMem 0x4FFFFFFFFFFF8) 0x1FF fun t => decide (t.memPend.map (fun m => m.data.take 3) = [[(0x4FFFFFFFFFFF8, 0xFF), (0x4FFFFFFFFFFF9, 1), (0x4FFFFFFFFFFFA, 0)]])].all id = true := by decide +kernel

/-- R345: a staged image of controller 2, newer than any floor that the part can hold, with schema 1; its last byte is zero. -/
def goodBytes : List Byte :=
  leBytes 4 0x57464C44 ++ leBytes 1 2 ++ leBytes 3 0 ++ leBytes 8 5 ++ leBytes 2 1 ++ leBytes 2 2 ++ leBytes 2 1 ++ List.replicate 42 0 ++ [9, 0]
def goodCtl : Ctl :=
  { Ctl.init with st := 1, staged := SMap.putAll 0 [] (goodBytes.zipIdx.map fun (b : Byte × Nat) => (b.2, b.1)), stagedLen := 66, image := goodBytes }
/-- It is accepted wherever its signature checks and the floor lies below its version. -/
theorem wit_ImageAccepted (h : Config.signatureOk goodBytes = true) (v : Config.versionFloor 2 ≤ 5) : goodCtl.st = 1 ∧ goodCtl.accepts 2 = true := by
  refine ⟨rfl, ?_⟩
  have g : goodCtl.stagedImage = goodBytes := by decide +kernel
  have e : goodCtl.schema = 1 := by unfold Ctl.schema Ctl.validRecord; rfl
  have c : goodCtl.canRead 2 1 = true := by decide +kernel
  have b : (decide (64 ≤ goodBytes.length) && leAt goodBytes 0 4 == 0x57464C44 && leAt goodBytes 5 3 == 0 && leAt goodBytes 22 42 == 0 && leAt goodBytes 4 1 == 2 &&
    decide (leAt goodBytes 8 8 = 5) && decide (leAt goodBytes 16 2 = 1) && decide (leAt goodBytes 18 2 = 2) && decide (leAt goodBytes 20 2 = 1)) = true := by decide +kernel
  simp only [Bool.and_eq_true, beq_iff_eq, decide_eq_true_eq] at b
  simp [Ctl.accepts, g, e, h, b, v, c]

/-! The fabric and the journal -/

/-- Package 0 of pod 0 in slot v, where the lanes before a port's lane have sent (the default pattern: lane 0 sends slot v on line v mod 64). -/
def fst (port lane v : Nat) (f : Fabric) : State :=
  { State.reset with clock := 2176, fab := { f with pslot := v, slotAt := 2100, lanes := laneKey port lane }, stim := { noStim with unit := port, index := lane, value := 4 } }
/-- The same on the first cycle of the slot. -/
def atStart (port lane v : Nat) (f : Fabric) : State := let s := fst port lane v f; { s with fab := { s.fab with slotAt := 2176 } }
def oneLane (s : State) (port lane : Nat) : State := let u := s.putOut port lane noCell; { u with fab := { u.fab with lanes := laneKey port lane + 1 } }
def cellTo (d : Nat) (data : List Byte) : OutCell := ⟨990, 0, 9, d, 1, 0x8000, data, 0, 0, 0, 0, true, 1, 0, some 0, 5⟩
def fab0 : Fabric := Fabric.init
/-- A posted cell of package 3 with number 1, for a buffer of core 0 of a running launch. -/
def cell0 : Cell := { noCell with kind := 1, src := 3, dst := 0, seq := 1, addr := 0x100000, payload := [7, 8] }
def rxSt (v : Nat) (ok : Bool) (c : Cell) (f : Fabric) : State :=
  { buffered .empty false st with fab := { f with pslot := v, phase := slotLength - 1 }, stim := { noStim with cell := ⟨11, 7, ok, c⟩ } }
def receives (s : State) : Bool := s.slotEnds && s.earlierCell.isNone && SMap.wf Source.init s.fab.srcs && s.parity.isEmpty && s.flips.isEmpty
def postB (s : State) (c : Cell) : Bool := (List.range c.payload.length).all fun i => s.postedOk (c.addr.toNat + i)
/-- A patch of line 7 of port 11, from package 0 to package 7, in slot 512. -/
def patch0 : Patch := ⟨1, 11, 7, 0, 0, 7, 0, 512, 9⟩
def patchSt (p : Patch) (f : Fabric) : State := { State.reset with clock := 2176, fab := f, stim := { noStim with patch := p, value := 0 } }
def allowedB (s : State) (p : Patch) : Bool := @decide (patchAllowed s p) (by unfold patchAllowed; infer_instance)

/-- R358 to R360, R364, R365, R367, R370, R376, R380 to R385, R398, R417: a lane that is disabled, faulty, idle, with a cell to send and with one to send again; a cell in a closed slot, beyond the
FEC, received, refused and out of reach; a package that leaves; faults and relocks of lines; resending at 127 and 128 slots; cells of a collective; patches issued, received, late and switched. -/
theorem wit_FabricEvents : [
    (let off := fst 11 0 5 { fab0 with slots := [(slotKey 11 0 5, 2 ^ 32)] }
     let bad := fst 11 0 5 { fab0 with faulty := [(11, 5)] }
     let sent_ : State := { off with fab := { off.fab with lanes := 128 } }
     let first : State := { off with fab := { off.fab with slotAt := 2176 } }
     same (exec .cellSend first) (first.nextCycle .cellSend first.stim) && !txEn (bankEntry off.fab.slots 11 0 5) && same (exec .cellSend off) (oneLane off 11 0) && same (exec .cellSend sent_) sent_ &&
       decide (txLine (bankEntry bad.fab.slots 11 0 5) = 5) && same (exec .cellSend bad) (oneLane bad 11 0)),
    (let s (p : Nat) : State := { State.reset with freq := 15, fab := { fab0 with phase := p, pslot := 7 } }
     decide (fabricStep 15 = 768768) && decide ((s (slotLength - 768769)).slotTick.fab.pslot = 7) && decide ((s (slotLength - 768768)).slotTick.fab.pslot = 8) &&
       decide ((s (slotLength - 1)).slotTick.fab.phase = 768767)),
    (let s := fst 11 0 5 fab0
     decide (txClass (bankEntry s.fab.slots 11 0 5) = 0) && nextIs (exec .cellSend s) fun t => decide ((sent t 11 0).kind = 0) && decide ((sent t 11 0).dst = 5) && decide (t.fab.dests = [])),
    (let s := fst 11 0 5 { fab0 with queue := [cellTo 5 [1, 2]] }
     nextIs (exec .cellSend s) fun t => decide (t.fab.queue = []) && decide (t.fab.dest 5 = { Dest.init with next := 2, unacked := [⟨1, 5, 5, cellTo 5 [1, 2], 2100, 11 * 128 + 5 + 1, false⟩] }) &&
       decide ((sent t 11 0).payload = [1, 2]) && decide ((sent t 11 0).seq = 1) && decide ((sent t 11 0).addr = 0x8000) && decide ((sent t 11 0).kind = 1)),
    (let s := fst 11 0 5 { fab0 with queue := [cellTo 5 [1, 2]], dests := [(5, { Dest.init with next := 0xFFFFFFFF, unacked := List.replicate 255 ⟨1, 5, 5, cellTo 5 [], 0, 0, false⟩ })] }
     nextIs (exec .cellSend s) fun t => decide (t.fab.queue = []) && decide ((t.fab.dest 5).next = 0) && decide ((t.fab.dest 5).unacked.length = 256)),
    (let u : List Unacked := [⟨7, 0, 0, cellTo 5 [3], 0, 0, false⟩, ⟨8, 0, 0, cellTo 5 [4], 0, 0, false⟩]
     let s := fst 11 0 5 { fab0 with dests := [(5, { Dest.init with next := 9, unacked := u, again := some 7 })] }
     nextIs (exec .cellSend s) fun t => decide ((sent t 11 0).seq = 7) && decide ((sent t 11 0).payload = [3]) && decide ((t.fab.dest 5).again = some 8)),
    (let s := rxSt 5 true cell0 { fab0 with slots := [(slotKey 11 7 5, 2 ^ 32)] }
     receives s && !rxEn (bankEntry s.fab.slots 11 7 5) && same (exec .cellReceive s) s),
    (let s := rxSt 5 true cell0 fab0
     let early : State := { s with fab := { s.fab with phase := 0 } }
     let i : Input := ⟨1000, .cellReceive, { noStim with cell := ⟨11, 6, true, cell0⟩ }⟩
     let two : State := { s with inputs := [i] }
     !early.slotEnds && same (exec .cellReceive early) (early.nextCycle .cellReceive early.stim) && decide (two.earlierCell = some i) &&
       nextIs (exec .cellReceive two) fun t => decide (t.inputs = [⟨1000, .cellReceive, s.stim⟩]) && decide (t.fab.source 3 = { Source.init with next := 2 })),
    (let s : State := rxSt 5 true { cell0 with dst := 5 } fab0
     let f : State := { s with stim := { s.stim with value := 1 } }
     f.slotEnds && f.earlierCell.isNone && decide (f.stim.cell.cell.dst.toNat % 4096 ≠ f.fab.self) && same (exec .cellReceive f) (f.forward f.stim.cell)),
    (let s := rxSt 5 false cell0 { fab0 with logHead := 63 }
     receives s && rxEn (bankEntry s.fab.slots 11 7 5) && nextIs (exec .cellReceive s) fun t => decide (t.memPend = []) && decide ((SMap.get 0 t.fab.log 63).toNat % 8 = 6) && decide (t.fab.logHead = 0)),
    (let s := rxSt 5 true cell0 fab0
     receives s && !rxRelay (bankEntry s.fab.slots 11 7 5) && postB s cell0 && decide ((s.fab.dest 3).unacked = []) && decide ((s.fab.source 3) = Source.init) &&
       nextIs (exec .cellReceive s) fun t => decide (t.memPend.map (·.data) = [[(nearBase + 0x100000, 7), (nearBase + 0x100001, 8)]]) && decide (t.fab.source 3 = { Source.init with next := 2 })),
    (let c : Cell := { cell0 with addr := 0x10003F }
     let s := rxSt 5 true c fab0
     receives s && s.postedOk 0x10003F && !s.postedOk 0x100040 && nextIs (exec .cellReceive s) fun t => decide (t.memPend = []) && decide (t.fab.source 3 = { Source.init with next := 2, refused := [1] })),
    (let s (q : BitVec 32) := rxSt 5 true { cell0 with seq := q } fab0
     decide (counterDiff 257 1 = 256) && decide (255 < counterDiff 0 1) && receives (s 257) && nextIs (exec .cellReceive (s 257)) (fun t => decide (t.memPend = []) && decide (t.fab.source 3 = Source.init)) &&
       nextIs (exec .cellReceive (s 0)) fun t => decide (t.memPend = []) && decide (t.fab.source 3 = Source.init)),
    same (exec .peerLeft (fst 0 0 0 fab0)) (fst 0 0 0 fab0),
    (let s : State := { fst 63 0 0 { fab0 with livePeers := BitVec.allOnes 64, queue := [cellTo 63 [], { cellTo 63 [] with kind := 4 }, cellTo 5 []] } with jrn := { Journal.init with valid := true, partner := 63 } }
     nextIs (exec .peerLeft s) fun t => decide (t.fab.livePeers = ~~~(BitVec.ofNat 64 (2 ^ 63))) && decide (t.fab.queue.map (fun c => (c.dest, c.kind)) = [(63, 4), (5, 1)]) && nowIn t .partnerLost),
    (let x : Dest := { Dest.init with unacked := [⟨7, 4, 4, cellTo 63 [3], 0, 11 * 128 + 63 + 1, false⟩, ⟨8, 4, 4, cellTo 63 [3], 0, 11 * 128 + 5 + 1, false⟩] }
     let s : State := { atStart 11 63 5 { fab0 with queue := [cellTo 63 []], dests := [(63, x)] } with binds := [(0, launch0)] }
     s.fab.serves 11 63 && nextIs (exec .lineDrift s) (fun t => decide (t.fab.faulty = [(11, 63)]) && (t.fab.dest 63).held && nowIn t (.freeze ⟨0, 0x21, 11, false⟩) &&
         decide ((t.fab.dest 63).unacked.map (·.lost) = [true, false])) &&
       nextIs (exec .lineFailure s) fun t => nowIn t (.freeze ⟨0, 0x22, 11, false⟩)),
    (let x : Dest := { Dest.init with unacked := [⟨7, 4, 4, cellTo 7 [3], 0, 11 * 128 + 71 + 1, false⟩] }
     nextIs (exec .lineDrift (atStart 15 71 5 fab0)) (fun t => decide (t.fab.faulty = [(15, 71)]) && decide (t.fab.dests = [])) && !fab0.serves 11 71 &&
       nextIs (exec .lineFailure (atStart 11 71 5 { fab0 with queue := [cellTo 7 []], dests := [(7, x)] })) fun t => decide (t.fab.faulty = [(11, 71)]) && !(t.fab.dest 7).held &&
         decide ((t.fab.dest 7).unacked.map (·.lost) = [true]) && decide (t.agenda = State.reset.agenda)),
    same (exec .lineFailure (atStart 11 63 4 fab0)) ((atStart 11 63 4 fab0).nextCycle .lineFailure (atStart 11 63 4 fab0).stim) &&
      [fst 11 63 5 fab0, atStart 11 63 6 fab0].all fun s => same (exec .lineFailure s) (s.nextCycle .lineFailure { s.stim with value := BitVec.ofNat 64 s.fab.pslot }),
    nextIs (exec .lineRelock (fst 15 71 5 { fab0 with faulty := [(15, 70), (15, 71)] })) (fun t => decide (t.fab.faulty = [(15, 70)])) &&
      same (exec .lineRelock (fst 15 71 5 { fab0 with faulty := [(15, 71)], failed := [(15, 71)] })) (fst 15 71 5 { fab0 with faulty := [(15, 71)], failed := [(15, 71)] }),
    (let x : Dest := { Dest.init with unacked := [⟨7, 0, 100, cellTo 5 [3], 0, 0, false⟩] }
     let s (v : Nat) (x : Dest) : State := fst 0 0 v { fab0 with dests := [(4095, x)] }
     same (exec (.retransmit 4095) (fst 0 0 0 fab0)) (fst 0 0 0 fab0) && same (exec (.retransmit 4095) (s 227 x)) (s 227 x) && same (exec (.retransmit 4095) (s 228 x)) ((s 228 x).setDest 4095 { x with again := some 7 }) &&
       same (exec (.retransmit 4095) (s 228 { x with again := some 7 })) (s 228 { x with again := some 7 })),
    (let x : FabCmd := ⟨12, 12, [], 0, 0, 0, [5], [cellTo 5 [1], cellTo 6 [2]], 0, [], 0, false, 2⟩
     let s := fst 0 0 0 { fab0 with running := [x] }
     same (exec (.collectiveCell 13) s) s && nextIs (exec (.collectiveCell 12) s) fun t => decide (t.fab.queue = [{ cellTo 5 [1] with entry := 2176 }]) && decide (t.fab.find 12 = some { x with todo := [cellTo 6 [2]] })),
    (let s (p : Patch) := patchSt p fab0
     allowedB (s patch0) patch0 && nextIs (exec .repairPatch (s patch0)) (fun t => decide (t.fab.patches = [⟨patch0, true, [0, 7], [], false, false, false⟩]) && decide (t.fab.slots = []) &&
         decide (t.fab.queue.map (fun c => (c.dest, c.kind, c.data.take 20)) = [(7, 5, patchBytes patch0)]) && t.inputs.any fun i => i.at_ == 2176 && i.ev == .patchReceive && i.stim.patch == patch0) &&
       !allowedB (s { patch0 with patchSlot := 448 }) { patch0 with patchSlot := 448 } && same (exec .repairPatch (s { patch0 with patchSlot := 448 })) (s { patch0 with patchSlot := 448 }) &&
       same (exec .repairPatch (s { patch0 with kind := 4 })) (s { patch0 with kind := 4 }) && same (exec .repairPatch (s { patch0 with line := 8, dest := 8 })) (s { patch0 with line := 8, dest := 8 }) &&
       !allowedB (patchSt patch0 { fab0 with faulty := [(11, 71)] }) patch0),
    (let r : Patch := { patch0 with kind := 2, relay := 63 }
     let s := patchSt r { fab0 with livePeers := BitVec.allOnes 64, faulty := [(11, 71)] }
     relayOk 0 7 12 && allowedB s { r with relay := 12 } && !allowedB s r && !allowedB (patchSt r { fab0 with livePeers := BitVec.allOnes 64 }) { r with relay := 12 } &&
       allowedB s { r with line := 8, dest := 8, relay := 13 }),
    (let v : Patch := { patch0 with kind := 3 }
     let f : Fabric := { fab0 with patches := [⟨patch0, true, [], [], false, false, true⟩] }
     allowedB (patchSt v f) v && !allowedB (patchSt v fab0) v && !allowedB (patchSt v { f with faulty := [(11, 7)] }) v && same (exec .repairPatch (patchSt v fab0)) (patchSt v fab0) &&
       nextIs (exec .repairPatch (patchSt v f)) fun t => decide (t.fab.patches.length = 2)),
    (let s := patchSt { patch0 with home := 1 } fab0
     !s.fab.refusesPatch s.stim.patch && nextIs (exec .patchReceive s) fun t => decide (t.fab.patches.map (fun x => (x.patch, x.pending)) = [(s.stim.patch, true)]) && decide (t.fab.slots = []) &&
       decide (t.fab.queue.map (fun c => (c.dest, c.kind, c.data)) = [(1, 5, patchBytes s.stim.patch)])),
    (let s := patchSt { patch0 with kind := 4 } fab0
     let o := patchSt { patch0 with sender := 1, dest := 8 } fab0
     s.fab.refusesPatch s.stim.patch && same (exec .patchReceive s) s && decide (o.fab.pkg ∉ o.fab.targets o.stim.patch) && same (exec .patchReceive o) o),
    (let x (l : List Nat) : PatchState := ⟨patch0, true, [7], l, true, false, false⟩
     let s (v : Nat) (l : List Nat) : State := { fst 0 0 v { fab0 with patches := [x l], livePeers := BitVec.allOnes 64 } with stim := noStim }
     same (exec (.patchAckDeadline patch0) (fst 0 0 0 fab0)) (fst 0 0 0 fab0) && same (exec (.patchAckDeadline patch0) (s 383 [])) (s 383 []) &&
       nextIs (exec (.patchAckDeadline patch0) (s 384 [])) (fun t => decide (t.fab.patches = [⟨{ patch0 with patchSlot := 896 }, true, [0, 7], [7], false, false, false⟩])) &&
       nextIs (exec (.patchAckDeadline patch0) (s 384 [0])) (fun t => decide (t.fab.patches.map (·.missed) = [[0, 7]])) &&
       nextIs (exec (.patchAckDeadline patch0) (s 384 [7])) (fun t => decide (t.fab.patches = [])) &&
       nextIs (exec (.patchAckDeadline patch0) { s 384 [] with ctls := [(1, { Ctl.init with window := true })] }) fun t =>
         decide (t.fab.patches = [{ x [] with pending := false, cancelled := true }]) && t.agenda.any fun a => a.at_ == 2177 && a.ev == .patchAckDeadline patch0),
    (let s (v : Nat) : State := fst 0 0 v { fab0 with patches := [⟨patch0, true, [], [], true, false, false⟩], versions := [(laneKey 11 7, 0xFFFFFFFF)], dests := [(7, { Dest.init with held := true, unacked := [⟨7, 0, 100, cellTo 7 [3], 0, 0, false⟩] })] }
     same (exec (.patchSwitch patch0) (fst 0 0 512 fab0)) (fst 0 0 512 fab0) && same (exec (.patchSwitch patch0) (s 511)) (s 511) && SMap.wf Dest.init (s 512).fab.dests &&
       nextIs (exec (.patchSwitch patch0) (s 512)) fun t => decide (t.fab.dest 7 = { (s 512).fab.dest 7 with held := false, again := some 7 }) && decide (txLine (bankEntry t.fab.slots 11 0 7) = 71) &&
         decide (txLine (bankEntry t.fab.slots 11 7 15) = 71) && decide (txLine (bankEntry t.fab.slots 11 0 8) = 8) && SMap.wf 0 (s 512).fab.versions &&
         decide (SMap.get 0 t.fab.versions (laneKey 11 7) = 0) && decide (SMap.get 0 t.fab.versions (laneKey 11 0) = 1) && decide (SMap.get 0 t.fab.versions (laneKey 10 0) = 0))].all id = true := by decide +kernel

/-- A journal whose shadow ring stands at 0x10000000. -/
def jst (j : Journal) (l : List Cmd) : State := { st with jrn := { j with shadow := 2 ^ 28 }, cmds := l }
/-- A JRNL block: payload of n bytes at 0x100000, in a batch's record (byte 31: 0). -/
def jrnl0 (n : Nat) : Cmd := { cmd0 (.jrnl ⟨0, 0, 4, 0⟩) false .captured with block := blk [(0, 5), (8, 6), (12, 7), (28, n), (32, 0x100000)] }
def emit0 : Cmd := { cmd0 (.emit ⟨0, 0, 4, 0⟩) false .running with block := blk [(0, 0), (8, 5), (16, 6), (20, 7), (24, 0xABCD)] }
def rec0 : Rec := ⟨2 ^ 28, 128, 1, 1, 5, 6, 7, 2, 0, 0, 0, 12, 9⟩
def j0 : Journal := Journal.init

/-- R389 to R401: no record waits, an orphan, a ring with one byte too few and one that is just filled; acknowledgements; emissions that wait, that leave with a record and without; a partner lost; its
replacement begun, refused and ended; an extract. -/
theorem wit_JournalEvents : [
    same (exec .journalRecord st) st,
    same (exec .journalRecord (jst { j0 with jrnls := [13, 14] } [])) (jst { j0 with jrnls := [14] } []),
    (let s (n t : Nat) : State := { jst { j0 with jrnls := [12], wcur := 2 ^ 28 + 256, tcur := t } [jrnl0 n] with mem := [(nearBase + 0x100000, 7)] }
     decide (recLen 0 = 64) && decide (recLen 64 = 128) && decide (recLen 65 = 192) && same (exec .journalRecord (s 64 320)) (s 64 320) &&
       nextIs (exec .journalRecord (s 64 384)) (fun t => decide (t.jrn.wcur = 2 ^ 28 + 384) && decide (t.jrn.recno = 1) && decide (t.jrn.jrnls = []) &&
         decide (t.jrn.recs = [⟨2 ^ 28 + 256, 128, 1, 0, 5, 6, 7, 0, 0, 0, 0, 12, 9⟩]) && decide ((t.memPend.map (·.data.length)) = [128]) &&
         decide ((t.memPend.flatMap (·.data)).drop 64 |>.take 2 |>.map (·.2) |> (· = [7, 0]))) &&
       nextIs (exec .journalRecord (s 0 384)) fun t => decide (t.jrn.wcur = 2 ^ 28 + 320)),
    (let s (t : Nat) : State := { jst { j0 with jrnls := [12], wcur := 2 ^ 28 - 64, tcur := t } [jrnl0 64] with mem := [(nearBase + 0x100000, 7)] }
     let pad : Rec := ⟨2 ^ 28 - 64, 64, 0, 0, 0, 0, 0, 0, 0, 0, 0, 0, 0⟩
     nextIs (exec .journalRecord (s 127)) (fun t => decide (t.jrn = { (s 127).jrn with wcur := 2 ^ 28, recs := [pad] }) && decide (t.memPend.map (fun m => m.data.map (·.1) |>.take 1) = [[2 ^ 29 - 64]]) &&
         decide (t.memPend.map (fun m => m.data.map (·.2)) = [leBytes 28 0 ++ [64, 0] ++ leBytes 34 0])) &&
       nextIs (exec .journalRecord (s 128)) fun t => decide (t.jrn.wcur = 2 ^ 28 + 128) && decide (t.jrn.recno = 1) && decide (t.jrn.jrnls = []) && decide (t.jrn.recs.map (fun r => (r.at_, r.kind, r.cmd)) =
         [(2 ^ 28 - 64, 0, 0), (2 ^ 28, 1, 12)]) && decide (t.memPend.map (fun m => m.data.length) = [64, 128])),
    nextIs (exec (.journalAck (2 ^ 28 + 128)) (jst { j0 with wcur := 2 ^ 28 + 128, acur := 64, recs := [rec0] } [])) (fun t => decide (t.jrn.acur = 2 ^ 28 + 128) && decide (t.memPend = []) && nowIn t (.untimedComplete 12)) &&
      nextIs (exec (.journalAck 2) (jst { j0 with wcur := 128, acur := 64 } [])) (fun t => decide (t.jrn.acur = 64)) &&
      nextIs (exec (.journalAck (2 ^ 40)) (jst { j0 with wcur := 128, acur := 64 } [])) fun t => decide (t.jrn.acur = 128),
    (let lone := jst { j0 with emits := [12] } [emit0]
     let late := jst { j0 with emits := [12], lostPartner := true } [emit0]
     let with_ := jst { j0 with emits := [12], recs := [{ rec0 with at_ := 2 ^ 28 - 64 }], inst := 3 } [emit0]
     same (exec (.emissionRelease 12) st) st && !late.emitReady 12 && same (exec (.emissionRelease 12) late) late && lone.emitReady 12 && decide (lone.emitRecord emit0 = none) &&
       nextIs (exec (.emissionRelease 12) lone) (fun t => decide (t.jrn.emits = []) && nowIn t (.untimedComplete 12) && decide (t.memPend = [])) &&
       nextIs (exec (.emissionRelease 12) with_) fun t => toldB with_ t 0x85 (with_.prioFlag (some 0)) (2 ^ 31) (leBytes 8 5 ++ leBytes 4 6 ++ leBytes 4 7 ++ leBytes 4 3 ++ leBytes 1 2 ++ leBytes 35 0xABCD) (2 ^ 31) &&
         decide (t.memPend.map (·.data) = [[(2 ^ 29 - 8, 1), (2 ^ 29 - 7, 0), (2 ^ 29 - 6, 0), (2 ^ 29 - 5, 0)]])),
    (let s := jst { j0 with valid := true, partner := 5 } []
     same (exec .partnerLost st) st && same (exec .partnerLost (jst { j0 with valid := true, lostPartner := true } [])) (jst { j0 with valid := true, lostPartner := true } []) && s.linkUp &&
       nextIs (exec .partnerLost s) fun t => decide (t.jrn = { s.jrn with lostPartner := true }) && toldB s t 0x87 0 0x24 (List.replicate 16 0) 0),
    (let s (p : Nat) (c : Option (Nat × Nat)) : State := { jst { j0 with wcur := 256, tcur := 128, inst := 0xFFFFFFFF, lostPartner := true, recs := [⟨128, 128, 1, 1, 5, 6, 7, 2, 0, 0, 0, 12, 9⟩], copying := c } [] with stim := { noStim with unit := p }, fab := { Fabric.init with livePeers := BitVec.ofNat 64 (2 ^ 63 + 1) } }
     nextIs (exec .partnerRestore (s 63 none)) (fun t => decide (t.jrn.copying = some (63, 256)) &&
         decide (t.fab.queue.length = 2) && decide (t.fab.queue.getLast?.map (fun c => (c.dest, c.kind, c.op, c.data)) = some (63, 4, 5, leBytes 8 256 ++ leBytes 8 128))) &&
       same (exec .partnerRestore (s 62 none)) (s 62 none) && noUnit (exec .partnerRestore (s 64 none)) && noUnit (exec .partnerRestore (s 0 none)) &&
       (let w : State := { s 0 (some (63, 256)) with fab := { Fabric.init with queue := [bareCell 0 63 4 2 []] } }
        w.fab.copyOpen 63 && same (exec .partnerRestore w) w) &&
       nextIs (exec .partnerRestore (s 0 (some (63, 256)))) fun t => decide (t.jrn.partner = 63) && t.jrn.valid && !t.jrn.lostPartner && decide (t.jrn.inst = 0) && decide (t.jrn.acur = 256) &&
         decide (t.jrn.copying = none) && nowIn t (.untimedComplete 12)),
    (let s : State := { st with stim := { noStim with unit := 63, value := 0x8000000012345 } }
     nextIs (exec .replayExtract s) fun t => decide ((SMap.get (0, 0) t.jrn.extracts 63).1 = 0x12340) && decide (t.memPend.map (fun m => m.data.take 2) = [[(0x12340, 63), (0x12341, 0)]])),
    (let s : State := { st with stim := { noStim with unit := 63, index := 5 }, jrn := { j0 with rings := [(63, ⟨2 ^ 30, 64, 0, 9⟩)] } }
     decide (s.stim.index ≠ s.fab.pkg) && same (exec .replayExtract s) (s.handRing 63 5) &&
       decide ((s.handRing 63 5).fab.queue.map (fun c => (c.dest, c.kind, c.data)) = [(5, 4, List.replicate 64 0), (5, 4, leBytes 8 64 ++ leBytes 8 0 ++ leBytes 4 9)]))].all id = true := by decide +kernel

end Sys2Proof.Tests
end

section
namespace Sys2Proof.Claim
open Sys2Proof Sys2Proof.Machine BitVec

/-! The fields of an encoded word are the operands that it encodes (R27 to R38). -/

@[simp] theorem getLsbD_zero_ofBool (b : Bool) : (ofBool b).getLsbD 0 = b := by cases b <;> rfl

theorem opcode_encC (op : BitVec 8) (p : Pred) (low : BitVec 19) : (encC op p low).extractLsb' 24 8 = op := by
  simp (disch := omega) only [encC, extractLsb'_append_eq_of_le, Nat.reduceSub, extractLsb'_eq_self]

theorem predOf_encC (op : BitVec 8) (p : Pred) (low : BitVec 19) : predOf (encC op p low) = p := by
  simp (disch := omega) only [predOf, encC, extractLsb'_append_eq_of_le, extractLsb'_append_eq_of_add_le, getLsbD_append,
    Nat.reduceSub, Nat.reduceLT, if_true, if_false, extractLsb'_eq_self, getLsbD_zero_ofBool]

theorem extractLsb'_encC (op : BitVec 8) (p : Pred) (low : BitVec 19) {start len : Nat} (h : start + len ≤ 19) :
    (encC op p low).extractLsb' start len = low.extractLsb' start len :=
  extractLsb'_append_eq_of_add_le h

theorem getLsbD_encC (op : BitVec 8) (p : Pred) (low : BitVec 19) {i : Nat} (h : i < 19) :
    (encC op p low).getLsbD i = low.getLsbD i := by
  rw [encC, getLsbD_append, if_pos h]

theorem opcode_encS (op : BitVec 8) (o : SOps) : (encS op o).extractLsb' 24 8 = op := by
  simp (disch := omega) only [encS, extractLsb'_append_eq_of_le, Nat.reduceSub, extractLsb'_eq_self]

theorem src_of_field (x : Src) : (if x.isLit then Src.lit (x.field.extractLsb' 0 3) else Src.reg x.field) = x := by
  cases x with
  | reg r => rfl
  | lit i => exact congrArg Src.lit ((extractLsb'_append_eq_of_add_le (by omega)).trans (extractLsb'_eq_self ..))

theorem sOpsOf_encS (op : BitVec 8) (o : SOps) : sOpsOf (encS op o) = o := by
  simp (disch := omega) only [sOpsOf, encS, extractLsb'_append_eq_of_le, extractLsb'_append_eq_of_add_le, getLsbD_append,
    Nat.reduceSub, Nat.reduceLT, if_true, if_false, extractLsb'_eq_self, getLsbD_zero_ofBool]
  rw [src_of_field]

theorem opcode_encLBits (op : BitVec 8) (o : LOps) : (encLBits op o).extractLsb' 56 8 = op := by
  simp (disch := omega) only [encLBits, extractLsb'_append_eq_of_le, Nat.reduceSub, extractLsb'_eq_self]

theorem lOpsOf_encLBits (op : BitVec 8) (o : LOps) : lOpsOf (encLBits op o) = o := by
  simp (disch := omega) only [lOpsOf, encLBits, extractLsb'_append_eq_of_le, extractLsb'_append_eq_of_add_le, getLsbD_append,
    Nat.reduceSub, Nat.reduceLT, if_true, if_false, extractLsb'_eq_self, getLsbD_zero_ofBool]

theorem opcode_encVBits (op : BitVec 8) (o : VOps) : (encVBits op o).extractLsb' 56 8 = op := by
  simp (disch := omega) only [encVBits, extractLsb'_append_eq_of_le, Nat.reduceSub, extractLsb'_eq_self]

theorem vOpsOf_encVBits (op : BitVec 8) (o : VOps) : vOpsOf (encVBits op o) = o := by
  simp (disch := omega) only [vOpsOf, encVBits, extractLsb'_append_eq_of_le, extractLsb'_append_eq_of_add_le, getLsbD_append,
    Nat.reduceSub, Nat.reduceLT, if_true, if_false, extractLsb'_eq_self, getLsbD_zero_ofBool]

theorem opcode_encMBits (op : BitVec 8) (o : MOps) : (encMBits op o).extractLsb' 56 8 = op := by
  simp (disch := omega) only [encMBits, extractLsb'_append_eq_of_le, Nat.reduceSub, extractLsb'_eq_self]

theorem mOpsOf_encMBits (op : BitVec 8) (o : MOps) : mOpsOf (encMBits op o) = o := by
  simp (disch := omega) only [mOpsOf, encMBits, extractLsb'_append_eq_of_le, extractLsb'_append_eq_of_add_le, Nat.reduceSub,
    extractLsb'_eq_self]

theorem opcode_encEBits (op : BitVec 8) (o : EOps) : (encEBits op o).extractLsb' 56 8 = op := by
  simp (disch := omega) only [encEBits, extractLsb'_append_eq_of_le, Nat.reduceSub, extractLsb'_eq_self]

theorem eOpsOf_encEBits (op : BitVec 8) (o : EOps) : eOpsOf (encEBits op o) = o := by
  simp (disch := omega) only [eOpsOf, encEBits, extractLsb'_append_eq_of_le, extractLsb'_append_eq_of_add_le, Nat.reduceSub,
    extractLsb'_eq_self]

theorem opcode_encX (op : BitVec 8) (o : XOps) : (encX op o).extractLsb' 24 8 = op := by
  simp (disch := omega) only [encX, extractLsb'_append_eq_of_le, Nat.reduceSub, extractLsb'_eq_self]

theorem xOpsOf_encX (op : BitVec 8) (o : XOps) : xOpsOf (encX op o) = o := by
  simp (disch := omega) only [xOpsOf, encX, extractLsb'_append_eq_of_le, extractLsb'_append_eq_of_add_le, Nat.reduceSub,
    extractLsb'_eq_self]

theorem predOpsOf_encC (op : BitVec 8) (p : Pred) (o : PredOps) : predOpsOf (encC op p (predBits o)) = o := by
  simp (disch := omega) only [predOpsOf, predBits, extractLsb'_encC, getLsbD_encC, extractLsb'_append_eq_of_le, extractLsb'_append_eq_of_add_le,
    getLsbD_append, Nat.reduceSub, Nat.reduceLT, if_true, if_false, extractLsb'_eq_self, getLsbD_zero_ofBool]

theorem opcode_append (op : BitVec 8) (x : BitVec 24) : (op ++ x : BitVec 32).extractLsb' 24 8 = op := extractLsb'_append_eq_left

theorem getLsbD_low24 (op : BitVec 8) (x : BitVec 24) {i : Nat} (h : i < 24) : (op ++ x : BitVec 32).getLsbD i = x.getLsbD i := by
  rw [getLsbD_append, if_pos h]

/-- The formats in which an instruction may stand. -/
def fits (i : Instr) (f : SlotFmt) : Bool := (slotsOf i).any (slotFmt · == f)

/-- The words of the code store that a slot word takes in format f. -/
def wordsInSlot (f : SlotFmt) (w : BitVec 64) : List (BitVec 32) := if f.wide then words64 w else [w.extractLsb' 0 32]

theorem low_word (w : BitVec 32) : (slotWord [w]).extractLsb' 0 32 = w := by
  simp (disch := omega) only [slotWord, truncate_eq_setWidth, extractLsb'_setWidth_of_le, extractLsb'_eq_self]

theorem slotWord_words64 (w : BitVec 64) : slotWord (words64 w) = w :=
  (extractLsb'_append_extractLsb'_eq_extractLsb' (by omega)).trans (extractLsb'_eq_self ..)

/-! Each format's names read an instruction's own words back. -/

theorem nameC_encode (i : Instr) (h : fits i .c = true) : ∃ w, encode i = [w] ∧ nameC w = some i := by
  cases i
  case add | sub | mul | mulh | mulhu | div | divu | rem | remu | and | or | xor | andn | shl | shr | sar | rot | min | max | minu | maxu | cmp
      | cmpu | sel | mov | lit | clz | popc | bfx | bfi | sext | zext | fadd | fsub | fmul | ffma | fmin | fmax | fminp | fmaxp | fcmp | fsgn | fcvt
      | fdiv | fsqrt =>
    refine ⟨encS _ _, rfl, ?_⟩
    unfold nameC nameAlu; rw [opcode_encS, sOpsOf_encS]; rfl
  case b | call | calli | ret | brkl | lidx | trigger | trap | sys | pget | pset | region | phase | resync | replay =>
    refine ⟨encC _ _ _, rfl, ?_⟩
    unfold nameC; rw [opcode_encC, predOf_encC]
    refine congrArg some ?_
    simp (disch := omega) only [extractLsb'_encC, getLsbD_encC, extractLsb'_append_eq_of_le,
      extractLsb'_append_eq_of_add_le, getLsbD_append, Nat.reduceSub, Nat.reduceLT, if_true, if_false, extractLsb'_eq_self, getLsbD_zero_ofBool]
  case pand | por | pxor =>
    refine ⟨encC _ _ _, rfl, ?_⟩
    unfold nameC; rw [opcode_encC, predOf_encC, predOpsOf_encC]; rfl
  case loop | loopLit =>
    refine ⟨encC _ _ _, rfl, ?_⟩
    unfold nameC; rw [opcode_encC]
    refine congrArg some ?_
    simp (disch := omega) only [extractLsb'_encC, getLsbD_encC, extractLsb'_append_eq_of_le,
      extractLsb'_append_eq_of_add_le, getLsbD_append, Nat.reduceSub, Nat.reduceLT, if_true, if_false, extractLsb'_eq_self,
      BitVec.reduceGetLsb, Bool.false_eq_true]
  case tltest | tltestLit =>
    refine ⟨encC _ _ _, rfl, ?_⟩
    unfold nameC; rw [opcode_encC, predOf_encC]
    refine congrArg some ?_
    simp (disch := omega) only [tlTestOf, extractLsb'_encC, getLsbD_encC, extractLsb'_append_eq_of_le,
      extractLsb'_append_eq_of_add_le, getLsbD_append, Nat.reduceSub, Nat.reduceLT, if_true, if_false, extractLsb'_eq_self,
      getLsbD_zero_ofBool, BitVec.reduceGetLsb, Bool.false_eq_true]
  case endTask =>
    refine ⟨encC _ _ _, rfl, ?_⟩
    unfold nameC; rw [opcode_encC]; rfl
  all_goals exact absurd h Bool.false_ne_true

theorem nameS_encode (i : Instr) (h : fits i .s = true) : ∃ w, encode i = [w] ∧ nameS w = some i := by
  cases i
  case add | sub | mul | mulh | mulhu | div | divu | rem | remu | and | or | xor | andn | shl | shr | sar | rot | min | max | minu | maxu | cmp
      | cmpu | sel | mov | lit | clz | popc | bfx | bfi | sext | zext | fadd | fsub | fmul | ffma | fmin | fmax | fminp | fmaxp | fcmp | fsgn | fcvt
      | fdiv | fsqrt =>
    refine ⟨encS _ _, rfl, ?_⟩
    unfold nameS nameAlu; rw [opcode_encS, sOpsOf_encS]; rfl
  case sld | slds | sst =>
    refine ⟨encS _ _, rfl, ?_⟩
    unfold nameS; rw [opcode_encS, sOpsOf_encS]; rfl
  all_goals exact absurd h Bool.false_ne_true

theorem nameA_encode (i : Instr) (h : fits i .a = true) : ∃ w, encode i = [w] ∧ nameA w = some i := by
  cases i
  case gadv =>
    refine ⟨_, rfl, ?_⟩
    unfold nameA; rw [opcode_append, getLsbD_low24 _ _ (by omega)]
    refine congrArg some ?_
    simp (disch := omega) only [extractLsb'_append_eq_of_le,
      extractLsb'_append_eq_of_add_le, getLsbD_append, Nat.reduceSub, Nat.reduceLT, if_true, if_false, extractLsb'_eq_self, getLsbD_zero_ofBool]
  case gset | gsets | gld | gst | grst | gpos | gmap =>
    refine ⟨_, rfl, ?_⟩
    unfold nameA; rw [opcode_append]
    refine congrArg some ?_
    simp (disch := omega) only [extractLsb'_append_eq_of_le, extractLsb'_append_eq_of_add_le, Nat.reduceSub, extractLsb'_eq_self]
  all_goals exact absurd h Bool.false_ne_true

theorem nameX_encode (i : Instr) (h : fits i .x = true) : ∃ w, encode i = [w] ∧ nameX w = some i := by
  cases i
  case xlat | xvalid | csrr | csrw | csrs | csrc | flgr | flgc | tcr | pgate | pgq | moncap | tlrd =>
    refine ⟨encX _ _, rfl, ?_⟩
    unfold nameX; rw [opcode_encX, xOpsOf_encX]; rfl
  all_goals exact absurd h Bool.false_ne_true

theorem nameL_encode (i : Instr) (h : fits i .l = true) : ∃ w, encode i = words64 w ∧ nameL w = some i := by
  cases i
  case vld | vst | vlda | vsta | vgth | vsct | vldb | bufset | bufq | atom | rlsend | rlrecv | rlfree =>
    refine ⟨encLBits _ _, rfl, ?_⟩
    unfold nameL; rw [opcode_encLBits, lOpsOf_encLBits]; rfl
  all_goals exact absurd h Bool.false_ne_true

theorem nameV_encode (i : Instr) (wf : wfInstr i = true) (h : fits i .v = true) : ∃ w, encode i = words64 w ∧ nameV w = some i := by
  cases i
  case vadd | vsub | vmul | vfma | vfms | vfnma | vmin | vmax | vminp | vmaxp | vabs | vneg | vcmp | vsel | vand | vor | vxor | vnot | vshl | vshr
      | vsar | vmov | vfill | viota | vext | vins | vcvt | vcvts | vqnt | vfold | vsplit | vexp2 | vlog2 | vrcp | vrsq | vsqrt | vtanh | vsigm
      | vgelu | vrsum | vrmax | vrmin | vramax | vscan | vperm | vrot | vbcl | vzip | vunzp | vrng | kand | kor | kxor | knot | kpop =>
    refine ⟨encVBits _ _, rfl, ?_⟩
    unfold nameV; rw [opcode_encVBits, vOpsOf_encVBits]; rfl
  case kset | ksetImm =>
    refine ⟨encVBits _ _, rfl, ?_⟩
    unfold nameV; rw [opcode_encVBits, vOpsOf_encVBits]
    simp_all [wfInstr, VOps.common]
  all_goals exact absurd h Bool.false_ne_true

theorem nameM_encode (i : Instr) (h : fits i .m = true) : ∃ w, encode i = words64 w ∧ nameM w = some i := by
  cases i
  case mma | mzero | mfold | msave | mload | mpre | mtrn =>
    refine ⟨encMBits _ _, rfl, ?_⟩
    unfold nameM; rw [opcode_encMBits, mOpsOf_encMBits]; rfl
  all_goals exact absurd h Bool.false_ne_true

theorem nameE_encode (i : Instr) (h : fits i .e = true) : ∃ w, encode i = words64 w ∧ nameE w = some i := by
  cases i
  case cpyt | cpyu | cpym | cfill | cseal | amo | amof | rtopk | rcap | rdisp | tlife | tdrop | fsend | frdc | fag | fa2a | jrnl | emit | jtrunc
      | hflush | hnote =>
    refine ⟨encEBits _ _, rfl, ?_⟩
    unfold nameE; rw [opcode_encEBits, eOpsOf_encEBits]; rfl
  all_goals exact absurd h Bool.false_ne_true

/-! The instruction that a word names stands in the slots of the word's format. -/

theorem nameAlu_fits {w : BitVec 32} {i : Instr} (h : nameAlu w = some i) : fits i .c = true ∧ fits i .s = true := by
  unfold nameAlu at h
  split at h <;> cases h <;> exact ⟨rfl, rfl⟩

theorem nameC_fits {w : BitVec 32} {i : Instr} (h : nameC w = some i) : fits i .c = true := by
  unfold nameC at h
  split at h
  case h_22 => exact (nameAlu_fits h).1 -- the scalar instructions, which slot S holds too
  all_goals cases h
  case h_5 | h_21 => split <;> rfl -- LOOP and TLTEST, each with its literal form
  all_goals rfl

theorem nameS_fits {w : BitVec 32} {i : Instr} (h : nameS w = some i) : fits i .s = true := by
  unfold nameS at h
  split at h
  case h_4 => exact (nameAlu_fits h).2 -- the scalar instructions, which slot C holds too
  all_goals cases h; rfl

theorem nameA_fits {w : BitVec 32} {i : Instr} (h : nameA w = some i) : fits i .a = true := by
  unfold nameA at h
  split at h <;> cases h <;> rfl

theorem nameL_fits {w : BitVec 64} {i : Instr} (h : nameL w = some i) : fits i .l = true := by
  unfold nameL at h
  split at h <;> cases h <;> rfl

theorem nameV_fits {w : BitVec 64} {i : Instr} (h : nameV w = some i) : fits i .v = true := by
  unfold nameV at h
  split at h
  case h_56 => cases h; split <;> rfl -- KSET, from a row or from a literal
  all_goals cases h
  all_goals rfl

theorem nameM_fits {w : BitVec 64} {i : Instr} (h : nameM w = some i) : fits i .m = true := by
  unfold nameM at h
  split at h <;> cases h <;> rfl

theorem nameE_fits {w : BitVec 64} {i : Instr} (h : nameE w = some i) : fits i .e = true := by
  unfold nameE at h
  split at h <;> cases h <;> rfl

theorem nameX_fits {w : BitVec 32} {i : Instr} (h : nameX w = some i) : fits i .x = true := by
  unfold nameX at h
  split at h <;> cases h <;> rfl

/-! All formats together: decode and encode agree in every slot (R41). -/

theorem nameSlot_encode (f : SlotFmt) (i : Instr) (wf : wfInstr i = true) (h : fits i f = true) :
    nameSlot f (slotWord (encode i)) = some i ∧ encode i = wordsInSlot f (slotWord (encode i)) := by
  have narrow {name : BitVec 32 → Option Instr} (hn : ∃ w, encode i = [w] ∧ name w = some i) :
      name ((slotWord (encode i)).extractLsb' 0 32) = some i ∧ encode i = [(slotWord (encode i)).extractLsb' 0 32] := by
    obtain ⟨w, he, hw⟩ := hn
    rw [he, low_word]; exact ⟨hw, rfl⟩
  have wide {name : BitVec 64 → Option Instr} (hn : ∃ w, encode i = words64 w ∧ name w = some i) :
      name (slotWord (encode i)) = some i ∧ encode i = words64 (slotWord (encode i)) := by
    obtain ⟨w, he, hw⟩ := hn
    rw [he, slotWord_words64]; exact ⟨hw, rfl⟩
  cases f with
  | c => exact narrow (nameC_encode i h)
  | s => exact narrow (nameS_encode i h)
  | a => exact narrow (nameA_encode i h)
  | l => exact wide (nameL_encode i h)
  | v => exact wide (nameV_encode i wf h)
  | m => exact wide (nameM_encode i h)
  | e => exact wide (nameE_encode i h)
  | x => exact narrow (nameX_encode i h)

theorem nameSlot_fits {f : SlotFmt} {w : BitVec 64} {i : Instr} (h : nameSlot f w = some i) : fits i f = true := by
  cases f with
  | c => exact nameC_fits h
  | s => exact nameS_fits h
  | a => exact nameA_fits h
  | l => exact nameL_fits h
  | v => exact nameV_fits h
  | m => exact nameM_fits h
  | e => exact nameE_fits h
  | x => exact nameX_fits h

/-- R41: a word decodes to the instruction it names, where that one is well formed and encodes to this word. -/
theorem decodeSlot_eq_some {f : SlotFmt} {w : BitVec 64} {i : Instr} :
    decodeSlot f w = some i ↔ nameSlot f w = some i ∧ wfInstr i = true ∧ encode i = wordsInSlot f w := by
  have legal (n : Option Instr) (l : List (BitVec 32)) :
      n.filter (fun i => wfInstr i && encode i == l) = some i ↔ n = some i ∧ wfInstr i = true ∧ encode i = l := by
    rw [Option.filter_eq_some_iff, Bool.and_eq_true, beq_iff_eq]
  cases f <;> exact legal _ _

theorem fits_of_mem_slotsOf {i : Instr} {k : Nat} (h : k ∈ slotsOf i) : fits i (slotFmt k) = true :=
  List.any_eq_true.mpr ⟨k, h, beq_self_eq_true _⟩

/-- The slots of one format hold the same instructions (R9, R28). -/
theorem mem_slotsOf_of_fits {i : Instr} {k : Nat} (hk : k < 11) (h : fits i (slotFmt k) = true) : k ∈ slotsOf i := by
  have all : (List.range 11).all (fun k => !fits i (slotFmt k) || (slotsOf i).elem k) = true := by cases i <;> rfl
  have one := List.all_eq_true.mp all k (List.mem_range.mpr hk)
  rw [h] at one
  exact List.elem_iff.mp one

theorem decodeSlot_encode {i : Instr} (wf : wfInstr i = true) {k : Nat} (hk : k ∈ slotsOf i) :
    decodeSlot (slotFmt k) (slotWord (encode i)) = some i := by
  obtain ⟨hn, he⟩ := nameSlot_encode (slotFmt k) i wf (fits_of_mem_slotsOf hk)
  exact decodeSlot_eq_some.mpr ⟨hn, wf, he⟩

theorem length_wordsInSlot (f : SlotFmt) (w : BitVec 64) : (wordsInSlot f w).length = if f.wide then 2 else 1 := by
  unfold wordsInSlot
  split <;> rfl

/-- A slot word is what its words in the code store say, where a narrow one has nothing above bit 31. -/
theorem slotWord_wordsInSlot {f : SlotFmt} {w : BitVec 64} (h : f.wide = false → w.extractLsb' 32 32 = 0) : slotWord (wordsInSlot f w) = w := by
  unfold wordsInSlot
  split
  next => exact slotWord_words64 w
  next hf =>
    have low : w.extractLsb' 32 32 ++ w.extractLsb' 0 32 = w := slotWord_words64 w
    rw [h (by simpa using hf)] at low
    exact (setWidth_eq_append (by omega)).trans low

theorem encode_decodeSlot {k : Nat} {w : BitVec 64} {i : Instr} (hk : k < 11) (h : decodeSlot (slotFmt k) w = some i) :
    wfInstr i = true ∧ k ∈ slotsOf i ∧ encode i = wordsInSlot (slotFmt k) w := by
  obtain ⟨hn, wf, he⟩ := decodeSlot_eq_some.mp h
  exact ⟨wf, mem_slotsOf_of_fits hk (nameSlot_fits hn), he⟩

/-- Settles O44: the fields of an encoding are read back format by format, and R41's legality makes every decoded word an encoding. -/
theorem roundTrip : Obligations.RoundTrip := by
  refine ⟨fun i wf k hk => ⟨decodeSlot_encode wf hk, ?_⟩, fun k w i hk narrow h => ?_⟩
  · rw [(nameSlot_encode (slotFmt k) i wf (fits_of_mem_slotsOf hk)).2, length_wordsInSlot]
  · obtain ⟨wf, hs, he⟩ := encode_decodeSlot hk h
    exact ⟨wf, hs, by rw [he, slotWord_wordsInSlot narrow]⟩

end Sys2Proof.Claim
end

section
namespace Sys2Proof.Claim
open Sys2Proof Sys2Proof.Machine

/-! O40 speaks of every instruction value, and REGION's kind field has a fourth value that no legal word encodes (`wfInstr`). -/

/-- Core 0 runs in a launch that core 1 has ended in, one cycle after core 1's cut line. -/
def endedMate : State :=
  { State.reset with
    cores := [(0, { Core.init with run := .running, bind := some 0, tcyc := 1 }), (1, { Core.init with run := .ended, bind := some 0 })]
    binds := [(0, { Launch.free with st := 3, cores := [0, 1] })] }

/-- Refutes O40: a REGION of kind 3 takes the cut branch and marks the ended core 1, where the exception names kind 2 alone. -/
theorem not_issueIsLocal : ¬ Obligations.IssueIsLocal := by
  unfold Obligations.IssueIsLocal
  intro h
  obtain ⟨t, ht, marked⟩ : ∃ t, exec (.region 3 0 0) endedMate = .next t ∧ (t.core 1).endedAtCut = true := ⟨_, rfl, by decide⟩
  obtain ⟨-, cores⟩ := h (.region 3 0 0) endedMate t (by decide) (by unfold Canon; decide) ht
  obtain same | ⟨⟨b, nr, cut⟩, -⟩ := cores 1 (by decide)
  · rw [same] at marked
    exact absurd marked (by decide)
  · injection cut with kind
    exact absurd kind (by decide)

/-! O41 asks the cycle count of every running core to go on, but a core that holds the reset state does not count (R233). -/

/-- The last step of a cycle, where core 0 runs and is blank. -/
def blankRunning : State :=
  { State.reset with clock := 1, stage := .after, agenda := [], cores := [(0, { Core.init with run := .running, blank := true })] }

/-- Refutes O41: the tick leaves the TCYC of a blank core that runs where it was. -/
theorem not_stepOrder : ¬ Obligations.StepOrder := by
  unfold Obligations.StepOrder
  intro h
  obtain ⟨-, -, -, -, -, -, -, -, tick⟩ := h blankRunning
  obtain ⟨t, ht, -, -, -, cycles⟩ := tick rfl (fun _ h => absurd h (Option.not_mem_none _)) (by decide) (fun _ h => absurd h (Option.not_mem_none _))
  obtain ⟨u, hu, stands⟩ : ∃ u, step blankRunning = .next u ∧ (u.core 0).tcyc = 0 := ⟨_, rfl, by decide⟩
  obtain rfl : t = u := Host.Outcome.next.inj (ht.symm.trans hu)
  have counted : (t.core 0).tcyc = (blankRunning.core 0).tcyc + 1 := (cycles 0).2 rfl (by decide)
  rw [stands] at counted
  exact absurd counted (by decide)

end Sys2Proof.Claim
end

section
namespace Sys2Proof.Claim
open Sys2Proof Sys2Proof.Machine

/-! A fault record read back field by field (R76). -/

theorem frecWord_toNat (cause detail : BitVec 8) {slot : Nat} (sealed : Bool) (addr : Nat) (h : slot < 16) :
    (frecWord cause detail slot sealed addr).toNat =
      cause.toNat + detail.toNat * 256 + slot * 65536 + sealed.toNat * 1048576 + addr % 262144 * 4294967296 := by
  have hc := cause.isLt
  have hd := detail.isLt
  have ha : addr % 262144 < 262144 := Nat.mod_lt _ (by decide)
  have hb : (if sealed = true then 2 ^ 20 else 0) = sealed.toNat * 1048576 := by cases sealed <;> rfl
  have hs : sealed.toNat ≤ 1 := Bool.toNat_le sealed
  unfold frecWord
  rw [BitVec.toNat_ofNat, hb, Nat.mod_eq_of_lt h]
  omega

theorem toNat_field (w : Word) (lo len : Nat) : (w.extractLsb' lo len).toNat = w.toNat / 2 ^ lo % 2 ^ len := by
  rw [BitVec.extractLsb'_toNat, Nat.shiftRight_eq_div_pow]

theorem frecWord_fields (cause detail : BitVec 8) {slot : Nat} (sealed : Bool) (addr : Nat) (h : slot < 16) :
    let f := frecWord cause detail slot sealed addr
    f.extractLsb' 0 8 = cause ∧ f.extractLsb' 8 8 = detail ∧ (f.extractLsb' 16 4).toNat = slot ∧ f.getLsbD 20 = sealed ∧
      f.extractLsb' 21 11 = 0 ∧ (f.extractLsb' 32 18).toNat = addr % 2 ^ 18 ∧ f.extractLsb' 50 14 = 0 := by
  intro f
  have hf : f.toNat = _ := frecWord_toNat cause detail sealed addr h
  have hc := cause.isLt
  have hd := detail.isLt
  have hs : sealed.toNat ≤ 1 := Bool.toNat_le sealed
  refine ⟨BitVec.eq_of_toNat_eq ?_, BitVec.eq_of_toNat_eq ?_, ?_, ?_, BitVec.eq_of_toNat_eq ?_, ?_, BitVec.eq_of_toNat_eq ?_⟩
  case refine_4 =>
    have bit : f.toNat / 2 ^ 20 % 2 = sealed.toNat := by omega
    rw [BitVec.getLsbD, Nat.testBit_eq_decide_div_mod_eq, bit]
    cases sealed <;> rfl
  case refine_5 | refine_7 =>
    rw [toNat_field]
    change _ = 0
    omega
  all_goals
    rw [toNat_field]
    omega

/-! What taking an exception writes. -/

theorem takeException_core (s : State) (n : Nat) (cause detail : BitVec 8) (slot addr : Nat) :
    (s.takeException n cause detail slot addr).core n = { s.core n with
      frec := frecWord cause detail slot ((s.core n).region.kind == .sealed) addr, late := none, hold := none,
      run := if (s.core n).run == .ended then .ended else .stopped } ∧
    ∀ k, k ≠ n → (s.takeException n cause detail slot addr).core k = s.core k := by
  obtain ⟨hcores, -, -⟩ := State.takeException_spec s n cause detail slot addr
  have stopped (r : Run) : (if r == .ended then Run.ended else .stopped) ≠ .off := by cases r <;> decide
  have reads (k : Nat) := congrArg (SMap.get Core.init · k) hcores
  exact ⟨(reads n).trans (State.core_setCore_same_of_ne _ _ _ (Core.ne_init_of_run _ (stopped _))),
    fun k hk => (reads k).trans (State.core_setCore_other_of_ne _ _ _ _ (Core.ne_init_of_run _ (stopped _)) hk)⟩

/-- The domain's launch has an end to come, and its stop stands 64 cycles off (R76, R318). -/
theorem endLaunch_spec (s : State) (b n : Nat) (cause detail : BitVec 8) (frec : Word) (tcyc : Nat) :
    ((s.endLaunch b n cause detail frec tcyc).launch b).ending ≠ none ∧
    ∃ a ∈ (s.endLaunch b n cause detail frec tcyc).agenda, a.at_ = s.clock + 64 ∧ a.ev = .domainStop b := by
  unfold State.endLaunch
  refine ⟨?_, (State.scheduleOnce_spec _ _ _ _).1⟩
  have named (l : Launch) (e : Ending) : ({ l with ending := some e } : Launch) ≠ Launch.free := fun h =>
    Option.some_ne_none e (congrArg Launch.ending h)
  rw [State.scheduleOnce_eq]
  unfold State.launch
  dsimp only
  rw [State.setLaunch_binds, SMap.get_put_same_of_ne _ _ _ _ (named _ _)]
  exact Option.some_ne_none _

/-- The model asks for a freeze by exactly R74's and R238's conditions: 0x10 is left to the slip's own freeze (R267). -/
theorem rewinds_iff (c : Core) (cause detail : BitVec 8) :
    rewinds c cause detail ↔
      (recoverable cause && !(c.region.kind == .sealed) && decide (cause ≠ 0x10) && !(cause == 0x1A && detail == 0x04)) = true := by
  unfold rewinds recoverable
  simp only [Bool.and_eq_true, Bool.or_eq_true, Bool.not_eq_true', decide_eq_true_eq, beq_iff_eq, beq_eq_false_iff_ne, Bool.and_eq_false_iff, ne_eq]
  constructor
  · rintro ⟨h, hr, hw⟩
    refine ⟨⟨⟨by tauto, hr⟩, ?_⟩, by tauto⟩
    rintro rfl
    exact absurd h (by decide)
  · rintro ⟨⟨⟨h, hr⟩, hn⟩, hw⟩
    exact ⟨by tauto, hr, by tauto⟩

theorem takeException_rewinds {s : State} {n b : Nat} {cause detail : BitVec 8} (slot addr : Nat) (hb : (s.core n).bind = some b)
    (h : rewinds (s.core n) cause detail) :
    ∃ a ∈ (s.takeException n cause detail slot addr).agenda, a.at_ = s.clock ∧ a.ev = .freeze ⟨b, cause, detail, false⟩ := by
  unfold State.takeException
  dsimp only
  rw [hb]
  dsimp only
  rw [if_pos ((rewinds_iff _ _ _).mp h)]
  exact (State.scheduleOnce_spec _ _ _ _).1

theorem takeException_ends {s : State} {n b : Nat} {cause detail : BitVec 8} (slot addr : Nat) (hb : (s.core n).bind = some b)
    (h : ¬rewinds (s.core n) cause detail) :
    ((s.takeException n cause detail slot addr).launch b).ending ≠ none ∧
    ∃ a ∈ (s.takeException n cause detail slot addr).agenda, a.at_ = s.clock + 64 ∧ a.ev = .domainStop b := by
  unfold State.takeException
  dsimp only
  rw [hb]
  dsimp only
  rw [if_neg fun m => h ((rewinds_iff _ _ _).mpr m)]
  exact endLaunch_spec _ _ _ _ _ _ _

/-- Settles O34: the record's fields, the frame, and the split between a freeze and the end of the launch. -/
theorem exceptionEntry : Obligations.ExceptionEntry := by
  unfold Obligations.ExceptionEntry
  intro s n cause detail slot addr hslot
  obtain ⟨hcore, hothers⟩ := takeException_core s n cause detail slot addr
  obtain ⟨-, hmem, hpend⟩ := State.takeException_spec s n cause detail slot addr
  have fields := frecWord_fields cause detail ((s.core n).region.kind == .sealed) addr hslot
  dsimp only at fields ⊢
  rw [hcore]
  obtain ⟨f0, f8, f16, f20, f21, f32, f50⟩ := fields
  refine ⟨f0, f8, f16, f20, f21, f32, f50, ?_, hothers, fun a => by rw [hmem], hpend, ?_, ?_⟩
  · simp only [beq_iff_eq]
  · exact fun b hb => takeException_rewinds slot addr hb
  · exact fun b hb => takeException_ends slot addr hb

end Sys2Proof.Claim
end

section
namespace Sys2Proof.Claim
open Sys2Proof Sys2Proof.Machine

/-! R42's order among the causes of a bundle, and the one that is taken. -/

theorem foremost_refl (x : Trap) : foremost x x := Or.inr ⟨rfl, Or.inr ⟨rfl, Or.inr ⟨rfl, le_refl _⟩⟩⟩

theorem foremost_trans {x y z : Trap} (hxy : foremost x y) (hyz : foremost y z) : foremost x z := by
  unfold foremost at *
  rw [← BitVec.toNat_inj] at *
  omega

theorem foremost_total (x y : Trap) : foremost x y ∨ foremost y x := by
  unfold foremost
  rw [← BitVec.toNat_inj, ← BitVec.toNat_inj]
  omega

/-- The model's comparison is the strict part of R42's order. -/
theorem before_iff (x y : Trap) : x.before y = true ↔ ¬foremost y x := by
  change (if urgency x ≠ urgency y then decide (urgency x < urgency y) else if x.slot ≠ y.slot then decide (x.slot < y.slot)
    else if x.cause ≠ y.cause then decide (x.cause.toNat < y.cause.toNat) else decide (x.detail.toNat < y.detail.toNat)) = true ↔ _
  unfold foremost
  split_ifs <;> simp only [decide_eq_true_eq, ne_eq, ← BitVec.toNat_inj] at * <;> omega

/-- The fold of `firstTrap`, once it holds a cause: it ends with one that comes before that cause and all the others. -/
theorem firstTrap_fold (l : List Trap) (u : Trap) :
    ∃ x ∈ u :: l, l.foldl (fun (b : Option Trap) t => match b with
      | none => some t
      | some u => some (if t.before u then t else u)) (some u) = some x ∧ ∀ y ∈ u :: l, foremost x y := by
  induction l generalizing u with
  | nil => exact ⟨u, List.mem_singleton_self u, rfl, by simpa using foremost_refl u⟩
  | cons t l ih =>
    obtain ⟨x, hx, hfold, hall⟩ := ih (if t.before u then t else u)
    have kept : foremost (if t.before u then t else u) t ∧ foremost (if t.before u then t else u) u := by
      split
      next hb => exact ⟨foremost_refl t, (foremost_total t u).resolve_right ((before_iff t u).mp hb)⟩
      next hb => exact ⟨not_not.mp (mt (before_iff t u).mpr hb), foremost_refl u⟩
    obtain ⟨first, rest⟩ := List.forall_mem_cons.mp hall
    refine ⟨x, ?_, hfold, ?_⟩
    · split at hx <;> simp only [List.mem_cons] at hx ⊢ <;> tauto
    · simp only [List.forall_mem_cons]
      exact ⟨foremost_trans first kept.2, foremost_trans first kept.1, rest⟩

theorem firstTrap_cons (u : Trap) (l : List Trap) : ∃ x ∈ u :: l, firstTrap (u :: l) = some x ∧ ∀ y ∈ u :: l, foremost x y :=
  firstTrap_fold l u

theorem firstTrap_of_ne_nil {l : List Trap} (h : l ≠ []) : ∃ x ∈ l, firstTrap l = some x ∧ ∀ y ∈ l, foremost x y := by
  obtain ⟨u, r, rfl⟩ := List.exists_cons_of_ne_nil h
  exact firstTrap_cons u r

/-! What BUNDLE_ISSUE does with a core that issues (R16, R42). -/

/-- Core n issues in this cycle, whatever its bytes decode to: `issues` without the bundle. -/
def readyToIssue (s : State) (n : Nat) : Prop :=
  n < 768 ∧ (s.core n).run = .running ∧ (s.core n).gate = .on ∧ (s.core n).nextIssue ≤ s.clock ∧ (s.core n).late = none ∧
  ∀ l, s.launchOf n = some l → l.stop = none

theorem readyToIssue_of_issues {s : State} {n : Nat} {b : Bundle} (h : issues s n b) :
    readyToIssue s n ∧ decodeBundle (s.headerAt n) (s.core n).pc.toNat = .ok b := by
  obtain ⟨hn, hrun, hgate, hnext, hlate, hstop, hdec⟩ := h
  exact ⟨⟨hn, hrun, hgate, hnext, hlate, hstop⟩, hdec⟩

/-- No launch stops a ready core, at a bundle boundary or at its cut line (R74). -/
theorem no_stop {s : State} {n : Nat} (h : readyToIssue s n) (p : Launch → Stop → Bool) :
    ((s.launchOf n).bind fun l => l.stop.bind fun x => if p l x then some l.bind else none) = none := by
  obtain ⟨-, -, -, -, -, hstop⟩ := h
  cases hl : s.launchOf n with
  | none => rfl
  | some l => rw [Option.bind_some, hstop l hl]; rfl

/-- What a ready core's bundle does, by what its bytes decode to. -/
def issueDecoded (s : State) (n : Nat) : Except Reject Bundle → State
  | .error .illegalBundle => s.takeException n 0x01 0 15 (s.core n).pc.toNat
  | .error (.illegalInstruction k b) => (s.atBundle n b).rejectBundle k b
  | .ok b => (s.atBundle n b).issueBundle b

theorem readyToIssue_inSlot {s : State} {n : Nat} (h : readyToIssue s n) (b : Bundle) (k : Nat) : readyToIssue (inSlot s n b k) n := h

theorem exec_bundleIssue {s : State} {n : Nat} (h : readyToIssue s n) :
    exec (.bundleIssue n) s = .next (issueDecoded s n (decodeBundle (s.headerAt n) (s.core n).pc.toNat)) := by
  have stop := no_stop h fun l x => !x.atCut && !x.stopped && l.ending.isNone
  obtain ⟨hn, hrun, hgate, hnext, hlate, -⟩ := h
  change execBundleIssue n s = _
  unfold execBundleIssue
  dsimp only
  rw [if_neg (by omega), hrun, hgate, if_neg (by decide), if_neg (by simpa using hnext), hlate, stop]
  cases decodeBundle (s.headerAt n) (s.core n).pc.toNat with
  | error e => cases e <;> rfl
  | ok b => rfl

/-- A bundle without a cause has its effects; otherwise a foremost cause is taken and nothing else happens (R42). -/
theorem issueBundle_ok {s : State} {b : Bundle} (h : readyToIssue s s.ix.core)
    (quiet : bundleTraps (s.core s.ix.core) s.ix.addr b ++ (runSlots s b.slots).2 = []) :
    s.issueBundle b = (runSlots s b.slots).1.finishBundle.pumpSys := by
  have stop := no_stop h fun l x => x.atCut && !x.stopped && l.ending.isNone
  unfold State.issueBundle
  dsimp only
  rw [quiet, stop]
  rfl

theorem issueBundle_trap {s : State} {b : Bundle} {x : Trap}
    (taken : firstTrap (bundleTraps (s.core s.ix.core) s.ix.addr b ++ (runSlots s b.slots).2) = some x) : s.issueBundle b = s.takeTrap x := by
  unfold State.issueBundle
  dsimp only
  rw [taken]

theorem rejectBundle_spec (s : State) (k : Nat) (b : Bundle) :
    let causes := ⟨0x02, 0, k, none, none⟩ :: (bundleTraps (s.core s.ix.core) s.ix.addr b ++ (runSlots s b.slots).2)
    ∃ x ∈ causes, (∀ y ∈ causes, foremost x y) ∧ s.rejectBundle k b = s.takeTrap x := by
  intro causes
  obtain ⟨x, hx, taken, hall⟩ := firstTrap_cons ⟨0x02, 0, k, none, none⟩ (bundleTraps (s.core s.ix.core) s.ix.addr b ++ (runSlots s b.slots).2)
  refine ⟨x, hx, hall, ?_⟩
  unfold State.rejectBundle
  dsimp only
  rw [taken]
  rfl

/-! What a trap leaves (R8, R42): nothing of the bundle, and of the state before it all but the exception's own record. -/

theorem badLaunch_eq (s : State) (off : Nat) : s.badLaunch off = { s with queues := (s.badLaunch off).queues } := by
  unfold State.badLaunch
  split <;> rfl

/-- The state in which a trap's exception is taken: with what is written all the same, its OORREC word (R143) and its LASTCODE (R303). -/
def withTrapRecords (s : State) (x : Trap) : State :=
  let s := match x.oor with
    | none => s
    | some w => s.modCur fun c => if c.oorrec.getLsbD 41 then c else { c with oorrec := w }
  match x.launch with
  | some off => s.badLaunch off
  | none => s

theorem withTrapRecords_eq (s : State) (x : Trap) :
    withTrapRecords s x = { s with cores := (withTrapRecords s x).cores, queues := (withTrapRecords s x).queues } := by
  unfold withTrapRecords
  cases x.oor <;> cases x.launch
  case none.none | some.none => rfl
  case none.some => dsimp only; rw [badLaunch_eq]
  case some.some => dsimp only; rw [badLaunch_eq]; rfl

theorem takeTrap_eq (s : State) (x : Trap) :
    s.takeTrap x = (withTrapRecords s x).takeException s.ix.core x.cause x.detail x.slot s.ix.addr := by
  have ix : (withTrapRecords s x).ix = s.ix := by rw [withTrapRecords_eq]
  rw [← ix]
  rfl

/-- Before its exception a trap writes OORREC of the issuing core at most. -/
theorem withTrapRecords_core {s : State} (h : s.cur.run ≠ .off) (x : Trap) :
    (∃ w, (withTrapRecords s x).core s.ix.core = { s.cur with oorrec := w }) ∧ ∀ k, k ≠ s.ix.core → (withTrapRecords s x).core k = s.core k := by
  have cores : (withTrapRecords s x).cores = s.cores ∨
      ∃ w, (withTrapRecords s x).cores = (s.setCore s.ix.core { s.cur with oorrec := w }).cores := by
    unfold withTrapRecords
    have queues (s : State) : (match x.launch with
        | some off => s.badLaunch off
        | none => s).cores = s.cores := by
      cases x.launch with
      | none => rfl
      | some off => dsimp only; rw [badLaunch_eq]
    rw [queues]
    cases x.oor with
    | none => exact Or.inl rfl
    | some w =>
      refine Or.inr ⟨if s.cur.oorrec.getLsbD 41 then s.cur.oorrec else w, ?_⟩
      change (s.setCore _ (if s.cur.oorrec.getLsbD 41 then s.cur else _)).cores = _
      split <;> rfl
  obtain same | ⟨w, written⟩ := cores
  · have reads (k : Nat) : (withTrapRecords s x).core k = s.core k := congrArg (SMap.get Core.init · k) same
    exact ⟨⟨s.cur.oorrec, reads _⟩, fun k _ => reads k⟩
  · have reads (k : Nat) := congrArg (SMap.get Core.init · k) written
    have hne : ({ s.cur with oorrec := w } : Core) ≠ Core.init := Core.ne_init_of_run _ h
    exact ⟨⟨w, (reads _).trans (State.core_setCore_same_of_ne _ _ _ hne)⟩, fun k hk => (reads k).trans (State.core_setCore_other_of_ne _ _ _ _ hne hk)⟩

theorem takeException_cmds (s : State) (n : Nat) (cause detail : BitVec 8) (slot addr : Nat) :
    (s.takeException n cause detail slot addr).cmds = s.cmds := by
  unfold State.takeException
  dsimp only
  cases (s.core n).bind with
  | none => rfl
  | some b =>
    dsimp only
    split
    · rw [State.scheduleOnce_eq]; rfl
    · unfold State.endLaunch
      rw [State.scheduleOnce_eq]; rfl

/-- The frame of a trap: the other cores and the commands stand, and the issuing core's registers and writes in flight. -/
theorem takeTrap_frame {s : State} (h : s.cur.run ≠ .off) (x : Trap) :
    (∀ k, k ≠ s.ix.core → (s.takeTrap x).core k = s.core k) ∧ (s.takeTrap x).cmds = s.cmds ∧
    ((s.takeTrap x).core s.ix.core).pend = s.cur.pend ∧ ((s.takeTrap x).core s.ix.core).s = s.cur.s := by
  obtain ⟨⟨w, own⟩, others⟩ := withTrapRecords_core h x
  obtain ⟨taken, rest⟩ := takeException_core (withTrapRecords s x) s.ix.core x.cause x.detail x.slot s.ix.addr
  rw [takeTrap_eq]
  refine ⟨fun k hk => (rest k hk).trans (others k hk), ?_, ?_, ?_⟩
  · rw [takeException_cmds, withTrapRecords_eq]
  · rw [taken, own]
  · rw [taken, own]

/-- Settles O43: BUNDLE_ISSUE is `issueBundle` from the state before the bundle, whose one trap is R42's first and whose frame is a trap's. -/
theorem bundlesAreAtomic : Obligations.BundlesAreAtomic := by
  unfold Obligations.BundlesAreAtomic
  intro s n b h
  obtain ⟨hready, hdec⟩ := readyToIssue_of_issues h
  have hrun : (s.core n).run ≠ .off := by obtain ⟨-, hrun, -⟩ := hready; rw [hrun]; decide
  have issued : exec (.bundleIssue n) s = .next ((inSlot s n b 0).issueBundle b) := by rw [exec_bundleIssue hready, hdec]; rfl
  intro u causes
  refine ⟨fun quiet => ?_, fun raised => ?_⟩
  · rw [issued, issueBundle_ok (s := u) (readyToIssue_inSlot hready b 0) quiet]
  · obtain ⟨x, hx, taken, foremost⟩ := firstTrap_of_ne_nil raised
    obtain ⟨others, cmds, pend, regs⟩ := takeTrap_frame (s := u) hrun x
    obtain ⟨mem, memPend⟩ := State.takeTrap_mem u x
    exact ⟨x, hx, by rw [issued, issueBundle_trap (s := u) taken], foremost, others, mem, memPend, cmds, pend, regs⟩

end Sys2Proof.Claim
end

section
namespace Sys2Proof.Claim
open Sys2Proof Sys2Proof.Machine

/-! A step of the issue stage, and the instruction that a slot decodes to (R8, R16). -/

theorem step_issue {s : State} {n : Nat} {r : List Nat} (h : s.stage = .issue (n :: r)) :
    step s = exec (.bundleIssue n) { s with stage := .issue r } := by
  unfold step State.pick
  rw [h]

/-- A slot instruction alone is its own bundle's effects or exception. -/
theorem exec_eq_runOp {i : Instr} (h : slotsOf i ≠ []) (s : State) : exec i s = runOp (slotOp i) s := by
  cases i
  all_goals try exact absurd rfl h -- the steps of the part, which stand in no slot
  all_goals rfl

theorem decodeSlot_of_mem_slots {fetch : Nat → BitVec 32} {pc k : Nat} {b : Bundle} {i : Instr} (h : decodeBundle fetch pc = .ok b)
    (mem : (k, i) ∈ b.slots) : ∃ w, decodeSlot (slotFmt k) w = some i := by
  unfold decodeBundle at h
  split at h
  · cases h
  · dsimp only at h
    split at h
    · cases h
    · split at h
      · cases h
      · split at h
        · cases h
        · cases h
          obtain ⟨mem, -⟩ := List.mem_filter.mp mem
          obtain ⟨⟨j, w⟩, -, hw⟩ := List.mem_filterMap.mp mem
          obtain ⟨i', hi, heq⟩ := Option.map_eq_some_iff.mp hw
          cases heq
          exact ⟨w, hi⟩

theorem slotsOf_ne_nil_of_decodeSlot {k : Nat} {w : BitVec 64} {i : Instr} (h : decodeSlot (slotFmt k) w = some i) : slotsOf i ≠ [] := by
  obtain ⟨hn, -⟩ := decodeSlot_eq_some.mp h
  intro empty
  have hfit : fits i (slotFmt k) = true := nameSlot_fits hn
  rw [fits, empty] at hfit
  exact absurd hfit Bool.false_ne_true

theorem runSlots_single_ok {u t : State} {k : Nat} {i : Instr}
    (h : slotOp i { u with ix := { u.ix with slot := k } } { u with ix := { u.ix with slot := k } } = .ok t) : runSlots u [(k, i)] = (t, []) := by
  unfold runSlots
  rw [List.foldl_cons]
  dsimp only
  rw [h]
  rfl

theorem runSlots_single_error {u : State} {k : Nat} {i : Instr} {x : Trap}
    (h : slotOp i { u with ix := { u.ix with slot := k } } { u with ix := { u.ix with slot := k } } = .error x) : runSlots u [(k, i)] = (u, [x]) := by
  unfold runSlots
  rw [List.foldl_cons]
  dsimp only
  rw [h]
  rfl

/-- Settles O42: the step is BUNDLE_ISSUE of core n, and a bundle of one slot runs that slot's meaning as `exec` of it does. -/
theorem stepRunsDecodedInstruction : Obligations.StepRunsDecodedInstruction := by
  unfold Obligations.StepRunsDecodedInstruction
  intro s n r hstage s1 a
  refine ⟨fun b k i h hslots whole => ?_, fun hn hrun hgate hnext hlate hstop => ?_⟩
  · obtain ⟨hready, hdec⟩ := readyToIssue_of_issues h
    have hready : readyToIssue s1 n := hready
    obtain ⟨w, hw⟩ := decodeSlot_of_mem_slots hdec (hslots ▸ List.mem_singleton_self (k, i))
    have alone : exec i (inSlot s1 n b k) = runOp (slotOp i) (inSlot s1 n b k) := exec_eq_runOp (slotsOf_ne_nil_of_decodeSlot hw) _
    have issued : step s = .next ((inSlot s1 n b 0).issueBundle b) := by
      rw [step_issue hstage, exec_bundleIssue hready]
      change Host.Outcome.next (issueDecoded s1 n (decodeBundle (s.headerAt n) a)) = _
      rw [hdec]
      rfl
    have whole : bundleTraps ((inSlot s1 n b 0).core n) (inSlot s1 n b 0).ix.addr b = [] := whole
    refine ⟨fun t ok => ?_, fun x error => ?_⟩
    · have ran : runSlots (inSlot s1 n b 0) b.slots = (t, []) := hslots ▸ runSlots_single_ok ok
      refine ⟨alone.trans (runOp_ok ok), ?_⟩
      rw [issued, issueBundle_ok (s := inSlot s1 n b 0) (readyToIssue_inSlot hready b 0) (by rw [ran]; exact congrArg (· ++ []) whole), ran]
    · have ran : runSlots (inSlot s1 n b 0) b.slots = (inSlot s1 n b 0, [x]) := hslots ▸ runSlots_single_error error
      refine ⟨alone.trans (runOp_error error), ?_⟩
      rw [issued, issueBundle_trap (s := inSlot s1 n b 0) (x := x)]
      rw [ran]
      exact congrArg (fun l => firstTrap (l ++ [x])) whole
  · have hready : readyToIssue s1 n := ⟨hn, hrun, hgate, hnext, hlate, hstop⟩
    have issued : step s = .next (issueDecoded s1 n (decodeBundle (s.headerAt n) a)) := by
      rw [step_issue hstage]
      exact exec_bundleIssue hready
    refine ⟨fun bad => ?_, fun k b bad => ?_⟩
    · rw [issued, bad]
      rfl
    · obtain ⟨x, hx, hall, taken⟩ := rejectBundle_spec (inSlot s1 n b 0) k b
      refine ⟨x, hx, hall, ?_⟩
      rw [issued, bad, ← taken]
      rfl

end Sys2Proof.Claim
end

section
namespace Sys2Proof.Claim
open Sys2Proof Sys2Proof.Machine

/-! The frame of an instruction that works on registers alone: closed under putting a write of its destinations in flight. -/

/-- From s to t the issuing core has put writes of the registers dst in flight, and nothing else differs but the agenda. -/
def Framed (dst : List (Nat × Nat)) (s t : State) : Prop :=
  ∃ ws : List PendWrite, OnlyWrites s t ws ∧ ∀ w ∈ ws, ∀ x, named w.w = some x → x ∈ dst

theorem framed_refl (dst : List (Nat × Nat)) (s : State) : Framed dst s s :=
  ⟨[], ⟨⟨rfl, fun _ _ => rfl⟩, by rw [List.append_nil], fun _ => rfl⟩, by simp⟩

theorem framed_addWrite {dst : List (Nat × Nat)} {s t : State} (h : Framed dst s t) {w : RegWrite} {d : Nat × Nat} (hw : named w = some d) (hd : d ∈ dst)
    (lat : Nat) (fl : BitVec 6) (acc : Nat) : Framed dst s (t.addWrite w lat fl acc) := by
  obtain ⟨ws, ⟨⟨only, others⟩, own, mem⟩, names⟩ := h
  have ix : t.ix = s.ix := by rw [only]
  obtain ⟨written, rest, stands, -⟩ := State.addWrite_spec t w lat fl acc
  refine ⟨ws ++ [⟨t.clock + lat, t.clock, t.ix.slot, t.ix.addr, t.cur.tcyc, w, fl, acc⟩], ⟨⟨?_, ?_⟩, ?_, ?_⟩, ?_⟩
  · rw [State.addWrite_eq, only]
  · exact fun k hk => (rest k (ix ▸ hk)).trans (others k hk)
  · have cur : (t.addWrite w lat fl acc).cur = (t.addWrite w lat fl acc).core t.ix.core := by
      unfold State.cur; rw [State.addWrite_eq]
    rw [cur, written, own, List.append_assoc]
  · exact fun a => by rw [stands, mem a]
  · intro v hv x hx
    obtain old | new := List.mem_append.mp hv
    · exact names v old x hx
    · rw [List.mem_singleton.mp new, hw] at hx
      exact Option.some.inj hx ▸ hd

theorem framed_scheduleOnce {dst : List (Nat × Nat)} {s t : State} (h : Framed dst s t) (at_ prio : Nat) (ev : Instr) :
    Framed dst s (t.scheduleOnce at_ prio ev) := by
  obtain ⟨ws, ⟨⟨only, others⟩, own, mem⟩, names⟩ := h
  refine ⟨ws, ⟨⟨?_, ?_⟩, ?_, ?_⟩, names⟩
  · rw [State.scheduleOnce_eq, only]
  · exact fun k hk => (State.scheduleOnce_core _ _ _ _ k).trans (others k hk)
  · unfold State.cur at *
    rw [State.scheduleOnce_core, State.scheduleOnce_ix, own]
  · exact fun a => by rw [State.scheduleOnce_mem, mem a]

/-! The meanings by their shape: one write, under a predicate or not; a row's lanes; the head of a row. -/

/-- The meaning always has its effects, and these are framed. -/
def FramedOp (dst : List (Nat × Nat)) (f : Op) : Prop := ∀ s, ∃ t, f s s = .ok t ∧ Framed dst s t

/-- The answer is one write of register d in flight. -/
def IsWrite (d : Nat × Nat) (s : State) (r : Except Trap State) : Prop :=
  ∃ w lat fl acc, named w = some d ∧ r = .ok (s.addWrite w lat fl acc)

theorem framedOp_of_write {d : Nat × Nat} {f : Op} (h : ∀ s, IsWrite d s (f s s)) : FramedOp [d] f := by
  intro s
  obtain ⟨w, lat, fl, acc, hw, hf⟩ := h s
  exact ⟨_, hf, framed_addWrite (framed_refl _ s) hw (List.mem_singleton_self d) lat fl acc⟩

/-- A false predicate leaves the state as it is (R17). -/
theorem framedOp_of_guard {d : Nat × Nat} {f : Op} (p : Pred) (r : State → Except Trap State) (h : ∀ s, IsWrite d s (r s))
    (hf : ∀ s, f s s = if s.cur.holds p then r s else .ok s) : FramedOp [d] f := by
  intro s
  rw [hf s]
  split
  · exact framedOp_of_write (f := fun pre _ => r pre) h s
  · exact ⟨s, rfl, framed_refl _ s⟩

theorem framedOp_aluOp (o : SOps) (lat : Nat) (f : Word → Word → Word) : FramedOp [(0, o.sd.toNat)] (aluOp o lat f) :=
  framedOp_of_guard o.p _ (fun _ => ⟨.s o.sd _, _, _, _, rfl, rfl⟩) fun _ => rfl

theorem framedOp_fpOp (o : SOps) (lat : Nat) (f : Nat → Nat → Nat → Nat × Flags) : FramedOp [(0, o.sd.toNat)] (fpOp o lat f) :=
  framedOp_of_guard o.p _ (fun _ => ⟨.s o.sd _, _, _, _, rfl, rfl⟩) fun _ => rfl

theorem framedOp_cmpOp (o : SOps) (f : Word → Word → Bool) : FramedOp [(1, (o.sd.extractLsb' 0 4).toNat)] (cmpOp o f) :=
  framedOp_of_guard o.p _ (fun _ => ⟨.p (o.sd.extractLsb' 0 4) _, _, _, _, rfl, rfl⟩) fun _ => rfl

theorem framedOp_predOp (p : Pred) (o : PredOps) (f : Bool → Bool → Bool) : FramedOp [(1, o.pd.toNat)] (predOp p o f) :=
  framedOp_of_guard p _ (fun _ => ⟨.p o.pd _, _, _, _, rfl, rfl⟩) fun _ => rfl

/-- PSET writes its eight predicates one after the other (R56). -/
theorem framedOp_pset (p : Pred) (sa : BitVec 5) (h : Bool) :
    FramedOp ((List.range 8).map fun i => (1, (if h then 8 else 0) + i)) (opPset p sa h) := by
  intro s
  unfold opPset
  split
  · refine ⟨_, rfl, ?_⟩
    refine List.foldlRecOn (List.range 8) _ (framed_refl _ s) fun t ht i hi => ?_
    refine framed_addWrite ht rfl ?_ _ _ _
    have small : (BitVec.ofNat 4 ((if h then 8 else 0) + i)).toNat = (if h then 8 else 0) + i := by
      rw [List.mem_range] at hi
      rw [BitVec.toNat_ofNat, Nat.mod_eq_of_lt (by split <;> omega)]
    exact List.mem_map.mpr ⟨i, hi, by rw [small]⟩
  · exact ⟨s, rfl, framed_refl _ s⟩

theorem framedOp_streamOp (g : BitVec 4) (c : GChange) : FramedOp [(4, g.toNat)] (streamOp g c) :=
  framedOp_of_write fun _ => ⟨.g g c, _, _, _, rfl, rfl⟩

theorem isWrite_vWrite (s : State) (o : VOps) (lat : Nat) (l : List (Nat × Nat × Flags)) : IsWrite (3, o.vd.toNat) s (vWrite s o lat l) :=
  ⟨laneWrite o.vd _ _, _, _, _, rfl, rfl⟩

theorem isWrite_headWrite (s : State) (o : VOps) (lat w : Nat) (r : Option (Nat × Flags)) : IsWrite (3, o.vd.toNat) s (headWrite s o lat w r) := by
  cases r with
  | none => exact ⟨.row o.vd 0 0, _, _, _, rfl, rfl⟩
  | some r => exact ⟨.row o.vd _ _, _, _, _, rfl, rfl⟩

theorem framedOp_laneOp (o : VOps) (lat : Nat) (f : State → Nat → Nat × Flags) : FramedOp [(3, o.vd.toNat)] (laneOp o lat f) :=
  framedOp_of_write fun s => isWrite_vWrite s o lat _

theorem framedOp_cvtOp (o : VOps) (mode : State → Nat → Rnd) : FramedOp [(3, o.vd.toNat)] (cvtOp o mode) :=
  framedOp_of_write fun s => isWrite_vWrite s o 5 _

theorem framedOp_reduceOp (o : VOps) (g : Nat → Nat) (op : Nat → Nat → Nat × Flags) : FramedOp [(3, o.vd.toNat)] (reduceOp o g op) :=
  framedOp_of_write fun s => isWrite_headWrite s o 9 _ _

theorem framedOp_vramax (o : VOps) : FramedOp [(3, o.vd.toNat)] (opVramax o) := by
  unfold opVramax
  exact framedOp_reduceOp o _ _

theorem framedOp_kpop (o : VOps) : FramedOp [(3, o.vd.toNat)] (opKpop o) := by
  unfold opKpop
  exact framedOp_of_write fun s => isWrite_headWrite s o 2 32 _

theorem framedOp_vrsum (o : VOps) : FramedOp [(3, o.vd.toNat)] (opVrsum o) := by
  refine framedOp_of_write fun s => ?_
  unfold opVrsum
  dsimp only
  split
  · exact isWrite_headWrite s o 9 32 none
  · split
    · exact isWrite_headWrite s o 9 64 _
    · split <;> exact isWrite_headWrite s o 9 32 _

theorem framedOp_maskOp (o : VOps) (f : Mask → Mask → Mask) : FramedOp [(2, (o.vd.extractLsb' 0 4).toNat)] (maskOp o f) :=
  framedOp_of_write fun _ => ⟨.k (maskOf o.vd) _ _, _, _, _, rfl, rfl⟩

/-- PGQ's counts follow in the same cycle, which puts one event on the agenda (R248). -/
theorem framedOp_pgq (o : XOps) : FramedOp [(0, o.sd.toNat)] (opPgq o) := by
  intro s
  unfold opPgq
  dsimp only
  split
  · exact framedOp_of_write (f := fun pre cur => .ok (cur.writeS o.sd _ 2)) (fun _ => ⟨.s o.sd _, _, _, _, rfl, rfl⟩) s
  · exact ⟨_, rfl, framed_scheduleOnce (framed_addWrite (framed_refl _ s) rfl (List.mem_singleton_self _) _ _ _) _ _ _⟩

theorem slotsOf_ne_nil_of_destinations {i : Instr} {dst : List (Nat × Nat)} (h : destinations i = some dst) : slotsOf i ≠ [] := by
  cases i
  all_goals try exact List.cons_ne_nil _ _
  all_goals exact absurd h (Option.some_ne_none _).symm

/-- The meaning of every instruction with destinations is framed by them. -/
theorem framedOp_destinations {i : Instr} {dst : List (Nat × Nat)} (h : destinations i = some dst) : FramedOp dst (slotOp i) := by
  cases i
  all_goals try exact absurd h (Option.some_ne_none _).symm
  all_goals
    obtain rfl := Option.some.inj h
    delta slotOp
    dsimp only
  case add | sub | mul | mulh | mulhu | div | divu | rem | remu | and | or | xor | andn | shl | shr | sar | rot | min | max | minu | maxu | mov | clz
      | popc | bfx | sext | zext => exact framedOp_aluOp _ _ _
  case fadd | fsub | fmul | ffma | fmin | fmax | fminp | fmaxp | fsgn | fdiv | fsqrt => exact framedOp_fpOp _ _ _
  case cmp | cmpu => exact framedOp_cmpOp _ _
  case pand | por | pxor => exact framedOp_predOp _ _ _
  case sel | lit | bfi | fcvt => exact framedOp_of_guard _ _ (fun _ => ⟨.s _ _, _, _, _, rfl, rfl⟩) fun _ => rfl
  case pget | lidx => exact framedOp_of_guard _ _ (fun _ => ⟨.s _ _, _, _, _, rfl, rfl⟩) fun _ => rfl
  case fcmp => exact framedOp_of_guard _ _ (fun _ => ⟨.p _ _, _, _, _, rfl, rfl⟩) fun _ => rfl
  case pset => exact framedOp_pset _ _ _
  case gadv | grst | gpos | gmap => exact framedOp_streamOp _ _
  case gset | gsets => exact framedOp_of_write fun _ => ⟨.g _ _, _, _, _, rfl, rfl⟩
  case vadd | vsub | vmul | vfma | vfms | vfnma | vmin | vmax | vminp | vmaxp | vabs | vneg | vsel | vand | vor | vxor | vnot | vshl | vshr | vsar
      | vmov | vfill | viota | vexp2 | vlog2 | vrcp | vrsq | vsqrt | vtanh | vsigm | vgelu | vperm | vrot | vbcl | vzip | vunzp | vrng =>
    exact framedOp_laneOp _ _ _
  case vcvt | vcvts => exact framedOp_cvtOp _ _
  case vins | vfold | vscan => exact framedOp_of_write fun _ => isWrite_vWrite _ _ _ _
  case vqnt => exact framedOp_of_write fun _ => ⟨.row _ _ _, _, _, _, rfl, rfl⟩
  case vsplit => exact framedOp_of_write fun _ => ⟨laneWrite _ _ _, _, _, _, rfl, rfl⟩
  case vrsum => exact framedOp_vrsum _
  case vrmax | vrmin => exact framedOp_reduceOp _ _ _
  case vramax => exact framedOp_vramax _
  case kpop => exact framedOp_kpop _
  case kand | kor | kxor | knot => exact framedOp_maskOp _ _
  case vcmp | kset | ksetImm => exact framedOp_of_write fun _ => ⟨.k (maskOf _) _ _, _, _, _, rfl, rfl⟩
  case vext => exact framedOp_of_write fun _ => ⟨.s (scalarOf _) _, _, _, _, rfl, rfl⟩
  case bufq | rlfree | flgr | tcr | tlrd => exact framedOp_of_write fun _ => ⟨.s _ _, _, _, _, rfl, rfl⟩
  case xvalid => exact framedOp_of_write fun _ => ⟨.p _ _, _, _, _, rfl, rfl⟩
  case pgq => exact framedOp_pgq _

/-- Settles O39: such an instruction has its effects always, so what `exec` answers is those effects, and they are framed. -/
theorem registerInstructionFrame : Obligations.RegisterInstructionFrame := by
  unfold Obligations.RegisterInstructionFrame
  intro i dst s t hdst hexec
  obtain ⟨u, hu, framed⟩ := framedOp_destinations hdst s
  have answered : exec i s = .next u := (exec_eq_runOp (slotsOf_ne_nil_of_destinations hdst) s).trans (runOp_ok hu)
  obtain rfl : u = t := Host.Outcome.next.inj (answered.symm.trans hexec)
  exact framed

end Sys2Proof.Claim
end

section
namespace Sys2Proof.Claim
open Sys2Proof Sys2Proof.Machine

/-! The words written out from the encodings, and the state after reset. -/

/-- Settles O45: each word is evaluated by its slot's decoder. -/
theorem decodeWords : Obligations.DecodeWords := by
  unfold Obligations.DecodeWords
  exact ⟨rfl, rfl, rfl, rfl, rfl, rfl, rfl, rfl, rfl⟩

/-- Every lane mask but k0 is empty in a core after reset (R15, R78). -/
theorem init_kreg (r : BitVec 4) : Core.init.kreg r = if r = 0 then BitVec.allOnes 512 else 0 := by
  unfold Core.kreg
  by_cases hr : r = 0
  · rw [if_pos (by rw [hr]; rfl), if_pos hr]
  · have pos : 0 ≠ r.toNat := fun h => hr (BitVec.eq_of_toNat_eq h.symm)
    rw [if_neg (by simpa using hr), if_neg hr]
    exact (Vector.getElem_set_ne (by decide) r.isLt pos).trans (Vector.getElem_replicate r.isLt)

/-- Settles O46: no core is listed at reset, so every core reads as the initial one. -/
theorem resetState : Obligations.ResetState := by
  unfold Obligations.ResetState
  refine ⟨⟨rfl, rfl⟩, rfl, rfl, rfl, rfl, rfl, rfl, rfl, rfl, fun n => ?_⟩
  have unlisted : State.reset.core n = Core.init := rfl
  rw [unlisted]
  refine ⟨rfl, rfl, rfl, rfl, rfl, rfl, rfl, rfl, rfl, rfl, rfl, rfl, ?_, ?_, ?_⟩
  · decide
  · exact init_kreg
  · decide

end Sys2Proof.Claim
end

section
namespace Sys2Proof.Claim
open Sys2Proof Sys2Proof.Machine

/-! Writes in flight: one, a list of them, and instructions whose predicate is false (R17, R18). -/

theorem onlyWrites_refl (s : State) : OnlyWrites s s [] :=
  ⟨⟨rfl, fun _ _ => rfl⟩, by rw [List.append_nil], fun _ => rfl⟩

theorem onlyWrites_trans {s t u : State} {ws vs : List PendWrite} (h : OnlyWrites s t ws) (g : OnlyWrites t u vs) : OnlyWrites s u (ws ++ vs) := by
  obtain ⟨⟨onlyT, othersT⟩, curT, memT⟩ := h
  obtain ⟨⟨onlyU, othersU⟩, curU, memU⟩ := g
  have ix : t.ix = s.ix := by rw [onlyT]
  refine ⟨⟨by rw [onlyU, onlyT], fun k hk => (othersU k (ix ▸ hk)).trans (othersT k hk)⟩, ?_, fun a => (memU a).trans (memT a)⟩
  rw [curU, curT, List.append_assoc]

theorem onlyWrites_addWrite (s : State) (w : RegWrite) (lat : Nat) (flags : BitVec 6) (acc : Nat) :
    OnlyWrites s (s.addWrite w lat flags acc) [inFlight s w lat flags acc] := by
  obtain ⟨written, others, mem, -⟩ := State.addWrite_spec s w lat flags acc
  have ix : (s.addWrite w lat flags acc).ix = s.ix := by rw [State.addWrite_eq]
  refine ⟨⟨State.addWrite_eq s w lat flags acc, others⟩, ?_, fun a => by rw [mem]⟩
  unfold State.cur at *
  rw [ix, written]
  rfl

/-- What a write in flight carries of its state stands while writes are put in flight. -/
theorem inFlight_of_onlyWrites {s t : State} {ws : List PendWrite} (h : OnlyWrites s t ws) (w : RegWrite) (lat : Nat) (flags : BitVec 6) (acc : Nat) :
    inFlight t w lat flags acc = inFlight s w lat flags acc := by
  obtain ⟨⟨only, -⟩, cur, -⟩ := h
  unfold inFlight
  rw [cur, only]

theorem onlyWrites_foldl {α : Type} (f : α → RegWrite) (lat : Nat) (l : List α) (s : State) :
    OnlyWrites s (l.foldl (fun s x => s.addWrite (f x) lat) s) (l.map fun x => inFlight s (f x) lat 0 0) := by
  induction l generalizing s with
  | nil => exact onlyWrites_refl s
  | cons x l ih =>
    have first := onlyWrites_addWrite s (f x) lat 0 0
    have rest := ih (s.addWrite (f x) lat)
    simp only [inFlight_of_onlyWrites first] at rest
    exact onlyWrites_trans first rest

theorem slotsOf_ne_nil_of_guard {i : Instr} {p : Pred} (hp : guardOf i = some p) : slotsOf i ≠ [] := by
  cases i
  all_goals try exact List.cons_ne_nil _ _
  all_goals exact absurd hp (Option.some_ne_none _).symm

/-- An instruction under a false predicate answers the state as it is. -/
theorem exec_of_guard_false {i : Instr} {p : Pred} {s : State} (hp : guardOf i = some p) (off : s.cur.holds p = false) : exec i s = .next s := by
  have stands : slotOp i s s = .ok s := by
    have no : ¬s.cur.holds p = true := by rw [off]; exact Bool.false_ne_true
    have yes : (!s.cur.holds p) = true := by rw [off]; rfl
    cases i
    all_goals try exact absurd hp (Option.some_ne_none _).symm -- the instructions that carry no predicate
    all_goals obtain rfl := Option.some.inj hp
    case calli | ret | brkl | sld | slds | sst => exact if_pos yes
    all_goals exact if_neg no
  exact (exec_eq_runOp (slotsOf_ne_nil_of_guard hp) s).trans (runOp_ok stands)

/-- Settles O1: a write is one entry of the issuing core's list with its event on the agenda, and a false predicate skips the meaning. -/
theorem issuedWrites : Obligations.IssuedWrites := by
  unfold Obligations.IssuedWrites
  refine ⟨fun s w lat flags acc => ⟨onlyWrites_addWrite s w lat flags acc, ?_⟩, fun _ _ _ => exec_of_guard_false⟩
  obtain ⟨-, -, -, planned⟩ := State.addWrite_spec s w lat flags acc
  exact planned

end Sys2Proof.Claim
end

section
namespace Sys2Proof.Claim
open Sys2Proof Sys2Proof.Machine

/-! The writes of a back-edge (R51, R67, R132). -/

theorem onlyWrites_stagePreds (s : State) (r : Replay) (i : Nat) : OnlyWrites s (s.stagePreds r i) (stageWrites s r i) := by
  have inRange (k : Nat) : decide (k ≤ i ∧ i - k < r.count.toNat) = (decide (k ≤ i) && decide (i < k + r.count.toNat)) := by
    rw [← Bool.decide_and, decide_eq_decide]
    omega
  unfold stageWrites
  simp only [inRange]
  exact onlyWrites_foldl (fun k => RegWrite.p (BitVec.ofNat 4 (8 + k)) (decide (k ≤ i) && decide (i < k + r.count.toNat))) 1 (List.range r.stages) s

theorem onlyWrites_changeStreams (s : State) (g : GChange) : OnlyWrites s (s.changeStreams g) (onEveryStream s g) :=
  onlyWrites_foldl (fun i => RegWrite.g (BitVec.ofNat 4 i) g) 1 (List.range 16) s

/-- Writes put in flight one after the other carry the same state. -/
theorem backWrites_congr {s t : State} (h : ∀ w, inFlight t w 1 0 0 = inFlight s w 1 0 0) (l : LoopLevel) (depth : Nat) :
    backWrites t l depth = backWrites s l depth := by
  unfold backWrites onEveryStream stageWrites
  simp only [h]

theorem onlyWrites_backEdge (s : State) (l : LoopLevel) : OnlyWrites s (s.backEdge l) (backWrites s l (s.cur.loops.length - 1)) := by
  unfold State.backEdge backWrites
  cases l.replay with
  | none => exact onlyWrites_changeStreams s _
  | some r =>
    have deltas := onlyWrites_foldl (fun x : BitVec 4 × BitVec 28 => RegWrite.g x.1 (.delta x.2)) 1 r.deltas s
    have stages := onlyWrites_trans deltas (onlyWrites_stagePreds _ r l.index.toNat)
    have all := onlyWrites_trans stages (onlyWrites_changeStreams _ (.advance (s.cur.loops.length - 1)))
    unfold stageWrites onEveryStream at all
    simp only [inFlight_of_onlyWrites deltas, inFlight_of_onlyWrites stages] at all
    exact all

/-! The loop-end test (R51). -/

theorem loopEnd_pops {a len : Nat} {pre : List LoopLevel} (h : ∀ x ∈ pre, x.endsAt a len = true ∧ x.count.toNat ≤ 1) (rest : List LoopLevel) :
    loopEnd a len (pre ++ rest) = loopEnd a len rest := by
  induction pre with
  | nil => rfl
  | cons x pre ih =>
    obtain ⟨⟨ends, last⟩, others⟩ := List.forall_mem_cons.mp h
    rw [List.cons_append, loopEnd, if_pos ends, if_neg (by omega)]
    exact ih others

theorem loopEnd_stands {a len : Nat} {ls : List LoopLevel} (h : ∀ l ∈ ls.head?, l.endsAt a len = false) : loopEnd a len ls = (ls, none) := by
  cases ls with
  | nil => rfl
  | cons l r => rw [loopEnd, if_neg (by rw [h l rfl]; exact Bool.false_ne_true)]

theorem loopEnd_turns {a len : Nat} {l : LoopLevel} (ends : l.endsAt a len = true) (more : 1 < l.count.toNat) (r : List LoopLevel) :
    loopEnd a len (l :: r) =
      ({ l with count := l.count - 1, index := l.index + 1 } :: r, some { l with count := l.count - 1, index := l.index + 1 }) := by
  rw [loopEnd, if_pos ends, if_pos more]

/-- A level that goes round is the innermost of those that stay. -/
theorem loopEnd_cases (a len : Nat) (ls : List LoopLevel) :
    (∃ r, loopEnd a len ls = (r, none)) ∨ ∃ l r, loopEnd a len ls = (l :: r, some l) := by
  induction ls with
  | nil => exact Or.inl ⟨[], rfl⟩
  | cons l r ih =>
    rw [loopEnd]
    split
    · split
      · exact Or.inr ⟨_, _, rfl⟩
      · exact ih
    · exact Or.inl ⟨_, rfl⟩

/-! The issuing core after the end of a bundle. -/

/-- The issuing core reads as it was written, where its next issue is not that of a core after reset. -/
theorem cur_modCur {s : State} {f : Core → Core} (h : 0 < (f s.cur).nextIssue) : (s.modCur f).cur = f s.cur :=
  State.core_setCore_same_of_ne s s.ix.core (f s.cur) fun e => absurd (congrArg Core.nextIssue e) (Nat.ne_of_gt h)

theorem next_pos (s : State) : 0 < s.clock + 1 + s.ix.idle := by omega

theorem finishBundle_transfer {s : State} (h : s.ix.transfer = true) :
    s.finishBundle.cur = { s.cur with pc := BitVec.ofNat 32 s.ix.next, nextIssue := s.clock + 1 + s.ix.idle } := by
  unfold State.finishBundle
  dsimp only
  rw [if_pos h, cur_modCur (next_pos s)]

theorem finishBundle_falls {s : State} {ls : List LoopLevel} (h : s.ix.transfer = false) (test : loopEnd s.ix.addr s.ix.len s.cur.loops = (ls, none)) :
    s.finishBundle.cur = { s.cur with loops := ls, nextIssue := s.clock + 1 + s.ix.idle, pc := BitVec.ofNat 32 (s.ix.addr + s.ix.len) } := by
  have looped := cur_modCur (s := s) (f := fun c => { c with loops := ls, nextIssue := s.clock + 1 + s.ix.idle }) (next_pos s)
  unfold State.finishBundle
  dsimp only
  rw [if_neg (by rw [h]; exact Bool.false_ne_true), test]
  dsimp only
  rw [cur_modCur (by rw [looped]; exact next_pos s), looped]
  rfl

theorem finishBundle_turns {s : State} {l : LoopLevel} {r : List LoopLevel} (h : s.ix.transfer = false)
    (test : loopEnd s.ix.addr s.ix.len s.cur.loops = (l :: r, some l)) :
    s.finishBundle.cur = { s.cur with
      loops := l :: r, nextIssue := s.clock + 1 + s.ix.idle, pc := l.start.zeroExtend 32,
      pend := s.cur.pend ++ backWrites { s with ix := { s.ix with slot := 15 } } l r.length } := by
  let t := s.modCur fun c => { c with loops := l :: r, nextIssue := s.clock + 1 + s.ix.idle }
  let u : State := { t with ix := { t.ix with slot := 15 } }
  have looped : u.cur = { s.cur with loops := l :: r, nextIssue := s.clock + 1 + s.ix.idle } :=
    cur_modCur (s := s) (f := fun c => { c with loops := l :: r, nextIssue := s.clock + 1 + s.ix.idle }) (next_pos s)
  have carried (w : RegWrite) : inFlight u w 1 0 0 = inFlight { s with ix := { s.ix with slot := 15 } } w 1 0 0 := by
    unfold inFlight
    rw [looped]
    rfl
  obtain ⟨-, edge, -⟩ := onlyWrites_backEdge u l
  rw [looped, backWrites_congr carried] at edge
  have turned : s.finishBundle = (u.backEdge l).modCur fun c => { c with pc := l.start.zeroExtend 32 } := by
    unfold State.finishBundle
    dsimp only
    rw [if_neg (by rw [h]; exact Bool.false_ne_true), test]
  rw [turned, cur_modCur (by rw [edge]; exact next_pos s), edge]
  rfl

/-- Settles O10: the loop-end test gives the levels that stay and the one that goes round, whose back-edge is writes in flight alone. -/
theorem bundleEndAndLoops : Obligations.BundleEndAndLoops := by
  unfold Obligations.BundleEndAndLoops
  intro s t
  refine ⟨?_, fun h => ?_, fun h out => ?_, fun pre l post h split last ends more => ?_, fun pre post h split last out => ?_⟩
  · cases h : s.ix.transfer with
    | true => exact congrArg Core.nextIssue (finishBundle_transfer h)
    | false =>
      obtain ⟨r, test⟩ | ⟨l, r, test⟩ := loopEnd_cases s.ix.addr s.ix.len s.cur.loops
      · exact congrArg Core.nextIssue (finishBundle_falls h test)
      · exact congrArg Core.nextIssue (finishBundle_turns h test)
  · rw [finishBundle_transfer h]
    exact ⟨rfl, rfl, rfl⟩
  · rw [finishBundle_falls h (loopEnd_stands out)]
    exact ⟨rfl, rfl, rfl⟩
  · have test := (loopEnd_pops last (l :: post)).trans (loopEnd_turns ends more post)
    rw [finishBundle_turns h (split ▸ test)]
    exact ⟨rfl, rfl, rfl⟩
  · have test := (loopEnd_pops last post).trans (loopEnd_stands out)
    rw [finishBundle_falls h (split ▸ test)]
    exact ⟨rfl, rfl, rfl⟩

end Sys2Proof.Claim
end

section
namespace Sys2Proof.Claim
open Sys2Proof Sys2Proof.Machine

/-! The keys of a canonical map. -/

theorem mem_of_get_ne {α : Type} {d : α} {m : SMap α} {n : Nat} (h : SMap.get d m n ≠ d) : (n, SMap.get d m n) ∈ m := by
  induction m with
  | nil => exact absurd rfl h
  | cons e r ih =>
    obtain ⟨k, v⟩ := e
    unfold SMap.get at h ⊢
    split at h
    next hk => rw [if_pos hk, hk]; exact List.mem_cons_self
    next hk =>
      split at h
      · exact absurd rfl h
      next hlt => rw [if_neg hk, if_neg hlt]; exact List.mem_cons_of_mem _ (ih h)

theorem le_of_mem_wfFrom {α : Type} [DecidableEq α] {d : α} {m : SMap α} {lo k : Nat} (w : SMap.wfFrom d lo m = true) (h : k ∈ m.map Prod.fst) :
    lo ≤ k := by
  induction m generalizing lo with
  | nil => exact absurd h List.not_mem_nil
  | cons e r ih =>
    obtain ⟨j, v⟩ := e
    obtain ⟨hj, -, hr⟩ := (SMap.wfFrom_cons d lo j v r).mp w
    obtain rfl | h := List.mem_cons.mp h
    · exact hj
    · exact (hj.trans (Nat.le_succ j)).trans (ih hr h)

theorem keys_nodup {α : Type} [DecidableEq α] {d : α} {m : SMap α} {lo : Nat} (w : SMap.wfFrom d lo m = true) : (m.map Prod.fst).Nodup := by
  induction m generalizing lo with
  | nil => exact List.nodup_nil
  | cons e r ih =>
    obtain ⟨j, v⟩ := e
    obtain ⟨-, -, hr⟩ := (SMap.wfFrom_cons d lo j v r).mp w
    exact List.nodup_cons.mpr ⟨fun h => absurd (le_of_mem_wfFrom hr h) (Nat.not_succ_le_self j), ih hr⟩

/-! State updates that change each core in one way, and leave the clock and the pairs. -/

/-- From s to t the clock and the pairs stand, the map of cores is canonical, and each core changes as R allows. -/
structure CoresBy (R : Nat → Core → Core → Prop) (s t : State) : Prop where
  clock : t.clock = s.clock
  pairs : t.pairs = s.pairs
  wf : SMap.wf Core.init t.cores = true
  cores : ∀ n, R n (s.core n) (t.core n)

theorem coresBy_setCore {R : Nat → Core → Core → Prop} (refl : ∀ n c, R n c c) {s : State} (w : SMap.wf Core.init s.cores = true) {n : Nat} {c : Core}
    (h : R n (s.core n) c) : CoresBy R s (s.setCore n c) where
  clock := rfl
  pairs := rfl
  wf := State.setCore_wf s n c w
  cores k := by
    by_cases hk : k = n
    · subst hk; rw [State.core_setCore_same s k c w]; exact h
    · rw [State.core_setCore_other s n k c w hk]; exact refl k _

theorem coresBy_foldl {R : Nat → Core → Core → Prop} (refl : ∀ n c, R n c c) (trans : ∀ n c d e, R n c d → R n d e → R n c e) {α : Type}
    {f : State → α → State} (step : ∀ s x, SMap.wf Core.init s.cores = true → CoresBy R s (f s x)) (l : List α) {s : State}
    (w : SMap.wf Core.init s.cores = true) : CoresBy R s (l.foldl f s) := by
  induction l generalizing s with
  | nil => exact ⟨rfl, rfl, w, fun n => refl n _⟩
  | cons x l ih =>
    have first := step s x w
    have rest := ih first.wf
    exact ⟨rest.clock.trans first.clock, rest.pairs.trans first.pairs, rest.wf, fun n => trans n _ _ _ (first.cores n) (rest.cores n)⟩

def withBufs (c : Core) (b : SMap Buf) : Core := { c with bufs := b }

def withLate (c : Core) (f : Option LateFault) : Core := { c with late := f }

/-- A core's buffers alone change (R147). -/
def OnlyBufs (_ : Nat) (c d : Core) : Prop := ∃ b, d = withBufs c b

/-- The fault kept for the next bundle boundary alone changes (R419), and of core n only. -/
def OnlyLate (n k : Nat) (c d : Core) : Prop := (∃ f, d = withLate c f) ∧ (k ≠ n → d = c)

theorem onlyBufs_refl (n : Nat) (c : Core) : OnlyBufs n c c := ⟨c.bufs, rfl⟩

theorem onlyBufs_trans (n : Nat) (c d e : Core) (h : OnlyBufs n c d) (g : OnlyBufs n d e) : OnlyBufs n c e := by
  obtain ⟨_, rfl⟩ := h
  obtain ⟨b, rfl⟩ := g
  exact ⟨b, rfl⟩

theorem onlyLate_refl (n k : Nat) (c : Core) : OnlyLate n k c c := ⟨⟨c.late, rfl⟩, fun _ => rfl⟩

theorem onlyLate_trans (n k : Nat) (c d e : Core) (h : OnlyLate n k c d) (g : OnlyLate n k d e) : OnlyLate n k c e := by
  obtain ⟨⟨_, hd⟩, hk⟩ := h
  obtain ⟨⟨f, he⟩, gk⟩ := g
  exact ⟨⟨f, by rw [he, hd]; rfl⟩, fun other => (gk other).trans (hk other)⟩

theorem coresBy_applyBuf {s : State} (w : SMap.wf Core.init s.cores = true) (b : BufPend) : CoresBy OnlyBufs s (s.applyBuf b) := by
  unfold State.applyBuf
  dsimp only
  split
  · exact coresBy_setCore onlyBufs_refl w ⟨_, rfl⟩
  · exact ⟨rfl, rfl, w, fun n => onlyBufs_refl n _⟩

theorem coresBy_applyBufs {s : State} (w : SMap.wf Core.init s.cores = true) : CoresBy OnlyBufs s s.applyBufs := by
  obtain ⟨clock, pairs, wf, cores⟩ := coresBy_foldl onlyBufs_refl onlyBufs_trans (fun _ b w => coresBy_applyBuf w b)
    ((s.bufPend.filter fun b => decide (b.due ≤ s.clock)).filter (fun b => !b.engine) ++ (s.bufPend.filter fun b => decide (b.due ≤ s.clock)).filter (·.engine))
    (s := { s with bufPend := s.bufPend.filter fun b => !decide (b.due ≤ s.clock) }) w
  exact ⟨clock, pairs, wf, cores⟩

theorem coresBy_lateFault {s : State} (w : SMap.wf Core.init s.cores = true) (n : Nat) (cause detail : BitVec 8) (slot addr issued : Nat) :
    CoresBy (OnlyLate n) s (s.lateFault n cause detail slot addr issued) := by
  have kept (f : Option LateFault) : CoresBy (OnlyLate n) s (s.setCore n (withLate (s.core n) f)) :=
    coresBy_setCore (onlyLate_refl n) w ⟨⟨f, rfl⟩, fun h => absurd rfl h⟩
  have recorded (f : Option LateFault) (at_ prio : Nat) (ev : Instr) :
      CoresBy (OnlyLate n) s ((s.setCore n (withLate (s.core n) f)).scheduleOnce at_ prio ev) := by
    obtain ⟨clock, pairs, wf, cores⟩ := kept f
    rw [State.scheduleOnce_eq]
    exact ⟨clock, pairs, wf, cores⟩
  unfold State.lateFault
  dsimp only
  split
  case h_1 | h_2 | h_3 => exact recorded _ _ _ _
  case h_4 => exact kept _
  all_goals exact ⟨rfl, rfl, w, fun k => onlyLate_refl n k _⟩

/-! WRITE_VISIBLE as a function of each core's writes in flight (R18). -/

/-- The writes of a core that are due, a PGQ word with its counts. -/
def dueWrites (s : State) (c : Core) : List PendWrite := (c.pend.map s.countGate).filter fun w => decide (w.due ≤ s.clock)

/-- The writes that a bank's ports turn away, one of each bank that has too many (R45). -/
def turnedAway (due : List PendWrite) : List PendWrite := [0, 1, 2, 3].filterMap (portExcess due)

/-- The writes that take effect: no row's, where the ports turn one away (R45). -/
def liveWrites (due : List PendWrite) : List PendWrite := if (turnedAway due).isEmpty then due else due.filter fun w => !w.isRow

/-- Writes in the order of their slots (R127). -/
def bySlot (due : List PendWrite) : List PendWrite := due.foldl (fun l w => insertSlot w l) []

/-- The flags of one write. -/
def raiseWrite (c : Core) (w : PendWrite) : Core := c.raise w.flags w.slot w.addr w.stamp

/-- The flags of writes that become visible together (R127). -/
def raiseAll (c : Core) (due : List PendWrite) : Core := (bySlot due).foldl raiseWrite c

/-- A core whose due writes have left those in flight. -/
def withoutDue (s : State) (c : Core) : Core := { c with pend := (c.pend.map s.countGate).filter fun w => !decide (w.due ≤ s.clock) }

/-- The due writes as they take effect. -/
def effects (s : State) (c : Core) : List PendWrite := (orderWrites (liveWrites (dueWrites s c))).1

/-- Two of the core's due writes have collided. -/
def collided (s : State) (c : Core) : Bool := (orderWrites (liveWrites (dueWrites s c))).2

/-- The core with its registers written. -/
def written (s : State) (c : Core) : Core := (effects s c).foldl Core.applyWrite (withoutDue s c)

/-- The core with its registers written and WCOL, before the flag events. -/
def beforeEvents (s : State) (c : Core) : Core := if collided s c = true then (written s c).collide else written s c

/-- A core after WRITE_VISIBLE, but for its buffers and the fault of a port excess. -/
def visibleCore (s : State) (c : Core) : Core := raiseAll (beforeEvents s c) (dueWrites s c)

theorem applyRegs_eq (s : State) (n : Nat) : s.applyRegs n =
    (turnedAway (dueWrites s (s.core n))).foldl (fun (s : State) w => s.lateFault n 0x13 0 w.slot w.addr w.issued)
      (s.setCore n (visibleCore s (s.core n))) := rfl

theorem visibleCore_congr {s t : State} (clock : t.clock = s.clock) (pairs : t.pairs = s.pairs) (c : Core) : visibleCore t c = visibleCore s c := by
  unfold visibleCore beforeEvents written collided effects withoutDue dueWrites State.countGate State.pair
  rw [clock, pairs]

theorem visibleCore_of_pend_nil (s : State) {c : Core} (h : c.pend = []) : visibleCore s c = c := by
  cases c
  subst h
  rfl

/-- Each core listed takes its due writes and perhaps a fault of its ports; the others stand. -/
def TakesDue (s : State) (l : List Nat) (k : Nat) (c d : Core) : Prop := (k ∈ l → ∃ f, d = withLate (visibleCore s c) f) ∧ (k ∉ l → d = c)

theorem coresBy_applyRegs {s : State} (w : SMap.wf Core.init s.cores = true) (n : Nat) : CoresBy (TakesDue s [n]) s (s.applyRegs n) := by
  rw [applyRegs_eq]
  have taken : SMap.wf Core.init (s.setCore n (visibleCore s (s.core n))).cores = true := State.setCore_wf s n _ w
  obtain ⟨clock, pairs, wf, cores⟩ := coresBy_foldl (onlyLate_refl n) (onlyLate_trans n)
    (fun s (w : PendWrite) h => coresBy_lateFault h n 0x13 0 w.slot w.addr w.issued) (turnedAway (dueWrites s (s.core n))) taken
  refine ⟨clock, pairs, wf, fun k => ⟨fun listed => ?_, fun other => ?_⟩⟩
  · obtain rfl := List.mem_singleton.mp listed
    obtain ⟨⟨f, late⟩, -⟩ := cores k
    rw [State.core_setCore_same s k _ w] at late
    exact ⟨f, late⟩
  · have hk : k ≠ n := fun h => other (List.mem_singleton.mpr h)
    obtain ⟨-, stands⟩ := cores k
    exact (stands hk).trans (State.core_setCore_other s n k _ w hk)

theorem coresBy_applyRegs_foldl {l : List Nat} (once : l.Nodup) {s : State} (w : SMap.wf Core.init s.cores = true) :
    CoresBy (TakesDue s l) s (l.foldl State.applyRegs s) := by
  induction l generalizing s with
  | nil => exact ⟨rfl, rfl, w, fun _ => ⟨fun h => absurd h List.not_mem_nil, fun _ => rfl⟩⟩
  | cons n l ih =>
    obtain ⟨fresh, once⟩ := List.nodup_cons.mp once
    have first := coresBy_applyRegs w n
    have rest := ih once first.wf
    refine ⟨rest.clock.trans first.clock, rest.pairs.trans first.pairs, rest.wf, fun k => ?_⟩
    obtain ⟨now, before⟩ := first.cores k
    obtain ⟨later, after⟩ := rest.cores k
    by_cases hk : k = n
    · subst hk
      rw [List.mem_singleton] at now
      obtain ⟨f, taken⟩ := now rfl
      exact ⟨fun _ => ⟨f, (after fresh).trans taken⟩, fun out => absurd List.mem_cons_self out⟩
    · rw [List.mem_singleton] at before
      rw [before hk, visibleCore_congr first.clock first.pairs] at later
      rw [before hk] at after
      exact ⟨fun h => later ((List.mem_cons.mp h).resolve_left hk), fun h => after fun hl => h (List.mem_cons_of_mem n hl)⟩

/-- A core with writes in flight is listed. -/
theorem listed_of_pend {s : State} {n : Nat} (h : (s.core n).pend ≠ []) : n ∈ (s.cores.filter fun kc => !kc.2.pend.isEmpty).map (·.1) := by
  have entry : (n, s.core n) ∈ s.cores := mem_of_get_ne (Core.ne_init_of_pend _ h)
  exact List.mem_map.mpr ⟨_, List.mem_filter.mpr ⟨entry, by simpa using h⟩, rfl⟩

/-- WRITE_VISIBLE core by core. -/
theorem exec_writeVisible {s : State} (h : Canon s) :
    ∃ t, exec .writeVisible s = .next t ∧ ∀ n, ∃ b f, t.core n = withLate (visibleCore s (withBufs (s.core n) b)) f := by
  obtain ⟨-, wf⟩ := h
  refine ⟨_, rfl, fun n => ?_⟩
  have bufs := coresBy_applyBufs wf
  have once : ((s.applyBufs.applyMem.cores.filter fun kc => !kc.2.pend.isEmpty).map (·.1)).Nodup := keys_nodup (SMap.filter_wf _ _ _ bufs.wf)
  obtain ⟨taken, stands⟩ := (coresBy_applyRegs_foldl (s := s.applyBufs.applyMem) once bufs.wf).cores n
  obtain ⟨b, hb⟩ := bufs.cores n
  have read : s.applyBufs.applyMem.core n = withBufs (s.core n) b := hb
  have seen : visibleCore s.applyBufs.applyMem (s.applyBufs.applyMem.core n) = visibleCore s (withBufs (s.core n) b) := by
    rw [read]
    exact visibleCore_congr bufs.clock bufs.pairs _
  refine ⟨b, ?_⟩
  rw [seen] at taken
  by_cases listed : n ∈ (s.applyBufs.applyMem.cores.filter fun kc => !kc.2.pend.isEmpty).map (·.1)
  · exact taken listed
  · have empty : (s.applyBufs.applyMem.core n).pend = [] := not_not.mp (mt listed_of_pend listed)
    rw [← seen, visibleCore_of_pend_nil _ empty]
    exact ⟨_, stands listed⟩

end Sys2Proof.Claim
end

section
namespace Sys2Proof.Claim
open Sys2Proof Sys2Proof.Machine

/-! What a write names, and what the counts of a PGQ leave of it (R248). -/

/-- A write names register x. -/
def names (x : Nat × Nat) (w : PendWrite) : Bool := named w.w == some x

/-- A write that wins or loses by R19: of every register, a GLD among those of a stream. -/
def contends (w : PendWrite) : Bool := w.w.key.isSome

/-- A change of a stream in place p of R133's order. -/
def placed (p : Nat) (w : PendWrite) : Bool := w.place == some p

theorem names_iff {x : Nat × Nat} {w : PendWrite} : names x w = true ↔ named w.w = some x := beq_iff_eq

theorem key_eq_some {w : PendWrite} {x : Nat × Nat} : w.w.key = some x ↔ names x w = true ∧ contends w = true := by
  rw [names_iff]
  unfold contends RegWrite.key named
  cases w.w with
  | g r c => cases c <;> simp
  | _ => simp

/-- A change of a stream has its place: first a GLD, then the A slot's changes, then those of loops and replays. -/
theorem contends_or_placed {w : PendWrite} {x : Nat × Nat} (h : names x w = true) : contends w = !(placed 1 w || placed 2 w) := by
  rw [names_iff] at h
  unfold contends placed PendWrite.place RegWrite.key
  unfold named at h
  cases hw : w.w with
  | g r c => cases c <;> rfl
  | none => rw [hw] at h; exact absurd h (Option.some_ne_none x).symm
  | _ => rfl

theorem not_placed_of_contends {w : PendWrite} {x : Nat × Nat} (h : names x w = true) (k : contends w = true) : placed 1 w = false ∧ placed 2 w = false := by
  rwa [contends_or_placed h, Bool.not_eq_true', Bool.or_eq_false_iff] at k

theorem contends_of_names {w : PendWrite} {x : Nat × Nat} (hx : x.1 ≠ 4) (h : names x w = true) : contends w = true := by
  rw [names_iff] at h
  unfold contends RegWrite.key
  unfold named at h
  cases hw : w.w with
  | g r c =>
    rw [hw] at h
    exact absurd (congrArg Prod.fst (Option.some.inj h)).symm hx
  | none => rw [hw] at h; exact absurd h (Option.some_ne_none x).symm
  | _ => rfl

theorem not_isRow_of_names {w : PendWrite} {x : Nat × Nat} (hx : x.1 ≠ 3) (h : names x w = true) : w.isRow = false := by
  rw [names_iff] at h
  unfold PendWrite.isRow
  unfold named at h
  cases hw : w.w with
  | row r v m =>
    rw [hw] at h
    exact absurd (congrArg Prod.fst (Option.some.inj h)).symm hx
  | _ => rfl

theorem countGate_of_ne (s : State) {w : PendWrite} (h : ∀ r k v, w.w ≠ .gateCounts r k v) : s.countGate w = w := by
  unfold State.countGate
  split
  next r k v hw => exact absurd hw (h r k v)
  next => rfl

/-- The counts change the value alone. -/
theorem countGate_eq (s : State) (w : PendWrite) : s.countGate w = { w with w := (s.countGate w).w } := by
  unfold State.countGate
  split <;> rfl

theorem named_countGate (s : State) (w : PendWrite) : named (s.countGate w).w = named w.w := by
  unfold State.countGate
  split
  next hw => rw [hw]; rfl
  next => rfl

theorem isRow_countGate (s : State) (w : PendWrite) : (s.countGate w).isRow = w.isRow := by
  unfold State.countGate
  split
  next hw => unfold PendWrite.isRow; rw [hw]
  next => rfl

@[simp] theorem countGate_due (s : State) (w : PendWrite) : (s.countGate w).due = w.due := by rw [countGate_eq]
@[simp] theorem countGate_issued (s : State) (w : PendWrite) : (s.countGate w).issued = w.issued := by rw [countGate_eq]
@[simp] theorem countGate_slot (s : State) (w : PendWrite) : (s.countGate w).slot = w.slot := by rw [countGate_eq]
@[simp] theorem countGate_addr (s : State) (w : PendWrite) : (s.countGate w).addr = w.addr := by rw [countGate_eq]
@[simp] theorem countGate_stamp (s : State) (w : PendWrite) : (s.countGate w).stamp = w.stamp := by rw [countGate_eq]
@[simp] theorem countGate_flags (s : State) (w : PendWrite) : (s.countGate w).flags = w.flags := by rw [countGate_eq]

/-! The due writes. -/

/-- The due writes as they were put in flight. -/
def dueOf (s : State) (c : Core) : List PendWrite := c.pend.filter fun w => decide (w.due ≤ s.clock)

theorem dueWrites_eq (s : State) (c : Core) : dueWrites s c = (dueOf s c).map s.countGate := by
  unfold dueWrites dueOf
  rw [List.filter_map]
  congr 1
  exact List.filter_congr fun w _ => by rw [Function.comp_apply, countGate_due]

theorem dueOn_eq (s : State) (c : Core) (x : Nat × Nat) : dueOn s c x = (dueOf s c).filter (names x) := by
  unfold dueOn dueOf
  rw [List.filter_filter]
  exact List.filter_congr fun w _ => Bool.and_comm _ _

theorem dueWrites_filter_names (s : State) (c : Core) (x : Nat × Nat) : (dueWrites s c).filter (names x) = (dueOn s c x).map s.countGate := by
  rw [dueWrites_eq, dueOn_eq, List.filter_map]
  congr 1
  exact List.filter_congr fun w _ => by unfold names; rw [Function.comp_apply, named_countGate]

/-- The due writes of rows. -/
def rowsDue (s : State) (c : Core) : List PendWrite := c.pend.filter fun w => decide (w.due ≤ s.clock) && w.isRow

theorem dueWrites_filter_isRow (s : State) (c : Core) : (dueWrites s c).filter PendWrite.isRow = (rowsDue s c).map s.countGate := by
  unfold rowsDue dueWrites
  rw [List.filter_map, List.filter_map, List.filter_filter]
  congr 1
  exact List.filter_congr fun w _ => by simp only [Function.comp_apply, isRow_countGate, countGate_due, Bool.and_comm]

/-! The ports turn a write away only where there are more than two of rows (R43, R45). -/

theorem turnedAway_eq_nil {due : List PendWrite} (h : (due.filter PendWrite.isRow).length ≤ 2) : turnedAway due = [] := by
  unfold turnedAway
  refine List.filterMap_eq_nil_iff.mpr fun bank _ => ?_
  have few : (due.filter fun w => w.bank == some bank).length ≤ (due.filter PendWrite.isRow).length := by
    rw [← List.countP_eq_length_filter, ← List.countP_eq_length_filter]
    refine List.countP_mono_left fun w _ hw => ?_
    unfold PendWrite.bank at hw
    unfold PendWrite.isRow
    cases hr : w.w with
    | row => rfl
    | _ => rw [hr] at hw; exact absurd hw Bool.false_ne_true
  unfold portExcess
  exact if_pos (few.trans h)

theorem liveWrites_eq_self {due : List PendWrite} (h : (due.filter PendWrite.isRow).length ≤ 2) : liveWrites due = due := by
  unfold liveWrites
  rw [turnedAway_eq_nil h]
  rfl

theorem liveWrites_sublist (due : List PendWrite) : (liveWrites due).Sublist due := by
  unfold liveWrites
  split
  · exact List.Sublist.refl due
  · exact List.filter_sublist

/-- Writes of other registers are live. -/
theorem liveWrites_filter {due : List PendWrite} {p : PendWrite → Bool} (h : ∀ w, p w = true → w.isRow = false) :
    (liveWrites due).filter p = due.filter p := by
  unfold liveWrites
  split
  · rfl
  · rw [List.filter_filter]
    refine List.filter_congr fun w _ => ?_
    cases hp : p w with
    | false => rfl
    | true => rw [h w hp]; rfl

theorem live_names (s : State) (c : Core) {x : Nat × Nat} (h : x.1 ≠ 3 ∨ (rowsDue s c).length ≤ 2) :
    (liveWrites (dueWrites s c)).filter (names x) = (dueOn s c x).map s.countGate := by
  rw [← dueWrites_filter_names]
  obtain hx | few := h
  · exact liveWrites_filter fun w hw => not_isRow_of_names hx hw
  · rw [liveWrites_eq_self (by rw [dueWrites_filter_isRow, List.length_map]; exact few)]

/-! The winner among the writes of one register (R19). -/

/-- The write that stands of a list: each takes the place of one before it that is not issued after it. -/
def survivor (l : List PendWrite) : Option PendWrite :=
  l.foldl (fun b w => b.elim (some w) fun v => some (if w.after v then w else v)) none

theorem survivor_concat (l : List PendWrite) (w : PendWrite) :
    survivor (l ++ [w]) = (survivor l).elim (some w) fun v => some (if w.after v then w else v) :=
  List.foldl_concat _ none w l

theorem mem_of_survivor {l : List PendWrite} {w : PendWrite} (h : survivor l = some w) : w ∈ l := by
  induction l using List.reverseRecOn generalizing w with
  | nil => exact absurd h (Option.some_ne_none w).symm
  | append_singleton l x ih =>
    rw [survivor_concat] at h
    cases hv : survivor l with
    | none =>
      rw [hv] at h
      obtain rfl := Option.some.inj h
      exact List.mem_append_right l (List.mem_singleton_self _)
    | some v =>
      rw [hv, Option.elim_some] at h
      have old := ih hv
      split at h <;> obtain rfl := Option.some.inj h
      · exact List.mem_append_right l (List.mem_singleton_self _)
      · exact List.mem_append_left _ old

theorem survivor_eq_none {l : List PendWrite} : survivor l = none ↔ l = [] := by
  induction l using List.reverseRecOn with
  | nil => exact ⟨fun _ => rfl, fun _ => rfl⟩
  | append_singleton l x ih =>
    rw [survivor_concat]
    cases survivor l <;> simp

theorem after_of_beats {w x : PendWrite} (h : x = w ∨ x.issued < w.issued ∨ (x.issued = w.issued ∧ x.slot < w.slot)) : w.after x = true := by
  unfold PendWrite.after
  obtain rfl | early | ⟨same, low⟩ := h
  · simp
  · rw [if_pos (by omega), decide_eq_true early]
  · rw [if_neg (by omega), decide_eq_true (by omega)]

theorem not_after_of_beaten {w x : PendWrite} (h : x.issued < w.issued ∨ (x.issued = w.issued ∧ x.slot < w.slot)) : ¬x.after w = true := by
  unfold PendWrite.after
  split <;> simp <;> omega

theorem survivor_of_wins {l : List PendWrite} {w : PendWrite} (h : wins l w) : survivor l = some w := by
  induction l using List.reverseRecOn with
  | nil => exact absurd h.1 List.not_mem_nil
  | append_singleton l x ih =>
    obtain ⟨mem, beats⟩ := h
    rw [survivor_concat]
    by_cases hx : x = w
    · subst hx
      cases hv : survivor l with
      | none => rfl
      | some v =>
        have beaten := beats v (List.mem_append_left _ (mem_of_survivor hv))
        rw [Option.elim_some, if_pos (after_of_beats beaten)]
    · have inl : w ∈ l := (List.mem_append.mp mem).resolve_right fun h => hx (List.mem_singleton.mp h).symm
      have beaten := (beats x (List.mem_append_right l (List.mem_singleton_self x))).resolve_left hx
      rw [ih ⟨inl, fun y hy => beats y (List.mem_append_left _ hy)⟩, Option.elim_some, if_neg (not_after_of_beaten beaten)]

theorem wins_map_countGate (s : State) {l : List PendWrite} {w : PendWrite} (h : wins l w) : wins (l.map s.countGate) (s.countGate w) := by
  obtain ⟨mem, beats⟩ := h
  refine ⟨List.mem_map_of_mem mem, fun y hy => ?_⟩
  obtain ⟨x, hx, rfl⟩ := List.mem_map.mp hy
  simp only [countGate_issued, countGate_slot]
  exact (beats x hx).imp_left fun e => by rw [e]

/-! The fold of `resolveWrite` leaves one survivor of each register, and tells whether two writes name one (R19, R125). -/

def keyed (x : Nat × Nat) (w : PendWrite) : Bool := w.w.key == some x

/-- The winners among a list, and whether one has lost. -/
def resolve (l : List PendWrite) : List PendWrite × Bool := l.foldl resolveWrite ([], false)

theorem resolve_concat (l : List PendWrite) (w : PendWrite) : resolve (l ++ [w]) = resolveWrite (resolve l) w := List.foldl_concat _ _ w l

theorem keyed_iff {w : PendWrite} {y : Nat × Nat} (hw : w.w.key = some y) (x : Nat × Nat) : keyed x w = true ↔ x = y := by
  unfold keyed
  rw [hw, beq_iff_eq, Option.some_inj, eq_comm]

theorem filter_keyed_concat {w : PendWrite} {y : Nat × Nat} (hw : w.w.key = some y) (l : List PendWrite) (x : Nat × Nat) :
    (l ++ [w]).filter (keyed x) = l.filter (keyed x) ++ if x = y then [w] else [] := by
  rw [List.filter_append]
  congr 1
  split
  next hx => exact List.filter_cons_of_pos ((keyed_iff hw x).mpr hx)
  next hx => exact List.filter_cons_of_neg fun h => hx ((keyed_iff hw x).mp h)

/-- Where a list holds one survivor of each register, the one that w meets is found. -/
theorem find_key {acc l : List PendWrite} {w : PendWrite} {y : Nat × Nat} (hw : w.w.key = some y)
    (standing : acc.filter (keyed y) = (survivor (l.filter (keyed y))).toList) :
    acc.find? (fun v => v.w.key == w.w.key) = survivor (l.filter (keyed y)) := by
  rw [hw, ← List.head?_filter]
  exact (congrArg List.head? standing).trans Option.head?_toList

/-- A write that takes the place of another of its register changes no other register's list. -/
theorem filter_keyed_replace {v w : PendWrite} (same : v.w.key = w.w.key) (acc : List PendWrite) (x : Nat × Nat) :
    (acc.map fun z => if z == v then w else z).filter (keyed x) = (acc.filter (keyed x)).map fun z => if z == v then w else z := by
  rw [List.filter_map]
  congr 1
  refine List.filter_congr fun z _ => ?_
  rw [Function.comp_apply]
  unfold keyed
  split
  next hz => rw [beq_iff_eq.mp hz, same]
  next => rfl

theorem resolve_filter {l : List PendWrite} (h : ∀ w ∈ l, contends w = true) (x : Nat × Nat) :
    (resolve l).1.filter (keyed x) = (survivor (l.filter (keyed x))).toList := by
  induction l using List.reverseRecOn generalizing x with
  | nil => rfl
  | append_singleton l w ih =>
    have standing := ih fun v hv => h v (List.mem_append_left _ hv)
    obtain ⟨y, hw⟩ := Option.isSome_iff_exists.mp (h w (List.mem_append_right l (List.mem_singleton_self w)))
    rw [resolve_concat, filter_keyed_concat hw]
    unfold resolveWrite
    rw [find_key hw (standing y)]
    cases hv : survivor (l.filter (keyed y)) with
    | none =>
      dsimp only
      rw [filter_keyed_concat hw, standing x]
      split
      next hx => subst hx; rw [survivor_concat, hv]; rfl
      next => rw [List.append_nil, List.append_nil]
    | some v =>
      have key_v : v.w.key = some y := beq_iff_eq.mp (List.of_mem_filter (p := keyed y) (mem_of_survivor hv))
      have replaced := filter_keyed_replace (key_v.trans hw.symm) (resolve l).1 x
      by_cases hx : x = y
      · subst hx
        rw [if_pos rfl, survivor_concat, hv, Option.elim_some, Option.toList_some]
        dsimp only
        split
        · rw [replaced, standing x, hv, Option.toList_some, List.map_singleton, if_pos (beq_self_eq_true v)]
        · rw [standing x, hv, Option.toList_some]
      · have others : ∀ z ∈ (resolve l).1.filter (keyed x), (if z == v then w else z) = z := fun z hz => by
          have other : z ≠ v := fun e => hx ((keyed_iff key_v x).mp (e ▸ List.of_mem_filter hz))
          rw [if_neg (by simpa using other)]
        rw [if_neg hx, List.append_nil, ← standing x]
        dsimp only
        split
        · rw [replaced, List.map_congr_left others, List.map_id']
        · rfl

theorem resolve_lost {l : List PendWrite} (h : ∀ w ∈ l, contends w = true) : (resolve l).2 = true ↔ ∃ x, 2 ≤ (l.filter (keyed x)).length := by
  induction l using List.reverseRecOn with
  | nil => exact ⟨fun h => absurd h Bool.false_ne_true, fun ⟨_, h⟩ => absurd h (by simp)⟩
  | append_singleton l w ih =>
    have before : ∀ v ∈ l, contends v = true := fun v hv => h v (List.mem_append_left _ hv)
    obtain ⟨y, hw⟩ := Option.isSome_iff_exists.mp (h w (List.mem_append_right l (List.mem_singleton_self w)))
    have counted (x : Nat × Nat) : ((l ++ [w]).filter (keyed x)).length = (l.filter (keyed x)).length + if x = y then 1 else 0 := by
      rw [filter_keyed_concat hw, List.length_append]
      split <;> rfl
    rw [resolve_concat]
    unfold resolveWrite
    rw [find_key hw (resolve_filter before y)]
    simp only [counted]
    cases hv : survivor (l.filter (keyed y)) with
    | none =>
      have first := survivor_eq_none.mp hv
      refine (ih before).trans (exists_congr fun x => ?_)
      split
      next hx => subst hx; rw [first]; simp
      next => rfl
    | some v =>
      have met : 0 < (l.filter (keyed y)).length := List.length_pos_of_mem (mem_of_survivor hv)
      exact ⟨fun _ => ⟨y, by rw [if_pos rfl]; omega⟩, fun _ => rfl⟩

/-! The order in which live writes take effect, register by register (R19, R133). -/

theorem orderWrites_fst (live : List PendWrite) : (orderWrites live).1 =
    (resolve (live.filter contends)).1 ++ (live.filter fun w => placed 1 w || placed 2 w).filter (placed 1) ++
      (live.filter fun w => placed 1 w || placed 2 w).filter (placed 2) := rfl

/-- The writes of one register as they take effect: the winner, then a stream's changes of the second and of the third place. -/
def inOrder (l : List PendWrite) : List PendWrite := (survivor (l.filter contends)).toList ++ l.filter (placed 1) ++ l.filter (placed 2)

theorem keyed_eq (x : Nat × Nat) (w : PendWrite) : keyed x w = (names x w && contends w) := by
  rw [Bool.eq_iff_iff, Bool.and_eq_true, ← key_eq_some]
  exact beq_iff_eq

theorem mem_of_mem_resolve {l : List PendWrite} {w : PendWrite} (h : w ∈ (resolve l).1) : w ∈ l := by
  induction l using List.reverseRecOn generalizing w with
  | nil => exact h
  | append_singleton l x ih =>
    rw [resolve_concat] at h
    unfold resolveWrite at h
    have last : x ∈ l ++ [x] := List.mem_append_right l (List.mem_singleton_self x)
    split at h
    · obtain old | new := List.mem_append.mp h
      · exact List.mem_append_left _ (ih old)
      · exact List.mem_singleton.mp new ▸ last
    · dsimp only at h
      split at h
      · obtain ⟨z, hz, rfl⟩ := List.mem_map.mp h
        split
        · exact last
        · exact List.mem_append_left _ (ih hz)
      · exact List.mem_append_left _ (ih h)

theorem forall_contends (l : List PendWrite) : ∀ w ∈ l.filter contends, contends w = true := fun _ h => List.of_mem_filter h

theorem filter_contends_keyed (live : List PendWrite) (x : Nat × Nat) :
    (live.filter contends).filter (keyed x) = (live.filter (names x)).filter contends := by
  rw [List.filter_filter, List.filter_filter]
  exact List.filter_congr fun w _ => by rw [keyed_eq]; cases names x w <;> cases contends w <;> rfl

theorem orderWrites_filter (live : List PendWrite) (x : Nat × Nat) : (orderWrites live).1.filter (names x) = inOrder (live.filter (names x)) := by
  have winner : (resolve (live.filter contends)).1.filter (names x) = (survivor ((live.filter (names x)).filter contends)).toList := by
    rw [← filter_contends_keyed, ← resolve_filter (forall_contends live)]
    exact List.filter_congr fun w hw => by rw [keyed_eq, forall_contends live w (mem_of_mem_resolve hw), Bool.and_true]
  have changes (p : Nat) (hp : p = 1 ∨ p = 2) :
      ((live.filter fun w => placed 1 w || placed 2 w).filter (placed p)).filter (names x) = (live.filter (names x)).filter (placed p) := by
    rw [List.filter_filter, List.filter_filter, List.filter_filter]
    refine List.filter_congr fun w _ => ?_
    obtain rfl | rfl := hp
    · cases names x w <;> cases placed 1 w <;> rfl
    · cases names x w <;> cases placed 2 w <;> simp
  rw [orderWrites_fst, List.filter_append, List.filter_append, winner, changes 1 (Or.inl rfl), changes 2 (Or.inr rfl)]
  rfl

/-! One register's writes in order: where one wins, where there is one, and where a GLD meets another change. -/

theorem inOrder_of_wins {x : Nat × Nat} (hx : x.1 ≠ 4) {l : List PendWrite} (hl : ∀ v ∈ l, names x v = true) {w : PendWrite} (h : wins l w) :
    inOrder l = [w] := by
  have all : ∀ v ∈ l, contends v = true := fun v hv => contends_of_names hx (hl v hv)
  have out (p : Nat) (hp : ∀ v ∈ l, placed p v = false) : l.filter (placed p) = [] :=
    List.filter_eq_nil_iff.mpr fun v hv => by rw [hp v hv]; exact Bool.false_ne_true
  unfold inOrder
  rw [List.filter_eq_self.mpr all, survivor_of_wins h, out 1 fun v hv => (not_placed_of_contends (hl v hv) (all v hv)).1,
    out 2 fun v hv => (not_placed_of_contends (hl v hv) (all v hv)).2]
  rfl

/-- A write of a register contends, or is a change of the second place, or one of the third. -/
theorem place_cases {x : Nat × Nat} {w : PendWrite} (h : names x w = true) :
    (contends w = true ∧ placed 1 w = false ∧ placed 2 w = false) ∨ (contends w = false ∧ placed 1 w = true ∧ placed 2 w = false) ∨
      (contends w = false ∧ placed 1 w = false ∧ placed 2 w = true) := by
  have split := contends_or_placed h
  have once : placed 1 w = true → placed 2 w = false := fun h1 => by unfold placed at *; rw [beq_iff_eq.mp h1]; rfl
  cases h1 : placed 1 w with
  | true => rw [h1, once h1] at split; exact Or.inr (Or.inl ⟨split, rfl, once h1⟩)
  | false =>
    rw [h1] at split
    cases h2 : placed 2 w with
    | true => rw [h2] at split; exact Or.inr (Or.inr ⟨split, rfl, rfl⟩)
    | false => rw [h2] at split; exact Or.inl ⟨split, rfl, rfl⟩

theorem inOrder_singleton {x : Nat × Nat} {w : PendWrite} (h : names x w = true) : inOrder [w] = [w] := by
  unfold inOrder
  obtain ⟨k, p1, p2⟩ | ⟨k, p1, p2⟩ | ⟨k, p1, p2⟩ := place_cases h <;> simp [List.filter, survivor, k, p1, p2]

theorem inOrder_load {x : Nat × Nat} {a b : PendWrite} (ha : names x a = true) (hb : names x b = true) (load : contends a = true)
    (change : contends b = false) {l : List PendWrite} (h : l = [a, b] ∨ l = [b, a]) : inOrder l = [a, b] := by
  obtain ⟨a1, a2⟩ := not_placed_of_contends ha load
  unfold inOrder
  obtain ⟨k, -, -⟩ | ⟨-, b1, b2⟩ | ⟨-, b1, b2⟩ := place_cases hb
  · exact absurd (k.symm.trans change) (by decide)
  all_goals obtain rfl | rfl := h <;> simp [List.filter, survivor, load, change, a1, a2, b1, b2]

/-! Whether two writes collide, or a GLD meets a change (R19, R125, R133). -/

theorem names_stream {w : PendWrite} {r : BitVec 4} {x : GChange} (h : w.w = .g r x) : names (4, r.toNat) w = true := by
  rw [names_iff, h]
  rfl

theorem contends_load {w : PendWrite} {r : BitVec 4} {v : Desc} (h : w.w = .g r (.load v)) : contends w = true := by
  unfold contends
  rw [h]
  rfl

theorem not_contends_change {w : PendWrite} {r : BitVec 4} {x : GChange} (h : w.w = .g r x) (hx : ∀ y, x ≠ .load y) : contends w = false := by
  unfold contends
  rw [h]
  cases x with
  | load y => exact absurd rfl (hx y)
  | _ => rfl

/-- A winner is a GLD that meets one of the changes. -/
def meetsChange (rest : List PendWrite) (v : PendWrite) : Bool :=
  match v.w with
  | .g r (.load d) => meetsLoad rest r d
  | _ => false

theorem orderWrites_snd (live : List PendWrite) : (orderWrites live).2 = ((resolve (live.filter contends)).2 ||
    (resolve (live.filter contends)).1.any (meetsChange (live.filter fun w => placed 1 w || placed 2 w))) := rfl

/-- The changes of stream r among a list. -/
def changesOf (rest : List PendWrite) (r : BitVec 4) : List GChange :=
  rest.filterMap fun w => match w.w with
    | .g q x => if q = r then some x else none
    | _ => none

theorem meetsLoad_eq (rest : List PendWrite) (r : BitVec 4) (d : Desc) : meetsLoad rest r d = (changesOf rest r).any fun x =>
    x.order == 1 || x.moves (((changesOf rest r).filter fun x => x.order == 1).foldl (fun d x => x.apply d) d) := rfl

theorem mem_changesOf {rest : List PendWrite} {r : BitVec 4} {x : GChange} : x ∈ changesOf rest r ↔ ∃ b ∈ rest, b.w = .g r x := by
  unfold changesOf
  rw [List.mem_filterMap]
  refine exists_congr fun b => and_congr_right fun _ => ?_
  cases b.w with
  | g q y => simp
  | _ => simp

/-- Only the writes that name the stream matter. -/
theorem changesOf_filter (rest : List PendWrite) (r : BitVec 4) : changesOf (rest.filter (names (4, r.toNat))) r = changesOf rest r := by
  unfold changesOf
  rw [List.filterMap_filter]
  refine List.filterMap_congr fun w _ => ?_
  split
  next => rfl
  next other =>
    cases hw : w.w with
    | g q x =>
      have hq : q ≠ r := fun e => other (by subst e; exact names_stream hw)
      exact (if_neg hq).symm
    | _ => rfl

theorem meetsLoad_singleton {rest : List PendWrite} {r : BitVec 4} {x : GChange} {b : PendWrite} (only : rest.filter (names (4, r.toNat)) = [b])
    (hb : b.w = .g r x) {d : Desc} (h : x.order = 1 ∨ x.moves d = true) : meetsLoad rest r d = true := by
  have changes : changesOf rest r = [x] := by
    rw [← changesOf_filter, only]
    unfold changesOf
    rw [List.filterMap_cons, hb]
    simp
  rw [meetsLoad_eq, changes]
  by_cases first : x.order = 1
  · simp [first]
  · simp [first, h.resolve_left first]

theorem filter_placed_names (live : List PendWrite) (x : Nat × Nat) :
    (live.filter fun w => placed 1 w || placed 2 w).filter (names x) = (live.filter (names x)).filter fun w => !contends w := by
  rw [List.filter_filter, List.filter_filter]
  refine List.filter_congr fun w _ => ?_
  cases hx : names x w with
  | false => simp
  | true => rw [contends_or_placed hx, Bool.not_not, Bool.true_and, Bool.and_true]

theorem collides_of_two {live : List PendWrite} {x : Nat × Nat} (h : 2 ≤ ((live.filter (names x)).filter contends).length) :
    (orderWrites live).2 = true := by
  have lost := (resolve_lost (forall_contends live)).mpr ⟨x, by rw [filter_contends_keyed]; exact h⟩
  rw [orderWrites_snd, lost, Bool.true_or]

theorem collides_of_load_meets {live : List PendWrite} {r : BitVec 4} {v : Desc} {x : GChange} {a b : PendWrite} (ha : a.w = .g r (.load v))
    (hb : b.w = .g r x) (hx : ∀ y, x ≠ .load y) (two : live.filter (names (4, r.toNat)) = [a, b] ∨ live.filter (names (4, r.toNat)) = [b, a])
    (h : x.order = 1 ∨ x.moves v = true) : (orderWrites live).2 = true := by
  have load := contends_load ha
  have change := not_contends_change hb hx
  have winners : (live.filter (names (4, r.toNat))).filter contends = [a] := by obtain e | e := two <;> simp [e, load, change]
  have rest : (live.filter (names (4, r.toNat))).filter (fun w => !contends w) = [b] := by obtain e | e := two <;> simp [e, load, change]
  have won : a ∈ (resolve (live.filter contends)).1 := by
    have only := resolve_filter (forall_contends live) (4, r.toNat)
    rw [filter_contends_keyed, winners] at only
    exact List.mem_of_mem_filter (p := keyed (4, r.toNat)) (by rw [only]; exact List.mem_singleton_self a)
  have meets : meetsChange (live.filter fun w => placed 1 w || placed 2 w) a = true := by
    unfold meetsChange
    rw [ha]
    exact meetsLoad_singleton ((filter_placed_names live _).trans rest) hb h
  rw [orderWrites_snd, List.any_eq_true.mpr ⟨a, won, meets⟩, Bool.or_true]

theorem not_collides {live : List PendWrite} (h : ∀ x, (live.filter (names x)).length ≤ 1) : (orderWrites live).2 = false := by
  rw [Bool.eq_false_iff, orderWrites_snd]
  intro collides
  obtain lost | met := Bool.or_eq_true_iff.mp collides
  · obtain ⟨x, two⟩ := (resolve_lost (forall_contends live)).mp lost
    rw [filter_contends_keyed] at two
    exact absurd (two.trans (List.length_filter_le _ _)) (by have := h x; omega)
  · obtain ⟨a, won, meets⟩ := List.any_eq_true.mp met
    unfold meetsChange at meets
    split at meets
    next r d ha =>
      rw [meetsLoad_eq] at meets
      obtain ⟨x, hx, -⟩ := List.any_eq_true.mp meets
      obtain ⟨b, hb, change⟩ := mem_changesOf.mp hx
      have here : a ∈ live.filter (names (4, r.toNat)) :=
        List.mem_filter.mpr ⟨List.mem_of_mem_filter (mem_of_mem_resolve won), names_stream ha⟩
      have there : b ∈ live.filter (names (4, r.toNat)) := List.mem_filter.mpr ⟨List.mem_of_mem_filter hb, names_stream change⟩
      obtain ⟨z, only⟩ := List.length_eq_one_iff.mp (le_antisymm (h _) (List.length_pos_of_mem here))
      rw [only, List.mem_singleton] at here there
      have late : (placed 1 b || placed 2 b) = true := List.of_mem_filter (p := fun w => placed 1 w || placed 2 w) hb
      have loads := (contends_or_placed (names_stream change)).trans (congrArg (! ·) late)
      rw [there, ← here, contends_load ha] at loads
      exact absurd loads (by decide)
    next => exact absurd meets Bool.false_ne_true

end Sys2Proof.Claim
end

section
namespace Sys2Proof.Claim
open Sys2Proof Sys2Proof.Machine

/-! What the writes that take effect leave in each register (R18, R78). -/

/-- A part of the core that takes the writes of one kind, and that every other write leaves, depends on the writes of that kind alone. -/
theorem read_foldl_applyWrite {α : Type} {read : Core → α} {p : PendWrite → Bool} {put : α → PendWrite → α}
    (one : ∀ c w, read (c.applyWrite w) = if p w = true then put (read c) w else read c) (l : List PendWrite) (c : Core) :
    read (l.foldl Core.applyWrite c) = (l.filter p).foldl put (read c) := by
  induction l generalizing c with
  | nil => rfl
  | cons w l ih =>
    rw [List.foldl_cons, ih, one]
    split
    next hp => rw [List.filter_cons_of_pos hp, List.foldl_cons]
    next hp => rw [List.filter_cons_of_neg hp]

/-- The value of a scalar after a write that names it. -/
def putS (v : Word) (w : PendWrite) : Word :=
  match w.w with
  | .s _ x => x
  | _ => v

/-- The value of predicate r after a write that names it: p0 stays true. -/
def putP (r : BitVec 4) (b : Bool) (w : PendWrite) : Bool :=
  match w.w with
  | .p _ x => r == 0 || x
  | _ => b

/-- The value of mask r after a write that names it: k0 stays full. -/
def putK (r : BitVec 4) (v : Mask) (w : PendWrite) : Mask :=
  match w.w with
  | .k _ x m => if r = 0 then v else (v &&& ~~~m) ||| (x &&& m)
  | _ => v

/-- The value of a stream after a write that names it. -/
def putG (d : Desc) (w : PendWrite) : Desc :=
  match w.w with
  | .g _ x => x.apply d
  | _ => d

/-- The rows after a write of one. -/
def putRow (rows : SMap Row) (w : PendWrite) : SMap Row :=
  match w.w with
  | .row r v m => SMap.put 0 rows r.toNat (mergeRow (SMap.get 0 rows r.toNat) v m)
  | _ => rows

theorem sreg_applyWrite (c : Core) (w : PendWrite) (r : BitVec 5) :
    (c.applyWrite w).sreg r = if names (0, r.toNat) w = true then putS (c.sreg r) w else c.sreg r := by
  unfold Core.applyWrite names named putS
  cases w.w with
  | s q v => simp [Core.sreg, Core.setSreg, Vector.getElem_set]
  | p q v => dsimp only; split <;> simp [Core.sreg]
  | k q v m => dsimp only; split <;> simp [Core.sreg]
  | row | g => simp [Core.sreg, Core.setRow, Core.touchTile, Core.setGreg]
  | gateCounts | later | none => simp

/-- One bit set or cleared (R56). -/
theorem predicate_bit (p : BitVec 16) (q r : BitVec 4) (v : Bool) :
    (if v = true then p ||| BitVec.ofNat 16 (2 ^ q.toNat) else p &&& ~~~BitVec.ofNat 16 (2 ^ q.toNat)).getLsbD r.toNat =
      if q.toNat = r.toNat then v else p.getLsbD r.toNat := by
  have inside : r.toNat < 16 := r.isLt
  have one : (BitVec.ofNat 16 (2 ^ q.toNat)).getLsbD r.toNat = decide (q.toNat = r.toNat) := by
    rw [BitVec.getLsbD_ofNat, Nat.testBit_two_pow, decide_eq_true inside, Bool.true_and]
  cases v with
  | true =>
    rw [if_pos rfl, BitVec.getLsbD_or, one]
    by_cases h : q.toNat = r.toNat <;> simp [h]
  | false =>
    rw [if_neg Bool.false_ne_true, BitVec.getLsbD_and, BitVec.getLsbD_not, one, decide_eq_true inside, Bool.true_and]
    by_cases h : q.toNat = r.toNat <;> simp [h]

theorem preg_applyWrite (c : Core) (w : PendWrite) (r : BitVec 4) :
    (c.applyWrite w).preg r = if names (1, r.toNat) w = true then putP r (c.preg r) w else c.preg r := by
  unfold Core.applyWrite names named putP
  cases w.w with
  | p q v =>
    by_cases h0 : q = 0
    · subst h0
      by_cases hr : r = 0
      · subst hr; simp [Core.preg]
      · have apart : ¬0 = r.toNat := fun e => hr (BitVec.eq_of_toNat_eq e.symm)
        simp [Core.preg, apart]
    · have bits := predicate_bit c.p q r v
      dsimp only
      rw [if_neg h0]
      change (r == 0 || BitVec.getLsbD _ r.toNat) = _
      rw [bits]
      by_cases hq : q.toNat = r.toNat <;> simp [Core.preg, hq]
  | k q v m => dsimp only; split <;> simp [Core.preg]
  | s | row | g => simp [Core.preg, Core.setSreg, Core.setRow, Core.touchTile, Core.setGreg]
  | gateCounts | later | none => simp

theorem kreg_applyWrite (c : Core) (w : PendWrite) (r : BitVec 4) :
    (c.applyWrite w).kreg r = if names (2, r.toNat) w = true then putK r (c.kreg r) w else c.kreg r := by
  unfold Core.applyWrite names named putK
  cases w.w with
  | k q v m =>
    by_cases hq : q = r
    · subst hq
      by_cases h0 : q = 0#4 <;> simp [Core.kreg, h0]
    · have apart : q.toNat ≠ r.toNat := fun e => hq (BitVec.eq_of_toNat_eq e)
      dsimp only
      split <;> simp [Core.kreg, apart]
  | p q v => dsimp only; split <;> simp [Core.kreg]
  | s | row | g => simp [Core.kreg, Core.setSreg, Core.setRow, Core.touchTile, Core.setGreg]
  | gateCounts | later | none => simp

theorem greg_applyWrite (c : Core) (w : PendWrite) (r : BitVec 4) :
    (c.applyWrite w).greg r = if names (4, r.toNat) w = true then putG (c.greg r) w else c.greg r := by
  unfold Core.applyWrite names named putG
  cases w.w with
  | g q x =>
    by_cases hq : q = r
    · subst hq; simp [Core.greg, Core.setGreg]
    · have apart : q.toNat ≠ r.toNat := fun e => hq (BitVec.eq_of_toNat_eq e)
      simp [Core.greg, Core.setGreg, apart]
  | p q v => dsimp only; split <;> simp [Core.greg]
  | k q v m => dsimp only; split <;> simp [Core.greg]
  | s | row => simp [Core.greg, Core.setSreg, Core.setRow, Core.touchTile]
  | gateCounts | later | none => simp

theorem rows_applyWrite (c : Core) (w : PendWrite) : (c.applyWrite w).rows = if w.isRow = true then putRow c.rows w else c.rows := by
  unfold Core.applyWrite PendWrite.isRow putRow
  cases w.w with
  | p r v => dsimp only; split <;> rfl
  | k r v m => dsimp only; split <;> rfl
  | _ => rfl

/-- A core without the registers that writes name. -/
def sansRegisters (c : Core) : Core :=
  { c with s := Core.init.s, p := 0, k := Core.init.k, rows := [], g := Core.init.g, sWr := Core.init.sWr, pWr := Core.init.pWr, gWr := Core.init.gWr, mops := [] }

theorem sansRegisters_applyWrite (c : Core) (w : PendWrite) : sansRegisters (c.applyWrite w) = sansRegisters c := by
  unfold Core.applyWrite
  cases w.w with
  | p r v => dsimp only; split <;> rfl
  | k r v m => dsimp only; split <;> rfl
  | _ => rfl

theorem sansRegisters_foldl (l : List PendWrite) (c : Core) : sansRegisters (l.foldl Core.applyWrite c) = sansRegisters c :=
  List.foldlRecOn (motive := fun d => sansRegisters d = sansRegisters c) l _ rfl fun d h w _ => (sansRegisters_applyWrite d w).trans h

/-- p0 and k0 stand whatever is written. -/
theorem zero_applyWrite (c : Core) (w : PendWrite) : (c.applyWrite w).p.getLsbD 0 = c.p.getLsbD 0 ∧ (c.applyWrite w).k[0] = c.k[0] := by
  unfold Core.applyWrite
  cases w.w with
  | p q v =>
    dsimp only
    split
    · exact ⟨rfl, rfl⟩
    next h0 =>
      have apart : ¬q.toNat = 0 := fun e => h0 (BitVec.eq_of_toNat_eq e)
      exact ⟨(predicate_bit c.p q 0 v).trans (if_neg apart), rfl⟩
  | k q v m =>
    dsimp only
    split
    · exact ⟨rfl, rfl⟩
    next h0 =>
      have apart : q.toNat ≠ 0 := fun e => h0 (BitVec.eq_of_toNat_eq e)
      exact ⟨rfl, Vector.getElem_set_ne q.isLt (by decide) apart⟩
  | _ => exact ⟨rfl, rfl⟩

theorem zero_foldl (l : List PendWrite) (c : Core) :
    (l.foldl Core.applyWrite c).p.getLsbD 0 = c.p.getLsbD 0 ∧ (l.foldl Core.applyWrite c).k[0] = c.k[0] :=
  List.foldlRecOn (motive := fun d => d.p.getLsbD 0 = c.p.getLsbD 0 ∧ d.k[0] = c.k[0]) l _ ⟨rfl, rfl⟩ fun d h w _ =>
    ⟨(zero_applyWrite d w).1.trans h.1, (zero_applyWrite d w).2.trans h.2⟩

end Sys2Proof.Claim
end

section
namespace Sys2Proof.Claim
open Sys2Proof Sys2Proof.Machine

/-! The order of the slots (R127). -/

theorem insertSlot_perm (w : PendWrite) (l : List PendWrite) : (insertSlot w l).Perm (w :: l) := by
  induction l with
  | nil => exact List.Perm.refl _
  | cons x r ih =>
    unfold insertSlot
    split
    · exact List.Perm.refl _
    · exact (ih.cons x).trans (List.Perm.swap w x r)

theorem insertSlot_sorted (w : PendWrite) {l : List PendWrite} (h : l.Pairwise fun a b => a.slot ≤ b.slot) :
    (insertSlot w l).Pairwise fun a b => a.slot ≤ b.slot := by
  induction l with
  | nil => exact List.pairwise_singleton _ w
  | cons x r ih =>
    obtain ⟨first, rest⟩ := List.pairwise_cons.mp h
    unfold insertSlot
    split
    next low => exact List.pairwise_cons.mpr ⟨List.forall_mem_cons.mpr ⟨low.le, fun y hy => low.le.trans (first y hy)⟩, h⟩
    next high =>
      refine List.pairwise_cons.mpr ⟨fun y hy => ?_, ih rest⟩
      obtain rfl | old := List.mem_cons.mp ((insertSlot_perm w r).mem_iff.mp hy)
      · exact Nat.le_of_not_lt high
      · exact first y old

theorem bySlot_concat (l : List PendWrite) (w : PendWrite) : bySlot (l ++ [w]) = insertSlot w (bySlot l) := List.foldl_concat _ _ w l

theorem bySlot_perm (l : List PendWrite) : (bySlot l).Perm l := by
  induction l using List.reverseRecOn with
  | nil => exact List.Perm.refl _
  | append_singleton l w ih =>
    rw [bySlot_concat]
    exact (insertSlot_perm w _).trans ((ih.cons w).trans (List.perm_append_singleton w l).symm)

theorem bySlot_sorted (l : List PendWrite) : (bySlot l).Pairwise fun a b => a.slot ≤ b.slot := by
  induction l using List.reverseRecOn with
  | nil => exact List.Pairwise.nil
  | append_singleton l w ih =>
    rw [bySlot_concat]
    exact insertSlot_sorted w ih

theorem insertSlot_map_countGate (s : State) (w : PendWrite) (l : List PendWrite) :
    insertSlot (s.countGate w) (l.map s.countGate) = (insertSlot w l).map s.countGate := by
  induction l with
  | nil => rfl
  | cons x r ih =>
    rw [List.map_cons]
    unfold insertSlot
    rw [countGate_slot, countGate_slot, ih]
    split <;> rfl

theorem bySlot_map_countGate (s : State) (l : List PendWrite) : bySlot (l.map s.countGate) = (bySlot l).map s.countGate := by
  induction l using List.reverseRecOn with
  | nil => rfl
  | append_singleton l w ih => rw [List.map_append, List.map_singleton, bySlot_concat, bySlot_concat, ih, insertSlot_map_countGate]

/-- Flags do not depend on the counts of a PGQ. -/
theorem raiseAll_map_countGate (s : State) (c : Core) (l : List PendWrite) : raiseAll c (l.map s.countGate) = raiseAll c l := by
  unfold raiseAll
  rw [bySlot_map_countGate, List.foldl_map]
  congr 1
  funext c w
  unfold raiseWrite
  rw [countGate_flags, countGate_slot, countGate_addr, countGate_stamp]

/-! One flag event (R124, R126, R127). -/

/-- A write is a flag event: it carries flags and its slot has a set. -/
def isEvent (w : PendWrite) : Bool := w.flags != 0 && (flagBase w.slot).isSome

theorem flagBase_eq : ∀ slot, flagBase slot = (flagSet slot).map fun i => 6 * i
  | 0 | 1 | 2 | 3 | 4 | 5 | 6 | 7 | 8 | 9 => rfl
  | _ + 10 => rfl

theorem slot_lt_of_flagBase : ∀ {slot b : Nat}, flagBase slot = some b → slot < 10
  | 0, _, _ | 1, _, _ | 2, _, _ | 3, _, _ | 4, _, _ | 5, _, _ | 6, _, _ | 7, _, _ | 8, _, _ | 9, _, _ => by decide
  | _ + 10, b, h => absurd h (Option.some_ne_none b).symm

/-- The flags of a write in FLAGSA. -/
def flagWord (w : PendWrite) : Word := BitVec.ofNat 64 (w.flags.toNat * 2 ^ (flagBase w.slot).getD 0)

/-- The record of an event (R126). -/
def eventWord (w : PendWrite) : Word :=
  BitVec.ofNat 64 (w.addr % 2 ^ 18 + w.slot * 2 ^ 18 + w.flags.toNat * 2 ^ 22 + 2 ^ 31 + w.stamp % 2 ^ 32 * 2 ^ 32)

theorem raiseWrite_of_not_event {w : PendWrite} (h : isEvent w = false) (c : Core) : raiseWrite c w = c := by
  unfold isEvent at h
  rw [flagBase_eq, Option.isSome_map] at h
  unfold raiseWrite Core.raise
  split
  · rfl
  next flags =>
    have bare : (w.flags != 0) = true := by simpa using flags
    rw [bare, Bool.true_and, Option.isSome_eq_false_iff, Option.isNone_iff_eq_none] at h
    rw [h]

theorem raiseWrite_of_event {w : PendWrite} (h : isEvent w = true) (c : Core) : raiseWrite c w =
    if c.fevrec.getLsbD 31 = true then { c with flagsA := c.flagsA ||| flagWord w, flagsB := c.flagsB ||| 2 }
    else { c with flagsA := c.flagsA ||| flagWord w, fevrec := eventWord w } := by
  unfold isEvent at h
  obtain ⟨flags, set⟩ := (Bool.and_eq_true _ _).mp h
  rw [flagBase_eq, Option.isSome_map] at set
  obtain ⟨i, hi⟩ := Option.isSome_iff_exists.mp set
  have word : flagWord w = BitVec.ofNat 64 (w.flags.toNat * 2 ^ (6 * i)) := by
    unfold flagWord
    rw [flagBase_eq, hi]
    rfl
  unfold raiseWrite Core.raise
  rw [if_neg (by simpa using flags), hi, word]
  rfl

theorem flagWord_getLsbD {w : PendWrite} (h : isEvent w = true) {i : Nat} (hi : i < 64) : (flagWord w).getLsbD i = raisesBit w i := by
  unfold isEvent at h
  obtain ⟨-, set⟩ := (Bool.and_eq_true _ _).mp h
  obtain ⟨b, hb⟩ := Option.isSome_iff_exists.mp set
  unfold flagWord raisesBit
  rw [hb, Option.getD_some, BitVec.getLsbD_ofNat, Nat.testBit_mul_two_pow, decide_eq_true hi, Bool.true_and]
  change (decide (b ≤ i) && w.flags.getLsbD (i - b)) = _
  dsimp only
  by_cases inside : i < b + 6
  · rw [decide_eq_true inside, Bool.and_true]
  · rw [BitVec.getLsbD_of_ge _ _ (by omega), Bool.and_false, Bool.and_false]

theorem raisesBit_of_not_event {w : PendWrite} (h : isEvent w = false) (i : Nat) : raisesBit w i = false := by
  unfold isEvent at h
  unfold raisesBit
  cases hb : flagBase w.slot with
  | none => rfl
  | some b =>
    rw [hb] at h
    have bare : w.flags = 0 := by simpa using h
    dsimp only
    rw [bare]
    simp

theorem eventWord_fields {w : PendWrite} (h : isEvent w = true) :
    ((eventWord w).extractLsb' 0 18).toNat = w.addr % 2 ^ 18 ∧ ((eventWord w).extractLsb' 18 4).toNat = w.slot ∧
    (eventWord w).extractLsb' 22 6 = w.flags ∧ (eventWord w).extractLsb' 28 3 = 0 ∧ (eventWord w).getLsbD 31 = true ∧
    ((eventWord w).extractLsb' 32 32).toNat = w.stamp % 2 ^ 32 := by
  obtain ⟨-, set⟩ := (Bool.and_eq_true _ _).mp h
  obtain ⟨b, hb⟩ := Option.isSome_iff_exists.mp set
  have low := slot_lt_of_flagBase hb
  have small := w.flags.isLt
  have stamp : w.stamp % 2 ^ 32 < 2 ^ 32 := Nat.mod_lt _ (by decide)
  have word : (eventWord w).toNat = w.addr % 2 ^ 18 + w.slot * 2 ^ 18 + w.flags.toNat * 2 ^ 22 + 2 ^ 31 + w.stamp % 2 ^ 32 * 2 ^ 32 := by
    unfold eventWord
    rw [BitVec.toNat_ofNat]
    omega
  refine ⟨?_, ?_, BitVec.eq_of_toNat_eq ?_, BitVec.eq_of_toNat_eq ?_, ?_, ?_⟩
  case refine_5 =>
    have bit : (eventWord w).toNat / 2 ^ 31 % 2 = 1 := by omega
    rw [BitVec.getLsbD, Nat.testBit_eq_decide_div_mod_eq, bit]
    rfl
  case refine_4 =>
    rw [toNat_field]
    change _ = 0
    omega
  all_goals
    rw [toNat_field]
    omega

/-! Events in a list. -/

theorem foldl_raiseWrite_events (l : List PendWrite) (c : Core) : l.foldl raiseWrite c = (l.filter isEvent).foldl raiseWrite c := by
  induction l generalizing c with
  | nil => rfl
  | cons w l ih =>
    cases h : isEvent w with
    | true => rw [List.filter_cons_of_pos h, List.foldl_cons, List.foldl_cons, ih]
    | false => rw [List.filter_cons_of_neg (by rw [h]; exact Bool.false_ne_true), List.foldl_cons, raiseWrite_of_not_event h, ih]

theorem flagsA_raiseWrite (c : Core) (w : PendWrite) {i : Nat} (hi : i < 64) :
    (raiseWrite c w).flagsA.getLsbD i = (c.flagsA.getLsbD i || raisesBit w i) := by
  cases h : isEvent w with
  | true =>
    rw [raiseWrite_of_event h, ← flagWord_getLsbD h hi, ← BitVec.getLsbD_or]
    split <;> rfl
  | false => rw [raiseWrite_of_not_event h, raisesBit_of_not_event h, Bool.or_false]

theorem flagsA_foldl (l : List PendWrite) (c : Core) {i : Nat} (hi : i < 64) :
    (l.foldl raiseWrite c).flagsA.getLsbD i = (c.flagsA.getLsbD i || l.any fun w => raisesBit w i) := by
  induction l generalizing c with
  | nil => exact (Bool.or_false _).symm
  | cons w l ih => rw [List.foldl_cons, ih, flagsA_raiseWrite c w hi, List.any_cons, Bool.or_assoc]

/-- While FEVREC holds a record, every event sets FEVMORE and the record stands. -/
theorem foldl_raiseWrite_held {l : List PendWrite} (h : ∀ w ∈ l, isEvent w = true) {c : Core} (held : c.fevrec.getLsbD 31 = true) :
    (l.foldl raiseWrite c).fevrec = c.fevrec ∧ (l.foldl raiseWrite c).flagsB = if l = [] then c.flagsB else c.flagsB ||| 2 := by
  induction l generalizing c with
  | nil => exact ⟨rfl, rfl⟩
  | cons w l ih =>
    obtain ⟨ev, rest⟩ := List.forall_mem_cons.mp h
    have one := (raiseWrite_of_event ev c).trans (if_pos held)
    obtain ⟨record, more⟩ := ih rest (c := raiseWrite c w) (by rw [one]; exact held)
    rw [List.foldl_cons, record, more, one, if_neg (List.cons_ne_nil w l)]
    refine ⟨rfl, ?_⟩
    split
    · rfl
    · exact (BitVec.or_assoc _ _ _).trans (congrArg (c.flagsB ||| ·) BitVec.or_self)

/-- While FEVREC holds no record, the first event is recorded. -/
theorem foldl_raiseWrite_free {e : PendWrite} {l : List PendWrite} (h : ∀ w ∈ e :: l, isEvent w = true) {c : Core} (free : c.fevrec.getLsbD 31 = false) :
    ((e :: l).foldl raiseWrite c).fevrec = eventWord e ∧ ((e :: l).foldl raiseWrite c).flagsB = if l = [] then c.flagsB else c.flagsB ||| 2 := by
  obtain ⟨ev, rest⟩ := List.forall_mem_cons.mp h
  have one := (raiseWrite_of_event ev c).trans (if_neg (by rw [free]; exact Bool.false_ne_true))
  obtain ⟨-, -, -, -, valid, -⟩ := eventWord_fields ev
  obtain ⟨record, more⟩ := foldl_raiseWrite_held rest (c := raiseWrite c e) (by rw [one]; exact valid)
  rw [List.foldl_cons, record, more, one]
  exact ⟨rfl, rfl⟩

/-! All the flags of writes that become visible together. -/

/-- The events among the due writes, in the order of their slots. -/
def eventsOf (due : List PendWrite) : List PendWrite := (bySlot due).filter isEvent

theorem eventsOf_perm (due : List PendWrite) : (eventsOf due).Perm (due.filter isEvent) := (bySlot_perm due).filter isEvent

theorem eventsOf_isEvent (due : List PendWrite) : ∀ w ∈ eventsOf due, isEvent w = true := fun _ h => List.of_mem_filter h

theorem raiseAll_eq (c : Core) (due : List PendWrite) : raiseAll c due = (eventsOf due).foldl raiseWrite c := foldl_raiseWrite_events _ c

theorem flagsA_raiseAll (c : Core) (due : List PendWrite) {i : Nat} (hi : i < 64) :
    (raiseAll c due).flagsA.getLsbD i = (c.flagsA.getLsbD i || (due.filter isEvent).any fun w => raisesBit w i) := by
  rw [raiseAll_eq, flagsA_foldl _ c hi, (eventsOf_perm due).any_eq]

theorem fevrec_raiseAll_stands {c : Core} {due : List PendWrite} (h : c.fevrec.getLsbD 31 = true ∨ due.filter isEvent = []) :
    (raiseAll c due).fevrec = c.fevrec := by
  rw [raiseAll_eq]
  obtain held | quiet := h
  · exact (foldl_raiseWrite_held (eventsOf_isEvent due) held).1
  · have perm := eventsOf_perm due
    rw [quiet] at perm
    rw [List.perm_nil.mp perm]
    rfl

theorem fevrec_raiseAll_records {c : Core} {due : List PendWrite} (free : c.fevrec.getLsbD 31 = false) (some : due.filter isEvent ≠ []) :
    ∃ e ∈ due.filter isEvent, (∀ x ∈ due.filter isEvent, e.slot ≤ x.slot) ∧ (raiseAll c due).fevrec = eventWord e := by
  have perm := eventsOf_perm due
  have sorted : (eventsOf due).Pairwise fun a b => a.slot ≤ b.slot := (bySlot_sorted due).filter isEvent
  have events := eventsOf_isEvent due
  rw [raiseAll_eq]
  cases hl : eventsOf due with
  | nil => rw [hl] at perm; exact absurd (List.nil_perm.mp perm) some
  | cons e l =>
    rw [hl] at perm sorted events
    obtain ⟨first, -⟩ := List.pairwise_cons.mp sorted
    refine ⟨e, perm.mem_iff.mp List.mem_cons_self, fun x hx => ?_, (foldl_raiseWrite_free events free).1⟩
    obtain rfl | later := List.mem_cons.mp (perm.mem_iff.mpr hx)
    · exact le_refl _
    · exact first x later

/-- FEVMORE is set by every event that is not recorded. -/
theorem flagsB_raiseAll (c : Core) (due : List PendWrite) : (raiseAll c due).flagsB =
    if (c.fevrec.getLsbD 31 && !(due.filter isEvent).isEmpty || decide (2 ≤ (due.filter isEvent).length)) = true then c.flagsB ||| 2 else c.flagsB := by
  have perm := eventsOf_perm due
  have events := eventsOf_isEvent due
  rw [raiseAll_eq, ← perm.isEmpty_eq, ← perm.length_eq]
  cases held : c.fevrec.getLsbD 31 with
  | true =>
    rw [(foldl_raiseWrite_held events held).2]
    cases eventsOf due <;> simp
  | false =>
    cases hl : eventsOf due with
    | nil => rfl
    | cons e l =>
      rw [hl] at events
      rw [(foldl_raiseWrite_free events held).2]
      cases l <;> simp

/-- A core without its flags. -/
def sansFlags (c : Core) : Core := { c with flagsA := 0, flagsB := 0, fevrec := 0 }

theorem sansFlags_raiseWrite (c : Core) (w : PendWrite) : sansFlags (raiseWrite c w) = sansFlags c := by
  cases h : isEvent w with
  | true =>
    rw [raiseWrite_of_event h]
    split <;> rfl
  | false => rw [raiseWrite_of_not_event h]

theorem sansFlags_raiseAll (c : Core) (due : List PendWrite) : sansFlags (raiseAll c due) = sansFlags c :=
  List.foldlRecOn (motive := fun d => sansFlags d = sansFlags c) (bySlot due) _ rfl fun d h w _ => (sansFlags_raiseWrite d w).trans h

end Sys2Proof.Claim
end

section
namespace Sys2Proof.Claim
open Sys2Proof Sys2Proof.Machine

/-! The registers of a core after WRITE_VISIBLE (R18, R19, R78, R133). -/

/-- The due writes of register x as they take effect. -/
def effectsOn (s : State) (c : Core) (x : Nat × Nat) : List PendWrite := inOrder ((dueOn s c x).map s.countGate)

theorem visibleCore_eq (s : State) (c : Core) : visibleCore s c = raiseAll (beforeEvents s c) (dueOf s c) := by
  unfold visibleCore
  rw [dueWrites_eq, raiseAll_map_countGate]

theorem sansFlags_collide (c : Core) : sansFlags c.collide = sansFlags c := rfl

theorem sansFlags_visibleCore (s : State) (c : Core) : sansFlags (visibleCore s c) = sansFlags (written s c) := by
  rw [visibleCore_eq, sansFlags_raiseAll]
  unfold beforeEvents
  split
  · exact sansFlags_collide _
  · rfl

/-- A part of the core that is no flag depends on the registers' writes alone. -/
theorem read_visibleCore_written {α : Type} {read : Core → α} (unflagged : ∀ c, read (sansFlags c) = read c) (s : State) (c : Core) :
    read (visibleCore s c) = read (written s c) := by
  rw [← unflagged, sansFlags_visibleCore, unflagged]

/-- A part of the core that is no register of a write's stands while they are written. -/
theorem read_written_stands {α : Type} {read : Core → α} (blank : ∀ c, read (sansRegisters c) = read c) (s : State) (c : Core) :
    read (written s c) = read (withoutDue s c) := by
  have frame : sansRegisters (written s c) = sansRegisters (withoutDue s c) := sansRegisters_foldl _ _
  rw [← blank, frame, blank]

/-- A part of the core that is no flag takes the effects of its own writes. -/
theorem read_visibleCore {α : Type} {read : Core → α} {p : PendWrite → Bool} {put : α → PendWrite → α}
    (one : ∀ c w, read (c.applyWrite w) = if p w = true then put (read c) w else read c) (unflagged : ∀ c, read (sansFlags c) = read c)
    (s : State) (c : Core) : read (visibleCore s c) = ((effects s c).filter p).foldl put (read (withoutDue s c)) := by
  rw [read_visibleCore_written unflagged]
  exact read_foldl_applyWrite one _ _

theorem effects_filter (s : State) (c : Core) {x : Nat × Nat} (h : x.1 ≠ 3 ∨ (rowsDue s c).length ≤ 2) :
    (effects s c).filter (names x) = effectsOn s c x := by
  unfold effects
  rw [orderWrites_filter, live_names s c h]
  rfl

theorem effects_filter_of_ne (s : State) (c : Core) {file : Nat} (h : file ≠ 3) (r : Nat) : (effects s c).filter (names (file, r)) = effectsOn s c (file, r) :=
  effects_filter s c (Or.inl h)

theorem sreg_visibleCore (s : State) (c : Core) (r : BitVec 5) : (visibleCore s c).sreg r = (effectsOn s c (0, r.toNat)).foldl putS (c.sreg r) := by
  rw [← effects_filter_of_ne s c (by decide)]
  exact read_visibleCore (read := (Core.sreg · r)) (fun c w => sreg_applyWrite c w r) (fun _ => rfl) s c

theorem preg_visibleCore (s : State) (c : Core) (r : BitVec 4) : (visibleCore s c).preg r = (effectsOn s c (1, r.toNat)).foldl (putP r) (c.preg r) := by
  rw [← effects_filter_of_ne s c (by decide)]
  exact read_visibleCore (read := (Core.preg · r)) (fun c w => preg_applyWrite c w r) (fun _ => rfl) s c

theorem kreg_visibleCore (s : State) (c : Core) (r : BitVec 4) : (visibleCore s c).kreg r = (effectsOn s c (2, r.toNat)).foldl (putK r) (c.kreg r) := by
  rw [← effects_filter_of_ne s c (by decide)]
  exact read_visibleCore (read := (Core.kreg · r)) (fun c w => kreg_applyWrite c w r) (fun _ => rfl) s c

theorem greg_visibleCore (s : State) (c : Core) (r : BitVec 4) : (visibleCore s c).greg r = (effectsOn s c (4, r.toNat)).foldl putG (c.greg r) := by
  rw [← effects_filter_of_ne s c (by decide)]
  exact read_visibleCore (read := (Core.greg · r)) (fun c w => greg_applyWrite c w r) (fun _ => rfl) s c

theorem rows_visibleCore (s : State) (c : Core) : (visibleCore s c).rows = ((effects s c).filter PendWrite.isRow).foldl putRow c.rows :=
  read_visibleCore rows_applyWrite (fun _ => rfl) s c

theorem effectsOn_nil {s : State} {c : Core} {x : Nat × Nat} (h : dueOn s c x = []) : effectsOn s c x = [] := by
  unfold effectsOn
  rw [h]
  rfl

theorem names_of_mem_dueOn {s : State} {c : Core} {x : Nat × Nat} {w : PendWrite} (h : w ∈ dueOn s c x) : names x w = true := by
  rw [dueOn_eq] at h
  exact List.of_mem_filter h

theorem names_countGate (s : State) (x : Nat × Nat) (w : PendWrite) : names x (s.countGate w) = names x w := by
  unfold names
  rw [named_countGate]

theorem effectsOn_of_wins {s : State} {c : Core} {x : Nat × Nat} (hx : x.1 ≠ 4) {w : PendWrite} (h : wins (dueOn s c x) w) :
    effectsOn s c x = [s.countGate w] := by
  refine inOrder_of_wins hx (fun v hv => ?_) (wins_map_countGate s h)
  obtain ⟨u, hu, rfl⟩ := List.mem_map.mp hv
  rw [names_countGate]
  exact names_of_mem_dueOn hu

theorem effectsOn_singleton {s : State} {c : Core} {x : Nat × Nat} {w : PendWrite} (h : dueOn s c x = [w]) : effectsOn s c x = [s.countGate w] := by
  have name : names x w = true := names_of_mem_dueOn (h ▸ List.mem_singleton_self w)
  unfold effectsOn
  rw [h]
  exact inOrder_singleton ((names_countGate s x w).trans name)

/-- A stream's write is put in flight with its value. -/
theorem countGate_stream (s : State) {w : PendWrite} {r : BitVec 4} {x : GChange} (h : w.w = .g r x) : s.countGate w = w :=
  countGate_of_ne s fun _ _ _ => by rw [h]; exact RegWrite.noConfusion

theorem live_stream {s : State} {c : Core} {r : BitVec 4} {v : Desc} {x : GChange} {a b : PendWrite}
    (two : dueOn s c (4, r.toNat) = [a, b] ∨ dueOn s c (4, r.toNat) = [b, a]) (ha : a.w = .g r (.load v)) (hb : b.w = .g r x) :
    (liveWrites (dueWrites s c)).filter (names (4, r.toNat)) = [a, b] ∨ (liveWrites (dueWrites s c)).filter (names (4, r.toNat)) = [b, a] := by
  rw [live_names s c (Or.inl (Nat.succ_ne_self 3))]
  obtain h | h := two <;> rw [h, List.map_cons, List.map_singleton, countGate_stream s ha, countGate_stream s hb]
  · exact Or.inl rfl
  · exact Or.inr rfl

/-- R133: the GLD comes before the other change. -/
theorem greg_visibleCore_load {s : State} {c : Core} {r : BitVec 4} {v : Desc} {x : GChange} (h : loadMeets s c r v x) (hx : ∀ y, x ≠ .load y) :
    (visibleCore s c).greg r = x.apply v := by
  obtain ⟨a, b, two, ha, hb⟩ := h
  have stream : (4, r.toNat).1 ≠ 3 := Nat.succ_ne_self 3
  have order : effectsOn s c (4, r.toNat) = [a, b] := by
    unfold effectsOn
    rw [← live_names s c (Or.inl stream)]
    exact inOrder_load (names_stream ha) (names_stream hb) (contends_load ha) (not_contends_change hb hx) (live_stream two ha hb)
  rw [greg_visibleCore, order]
  unfold putG
  rw [List.foldl_cons, List.foldl_cons, ha, hb]
  rfl

theorem mem_of_mem_orderWrites {live : List PendWrite} {w : PendWrite} (h : w ∈ (orderWrites live).1) : w ∈ live := by
  rw [orderWrites_fst, List.mem_append, List.mem_append] at h
  obtain (won | second) | third := h
  · exact List.mem_of_mem_filter (mem_of_mem_resolve won)
  · exact List.mem_of_mem_filter (List.mem_of_mem_filter second)
  · exact List.mem_of_mem_filter (List.mem_of_mem_filter third)

/-- A row's write that takes effect is a due one. -/
theorem countGate_mem_of_isRow {s : State} {c : Core} {w : PendWrite} (h : w ∈ effects s c) (row : w.isRow = true) :
    w ∈ (rowsDue s c).map s.countGate := by
  rw [← dueWrites_filter_isRow]
  exact List.mem_filter.mpr ⟨(liveWrites_sublist _).subset (mem_of_mem_orderWrites h), row⟩

theorem rows_visibleCore_stand {s : State} {c : Core} (h : rowsDue s c = []) : (visibleCore s c).rows = c.rows := by
  have quiet : (effects s c).filter PendWrite.isRow = [] := List.filter_eq_nil_iff.mpr fun w hw row => by
    have due := countGate_mem_of_isRow hw row
    rw [h] at due
    exact List.not_mem_nil due
  rw [rows_visibleCore, quiet]
  rfl

theorem isRow_of_names {w : PendWrite} {r : Nat} (h : names (3, r) w = true) : w.isRow = true := by
  rw [names_iff] at h
  unfold PendWrite.isRow
  unfold named at h
  cases hw : w.w with
  | row r v m => rfl
  | none => rw [hw] at h; exact absurd h (Option.some_ne_none _).symm
  | _ => rw [hw] at h; exact absurd (congrArg Prod.fst (Option.some.inj h)) (by simp)

theorem dueOn_row (s : State) (c : Core) (r : Nat) : dueOn s c (3, r) = (rowsDue s c).filter (names (3, r)) := by
  unfold rowsDue
  rw [dueOn_eq, dueOf, List.filter_filter, List.filter_filter]
  refine List.filter_congr fun w _ => ?_
  cases h : names (3, r) w with
  | false => rfl
  | true => rw [isRow_of_names h, Bool.and_true]

theorem rows_visibleCore_one {s : State} {c : Core} {w : PendWrite} {r : BitVec 11} {v : Row} {m : Mask} (h : rowsDue s c = [w]) (hw : w.w = .row r v m) :
    (visibleCore s c).rows = SMap.put 0 c.rows r.toNat (mergeRow (c.row r.toNat) v m) := by
  have value : s.countGate w = w := countGate_of_ne s fun _ _ _ => by rw [hw]; exact RegWrite.noConfusion
  have name : names (3, r.toNat) w = true := by rw [names_iff, hw]; rfl
  have one : dueOn s c (3, r.toNat) = [w] := by rw [dueOn_row, h, List.filter_cons_of_pos name, List.filter_nil]
  have same : (effects s c).filter PendWrite.isRow = effectsOn s c (3, r.toNat) := by
    rw [← effects_filter s c (Or.inr (by rw [h]; exact Nat.le_succ 1))]
    refine List.filter_congr fun z hz => Bool.eq_iff_iff.mpr ⟨fun row => ?_, isRow_of_names⟩
    have due := countGate_mem_of_isRow hz row
    rw [h, List.map_singleton, value, List.mem_singleton] at due
    rw [due]
    exact name
  rw [rows_visibleCore, same, effectsOn_singleton one, value, List.foldl_cons]
  unfold putRow
  rw [hw]
  rfl

/-! Its flags (R19, R124 to R127, R133). -/

/-- The core's due flag events. -/
def eventsDue (s : State) (c : Core) : List PendWrite :=
  c.pend.filter fun w => decide (w.due ≤ s.clock) && w.flags != 0 && (flagBase w.slot).isSome

theorem eventsDue_eq (s : State) (c : Core) : (dueOf s c).filter isEvent = eventsDue s c := by
  unfold dueOf eventsDue
  rw [List.filter_filter]
  refine List.filter_congr fun w _ => ?_
  unfold isEvent
  rw [Bool.and_comm, Bool.and_assoc]

/-- The flags stand while registers are written, but for WCOL. -/
theorem beforeEvents_flags (s : State) (c : Core) : (beforeEvents s c).flagsA = c.flagsA ∧ (beforeEvents s c).fevrec = c.fevrec ∧
    (beforeEvents s c).flagsB = if collided s c = true then c.flagsB ||| 1 else c.flagsB := by
  have flagsA : (written s c).flagsA = c.flagsA := read_written_stands (fun _ => rfl) s c
  have flagsB : (written s c).flagsB = c.flagsB := read_written_stands (fun _ => rfl) s c
  have fevrec : (written s c).fevrec = c.fevrec := read_written_stands (fun _ => rfl) s c
  unfold beforeEvents
  generalize written s c = d at *
  split
  · exact ⟨flagsA, fevrec, congrArg (· ||| 1) flagsB⟩
  · exact ⟨flagsA, fevrec, flagsB⟩

theorem flagsA_visibleCore (s : State) (c : Core) {i : Nat} (hi : i < 64) :
    (visibleCore s c).flagsA.getLsbD i = (c.flagsA.getLsbD i || (eventsDue s c).any fun w => raisesBit w i) := by
  obtain ⟨a, -, -⟩ := beforeEvents_flags s c
  rw [visibleCore_eq, flagsA_raiseAll _ _ hi, eventsDue_eq, a]

theorem fevrec_visibleCore_stands {s : State} {c : Core} (h : c.fevrec.getLsbD 31 = true ∨ eventsDue s c = []) : (visibleCore s c).fevrec = c.fevrec := by
  obtain ⟨-, r, -⟩ := beforeEvents_flags s c
  rw [visibleCore_eq, fevrec_raiseAll_stands (by rw [eventsDue_eq, r]; exact h), r]

theorem fevrec_visibleCore_records {s : State} {c : Core} (free : c.fevrec.getLsbD 31 = false) (some : eventsDue s c ≠ []) :
    ∃ e ∈ eventsDue s c, (∀ x ∈ eventsDue s c, e.slot ≤ x.slot) ∧ isEvent e = true ∧ (visibleCore s c).fevrec = eventWord e := by
  obtain ⟨-, r, -⟩ := beforeEvents_flags s c
  rw [visibleCore_eq]
  rw [← eventsDue_eq] at some ⊢
  obtain ⟨e, he, first, record⟩ := fevrec_raiseAll_records (c := beforeEvents s c) (by rw [r]; exact free) some
  exact ⟨e, he, first, List.of_mem_filter he, record⟩

theorem flagsB_visibleCore (s : State) (c : Core) (i : Nat) : (visibleCore s c).flagsB.getLsbD i =
    (c.flagsB.getLsbD i || (collided s c && (1 : Word).getLsbD i) ||
      ((c.fevrec.getLsbD 31 && !(eventsDue s c).isEmpty || decide (2 ≤ (eventsDue s c).length)) && (2 : Word).getLsbD i)) := by
  obtain ⟨-, r, b⟩ := beforeEvents_flags s c
  have bit (p : Bool) (x k : Word) : (if p = true then x ||| k else x).getLsbD i = (x.getLsbD i || (p && k.getLsbD i)) := by
    cases p
    · exact (Bool.or_false _).symm
    · exact BitVec.getLsbD_or
  rw [visibleCore_eq, flagsB_raiseAll, eventsDue_eq, r, bit, b, bit]

theorem wcol_visibleCore {s : State} {c : Core} (h : collided s c = true) : (visibleCore s c).flagsB.getLsbD 0 = true := by
  rw [flagsB_visibleCore, h]
  simp

theorem collided_of_two {s : State} {c : Core} {x : Nat × Nat} (two : 2 ≤ (dueOn s c x).length) (hx : x.1 < 3 ∨ (x.1 = 3 ∧ (rowsDue s c).length ≤ 2)) :
    collided s c = true := by
  refine collides_of_two (x := x) ?_
  have live := live_names s c (x := x) (hx.imp (fun h => by omega) And.right)
  have all : ∀ w ∈ (liveWrites (dueWrites s c)).filter (names x), contends w = true := fun w hw =>
    contends_of_names (by omega) (List.of_mem_filter hw)
  rw [List.filter_eq_self.mpr all, live, List.length_map]
  exact two

theorem collided_of_two_loads {s : State} {c : Core} {r : BitVec 4} {v y : Desc} (h : loadMeets s c r v (.load y)) : collided s c = true := by
  obtain ⟨a, b, two, ha, hb⟩ := h
  refine collides_of_two (x := (4, r.toNat)) ?_
  obtain live | live := live_stream two ha hb <;> rw [live] <;> simp [contends_load ha, contends_load hb]

theorem collided_of_load {s : State} {c : Core} {r : BitVec 4} {v : Desc} {x : GChange} (h : loadMeets s c r v x) (hx : ∀ y, x ≠ .load y)
    (moves : x.order = 1 ∨ x.moves v = true) : collided s c = true := by
  obtain ⟨a, b, two, ha, hb⟩ := h
  exact collides_of_load_meets ha hb hx (live_stream two ha hb) moves

theorem not_collided {s : State} {c : Core} (h : ∀ x, (dueOn s c x).length ≤ 1) : collided s c = false := by
  refine not_collides fun x => ?_
  have sub := ((liveWrites_sublist (dueWrites s c)).filter (names x)).length_le
  rw [dueWrites_filter_names, List.length_map] at sub
  exact sub.trans (h x)

/-! Which levels of a stream a loop's change moves (R129, R132). -/

theorem bindOf_eq (d : Desc) {l : Nat} (h : l < 4) : Desc.bindOf d l = boundOf d l := by
  unfold Desc.bindOf Desc.map Desc.field bitsOf boundOf
  interval_cases l <;> omega

theorem ext_eq (d : Desc) (l : Nat) : Desc.ext d l = extOf d l := by
  unfold Desc.ext Desc.field extOf
  rw [show 8 * (20 + 2 * l) = 160 + 16 * l by omega]

theorem mem_boundTo {d : Desc} {k l : Nat} : l ∈ Desc.boundTo d k ↔ l < 4 ∧ boundOf d l = k := by
  unfold Desc.boundTo
  rw [List.mem_filter, List.mem_range, beq_iff_eq]
  exact and_congr_right fun h => by rw [bindOf_eq d h]

theorem moves_push {d : Desc} {k : Nat} (h : ∃ j, j < 4 ∧ boundOf d j = k) : (GChange.push k).moves d = true := by
  obtain ⟨j, hj⟩ := h
  change (!(Desc.boundTo d k).isEmpty) = true
  rw [List.isEmpty_eq_false_iff_exists_mem.mpr ⟨j, mem_boundTo.mpr hj⟩]
  rfl

theorem moves_advance {d : Desc} {k : Nat} (h : ∃ j, j < 4 ∧ boundOf d j = k ∧ extOf d j ≠ 0) : (GChange.advance k).moves d = true := by
  obtain ⟨j, inside, bound, used⟩ := h
  exact List.any_eq_true.mpr ⟨j, mem_boundTo.mpr ⟨inside, bound⟩, by rw [ext_eq]; exact decide_eq_true used⟩

theorem order_or_moves {x : GChange} (d : Desc) (hx : ∀ y, x ≠ .load y) (loop : ∀ k, x ≠ .push k ∧ x ≠ .advance k) :
    x.order = 1 ∨ x.moves d = true := by
  cases x with
  | load y => exact absurd rfl (hx y)
  | push k => exact absurd rfl (loop k).1
  | advance k => exact absurd rfl (loop k).2
  | delta v => exact Or.inr rfl
  | _ => exact Or.inl rfl

theorem p_visibleCore_zero (s : State) (c : Core) : (visibleCore s c).p.getLsbD 0 = c.p.getLsbD 0 := by
  obtain ⟨p, -⟩ := zero_foldl (effects s c) (withoutDue s c)
  exact (read_visibleCore_written (read := (·.p.getLsbD 0)) (fun _ => rfl) s c).trans p

theorem k_visibleCore_zero (s : State) (c : Core) : (visibleCore s c).k[0] = c.k[0] := by
  obtain ⟨-, k⟩ := zero_foldl (effects s c) (withoutDue s c)
  exact (read_visibleCore_written (read := (·.k[0])) (fun _ => rfl) s c).trans k

/-- What is neither a register that writes name nor a flag stands. -/
theorem read_visibleCore_stands {α : Type} {read : Core → α} (unflagged : ∀ c, read (sansFlags c) = read c)
    (blank : ∀ c, read (sansRegisters c) = read c) (s : State) (c : Core) : read (visibleCore s c) = read (withoutDue s c) :=
  (read_visibleCore_written unflagged s c).trans (read_written_stands blank s c)

theorem frame_visibleCore (s : State) (c : Core) :
    (visibleCore s c).p.getLsbD 0 = c.p.getLsbD 0 ∧ (visibleCore s c).k[0] = c.k[0] ∧ (visibleCore s c).pc = c.pc ∧ (visibleCore s c).loops = c.loops ∧
    (visibleCore s c).tcyc = c.tcyc ∧ (visibleCore s c).slim = c.slim ∧ (visibleCore s c).oorrec = c.oorrec ∧ (visibleCore s c).gkey = c.gkey ∧
    (visibleCore s c).phaseno = c.phaseno ∧ (visibleCore s c).win = c.win ∧ (visibleCore s c).ctx = c.ctx ∧ (visibleCore s c).x = c.x ∧
    (visibleCore s c).ckpt = c.ckpt :=
  ⟨p_visibleCore_zero s c, k_visibleCore_zero s c, read_visibleCore_stands (read := Core.pc) (fun _ => rfl) (fun _ => rfl) s c,
    read_visibleCore_stands (read := Core.loops) (fun _ => rfl) (fun _ => rfl) s c, read_visibleCore_stands (read := Core.tcyc) (fun _ => rfl) (fun _ => rfl) s c,
    read_visibleCore_stands (read := Core.slim) (fun _ => rfl) (fun _ => rfl) s c, read_visibleCore_stands (read := Core.oorrec) (fun _ => rfl) (fun _ => rfl) s c,
    read_visibleCore_stands (read := Core.gkey) (fun _ => rfl) (fun _ => rfl) s c, read_visibleCore_stands (read := Core.phaseno) (fun _ => rfl) (fun _ => rfl) s c,
    read_visibleCore_stands (read := Core.win) (fun _ => rfl) (fun _ => rfl) s c, read_visibleCore_stands (read := Core.ctx) (fun _ => rfl) (fun _ => rfl) s c,
    read_visibleCore_stands (read := Core.x) (fun _ => rfl) (fun _ => rfl) s c, read_visibleCore_stands (read := Core.ckpt) (fun _ => rfl) (fun _ => rfl) s c⟩

/-! The value of a register that no due write names, and the one that a winner leaves. -/

theorem sreg_stands {s : State} {c : Core} {r : BitVec 5} (h : dueOn s c (0, r.toNat) = []) : (visibleCore s c).sreg r = c.sreg r := by
  rw [sreg_visibleCore, effectsOn_nil h]
  rfl

theorem preg_stands {s : State} {c : Core} {r : BitVec 4} (h : dueOn s c (1, r.toNat) = []) : (visibleCore s c).preg r = c.preg r := by
  rw [preg_visibleCore, effectsOn_nil h]
  rfl

theorem kreg_stands {s : State} {c : Core} {r : BitVec 4} (h : dueOn s c (2, r.toNat) = []) : (visibleCore s c).kreg r = c.kreg r := by
  rw [kreg_visibleCore, effectsOn_nil h]
  rfl

theorem greg_stands {s : State} {c : Core} {r : BitVec 4} (h : dueOn s c (4, r.toNat) = []) : (visibleCore s c).greg r = c.greg r := by
  rw [greg_visibleCore, effectsOn_nil h]
  rfl

theorem sreg_of_wins {s : State} {c : Core} {r : BitVec 5} {w : PendWrite} {v : Word} (hw : w.w = .s r v) (h : wins (dueOn s c (0, r.toNat)) w) :
    (visibleCore s c).sreg r = v := by
  rw [sreg_visibleCore, effectsOn_of_wins (Nat.zero_ne_add_one 3) h, countGate_of_ne s (by rw [hw]; exact fun _ _ _ => RegWrite.noConfusion)]
  unfold putS
  rw [List.foldl_cons, hw]
  rfl

theorem preg_of_wins {s : State} {c : Core} {r : BitVec 4} {w : PendWrite} {v : Bool} (hr : r ≠ 0) (hw : w.w = .p r v)
    (h : wins (dueOn s c (1, r.toNat)) w) : (visibleCore s c).preg r = v := by
  rw [preg_visibleCore, effectsOn_of_wins (show (1 : Nat) ≠ 4 by decide) h, countGate_of_ne s (by rw [hw]; exact fun _ _ _ => RegWrite.noConfusion)]
  unfold putP
  rw [List.foldl_cons, hw]
  exact congrArg (· || v) (beq_eq_false_iff_ne.mpr hr)

theorem kreg_of_wins {s : State} {c : Core} {r : BitVec 4} {w : PendWrite} {v m : Mask} (hr : r ≠ 0) (hw : w.w = .k r v m)
    (h : wins (dueOn s c (2, r.toNat)) w) : (visibleCore s c).kreg r = (c.kreg r &&& ~~~m) ||| (v &&& m) := by
  rw [kreg_visibleCore, effectsOn_of_wins (show (2 : Nat) ≠ 4 by decide) h, countGate_of_ne s (by rw [hw]; exact fun _ _ _ => RegWrite.noConfusion)]
  unfold putK
  rw [List.foldl_cons, hw]
  exact if_neg hr

theorem greg_of_singleton {s : State} {c : Core} {r : BitVec 4} {w : PendWrite} {x : GChange} (hw : w.w = .g r x) (h : dueOn s c (4, r.toNat) = [w]) :
    (visibleCore s c).greg r = x.apply (c.greg r) := by
  rw [greg_visibleCore, effectsOn_singleton h, countGate_stream s hw]
  unfold putG
  rw [List.foldl_cons, hw]
  rfl

theorem pend_visibleCore (s : State) (c : Core) : (visibleCore s c).pend = (c.pend.filter fun w => !decide (w.due ≤ s.clock)).map s.countGate := by
  rw [read_visibleCore_stands (read := Core.pend) (fun _ => rfl) (fun _ => rfl)]
  unfold withoutDue
  rw [List.filter_map]
  exact congrArg (List.map s.countGate) (List.filter_congr fun w _ => by rw [Function.comp_apply, countGate_due])

theorem fevmore_visibleCore (s : State) (c : Core) : (visibleCore s c).flagsB.getLsbD 1 =
    (c.flagsB.getLsbD 1 || (c.fevrec.getLsbD 31 && !(eventsDue s c).isEmpty) || decide (2 ≤ (eventsDue s c).length)) := by
  rw [flagsB_visibleCore]
  simp [Bool.or_assoc]

theorem flagsB_visibleCore_other (s : State) (c : Core) {i : Nat} (h : 2 ≤ i) : (visibleCore s c).flagsB.getLsbD i = c.flagsB.getLsbD i := by
  have low (k : Nat) (hk : k < 4) : (BitVec.ofNat 64 k).getLsbD i = false := by
    rw [BitVec.getLsbD_ofNat, Nat.testBit_lt_two_pow (hk.trans_le (Nat.pow_le_pow_right (n := 2) (by decide) h)), Bool.and_false]
  rw [flagsB_visibleCore]
  change (_ || (_ && (BitVec.ofNat 64 1).getLsbD i) || (_ && (BitVec.ofNat 64 2).getLsbD i)) = _
  rw [low 1 (by decide), low 2 (by decide), Bool.and_false, Bool.and_false, Bool.or_false, Bool.or_false]

/-- Settles O37: WRITE_VISIBLE core by core, then register by register from the writes that name it, and the flags from the events in slot order. -/
theorem registerWritesBecomeVisible : Obligations.RegisterWritesBecomeVisible := by
  unfold Obligations.RegisterWritesBecomeVisible
  intro s canon
  obtain ⟨t, answered, seen⟩ := exec_writeVisible canon
  refine ⟨t, answered, fun n => ?_⟩
  obtain ⟨b, f, hd⟩ := seen n
  intro c d
  have seen : d = withLate (visibleCore s (withBufs c b)) f := hd
  clear_value d
  subst seen
  let v := withBufs c b
  refine ⟨pend_visibleCore s v, fun _ => sreg_stands (c := v), fun _ _ _ hw => sreg_of_wins (c := v) hw, fun _ => preg_stands (c := v),
    fun _ _ _ hr hw => preg_of_wins (c := v) hr hw, fun _ => kreg_stands (c := v), fun _ _ _ _ hr hw => kreg_of_wins (c := v) hr hw,
    rows_visibleCore_stand (c := v), fun _ _ _ _ one hw => rows_visibleCore_one (c := v) one hw, fun _ => greg_stands (c := v),
    fun _ _ _ one hw => greg_of_singleton (c := v) hw one, ?_, ?_, ?_, ?_, fun _ => flagsA_visibleCore s v, fevrec_visibleCore_stands (c := v), ?_,
    fevmore_visibleCore s v, fun _ low _ => flagsB_visibleCore_other s v low, frame_visibleCore s v⟩
  · intro r g x meets hx
    refine ⟨greg_visibleCore_load (c := v) meets hx, fun loop => wcol_visibleCore (c := v) (collided_of_load (c := v) meets hx (order_or_moves g hx loop)), ?_, ?_⟩
    · rintro k rfl bound
      exact wcol_visibleCore (c := v) (collided_of_load (c := v) meets hx (Or.inr (moves_push bound)))
    · rintro k rfl bound
      exact wcol_visibleCore (c := v) (collided_of_load (c := v) meets hx (Or.inr (moves_advance bound)))
  · rintro ⟨x, two, hx⟩
    exact wcol_visibleCore (c := v) (collided_of_two (c := v) two hx)
  · exact fun r g y meets => wcol_visibleCore (c := v) (collided_of_two_loads (c := v) meets)
  · intro apart
    have stands : (visibleCore s v).flagsB.getLsbD 0 = v.flagsB.getLsbD 0 := by
      rw [flagsB_visibleCore, not_collided (c := v) apart]
      simp
    exact stands
  · intro free events
    obtain ⟨e, he, first, event, record⟩ := fevrec_visibleCore_records (c := v) free events
    obtain ⟨addr, slot, flags, gap, valid, stamp⟩ := eventWord_fields event
    refine ⟨e, he, first, ?_⟩
    have fevrec : (withLate (visibleCore s v) f).fevrec = eventWord e := record
    rw [fevrec]
    exact ⟨addr, slot, flags, gap, valid, stamp⟩

end Sys2Proof.Claim
end

section
namespace Sys2Proof.Claim
open Sys2Proof Sys2Proof.Machine

/-! TRAP and the control transfers (R49, R52, R58). -/

/-- A trap of the slot being issued, taken alone, is the exception of its bundle (R42). -/
theorem runOp_traps {f : Op} {s : State} {cause detail : BitVec 8} (h : f s s = .error (trapAt s cause detail)) :
    runOp f s = .next (trapped s cause detail) :=
  runOp_error h

/-- Settles O7: under a true predicate the one answer of TRAP is its trap. -/
theorem trapRaisesItsCode : Obligations.TrapRaisesItsCode := by
  unfold Obligations.TrapRaisesItsCode
  intro p code s
  exact ⟨fun on => runOp_traps (f := opTrap p code) (if_pos on), fun off => exec_of_guard_false rfl off⟩

/-- CheckTarget of R49: beyond the code store, or no multiple of 4. -/
theorem badTarget_iff (t : Word) : badTarget t = true ↔ t.toNat / 2 ^ 18 ≠ 0 ∨ t.toNat % 4 ≠ 0 := by
  unfold badTarget
  rw [Bool.or_eq_true, decide_eq_true_iff, decide_eq_true_iff]

theorem not_badTarget {t : Word} (inside : t.toNat < 2 ^ 18) (aligned : t.toNat % 4 = 0) : ¬badTarget t = true := by
  rw [badTarget_iff, Nat.div_eq_of_lt inside, aligned]
  simp

theorem not_off {p : Pred} {s : State} (on : s.cur.holds p = true) : ¬(!s.cur.holds p) = true := by
  rw [on]
  exact Bool.false_ne_true

/-- CALLI and RET under a true predicate, by what CheckTarget says of the target. -/
theorem opCalli_of_bad {p : Pred} {s : State} (on : s.cur.holds p = true) {sa : BitVec 5} (bad : badTarget (s.cur.sreg sa) = true) :
    opCalli p sa s s = .error (trapAt s 0x02 0x06) ∧ opRet p sa s s = .error (trapAt s 0x02 0x06) :=
  ⟨(if_neg (not_off on)).trans (if_pos bad), (if_neg (not_off on)).trans (if_pos bad)⟩

theorem opCalli_of_legal {p : Pred} {s : State} (on : s.cur.holds p = true) {sa : BitVec 5} (legal : ¬badTarget (s.cur.sreg sa) = true) :
    opCalli p sa s s = .ok ((goTo s (s.cur.sreg sa).toNat).writeS 30 (BitVec.ofNat 64 (s.ix.addr + s.ix.len)) 1) ∧
    opRet p sa s s = .ok (goTo s (s.cur.sreg sa).toNat) :=
  ⟨(if_neg (not_off on)).trans (if_neg legal), (if_neg (not_off on)).trans (if_neg legal)⟩

/-- Settles O8: each transfer's predicate, target and depth checks decide between its effect and its trap. -/
theorem controlTransfers : Obligations.ControlTransfers := by
  unfold Obligations.ControlTransfers
  refine ⟨fun p s on => ⟨fun off => ?_, fun off => ?_, fun sa inside aligned => ?_, fun n off popped => ?_⟩,
    fun p s on => ⟨fun sa illegal => ?_, fun n off short => ?_⟩⟩
  · exact runOp_ok (f := opB p off) (if_pos on)
  · exact runOp_ok (f := opCall p off) (if_pos on)
  · obtain ⟨calls, returns⟩ := opCalli_of_legal on (not_badTarget inside aligned)
    exact ⟨runOp_ok (f := opCalli p sa) calls, runOp_ok (f := opRet p sa) returns⟩
  · exact runOp_ok (f := opBrkl p n off) ((if_neg (not_off on)).trans (if_neg (Nat.not_lt.mpr popped)))
  · obtain ⟨calls, returns⟩ := opCalli_of_bad on ((badTarget_iff _).mpr illegal)
    exact ⟨runOp_traps (f := opCalli p sa) calls, runOp_traps (f := opRet p sa) returns⟩
  · exact runOp_traps (f := opBrkl p n off) ((if_neg (not_off on)).trans (if_pos short))

end Sys2Proof.Claim
end

section
namespace Sys2Proof.Claim
open Sys2Proof Sys2Proof.Machine

/-! LOOP and REPLAY (R50, R67, R132). -/

/-- The address after the bundle at LEND, where LOOP with count 0 goes on (R50). -/
def pastLoop (s : State) (e : BitVec 13) : Nat :=
  let hd := s.codeAt (s.ix.addr + 4 * e.toNat)
  s.ix.addr + 4 * e.toNat + bundleLen (hd.extractLsb' 0 11) (hd.extractLsb' 11 3).toNat

/-- The branches of LOOP in the order of its checks. -/
theorem loopOp_eq (n : State → BitVec 32) (e : BitVec 13) (s : State) :
    loopOp n e s s =
      if s.ix.addr + 4 * e.toNat < s.ix.addr + s.ix.len ∨ codeBytes ≤ s.ix.addr + 4 * e.toNat then .error (trapAt s 0x02 0x00)
      else if n s = 0 then if codeBytes < pastLoop s e then .error ⟨0x01, 0x00, 15, none, none⟩ else .ok (goTo s (pastLoop s e))
      else if 6 ≤ s.cur.loops.length then .error (trapAt s 0x02 0x01)
      else .ok (goTo (s.pushLevel ⟨n s, 0, BitVec.ofNat 18 (s.ix.addr + s.ix.len), BitVec.ofNat 18 (s.ix.addr + 4 * e.toNat), none⟩)
        (s.ix.addr + s.ix.len : Nat)) := by
  have ends : (decide (s.ix.addr + 4 * e.toNat < s.ix.addr + s.ix.len) || decide (codeBytes ≤ s.ix.addr + 4 * e.toNat)) = true ↔
      s.ix.addr + 4 * e.toNat < s.ix.addr + s.ix.len ∨ codeBytes ≤ s.ix.addr + 4 * e.toNat := by
    rw [Bool.or_eq_true, decide_eq_true_iff, decide_eq_true_iff]
  unfold loopOp
  dsimp only [State.here, State.after]
  exact if_congr ends rfl rfl

/-- R50's cases exclude each other, so each one's answer is read off the branches. -/
theorem loopRule_of_loopOp (n : State → BitVec 32) (e : BitVec 13) (s : State) :
    ∃ t, runOp (loopOp n e) s = .next t ∧ LoopRule s (n s) e.toNat t := by
  obtain ⟨t, answered, -⟩ := runOp_next (loopOp n e) s
  have answer {u : State} (h : runOp (loopOp n e) s = .next u) : t = u := Host.Outcome.next.inj (answered.symm.trans h)
  have branches := loopOp_eq n e s
  rw [show codeBytes = 262144 from rfl] at branches
  refine ⟨t, answered, fun bad => ?_, fun after inside zero fits => ?_, fun after inside zero beyond => ?_, fun after inside some full => ?_,
    fun after inside some room => ?_⟩
  · rw [if_pos bad] at branches
    exact answer (runOp_traps branches)
  all_goals rw [if_neg (by omega)] at branches
  · rw [if_pos zero, if_neg (show ¬262144 < pastLoop s e from Nat.not_lt.mpr fits)] at branches
    exact answer (runOp_ok branches)
  · rw [if_pos zero, if_pos (show 262144 < pastLoop s e from beyond)] at branches
    exact answer (runOp_error branches)
  · rw [if_neg some, if_pos full] at branches
    exact answer (runOp_traps branches)
  · rw [if_neg some, if_neg (Nat.not_le.mpr room)] at branches
    exact answer (runOp_ok branches)

theorem opReplay_eq (l : BitVec 8) (st d : BitVec 3) (s : State) :
    opReplay l st d s s =
      if lit32 s 0 = 0 then .ok (goTo s (s.ix.addr + s.ix.len + 4 * l.toNat : Nat))
      else if 6 ≤ s.cur.loops.length then .error (trapAt s 0x02 0x01)
      else .ok (goTo ((s.pushLevel (replayLevel s l st d)).stagePreds
        ⟨lit32 s 0, st.toNat, (List.range d.toNat).map fun i => (BitVec.ofNat 4 (s.lit (1 + i) / 2 ^ 28), BitVec.ofNat 28 (s.lit (1 + i))),
          s.ix.addr + s.ix.len + 4 * l.toNat⟩ 0) (s.ix.addr + s.ix.len : Nat)) := rfl

/-- A push is the level upon the loop stack, and its writes in flight. -/
theorem pushLevel_spec (s : State) (l : LoopLevel) :
    OnlyIssuer s (s.pushLevel l) ∧
    (s.pushLevel l).cur = { s.cur with loops := l :: s.cur.loops, pend := s.cur.pend ++ onEveryStream s (.push s.cur.loops.length) } ∧
    ∀ a, memByte (s.pushLevel l).mem a = memByte s.mem a := by
  have deep : ({ s.cur with loops := l :: s.cur.loops } : Core) ≠ Core.init := fun e => List.cons_ne_nil _ _ (congrArg Core.loops e)
  let pushed := s.setCore s.ix.core { s.cur with loops := l :: s.cur.loops }
  have own : pushed.cur = { s.cur with loops := l :: s.cur.loops } := State.core_setCore_same_of_ne s _ _ deep
  have carried (w : RegWrite) : inFlight pushed w 1 0 0 = inFlight s w 1 0 0 := by
    unfold inFlight
    rw [own]
    rfl
  have writes : onEveryStream pushed (.push s.cur.loops.length) = onEveryStream s (.push s.cur.loops.length) := by
    unfold onEveryStream
    simp only [carried]
  obtain ⟨⟨only, others⟩, cur, mem⟩ := onlyWrites_changeStreams pushed (.push s.cur.loops.length)
  refine ⟨⟨only, fun k hk => ?_⟩, ?_, mem⟩
  · exact (others k hk).trans (State.core_setCore_other_of_ne s _ _ _ deep hk)
  · rw [own, writes] at cur
    exact cur

/-- Settles O9: the branches of both instructions, and the push and the stage predicates as writes in flight. -/
theorem loopAndReplayResults : Obligations.LoopAndReplayResults := by
  unfold Obligations.LoopAndReplayResults
  refine ⟨fun e s => ⟨fun sa => loopRule_of_loopOp (fun s => (s.cur.sreg sa).extractLsb' 0 32) e s,
    fun l => loopRule_of_loopOp (fun s => BitVec.ofNat 32 (s.lit l.toNat)) e s⟩, fun l st d s => ?_, pushLevel_spec, onlyWrites_stagePreds⟩
  have branches := opReplay_eq l st d s
  refine ⟨fun zero => ?_, fun some full => ?_, fun some room r level => ?_⟩
  · rw [if_pos zero] at branches
    exact runOp_ok (f := opReplay l st d) branches
  · rw [if_neg some, if_pos full] at branches
    exact runOp_traps (f := opReplay l st d) branches
  · obtain rfl := Option.some.inj level
    rw [if_neg some, if_neg (Nat.not_le.mpr room)] at branches
    exact runOp_ok (f := opReplay l st d) branches

end Sys2Proof.Claim
end

section
namespace Sys2Proof.Claim
open Sys2Proof Sys2Proof.Machine

/-! Predicates and LIDX (R53, R55, R56). -/

/-- PGET's sum over the first n of the eight predicates: bit i is predicate b + i, and the sum stays below 2^n. -/
def pgetSum (f : Nat → Bool) (n : Nat) : Nat := (List.range n).foldl (fun a i => if f i = true then a + 2 ^ i else a) 0

theorem pgetSum_succ (f : Nat → Bool) (n : Nat) : pgetSum f (n + 1) = if f n = true then pgetSum f n + 2 ^ n else pgetSum f n := by
  unfold pgetSum
  rw [List.range_succ, List.foldl_concat]

theorem pgetSum_lt (f : Nat → Bool) (n : Nat) : pgetSum f n < 2 ^ n := by
  induction n with
  | zero => exact Nat.one_pos
  | succ n ih => rw [pgetSum_succ, Nat.pow_succ]; split <;> omega

theorem testBit_pgetSum (f : Nat → Bool) {n i : Nat} (h : i < n) : (pgetSum f n).testBit i = f i := by
  induction n with
  | zero => exact absurd h (Nat.not_lt_zero i)
  | succ n ih =>
    have small := pgetSum_lt f n
    rw [pgetSum_succ]
    obtain below | rfl := Nat.lt_succ_iff_lt_or_eq.mp h
    · split
      · rw [Nat.add_comm, Nat.testBit_two_pow_add_gt below, ih below]
      · exact ih below
    · split
      next on => rw [Nat.add_comm, Nat.testBit_two_pow_add_eq, Nat.testBit_lt_two_pow small, on]; rfl
      next off => rw [Nat.testBit_lt_two_pow small, Bool.eq_false_of_not_eq_true off]

theorem opPget_eq {p : Pred} {s : State} (on : s.cur.holds p = true) (sd : BitVec 5) (h : Bool) :
    opPget p sd h s s = .ok (s.writeS sd (BitVec.ofNat 64 (pgetSum (fun i => s.cur.preg (BitVec.ofNat 4 ((if h then 8 else 0) + i))) 8)) 1) :=
  if_pos on

theorem opLidx_level {p : Pred} {s : State} (on : s.cur.holds p = true) (sd : BitVec 5) {d : BitVec 3} (hd : d ≠ 7) :
    opLidx p sd d s s = .ok (s.writeS sd (((s.cur.loops[d.toNat]?).map fun l => l.index.zeroExtend 64).getD 0) 1) := by
  unfold opLidx
  rw [if_pos on]
  dsimp only
  rw [if_neg hd]
  cases s.cur.loops[d.toNat]? with
  | none => rfl
  | some l => exact congrArg (fun v => Except.ok (s.writeS sd v 1)) (BitVec.ofNat_toNat 64 l.index)

/-- Settles O11: one write of a scalar or a predicate each, and for PSET eight. -/
theorem predicateResults : Obligations.PredicateResults := by
  unfold Obligations.PredicateResults
  intro p s on
  refine ⟨fun o => ⟨?_, ?_, ?_⟩, fun sd h => ?_, fun sa h => ?_, fun sd d => ⟨fun hd => ?_, fun hd => ?_⟩⟩
  · exact runOp_ok (f := opPand p o) (if_pos on)
  · exact runOp_ok (f := opPor p o) (if_pos on)
  · exact runOp_ok (f := opPxor p o) (if_pos on)
  · let f (i : Nat) := s.cur.preg (BitVec.ofNat 4 ((if h then 8 else 0) + i))
    have small : pgetSum f 8 < 256 := pgetSum_lt f 8
    have value : (BitVec.ofNat 64 (pgetSum f 8)).toNat = pgetSum f 8 := by rw [BitVec.toNat_ofNat, Nat.mod_eq_of_lt (by omega)]
    refine ⟨BitVec.ofNat 64 (pgetSum f 8), value.symm ▸ small, fun i hi => ?_, runOp_ok (f := opPget p sd h) (opPget_eq on sd h)⟩
    rw [BitVec.getLsbD, value]
    exact testBit_pgetSum f hi
  · exact ⟨_, runOp_ok (f := opPset p sa h) (if_pos on),
      onlyWrites_foldl (fun i => RegWrite.p (BitVec.ofNat 4 ((if h then 8 else 0) + i)) ((s.cur.sreg sa).getLsbD i)) 1 (List.range 8) s⟩
  · refine runOp_ok (f := opLidx p sd d) (opLidx_level on sd ?_)
    rintro rfl
    exact absurd hd (by decide)
  · exact runOp_ok (f := opLidx p sd d) (by unfold opLidx; rw [if_pos on]; dsimp only; rw [if_pos hd]; rfl)

end Sys2Proof.Claim
end

section
namespace Sys2Proof.Claim
open Sys2Proof Sys2Proof.Machine

/-! Reads after writes, in any map: of a core or a launch that is not the default one. -/

theorem core_modCore_same {s : State} {n : Nat} {f : Core → Core} (h : f (s.core n) ≠ Core.init) : (s.modCore n f).core n = f (s.core n) :=
  State.core_setCore_same_of_ne s n _ h

theorem core_modCore_other {s : State} {n k : Nat} {f : Core → Core} (h : f (s.core n) ≠ Core.init) (hk : k ≠ n) :
    (s.modCore n f).core k = s.core k :=
  State.core_setCore_other_of_ne s n k _ h hk

theorem cur_modCur_of_ne {s : State} {f : Core → Core} (h : f s.cur ≠ Core.init) : (s.modCur f).cur = f s.cur := core_modCore_same h

theorem launch_setLaunch_same {s : State} {b : Nat} {l : Launch} (h : l ≠ Launch.free) : (s.setLaunch b l).launch b = l :=
  SMap.get_put_same_of_ne Launch.free s.binds b l h

theorem launch_scheduleOnce (s : State) (at_ prio : Nat) (ev : Instr) (b : Nat) : (s.scheduleOnce at_ prio ev).launch b = s.launch b := by
  rw [State.scheduleOnce_eq]
  rfl

theorem ne_init_of_ckpt {c : Core} {q : Checkpoint} (h : c.ckpt = some q) : c ≠ Core.init := fun e =>
  Option.some_ne_none q (h.symm.trans (congrArg Core.ckpt e))

theorem ne_init_of_triggered {c : Core} (h : c.triggered = true) : c ≠ Core.init := fun e =>
  Bool.false_ne_true ((congrArg Core.triggered e).symm.trans h)

theorem ne_free_of_triggered {l : Launch} (h : l.triggered = true) : l ≠ Launch.free := fun e =>
  Bool.false_ne_true ((congrArg Launch.triggered e).symm.trans h)

/-! Effects (R62) and new operations (R205). -/

/-- The closing mark of an effect, which a sealed region does not take. -/
def markClosing (c : Core) : Core := if c.region.kind == .sealed then c else { c with region := { c.region with closing := true } }

theorem effect_eq (s : State) : s.effect = s.modCur markClosing := rfl

theorem markClosing_eq (c : Core) : markClosing c = { c with region := (markClosing c).region } := by
  unfold markClosing
  split <;> rfl

@[simp] theorem ctxAt_setCtx (c : Core) (r : BitVec 3) (x : Ctx) : (c.setCtx r x).ctxAt r = x := by
  simp [Core.setCtx, Core.ctxAt]

/-- A core with a member in an open batch is not the one after reset. -/
theorem ne_init_of_members {c : Core} (r : BitVec 3) (h : 0 < (c.ctxAt r).cur.members) : c ≠ Core.init := by
  rintro rfl
  have none : (Core.init.ctxAt r).cur.members = 0 := by simp [Core.ctxAt, Core.init, Ctx.init, Batch.empty]
  omega

/-- The issuing core with one more operation in the open batch of a context. -/
def withMember (c : Core) (r : BitVec 3) (writing : Bool) : Core := c.setCtx r ((c.ctxAt r).join writing)

theorem members_withMember (c : Core) (r : BitVec 3) (writing : Bool) :
    ((withMember c r writing).ctxAt r).cur.members = (c.ctxAt r).cur.members + 1 := by
  unfold withMember
  rw [ctxAt_setCtx]
  rfl

end Sys2Proof.Claim
end

section
namespace Sys2Proof.Claim
open Sys2Proof Sys2Proof.Machine

/-! TLTEST, SYS, TRIGGER and END (R57, R59, R60, R61). -/

/-- SYS as an untimed operation of tl7, with its words. -/
theorem opSys_spec {p : Pred} {s : State} (on : s.cur.holds p = true) (code : BitVec 8) :
    ∃ t k, opSys p code s s = .ok t ∧ t.sysWait = s.sysWait ++ [s.nextId] ∧ t.cmds = s.cmds ++ [k] ∧ k.id = s.nextId ∧ k.core = s.ix.core ∧ k.ctx = 7 ∧
      k.timed = false ∧ k.writing = true ∧
      k.args = [BitVec.ofNat 64 code.toNat, BitVec.ofNat 64 s.ix.core, BitVec.ofNat 64 s.cur.tcyc] ++
        ((List.range 8).map fun i => s.cur.sreg (BitVec.ofNat 5 i)) ++ [s.cur.sysCount.zeroExtend 64] ∧
      t.cur = markClosing { withMember s.cur 7 true with sysCount := s.cur.sysCount + 1 } ∧ t.mem = s.mem ∧ t.memPend = s.memPend := by
  let args : List Word := [BitVec.ofNat 64 code.toNat, BitVec.ofNat 64 s.ix.core, BitVec.ofNat 64 s.cur.tcyc] ++
    ((List.range 8).map fun i => s.cur.sreg (BitVec.ofNat 5 i)) ++ [s.cur.sysCount.zeroExtend 64]
  let k := (s.newCmd (.sys p code) 7 false true args).1
  let u : State := { (s.newCmd (.sys p code) 7 false true args).2 with sysWait := s.sysWait ++ [s.nextId] }
  let counted (c : Core) : Core := { c with sysCount := c.sysCount + 1 }
  have joined : 0 < ((withMember s.cur 7 true).ctxAt 7).cur.members := by rw [members_withMember]; omega
  have marked (c : Core) : (markClosing c).ctx = c.ctx := by rw [markClosing_eq]
  have u_cur : u.cur = withMember s.cur 7 true :=
    State.core_setCore_same_of_ne { s with nextId := s.nextId + 1, cmds := s.cmds ++ [k] } s.ix.core _ (ne_init_of_members 7 joined)
  have v_cur : (u.modCur counted).cur = counted (withMember s.cur 7 true) := by
    rw [cur_modCur_of_ne (ne_init_of_members 7 (by rw [u_cur]; exact joined)), u_cur]
  have w_cur : (u.modCur counted).effect.cur = markClosing (counted (withMember s.cur 7 true)) := by
    rw [effect_eq, cur_modCur_of_ne (ne_init_of_members 7 ?_), v_cur]
    unfold Core.ctxAt
    rw [marked, v_cur]
    exact joined
  exact ⟨(u.modCur counted).effect, k, if_pos on, rfl, rfl, rfl, rfl, rfl, rfl, rfl, rfl, w_cur, rfl, rfl⟩

/-- The trigger's test changes the launch and the agenda alone. -/
theorem checkTrigger_eq (s : State) (b : Option Nat) :
    s.checkTrigger b = { s with binds := (s.checkTrigger b).binds, agenda := (s.checkTrigger b).agenda } := by
  unfold State.checkTrigger
  cases b with
  | none => rfl
  | some b =>
    dsimp only
    split
    · rw [State.scheduleOnce_eq]; rfl
    · rfl

/-- The trigger fires where one core has issued TRIGGER and every other has too, or has ended (R60). -/
theorem triggered_checkTrigger (s : State) (b : Nat) : ((s.checkTrigger (some b)).launch b).triggered =
    ((s.launch b).triggered || ((s.launch b).cores.any (fun n => (s.core n).triggered) &&
      (s.launch b).cores.all fun n => (s.core n).run == .ended || (s.core n).triggered)) := by
  unfold State.checkTrigger
  dsimp only
  split
  next fires =>
    rw [launch_scheduleOnce, launch_setLaunch_same (ne_free_of_triggered rfl)]
    simp only [Bool.and_eq_true, Bool.not_eq_true'] at fires
    obtain ⟨⟨-, some⟩, all⟩ := fires
    rw [some, all, Bool.and_self, Bool.or_true]
  next stays =>
    cases before : (s.launch b).triggered with
    | true => rw [Bool.true_or]
    | false =>
      rw [before, Bool.not_false, Bool.true_and] at stays
      rw [Bool.eq_false_of_not_eq_true stays, Bool.or_false]

theorem core_checkTrigger (s : State) (b : Option Nat) (k : Nat) : (s.checkTrigger b).core k = s.core k := by
  rw [checkTrigger_eq]
  rfl

/-- A core that has issued TRIGGER. -/
def markTriggered (c : Core) : Core := { c with triggered := true }

theorem markTriggered_ne_init (c : Core) : markTriggered c ≠ Core.init := ne_init_of_triggered rfl

/-- A core that retires with the bundle that s issues. -/
def retired (s : State) (c : Core) : Core :=
  { c with run := .ended, loops := [], endedAtCut := false, region := ⟨.normal, s.clock, s.ix.addr, false⟩ }

theorem retired_ne_init (s : State) (c : Core) : retired s c ≠ Core.init := Core.ne_init_of_run _ Run.noConfusion

/-- TRIGGER marks the issuing core, and with that the test of R60 is about the others. -/
theorem triggered_opTrigger {s : State} {b : Nat} (here : s.ix.core ∈ (s.launch b).cores) :
    (((s.modCur markTriggered).checkTrigger (some b)).launch b).triggered = ((s.launch b).triggered ||
      (s.launch b).cores.all fun k => k == s.ix.core || (s.core k).run == .ended || (s.core k).triggered) := by
  let u := s.modCur markTriggered
  have own : u.core s.ix.core = markTriggered s.cur := core_modCore_same (markTriggered_ne_init _)
  have others (k : Nat) (hk : k ≠ s.ix.core) : u.core k = s.core k := core_modCore_other (markTriggered_ne_init _) hk
  have some : (s.launch b).cores.any (fun n => (u.core n).triggered) = true := List.any_eq_true.mpr ⟨_, here, by rw [own]; rfl⟩
  have each (k : Nat) : ((u.core k).run == .ended || (u.core k).triggered) = (k == s.ix.core || (s.core k).run == .ended || (s.core k).triggered) := by
    by_cases hk : k = s.ix.core
    · rw [hk, own, beq_self_eq_true, Bool.true_or, Bool.true_or]; exact Bool.or_true _
    · rw [others k hk, beq_eq_false_iff_ne.mpr hk, Bool.false_or]
  have fired := triggered_checkTrigger u b
  simp only [each] at fired
  change _ = ((s.launch b).triggered || ((s.launch b).cores.any (fun n => (u.core n).triggered) && _)) at fired
  rw [some, Bool.true_and] at fired
  exact fired

/-- Settles O12: each instruction by the state that its meaning answers. -/
theorem timelineTestSysTriggerEnd : Obligations.TimelineTestSysTriggerEnd := by
  unfold Obligations.TimelineTestSysTriggerEnd
  refine ⟨fun p x s on => ⟨fun r => ?_, fun l => ?_⟩, fun p s on => ⟨fun code => ?_, ?_, ?_⟩⟩
  · exact runOp_ok (f := opTltest p x r) (if_pos on)
  · exact runOp_ok (f := opTltestLit p x l) (if_pos on)
  · obtain ⟨t, k, ok, waits, cmds, id, core, ctx, untimed, writing, args, cur, mem, pend⟩ := opSys_spec on code
    refine ⟨t, k, runOp_ok (f := opSys p code) ok, waits, cmds, id, core, ctx, untimed, writing, args, ?_, ?_, mem, pend⟩
    · rw [cur, markClosing_eq]
    · rw [cur, markClosing_eq]
      exact members_withMember s.cur 7 true
  · refine ⟨(s.modCur markTriggered).checkTrigger s.cur.bind, runOp_ok (f := opTrigger p) (if_pos on), ?_, fun k hk => ?_, ?_, fun b bound here => ?_⟩
    · rw [checkTrigger_eq]
      exact core_modCore_same (markTriggered_ne_init _)
    · exact (core_checkTrigger _ _ k).trans (core_modCore_other (markTriggered_ne_init _) hk)
    · rw [checkTrigger_eq]
      rfl
    · rw [bound]
      exact triggered_opTrigger here
  · refine ⟨((s.modCur (retired s)).jump s.here).checkTrigger s.cur.bind, runOp_ok (f := opEndTask) rfl, ?_, fun k hk => ?_, ?_⟩
    · rw [checkTrigger_eq]
      rfl
    · exact (core_checkTrigger _ _ k).trans (core_modCore_other (s := s) (retired_ne_init s _) hk)
    · rw [checkTrigger_eq]
      exact core_modCore_same (s := s) (retired_ne_init s _)

end Sys2Proof.Claim
end

section
namespace Sys2Proof.Claim
open Sys2Proof Sys2Proof.Machine

/-! Lane-group swaps change a core's bus and the clusters' logs alone (R239). -/

def withBus (c : Core) (b : Bus) : Core := { c with bus := b }

/-- From s to t core n has another bus, and the clusters' registers may differ; nothing else does. -/
structure BusOnly (n : Nat) (s t : State) : Prop where
  frame : t = { s with cores := t.cores, clusters := t.clusters }
  own : ∃ b, t.core n = withBus (s.core n) b
  others : ∀ k, k ≠ n → t.core k = s.core k

theorem busOnly_busSwaps {s : State} {n : Nat} (h : ∀ b, withBus (s.core n) b ≠ Core.init) : BusOnly n s (s.busSwaps n) := by
  unfold State.busSwaps
  refine List.foldlRecOn (motive := BusOnly n s) _ _ ⟨rfl, ⟨(s.core n).bus, rfl⟩, fun _ _ => rfl⟩ fun t ht g _ => ?_
  obtain ⟨frame, ⟨b, own⟩, others⟩ := ht
  dsimp only
  generalize hsw : (t.core n).bus.swapGroup g = sw
  obtain ⟨b', kind⟩ := sw
  have ne : (withBus (t.core n) { b' with marked := b'.marked.filter (· != g) }) ≠ Core.init := by rw [own]; exact h _
  have swapped : BusOnly n s (t.modCore n fun c => { c with bus := { b' with marked := b'.marked.filter (· != g) } }) :=
    ⟨by rw [frame]; rfl, ⟨_, (core_modCore_same ne).trans (by rw [own]; rfl)⟩, fun k hk => (core_modCore_other ne hk).trans (others k hk)⟩
  cases kind with
  | none => exact swapped
  | some k =>
    obtain ⟨frame, own, others⟩ := swapped
    exact ⟨by rw [frame]; rfl, own, others⟩

end Sys2Proof.Claim
end

section
namespace Sys2Proof.Claim
open Sys2Proof Sys2Proof.Machine

/-! REGION: its checks, and the checkpoint of a cut marker (R63, R64, R65, R73, R232). -/

theorem opRegion_of_bad_literals {b nr : BitVec 3} {s : State} (bad : regionLitsOk s b.toNat nr.toNat = false) (kind : BitVec 2) :
    opRegion kind b nr s s = .error (trapAt s 0x02 0x00) :=
  if_pos (by rw [bad]; rfl)

theorem not_bad_literals {b nr : BitVec 3} {s : State} (ok : regionLitsOk s b.toNat nr.toNat = true) : ¬(!regionLitsOk s b.toNat nr.toNat) = true := by
  rw [ok]
  exact Bool.false_ne_true

theorem opRegion_of_sealed {b nr : BitVec 3} {s : State} (ok : regionLitsOk s b.toNat nr.toNat = true) {kind : BitVec 2} (hk : kind ≠ 2)
    (sealed : s.cur.region.kind = .sealed) : opRegion kind b nr s s = .error (trapAt s 0x02 0x05) :=
  (if_neg (not_bad_literals ok)).trans (if_pos (by rw [sealed, decide_eq_true hk]; rfl))

/-- Outside a sealed region a marker opens the region that it names. -/
theorem opRegion_opens {b nr : BitVec 3} {s : State} (ok : regionLitsOk s b.toNat nr.toNat = true) (unsealed : s.cur.region.kind ≠ .sealed) :
    opRegion 0 b nr s s = .ok (s.modCur fun c => { c with region := ⟨.normal, s.clock, s.ix.addr, false⟩ }) ∧
    opRegion 1 b nr s s = .ok (s.modCur fun c => { c with region := ⟨.sealed, s.clock, s.ix.addr, false⟩ }) := by
  have inside (kind : BitVec 2) : ¬(decide (kind ≠ 2) && s.cur.region.kind == .sealed) = true := by
    rw [beq_eq_false_iff_ne.mpr unsealed, Bool.and_false]
    exact Bool.false_ne_true
  exact ⟨(if_neg (not_bad_literals ok)).trans ((if_neg (inside 0)).trans (if_pos rfl)),
    (if_neg (not_bad_literals ok)).trans ((if_neg (inside 1)).trans ((if_neg (by decide)).trans (if_pos rfl)))⟩

theorem opRegion_of_busy {b nr : BitVec 3} {s : State} (ok : regionLitsOk s b.toNat nr.toNat = true) (busy : s.pairBusy s.ix.core = true) :
    opRegion 2 b nr s s = .error (trapAt s 0x02 0x12) :=
  (if_neg (not_bad_literals ok)).trans ((if_neg Bool.false_ne_true).trans ((if_neg (by decide)).trans ((if_neg (by decide)).trans (if_pos busy))))

/-- The checkpoint that a cut marker takes. -/
def markerCheckpoint (s : State) (b nr : BitVec 3) : Checkpoint :=
  s.cur.checkpoint s.clock s.ix.addr (s.lit b.toNat) (s.lit (b.toNat + 1)) (s.lit (b.toNat + 2))
    ((List.range nr.toNat).map fun i => (bitsOf (s.lit (b.toNat + 3 + i)) 0 11, bitsOf (s.lit (b.toNat + 3 + i)) 16 11))

/-- The issuing core once its cut marker has taken checkpoint q. -/
def cutCore (s : State) (q : Checkpoint) (c : Core) : Core :=
  { c with region := ⟨.cut, s.clock, s.ix.addr, false⟩, ckpt := some q, cutTcyc := c.tcyc, panel := none }

/-- An ended core of the domain that has not taken this cut line is marked, and its bus takes its swaps (R61, R234). -/
def markEnded (tcyc : Nat) (s : State) (n : Nat) : State :=
  if ((s.core n).run == .ended && decide ((s.core n).cutTcyc < tcyc)) = true then (s.modCore n fun c => { c with endedAtCut := true }).busSwaps n
  else s

/-- From s to t the issuing core is at its cut line with checkpoint q, whatever its bus has become, and memory stands. -/
def AtCut (s : State) (q : Checkpoint) (t : State) : Prop := t.ix = s.ix ∧ t.mem = s.mem ∧ ∃ b, t.cur = withBus (cutCore s q s.cur) b

theorem atCut_busSwaps (s : State) (q : Checkpoint) : AtCut s q ((s.modCur (cutCore s q)).busSwaps s.ix.core) := by
  have ne (b : Bus) : withBus (cutCore s q s.cur) b ≠ Core.init := ne_init_of_ckpt rfl
  have own : (s.modCur (cutCore s q)).core s.ix.core = cutCore s q s.cur := core_modCore_same (ne s.cur.bus)
  obtain ⟨frame, ⟨b, swapped⟩, -⟩ := busOnly_busSwaps (s := s.modCur (cutCore s q)) (n := s.ix.core) (fun b => own ▸ ne b)
  have ix : ((s.modCur (cutCore s q)).busSwaps s.ix.core).ix = s.ix := by rw [frame]; rfl
  refine ⟨ix, by rw [frame]; rfl, b, ?_⟩
  unfold State.cur at *
  rw [ix, swapped, own]

/-- The issuing core is no ended core that has missed its own cut line. -/
theorem atCut_markEnded {s t : State} {q : Checkpoint} (h : AtCut s q t) (n : Nat) : AtCut s q (markEnded s.cur.tcyc t n) := by
  unfold markEnded
  split
  next missed =>
    obtain ⟨ix, mem, b, cur⟩ := h
    rw [Bool.and_eq_true, decide_eq_true_iff, beq_iff_eq] at missed
    obtain ⟨ended, before⟩ := missed
    have hn : s.ix.core ≠ n := by
      rintro rfl
      unfold State.cur at cur
      rw [ix] at cur
      rw [cur] at before
      exact absurd before (Nat.lt_irrefl _)
    have running (b : Bus) : withBus { t.core n with endedAtCut := true } b ≠ Core.init :=
      Core.ne_init_of_run _ (by change (t.core n).run ≠ .off; rw [ended]; exact Run.noConfusion)
    let u := t.modCore n fun c => { c with endedAtCut := true }
    have own : u.core n = { t.core n with endedAtCut := true } := core_modCore_same (running (t.core n).bus)
    obtain ⟨frame, -, others⟩ := busOnly_busSwaps (s := u) (n := n) (fun b => own ▸ running b)
    have ix' : (u.busSwaps n).ix = s.ix := by rw [frame]; exact ix
    refine ⟨ix', by rw [frame]; exact mem, b, ?_⟩
    unfold State.cur at *
    rw [ix', others _ hn, ← cur, ix]
    exact core_modCore_other (running (t.core n).bus) hn
  next => exact h

theorem opRegion_cuts {b nr : BitVec 3} {s : State} (ok : regionLitsOk s b.toNat nr.toNat = true) (free : s.pairBusy s.ix.core = false) :
    ∃ t, opRegion 2 b nr s s = .ok t ∧ AtCut s (markerCheckpoint s b nr) t := by
  let q := markerCheckpoint s b nr
  let u := (s.modCur (cutCore s q)).busSwaps s.ix.core
  have cut := atCut_busSwaps s q
  have passed : opRegion 2 b nr s s = match s.cur.bind with
      | none => .ok u
      | some l => .ok ((u.launch l).cores.foldl (markEnded s.cur.tcyc) u) :=
    (if_neg (not_bad_literals ok)).trans ((if_neg Bool.false_ne_true).trans ((if_neg (by decide)).trans ((if_neg (by decide)).trans
      (if_neg (by rw [free]; exact Bool.false_ne_true)))))
  rw [passed]
  cases s.cur.bind with
  | none => exact ⟨u, rfl, cut⟩
  | some l => exact ⟨_, rfl, List.foldlRecOn (motive := AtCut s q) _ _ cut fun t ht n _ => atCut_markEnded ht n⟩

/-! The predicates of a checkpoint. -/

/-- The predicates that a mask names, at their last values: p0 is always there. -/
def keptPredicate (c : Core) (pg i : Nat) : Bool := i == 0 || (decide (bitsOf pg i 1 = 1) && c.lastP i)

theorem predicateSum_eq (c : Core) (pg n : Nat) :
    1 + (List.range n).foldl (fun x i => if (decide (bitsOf pg (i + 1) 1 = 1) && c.lastP (i + 1)) = true then x + 2 ^ (i + 1) else x) 0 =
      pgetSum (keptPredicate c pg) (n + 1) := by
  induction n with
  | zero => rfl
  | succ n ih =>
    have kept : keptPredicate c pg (n + 1) = (decide (bitsOf pg (n + 1) 1 = 1) && c.lastP (n + 1)) := rfl
    rw [pgetSum_succ, ← ih, kept, List.range_succ, List.foldl_concat]
    split
    · rw [Nat.add_assoc]
    · rfl

theorem checkpoint_predicate (c : Core) (clock a sm pg tm : Nat) (ranges : List (Nat × Nat)) {i : Nat} (pos : 1 ≤ i) (hi : i < 16) :
    (c.checkpoint clock a sm pg tm ranges).p.getLsbD i = (decide (bitsOf pg i 1 = 1) && c.lastP i) := by
  have sum := predicateSum_eq c pg 15
  change (BitVec.ofNat 16 (1 + _)).getLsbD i = _
  rw [sum, BitVec.getLsbD_ofNat, testBit_pgetSum _ hi, decide_eq_true hi, Bool.true_and]
  unfold keptPredicate
  rw [beq_eq_false_iff_ne.mpr (by omega), Bool.false_or]

/-- Settles O13: the traps in R63's order, the regions opened, and the cut marker's checkpoint. -/
theorem regionMarkers : Obligations.RegionMarkers := by
  unfold Obligations.RegionMarkers
  refine ⟨fun b nr s => ⟨fun kind bad => ?_, fun ok => ⟨fun kind hk sealed => ?_, fun unsealed => ?_, fun busy => ?_⟩⟩, fun b nr s ok free => ?_⟩
  · exact runOp_traps (f := opRegion kind b nr) (opRegion_of_bad_literals bad kind)
  · exact runOp_traps (f := opRegion kind b nr) (opRegion_of_sealed ok hk sealed)
  · obtain ⟨normal, sealed⟩ := opRegion_opens ok unsealed
    exact ⟨runOp_ok (f := opRegion 0 b nr) normal, runOp_ok (f := opRegion 1 b nr) sealed⟩
  · exact runOp_traps (f := opRegion 2 b nr) (opRegion_of_busy ok busy)
  · obtain ⟨t, cuts, ix, mem, bus, cur⟩ := opRegion_cuts ok free
    refine ⟨t, markerCheckpoint s b nr, runOp_ok (f := opRegion 2 b nr) cuts, ?_⟩
    rw [cur]
    refine ⟨rfl, rfl, rfl, rfl, mem, rfl, rfl, rfl, rfl, rfl, rfl, rfl, rfl, rfl, rfl, rfl, rfl, rfl, rfl, fun r => ?_, fun i pos hi => ?_, fun r => ?_, rfl,
      rfl⟩
    · exact Vector.getElem_ofFn r.isLt
    · exact checkpoint_predicate _ _ _ _ _ _ _ pos hi
    · exact Vector.getElem_ofFn r.isLt

end Sys2Proof.Claim
end

section
namespace Sys2Proof.Claim
open Sys2Proof Sys2Proof.Machine

/-! PHASE and RESYNC (R68, R69, R71, R196, R334). -/

/-- The state with the batches closed that a PHASE or RESYNC waits for. -/
def closeWaits (s : State) (ws : List Wait) : State :=
  ws.foldl (fun (u : State) (w : Wait) => u.closeBatch s.ix.core (BitVec.ofNat 3 w.ctx)) s

/-- The DETAIL with which an arrival differs from the rendezvous that stands (R71): in kind, or in its number. -/
def clashWith (resync : Bool) (n : BitVec 32) (h : Hold) : Option (BitVec 8) :=
  if h.resync != resync then some 0x0A else if !resync && h.n != n then some 0x09 else none

/-- R334: a context with device writes that the wait list does not cover. -/
def uncovered (u : State) (ws : List Wait) : Bool :=
  [0, 1, 2, 3, 5, 7].any fun i => (u.cur.ctxAt (BitVec.ofNat 3 i)).writes && !(u.cur.ctxAt (BitVec.ofNat 3 i)).coveredBy i ws

/-- R196: a timed command that could start only after the arrival. -/
def startsTooLate (s : State) (arrival : Nat) : Bool :=
  s.cmds.any fun k => k.core == s.ix.core && k.timed && k.stage != .running && decide (arrival ≤ k.tS)

/-- The TCYC at which an arrival's hold begins (R69). -/
def arrivalOf (s : State) : Nat := s.cur.tcyc + max (1 + s.ix.idle) 8

/-- The hold that follows an arrival's checks. -/
def heldAt (s : State) (resync : Bool) (g : Nat) (n : BitVec 32) (ws : List Wait) (c : Core) : Core :=
  { c with run := .held, hold := some ⟨g, resync, n, arrivalOf s, ws, s.clock, false, s.ix.addr, false⟩ }

/-- The checks of an arrival once its rendezvous agrees: coverage, then the timed commands, then the hold. -/
def arriveAgreed (s : State) (resync : Bool) (g : Nat) (n : BitVec 32) (ws : List Wait) : Except Trap State :=
  if (!resync && uncovered (closeWaits s ws) ws) = true then .error (trapAt s 0x06 0x06)
  else if startsTooLate s (arrivalOf s) = true then .error (trapAt s 0x12 0)
  else .ok ((closeWaits s ws).modCur (heldAt s resync g n ws))

theorem arriveOp_of_stranger {s : State} {g : Nat} (out : s.ix.core ∉ s.members g) (resync : Bool) (n : State → BitVec 32) (w : BitVec 2) (j : BitVec 3) :
    arriveOp resync g n w j s s = .error (trapAt s 0x02 0x08) :=
  if_pos (by simpa using out)

theorem arriveOp_of_clash {s : State} {g : Nat} (member : s.ix.core ∈ s.members g) {resync : Bool} {n : State → BitVec 32} {h : Hold}
    (stands : s.rendezvous g = some h) {d : BitVec 8} (clash : clashWith resync (n s) h = some d) (w : BitVec 2) (j : BitVec 3) :
    arriveOp resync g n w j s s = .error (trapAt s 0x02 d) := by
  unfold clashWith at clash
  refine (if_neg (by simpa using member)).trans ?_
  dsimp only
  rw [stands]
  dsimp only
  rw [clash]

theorem arriveOp_of_agreed {s : State} {g : Nat} (member : s.ix.core ∈ s.members g) {resync : Bool} {n : State → BitVec 32}
    (agrees : ∀ h, s.rendezvous g = some h → clashWith resync (n s) h = none) (w : BitVec 2) (j : BitVec 3) :
    arriveOp resync g n w j s s = arriveAgreed s resync g (n s) (waitList s w j) := by
  refine (if_neg (by simpa using member)).trans ?_
  dsimp only
  cases stands : s.rendezvous g with
  | none => rfl
  | some h =>
    have clash := agrees h stands
    unfold clashWith at clash
    dsimp only
    rw [clash]
    rfl

theorem uncovered_iff (u : State) (ws : List Wait) : uncovered u ws = false ↔ ∀ i ∈ [0, 1, 2, 3, 5, 7],
    (u.cur.ctxAt (BitVec.ofNat 3 i)).writes = true → (u.cur.ctxAt (BitVec.ofNat 3 i)).coveredBy i ws = true := by
  unfold uncovered
  rw [List.any_eq_false]
  refine forall₂_congr fun i _ => ?_
  cases (u.cur.ctxAt (BitVec.ofNat 3 i)).writes <;> simp

theorem startsTooLate_iff (s : State) (arrival : Nat) : startsTooLate s arrival = false ↔
    ∀ k ∈ s.cmds, k.core = s.ix.core → k.timed = true → k.stage ≠ .running → k.tS < arrival := by
  unfold startsTooLate
  rw [List.any_eq_false]
  refine forall₂_congr fun k _ => ?_
  simp

theorem clashWith_kind {resync : Bool} {n : BitVec 32} {h : Hold} (other : h.resync ≠ resync) : clashWith resync n h = some 0x0A :=
  if_pos (bne_iff_ne.mpr other)

theorem clashWith_number {n : BitVec 32} {h : Hold} (phase : h.resync = false) (other : h.n ≠ n) : clashWith false n h = some 0x09 :=
  (if_neg (by rw [phase]; exact Bool.false_ne_true)).trans (if_pos (by simpa using other))

theorem clashWith_none {resync : Bool} {n : BitVec 32} {h : Hold} (same : h.resync = resync) (number : resync = false → h.n = n) :
    clashWith resync n h = none := by
  unfold clashWith
  rw [if_neg (by simpa using same), if_neg (by simpa using number)]

/-- R68's cases in turn. -/
theorem arrivalRule_of_arriveOp (resync : Bool) (g : Nat) (n : State → BitVec 32) (w : BitVec 2) (j : BitVec 3) (s : State) :
    ∃ t, runOp (arriveOp resync g n w j) s = .next t ∧ ArrivalRule s resync g (n s) (waitList s w j) t := by
  obtain ⟨t, answered, -⟩ := runOp_next (arriveOp resync g n w j) s
  have answer {u : State} (h : runOp (arriveOp resync g n w j) s = .next u) : t = u := Host.Outcome.next.inj (answered.symm.trans h)
  have agreed (member : s.ix.core ∈ s.members g) (kind : ∀ h, s.rendezvous g = some h → h.resync = resync)
      (number : ∀ h, s.rendezvous g = some h → resync = false → h.n = n s) :
      arriveOp resync g n w j s s = arriveAgreed s resync g (n s) (waitList s w j) :=
    arriveOp_of_agreed member (fun h stands => clashWith_none (kind h stands) (number h stands)) w j
  have covers : (resync = true ∨ ∀ i ∈ [0, 1, 2, 3, 5, 7], ((closeWaits s (waitList s w j)).cur.ctxAt (BitVec.ofNat 3 i)).writes = true →
      ((closeWaits s (waitList s w j)).cur.ctxAt (BitVec.ofNat 3 i)).coveredBy i (waitList s w j) = true) ↔
      ¬(!resync && uncovered (closeWaits s (waitList s w j)) (waitList s w j)) = true := by
    rw [← uncovered_iff]
    cases resync <;> simp
  refine ⟨t, answered, fun out => ?_, fun member kind => ?_, fun member kind number => ?_, fun member kind number covered => ?_,
    fun member kind number covered inTime => ?_, fun member kind number covered inTime => ?_⟩
  · exact answer (runOp_traps (arriveOp_of_stranger out resync n w j))
  · push Not at kind
    obtain ⟨h, stands, other⟩ := kind
    exact answer (runOp_traps (arriveOp_of_clash member stands (clashWith_kind other) w j))
  · push Not at number
    obtain ⟨h, stands, rfl, other⟩ := number
    exact answer (runOp_traps (arriveOp_of_clash member stands (clashWith_number (kind h stands) other) w j))
  · exact answer (runOp_traps ((agreed member kind number).trans (if_pos (not_not.mp (mt covers.mpr covered)))))
  · refine answer (runOp_traps ((agreed member kind number).trans ((if_neg (covers.mp covered)).trans (if_pos ?_))))
    exact Bool.eq_true_of_not_eq_false (mt (startsTooLate_iff s _).mp inTime)
  · refine answer (runOp_ok ((agreed member kind number).trans ((if_neg (covers.mp covered)).trans (if_neg ?_))))
    rw [show startsTooLate s (arrivalOf s) = false from (startsTooLate_iff s _).mpr inTime]
    exact Bool.false_ne_true

/-- Settles O14: PHASE and RESYNC are the arrival, with a number and without. -/
theorem phaseAndResyncArrive : Obligations.PhaseAndResyncArrive := by
  unfold Obligations.PhaseAndResyncArrive
  exact fun g w j s => ⟨fun l => arrivalRule_of_arriveOp false g.toNat (fun s => BitVec.ofNat 32 (s.lit l.toNat)) w j s,
    arrivalRule_of_arriveOp true g.toNat (fun _ => 0) w j s⟩

end Sys2Proof.Claim
end

section
namespace Sys2Proof.Claim
open Sys2Proof Sys2Proof.Machine

/-! Folds that change the cores one by one: what is true of one core after a list of updates of which each touches its own core. -/

/-- Update f changes the core that an element names, and keeps I, which may hold what the update relies on. -/
structure OneCore {α : Type} (key : α → Nat) (I : State → Prop) (f : State → α → State) : Prop where
  keeps : ∀ s x, I s → I (f s x)
  others : ∀ s x k, I s → k ≠ key x → (f s x).core k = s.core k

section
variable {α : Type} {key : α → Nat} {I : State → Prop} {f : State → α → State} {l : List α} {s : State} {n : Nat} {P : Core → Prop}

theorem OneCore.keeps_foldl (h : OneCore key I f) (l : List α) (hs : I s) : I (l.foldl f s) :=
  List.foldlRecOn (motive := I) l f hs fun t ht x _ => h.keeps t x ht

theorem OneCore.core_foldl_of_not_mem (h : OneCore key I f) (hs : I s) (hn : n ∉ l.map key) : (l.foldl f s).core n = s.core n := by
  induction l generalizing s with
  | nil => rfl
  | cons x l ih =>
    obtain ⟨hx, hl⟩ := not_or.mp (mt List.mem_cons.mpr hn)
    exact (ih (h.keeps s x hs) hl).trans (h.others s x n hs hx)

theorem OneCore.foldl_of_holds (h : OneCore key I f) (hs : I s) (holds : P (s.core n))
    (again : ∀ t x, x ∈ l → key x = n → I t → P (t.core n) → P ((f t x).core n)) : P ((l.foldl f s).core n) := by
  induction l generalizing s with
  | nil => exact holds
  | cons x l ih =>
    refine ih (h.keeps s x hs) ?_ fun t y hy => again t y (List.mem_cons_of_mem x hy)
    by_cases hx : key x = n
    · exact again s x List.mem_cons_self hx hs holds
    · rw [h.others s x n hs (Ne.symm hx)]
      exact holds

/-- What the first update of core n establishes, and every further one keeps, holds in the end. -/
theorem OneCore.foldl_of_mem (h : OneCore key I f) (hs : I s) (hn : n ∈ l.map key)
    (first : ∀ t x, x ∈ l → key x = n → I t → t.core n = s.core n → P ((f t x).core n))
    (again : ∀ t x, x ∈ l → key x = n → I t → P (t.core n) → P ((f t x).core n)) : P ((l.foldl f s).core n) := by
  induction l generalizing s with
  | nil => exact absurd hn List.not_mem_nil
  | cons x l ih =>
    by_cases hx : key x = n
    · exact h.foldl_of_holds (s := f s x) (l := l) (h.keeps s x hs) (first s x List.mem_cons_self hx hs rfl) fun t y hy => again t y (List.mem_cons_of_mem x hy)
    · refine ih (h.keeps s x hs) ((List.mem_cons.mp hn).resolve_left (Ne.symm hx)) (fun t y hy hyn ht same => ?_)
        fun t y hy => again t y (List.mem_cons_of_mem x hy)
      exact first t y (List.mem_cons_of_mem x hy) hyn ht (same.trans (h.others s x n hs (Ne.symm hx)))

end

end Sys2Proof.Claim
end

section
namespace Sys2Proof.Claim
open Sys2Proof Sys2Proof.Machine

/-! A fault found after issue (R419). -/

theorem before_iff_comesBefore (a b : LateFault) : a.before b = true ↔ comesBefore a b := by
  unfold LateFault.before comesBefore
  split_ifs <;> simp only [decide_eq_true_eq, ne_eq, ← BitVec.toNat_inj] at * <;> omega

theorem comesBefore_asymm {a b : LateFault} (h : comesBefore a b) : ¬comesBefore b a := by
  unfold comesBefore at *
  simp only [← BitVec.toNat_inj] at *
  omega

theorem comesBefore_irrefl (a : LateFault) : ¬comesBefore a a := fun h => comesBefore_asymm h h

/-- The fault that a core keeps when it finds f. -/
def keptFault (f : LateFault) : Option LateFault → LateFault
  | none => f
  | some g => if !g.done && f.before g then f else g

theorem keptFault_spec (f : LateFault) (late : Option LateFault) : (keptFault f late = f ∨ late = some (keptFault f late)) ∧
    (∀ h, late = some h → h.done = true → keptFault f late = h) ∧
    ((∀ h, late = some h → h.done = false) → ¬comesBefore f (keptFault f late) ∧ ∀ h, late = some h → ¬comesBefore h (keptFault f late)) := by
  cases late with
  | none => exact ⟨.inl rfl, nofun, fun _ => ⟨comesBefore_irrefl f, nofun⟩⟩
  | some g =>
    simp only [Option.some.injEq, forall_eq']
    cases done : g.done with
    | true =>
      have kept : keptFault f (some g) = g := if_neg (by rw [done]; exact Bool.false_ne_true)
      rw [kept]
      exact ⟨.inr rfl, fun _ => rfl, nofun⟩
    | false =>
      by_cases sooner : f.before g = true
      · have kept : keptFault f (some g) = f := if_pos (by rw [done, sooner]; rfl)
        rw [kept]
        exact ⟨.inl rfl, nofun, fun _ => ⟨comesBefore_irrefl f, comesBefore_asymm ((before_iff_comesBefore f g).mp sooner)⟩⟩
      · have kept : keptFault f (some g) = g := if_neg (by rw [done]; exact sooner)
        rw [kept]
        exact ⟨.inr rfl, fun _ => rfl, fun _ => ⟨mt (before_iff_comesBefore f g).mpr sooner, comesBefore_irrefl g⟩⟩

theorem lateFault_eq (s : State) (n : Nat) (cause detail : BitVec 8) (slot addr issued : Nat) :
    let kept := s.setCore n (withLate (s.core n) (some (keptFault (faultNow s cause detail slot addr issued) (s.core n).late)))
    s.lateFault n cause detail slot addr issued = match (s.core n).run with
      | .held | .ended | .waiting => kept.scheduleOnce s.clock (if s.stage = .events then prioLate else prioAfter) (.bundleIssue n)
      | .running => kept
      | .off | .frozen | .stopped => s := rfl

/-- What core n keeps, by how it runs: an issuing core takes it at its next bundle, a held or ended one in this cycle, one that has stopped never. -/
theorem lateFault_spec (s : State) (n : Nat) (cause detail : BitVec 8) (slot addr issued : Nat) :
    let kept := s.setCore n (withLate (s.core n) (some (keptFault (faultNow s cause detail slot addr issued) (s.core n).late)))
    let t := s.lateFault n cause detail slot addr issued
    ((s.core n).run = .running → t = kept) ∧
    ((s.core n).run = .held ∨ (s.core n).run = .ended → t = { kept with agenda := t.agenda } ∧ planned t s.clock (.bundleIssue n)) ∧
    ((s.core n).run = .frozen ∨ (s.core n).run = .stopped → t = s) := by
  intro kept t
  have found : t = _ := lateFault_eq s n cause detail slot addr issued
  refine ⟨fun run => ?_, fun run => ?_, fun run => ?_⟩
  · rw [run] at found
    exact found
  · have scheduled : t = kept.scheduleOnce s.clock (if s.stage = .events then prioLate else prioAfter) (.bundleIssue n) := by
      obtain run | run := run <;> rw [run] at found <;> exact found
    rw [scheduled]
    exact ⟨State.scheduleOnce_eq kept _ _ _, (State.scheduleOnce_spec kept s.clock _ (.bundleIssue n)).1⟩
  · obtain run | run := run <;> rw [run] at found <;> exact found

/-! Where the fault is taken (R419). -/

theorem exec_bundleIssue_late {s : State} {n : Nat} {g : LateFault} (hn : n < 768) (run : (s.core n).run = .running) (gate : (s.core n).gate = .on)
    (next : (s.core n).nextIssue ≤ s.clock) (late : (s.core n).late = some g) :
    exec (.bundleIssue n) s = .next (s.takeException n g.cause g.detail g.slot g.addr) := by
  change execBundleIssue n s = _
  unfold execBundleIssue
  dsimp only
  rw [if_neg (by omega), run, gate, if_neg (by decide), if_neg (by simpa using next), late]

theorem exec_bundleIssue_settles {s : State} {n : Nat} (hn : n < 768) (run : (s.core n).run = .held ∨ (s.core n).run = .ended) :
    exec (.bundleIssue n) s = .next (s.settleLate n) := by
  change execBundleIssue n s = _
  unfold execBundleIssue
  dsimp only
  rw [if_neg (by omega), if_pos (by obtain run | run := run <;> rw [run] <;> rfl)]

theorem settleLate_done {s : State} {n : Nat} {g : LateFault} (late : (s.core n).late = some g) (done : g.done = true) : s.settleLate n = s := by
  unfold State.settleLate
  dsimp only
  rw [late]
  exact if_pos done

theorem settleLate_taken {s : State} {n : Nat} {g : LateFault} (late : (s.core n).late = some g) (fresh : g.done = false) :
    s.settleLate n = (if (s.core n).run == .ended then
      ((s.leaveRendezvous n).takeException n g.cause g.detail g.slot g.addr).modCore n fun d => { d with late := some { g with done := true } }
      else (s.leaveRendezvous n).takeException n g.cause g.detail g.slot g.addr) := by
  unfold State.settleLate
  dsimp only
  rw [late]
  exact if_neg (by rw [fresh]; exact Bool.false_ne_true)

/-! The rendezvous that a faulting core leaves (R419). -/

/-- The member's rendezvous is forgotten. -/
def voidHold (c : Core) : Core := { c with hold := c.hold.map fun x => { x with void := true } }

/-- Core k, as c, is held in group g beside core n. -/
def heldBeside (n g : Nat) (kc : Nat × Core) : Bool :=
  match kc.2.hold with
  | some x => kc.1 != n && x.group == g
  | none => false

/-- The other members that are held in group g. -/
def matesOf (s : State) (n g : Nat) : List Nat := (s.cores.filter (heldBeside n g)).map (·.1)

theorem leaveRendezvous_eq {s : State} {n : Nat} {h : Hold} (held : (s.core n).hold = some h) :
    s.leaveRendezvous n = { (matesOf s n h.group).foldl (fun (s : State) k => s.modCore k voidHold) s with fab := (s.leaveRendezvous n).fab } := by
  unfold State.leaveRendezvous
  rw [held]
  rfl

theorem voidHold_idem (c : Core) : voidHold (voidHold c) = voidHold c := by
  unfold voidHold
  cases c.hold <;> rfl

/-- Forgetting one member's rendezvous touches that core alone, in a canonical map of cores. -/
theorem oneCore_voidHold (s : State) : OneCore id (fun t : State => SMap.wf Core.init t.cores = true ∧ t = { s with cores := t.cores })
    (fun (s : State) k => s.modCore k voidHold) where
  keeps t k := fun ⟨w, frame⟩ => ⟨State.setCore_wf t k _ w, by rw [frame]; rfl⟩
  others t k j := fun ⟨w, _⟩ other => State.core_setCore_other t k j _ w other

theorem get_of_mem {α : Type} [DecidableEq α] {d : α} {m : SMap α} {lo : Nat} (w : SMap.wfFrom d lo m = true) {e : Nat × α} (h : e ∈ m) :
    SMap.get d m e.1 = e.2 := by
  induction m generalizing lo with
  | nil => exact absurd h List.not_mem_nil
  | cons x r ih =>
    obtain ⟨k, v⟩ := x
    obtain ⟨-, -, hr⟩ := (SMap.wfFrom_cons d lo k v r).mp w
    unfold SMap.get
    obtain rfl | h := List.mem_cons.mp h
    · exact if_pos rfl
    · have above := le_of_mem_wfFrom hr (List.mem_map_of_mem h)
      rw [if_neg (by omega), if_neg (by omega)]
      exact ih hr h

theorem mem_matesOf {s : State} (w : SMap.wf Core.init s.cores = true) (n g k : Nat) : k ∈ matesOf s n g ↔ heldBeside n g (k, s.core k) = true := by
  unfold matesOf
  rw [List.mem_map]
  constructor
  · rintro ⟨kc, listed, rfl⟩
    obtain ⟨listed, mate⟩ := List.mem_filter.mp listed
    unfold State.core
    rw [get_of_mem w listed]
    exact mate
  · intro mate
    refine ⟨(k, s.core k), List.mem_filter.mpr ⟨mem_of_get_ne fun reset => ?_, mate⟩, rfl⟩
    unfold State.core at mate
    rw [reset] at mate
    exact Bool.false_ne_true mate

/-- Leaving a rendezvous voids the hold of each other member, and changes no more of the cores. -/
theorem leaveRendezvous_spec {s : State} {n : Nat} {h : Hold} (w : SMap.wf Core.init s.cores = true) (held : (s.core n).hold = some h) :
    s.leaveRendezvous n = { s with cores := (s.leaveRendezvous n).cores, fab := (s.leaveRendezvous n).fab } ∧
    ∀ k, (s.leaveRendezvous n).core k = if heldBeside n h.group (k, s.core k) = true then voidHold (s.core k) else s.core k := by
  have left := leaveRendezvous_eq held
  have one := oneCore_voidHold s
  obtain ⟨-, frame⟩ := one.keeps_foldl (matesOf s n h.group) ⟨w, rfl⟩
  refine ⟨by rw [left, frame], fun k => ?_⟩
  have cores : (s.leaveRendezvous n).core k = ((matesOf s n h.group).foldl (fun (s : State) k => s.modCore k voidHold) s).core k := by
    rw [left]
    rfl
  rw [cores]
  split
  next mate =>
    refine one.foldl_of_mem (P := fun c => c = voidHold (s.core k)) ⟨w, rfl⟩ (by simpa using (mem_matesOf w n h.group k).mpr mate) ?_ ?_
    · rintro t _ - rfl ⟨wt, -⟩ same
      exact (State.core_setCore_same t _ _ wt).trans (congrArg voidHold same)
    · rintro t _ - rfl ⟨wt, -⟩ done
      exact (State.core_setCore_same t _ _ wt).trans ((congrArg voidHold done).trans (voidHold_idem _))
  next stranger =>
    exact one.core_foldl_of_not_mem ⟨w, rfl⟩ (by simpa using mt (mem_matesOf w n h.group k).mp stranger)

/-- Settles O35: `keptFault_spec` for the choice, `exec_bundleIssue_late` and `settleLate_taken` for the stops, `leaveRendezvous_spec` for the rest of a
rendezvous. -/
theorem lateFaults : Obligations.LateFaults := by
  unfold Obligations.LateFaults
  refine ⟨fun s n cause detail slot addr issued => ?_, fun s n g hn late => ⟨?_, fun run fresh => ?_, fun run fresh => ?_, fun run done => ?_⟩,
    fun s n h canon held => ?_⟩
  · obtain ⟨either, second, first⟩ := keptFault_spec (faultNow s cause detail slot addr issued) (s.core n).late
    obtain ⟨running, stopping, stopped⟩ := lateFault_spec s n cause detail slot addr issued
    exact ⟨_, either, second, first, running, stopping, stopped⟩
  · exact fun run gate next => exec_bundleIssue_late hn run gate next late
  · rw [exec_bundleIssue_settles hn (.inl run), settleLate_taken late fresh, run]
    rfl
  · rw [exec_bundleIssue_settles hn (.inr run), settleLate_taken late fresh, run]
    rfl
  · rw [exec_bundleIssue_settles hn (.inr run), settleLate_done late done]
  · obtain ⟨-, w⟩ := canon
    obtain ⟨frame, cores⟩ := leaveRendezvous_spec w held
    refine ⟨?_, by rw [frame], by rw [frame]; rfl, by rw [frame], fun k hk => ?_⟩
    · rw [cores, if_neg]
      unfold heldBeside
      rw [held]
      simp
    · rw [cores]
      unfold heldBeside voidHold
      cases other : (s.core k).hold with
      | none => rfl
      | some x => simp [hk]

end Sys2Proof.Claim
end

section
namespace Sys2Proof.Claim
open Sys2Proof Sys2Proof.Machine

/-! Launches that are not free. -/

theorem ne_free_of_st {l : Launch} (h : l.st ≠ 0) : l ≠ Launch.free := fun e => h (congrArg Launch.st e)

theorem ne_free_of_stop {l : Launch} {x : Stop} (h : l.stop = some x) : l ≠ Launch.free := fun e =>
  Option.some_ne_none x (h.symm.trans (congrArg Launch.stop e))

/-! Entries of a map that keeps its low keys. -/

theorem get_filter_le {α : Type} [DecidableEq α] {d : α} {m : SMap α} (w : SMap.wf d m = true) {c k : Nat} (h : k ≤ c) :
    SMap.get d (m.filter fun e => decide (e.1 ≤ c)) k = SMap.get d m k := by
  by_cases listed : SMap.get d m k = d
  · rw [listed]
    by_contra kept
    have entry := (List.mem_filter.mp (mem_of_get_ne kept)).1
    exact kept ((get_of_mem w entry).symm.trans listed)
  · have entry := List.mem_filter (p := fun e : Nat × α => decide (e.1 ≤ c)) |>.mpr ⟨mem_of_get_ne listed, decide_eq_true h⟩
    exact get_of_mem (SMap.filter_wf d _ m w) entry

theorem get_filter_above {α : Type} {d : α} {m : SMap α} {c k : Nat} (h : c < k) : SMap.get d (m.filter fun e => decide (e.1 ≤ c)) k = d := by
  by_contra kept
  have low := of_decide_eq_true (List.mem_filter.mp (mem_of_get_ne kept)).2
  exact absurd h (Nat.not_lt.mpr low)

/-! TLCNT counted on (R206, R416). -/

def withCnt (x : Ctx) (n : Nat) : Ctx := { x with cnt := n }

/-- Counting on moves TLCNT alone, past closed batches that have no operation left, to the first that has one. -/
theorem settleFrom_spec {fuel : Nat} {x : Ctx} (h : x.closed - x.cnt ≤ fuel) : ∃ n, Ctx.settleFrom fuel x = withCnt x n ∧ x.cnt ≤ n ∧ n ≤ max x.cnt x.closed ∧
    (∀ m, x.cnt < m → m ≤ n → (x.batch m).pending = 0) ∧ (n < x.closed → (x.batch (n + 1)).pending ≠ 0) := by
  induction fuel generalizing x with
  | zero => exact ⟨x.cnt, rfl, Nat.le_refl _, Nat.le_max_left _ _, fun m _ _ => by omega, fun _ => by omega⟩
  | succ fuel ih =>
    unfold Ctx.settleFrom
    split
    next done =>
      rw [Bool.and_eq_true, decide_eq_true_iff, beq_iff_eq] at done
      obtain ⟨below, empty⟩ := done
      obtain ⟨n, settled, from_, upto, passed, stops⟩ := ih (x := withCnt x (x.cnt + 1)) (by change x.closed - (x.cnt + 1) ≤ fuel; omega)
      change x.cnt + 1 ≤ n at from_
      change n ≤ max (x.cnt + 1) x.closed at upto
      refine ⟨n, settled, by omega, by omega, fun m low high => ?_, stops⟩
      obtain rfl | later := Nat.eq_or_lt_of_le (Nat.succ_le_of_lt low)
      · exact empty
      · exact passed m later high
    next stays =>
      refine ⟨x.cnt, rfl, Nat.le_refl _, Nat.le_max_left _ _, fun m _ _ => by omega, fun below pending => stays ?_⟩
      rw [decide_eq_true below, pending]
      rfl

theorem settle_spec (x : Ctx) : (∃ n, x.settle = withCnt x n) ∧ Settled x.settle x.closed x.cnt := by
  obtain ⟨n, settled, from_, upto, passed, stops⟩ := settleFrom_spec (Nat.le_refl (x.closed - x.cnt))
  change x.settle = _ at settled
  rw [settled]
  exact ⟨⟨n, rfl⟩, rfl, from_, upto, passed, stops⟩

/-! A context at the stop (R416). -/

/-- Context y has returned from a to a cut line whose last closed batch is `closed` and whose open batch is `opened`. -/
structure CtxReturned (a : Ctx) (closed : Nat) (opened : Batch) (y : Ctx) : Prop where
  cur : y.cur = opened
  batches : y.batches = a.batches.filter fun e => decide (e.1 ≤ closed)
  settled : Settled y closed (min a.cnt closed)

theorem ctxReturned_rewind (a : Ctx) (closed : Nat) (opened : Batch) : CtxReturned a closed opened (a.rewind closed opened) := by
  obtain ⟨⟨n, settles⟩, settled⟩ := settle_spec
    { a with closed := closed, cur := opened, expired := Nat.min closed a.lastExpired, batches := a.batches.filter (fun b => decide (b.1 ≤ closed)), cnt := Nat.min a.cnt closed }
  change a.rewind closed opened = _ at settles
  exact ⟨by rw [settles]; rfl, by rw [settles]; rfl, settled⟩

/-- A second return to the same cut line finds the context there. -/
theorem CtxReturned.again {a y : Ctx} {closed : Nat} {opened : Batch} (h : CtxReturned a closed opened y) :
    CtxReturned a closed opened (y.rewind closed opened) := by
  obtain ⟨-, batches, -, from_, upto, passed, -⟩ := h
  obtain ⟨cur, batches', closed', from', upto', passed', stops'⟩ := ctxReturned_rewind y closed opened
  have same : (y.rewind closed opened).batches = y.batches := by
    rw [batches', batches, List.filter_filter]
    simp
  refine ⟨cur, same.trans batches, closed', by omega, by omega, fun m low high => ?_, stops'⟩
  by_cases earlier : m ≤ y.cnt
  · unfold Ctx.batch at passed ⊢
    rw [same]
    exact passed m low earlier
  · exact passed' m (by omega) high

/-! A core at the stop (R75). -/

/-- The core at the stop of its domain. -/
def stoppedAt (q : Checkpoint) (c : Core) : Core := { (c.rewind q).rewindCtx q with run := .frozen }

/-- Core c has returned from a to cut line q, and is frozen there. -/
structure CoreReturned (a : Core) (q : Checkpoint) (c : Core) : Prop where
  ckpt : c.ckpt = some q
  gate : c.gate = .on
  run : c.run = .frozen
  tcyc : c.tcyc = q.tcyc
  pc : c.pc = BitVec.ofNat 32 q.addr
  pend : c.pend = []
  slim : c.slim = a.slim
  reserveUsed : c.reserveUsed = a.reserveUsed
  ctx : ∀ i : Fin 8, CtxReturned a.ctx[i] (q.closed.getD i.val 0) (q.opens.getD i.val .empty) c.ctx[i]

theorem ctx_stoppedAt (q : Checkpoint) (c : Core) (i : Fin 8) :
    (stoppedAt q c).ctx[i] = c.ctx[i].rewind (q.closed.getD i.val 0) (q.opens.getD i.val .empty) := by
  simp [stoppedAt, Core.rewindCtx, Core.rewind]

theorem coreReturned_stoppedAt {a : Core} {q : Checkpoint} (ckpt : a.ckpt = some q) (gate : a.gate = .on) : CoreReturned a q (stoppedAt q a) :=
  ⟨ckpt, gate, rfl, rfl, rfl, rfl, rfl, rfl, fun i => by rw [ctx_stoppedAt]; exact ctxReturned_rewind _ _ _⟩

theorem CoreReturned.again {a c : Core} {q : Checkpoint} (h : CoreReturned a q c) : CoreReturned a q (stoppedAt q c) :=
  ⟨h.ckpt, h.gate, rfl, rfl, rfl, rfl, h.slim, h.reserveUsed, fun i => by rw [ctx_stoppedAt]; exact (h.ctx i).again⟩

end Sys2Proof.Claim
end

section
namespace Sys2Proof.Claim
open Sys2Proof Sys2Proof.Machine

/-! The stop of a domain, core by core (R74, R75). -/

def withFrec (c : Core) (w : Word) : Core := { c with frec := w }

theorem frec_withFrec (c : Core) (w : Word) : (withFrec c w).frec = w := rfl

theorem run_withFrec (c : Core) (w : Word) : (withFrec c w).run = c.run := rfl

/-- The instruction that a record at bundle level names. -/
def boundaryAddr (c : Core) : Nat :=
  match c.hold with
  | some h => h.addr
  | none => c.pc.toNat

/-- Core c with a cause recorded at bundle level. -/
def recorded (cause detail : BitVec 8) (c : Core) : Core := withFrec c (frecWord cause detail 15 (c.region.kind == .sealed) (boundaryAddr c))

theorem recordCause_eq (s : State) (n : Nat) (cause detail : BitVec 8) : s.recordCause n cause detail = s.modCore n (recorded cause detail) := rfl

theorem run_recorded (cause detail : BitVec 8) (c : Core) : (recorded cause detail c).run = c.run := run_withFrec c _

theorem frec_recorded (cause detail : BitVec 8) (c : Core) :
    (recorded cause detail c).frec.extractLsb' 0 8 = cause ∧ ((recorded cause detail c).frec.extractLsb' 16 4).toNat = 15 := by
  obtain ⟨code, -, slot, -⟩ := frecWord_fields cause detail (slot := 15) (c.region.kind == .sealed) (boundaryAddr c) (by decide)
  unfold recorded
  rw [frec_withFrec]
  exact ⟨code, slot⟩

theorem recorded_ne_init (cause detail : BitVec 8) (c : Core) : recorded cause detail c ≠ Core.init := by
  intro reset
  obtain ⟨-, slot⟩ := frec_recorded cause detail c
  rw [reset] at slot
  exact absurd slot (by decide)

/-- One core's part in the stop of its domain. -/
def stopCore (s : State) (n : Nat) : State :=
  match (s.core n).ckpt with
  | some q => if (s.core n).returns then s.setCore n (stoppedAt q (s.core n)) else s
  | none => s

/-- The domain's cores, engines, FIFOs and arrivals before its cores return. -/
def beforeReturn (s : State) (b : Nat) (x : Stop) : State :=
  (((s.recordEnded (s.launch b) x).stopEngines (s.launch b)).emptyPairs (s.launch b)).forgetArrivals (s.launch b)

theorem core_stopDomain (s : State) (b : Nat) (x : Stop) (n : Nat) :
    (s.stopDomain b x).core n = ((s.launch b).cores.foldl stopCore (beforeReturn s b x)).core n := by
  unfold State.stopDomain
  dsimp only
  split
  · rw [State.scheduleOnce_core]; rfl
  · rfl

/-- Recording a cause touches its core alone. -/
theorem oneCore_recordCause (cause detail : BitVec 8) :
    OneCore id (fun _ => True) (fun (s : State) n => s.recordCause n cause detail) where
  keeps _ _ _ := trivial
  others _ _ _ _ other := core_modCore_other (recorded_ne_init cause detail _) other

/-- Before the return only a cause that ended cores record changes cores. -/
theorem core_beforeReturn (s : State) (b : Nat) (x : Stop) (n : Nat) : (beforeReturn s b x).core n = (s.recordEnded (s.launch b) x).core n := by
  have pairs (u : State) : (u.emptyPairs (s.launch b)).cores = u.cores :=
    List.foldlRecOn (motive := fun t : State => t.cores = u.cores) _ _ rfl fun _ h _ _ => h
  have arrivals (u : State) : (u.forgetArrivals (s.launch b)).cores = u.cores :=
    List.foldlRecOn (motive := fun t : State => t.cores = u.cores) _ _ rfl fun _ h _ _ => h
  have kept : (beforeReturn s b x).cores = (s.recordEnded (s.launch b) x).cores := by
    unfold beforeReturn
    rw [arrivals, pairs]
    rfl
  unfold State.core
  rw [kept]

theorem core_recordEnded_of_run {s : State} {n : Nat} (run : (s.core n).run ≠ .ended) (l : Launch) (x : Stop) : (s.recordEnded l x).core n = s.core n := by
  unfold State.recordEnded
  split
  · refine (oneCore_recordCause x.cause x.detail).core_foldl_of_not_mem trivial ?_
    rw [List.map_id, List.mem_filter]
    simp [run]
  · rfl

theorem oneCore_stopCore : OneCore id (fun _ => True) stopCore where
  keeps _ _ _ := trivial
  others s n k _ other := by
    unfold stopCore
    split
    · split
      · exact State.core_setCore_other_of_ne s n k _ (Core.ne_init_of_run _ Run.noConfusion) other
      · rfl
    · rfl

theorem core_stopCore {s : State} {n : Nat} {q : Checkpoint} (ckpt : (s.core n).ckpt = some q) (returns : (s.core n).returns = true) :
    (stopCore s n).core n = stoppedAt q (s.core n) := by
  unfold stopCore
  rw [ckpt]
  dsimp only
  rw [if_pos returns]
  exact State.core_setCore_same_of_ne s n _ (Core.ne_init_of_run _ Run.noConfusion)

theorem returns_of_run {c : Core} (gate : c.gate = .on) (run : c.run = .running ∨ c.run = .held ∨ c.run = .frozen ∨ c.run = .stopped) : c.returns = true := by
  unfold Core.returns
  rw [gate]
  obtain run | run | run | run := run <;> rw [run] <;> rfl

/-- At the stop of its domain a core that has not ended returns to its cut line. -/
theorem coreReturned_stopDomain {s : State} {b n : Nat} {q : Checkpoint} (x : Stop) (member : n ∈ (s.launch b).cores) (ckpt : (s.core n).ckpt = some q)
    (gate : (s.core n).gate = .on) (run : (s.core n).run = .running ∨ (s.core n).run = .held ∨ (s.core n).run = .frozen ∨ (s.core n).run = .stopped) :
    CoreReturned (s.core n) q ((s.stopDomain b x).core n) := by
  have before : (beforeReturn s b x).core n = s.core n :=
    (core_beforeReturn s b x n).trans (core_recordEnded_of_run (by obtain run | run | run | run := run <;> rw [run] <;> exact Run.noConfusion) _ x)
  rw [core_stopDomain]
  refine oneCore_stopCore.foldl_of_mem trivial (by rwa [List.map_id]) ?_ ?_
  · rintro t _ - rfl - same
    rw [before] at same
    dsimp only [id] at *
    rw [core_stopCore (same ▸ ckpt) (same ▸ returns_of_run gate run), same]
    exact coreReturned_stoppedAt ckpt gate
  · rintro t _ - rfl - returned
    dsimp only [id] at *
    rw [core_stopCore returned.ckpt (returns_of_run returned.gate (.inr (.inr (.inl returned.run))))]
    exact returned.again

end Sys2Proof.Claim
end

section
namespace Sys2Proof.Claim
open Sys2Proof Sys2Proof.Machine

/-! The restart, core by core (R75). -/

/-- Core c as it runs again from cut line q in this cycle, with the bus as its swaps leave it. -/
def restartedAt (now : Nat) (q : Checkpoint) (c : Core) (b : Bus) : Core :=
  withBus { c.rewind q with run := .running, nextIssue := now, endedAtCut := false, ctx := (c.rewind q).ctx.map Ctx.settle } b

theorem restartCore_of_ended {s : State} {n : Nat} (run : (s.core n).run = .ended) : s.restartCore n = s.setCore n (withLate (s.core n) none) :=
  if_pos (by rw [run]; rfl)

theorem restartCore_of_other {s : State} {n : Nat} (ended : (s.core n).run ≠ .ended) (frozen : (s.core n).run ≠ .frozen) : s.restartCore n = s :=
  (if_neg (by simpa using ended)).trans (if_pos (by simpa using frozen))

/-- What a frozen core goes on with where its cut line is not known. -/
def resumedAt (now : Nat) (c : Core) : Core := { c with run := .running, nextIssue := now, endedAtCut := false, ctx := c.ctx.map Ctx.settle }

/-- The core's cut line is its task's entry. -/
def atEntry (c : Core) : Bool :=
  match c.ckpt with
  | some q => q.entry
  | none => false

/-- A frozen core runs again, and nothing but its registers and its lane groups' log changes. -/
theorem busOnly_restartCore {s : State} {n : Nat} (run : (s.core n).run = .frozen) :
    let c := resumedAt s.clock (match (s.core n).ckpt with
      | some q => (s.core n).rewind q
      | none => s.core n)
    BusOnly n (s.setCore n c) (s.restartCore n) := by
  intro c
  have own : (s.setCore n c).core n = c := State.core_setCore_same_of_ne s n c (Core.ne_init_of_run _ Run.noConfusion)
  have unfolded : s.restartCore n = if atEntry (s.core n) = true then (s.setCore n c).busSwaps n else s.setCore n c :=
    (if_neg (by rw [run]; exact Bool.false_ne_true)).trans (if_neg (by rw [run]; exact Bool.false_ne_true))
  rw [unfolded]
  split
  · exact busOnly_busSwaps fun b => Core.ne_init_of_run _ (by rw [own]; exact Run.noConfusion)
  · exact ⟨rfl, ⟨c.bus, by rw [own]; rfl⟩, fun _ _ => rfl⟩

/-- Restarting one core touches it alone, and the clusters' logs. -/
theorem oneCore_restartCore (s : State) : OneCore id (fun t => t = { s with cores := t.cores, clusters := t.clusters }) State.restartCore where
  keeps t n frame := by
    by_cases ended : (t.core n).run = .ended
    · rw [restartCore_of_ended ended, frame]; rfl
    by_cases frozen : (t.core n).run = .frozen
    · rw [(busOnly_restartCore frozen).frame, frame]; rfl
    · rwa [restartCore_of_other ended frozen]
  others t n k _ other := by
    by_cases ended : (t.core n).run = .ended
    · rw [restartCore_of_ended ended]
      exact State.core_setCore_other_of_ne t n k _ (Core.ne_init_of_run _ (by change (t.core n).run ≠ _; rw [ended]; exact Run.noConfusion)) other
    by_cases frozen : (t.core n).run = .frozen
    · exact ((busOnly_restartCore frozen).others k other).trans (State.core_setCore_other_of_ne t n k _ (Core.ne_init_of_run _ Run.noConfusion) other)
    · rw [restartCore_of_other ended frozen]

theorem core_restartCore_of_ended {s : State} {n : Nat} (run : (s.core n).run = .ended) : (s.restartCore n).core n = withLate (s.core n) none := by
  rw [restartCore_of_ended run]
  exact State.core_setCore_same_of_ne s n _ (Core.ne_init_of_run _ (by change (s.core n).run ≠ _; rw [run]; exact Run.noConfusion))

theorem core_restartCore_of_frozen {s : State} {n : Nat} {q : Checkpoint} (run : (s.core n).run = .frozen) (ckpt : (s.core n).ckpt = some q) :
    ∃ b, (s.restartCore n).core n = restartedAt s.clock q (s.core n) b := by
  obtain ⟨b, own⟩ := (busOnly_restartCore run).own
  refine ⟨b, own.trans (congrArg (withBus · b) ?_)⟩
  rw [ckpt]
  exact State.core_setCore_same_of_ne s n _ (Core.ne_init_of_run _ Run.noConfusion)

/-- The launch that runs again, with its cores as they were. -/
def resumed (s : State) (b : Nat) : State := s.setLaunch b { s.launch b with stop := none, st := 3, resume := false }

theorem exec_restart {s : State} {b : Nat} (hb : b < 64) (due : s.restartDue (s.launch b) = true) :
    exec (.restart b) s = .next ((s.launch b).cores.foldl State.restartCore (resumed s b)).decideSoon :=
  (if_neg (by omega : ¬64 ≤ b)).trans (if_neg (by rw [due]; exact Bool.false_ne_true))

/-- One core across the restart of its domain. -/
theorem core_foldl_restartCore (s : State) (l : List Nat) (n : Nat) :
    let t := l.foldl State.restartCore s
    (n ∉ l ∨ ((s.core n).run ≠ .frozen ∧ (s.core n).run ≠ .ended) → t.core n = s.core n) ∧
    (n ∈ l → (s.core n).run = .ended → t.core n = withLate (s.core n) none) ∧
    (n ∈ l → (s.core n).run = .frozen → ∀ q, (s.core n).ckpt = some q → ∃ b, t.core n = restartedAt s.clock q (s.core n) b) := by
  have one := oneCore_restartCore s
  refine ⟨fun still => ?_, fun member run => ?_, fun member run q ckpt => ?_⟩
  · by_cases member : n ∈ l
    · obtain ⟨frozen, ended⟩ := still.resolve_left (not_not.mpr member)
      refine one.foldl_of_holds (P := fun c => c = s.core n) rfl rfl ?_
      rintro t _ - rfl - same
      dsimp only [id] at *
      rw [restartCore_of_other (same ▸ ended) (same ▸ frozen), same]
    · exact one.core_foldl_of_not_mem rfl (by rwa [List.map_id])
  · refine one.foldl_of_mem (P := fun c => c = withLate (s.core n) none) rfl (by rwa [List.map_id]) ?_ ?_
    · rintro t _ - rfl - same
      dsimp only [id] at *
      rw [core_restartCore_of_ended (same ▸ run), same]
    · rintro t _ - rfl - done
      dsimp only [id] at *
      rw [core_restartCore_of_ended (by rw [done]; exact run), done]
      rfl
  · refine one.foldl_of_mem (P := fun c => ∃ b, c = restartedAt s.clock q (s.core n) b) rfl (by rwa [List.map_id]) ?_ ?_
    · rintro t _ - rfl frame same
      dsimp only [id] at *
      obtain ⟨b, own⟩ := core_restartCore_of_frozen (same ▸ run) (same ▸ ckpt)
      exact ⟨b, by rw [own, same, show t.clock = s.clock by rw [frame]]⟩
    · rintro t _ - rfl - ⟨b, done⟩
      dsimp only [id] at *
      have running : (t.core _).run = .running := congrArg Core.run done
      exact ⟨b, by rw [restartCore_of_other (by rw [running]; exact Run.noConfusion) (by rw [running]; exact Run.noConfusion), done]⟩

/-- Masks are clear at a restart, and translate results invalid (R75). -/
theorem restartedAt_masks (now : Nat) (q : Checkpoint) (c : Core) (b : Bus) :
    (∀ r : BitVec 4, (restartedAt now q c b).kreg r = if r = 0 then BitVec.allOnes 512 else 0) ∧
    (∀ r : BitVec 3, ((restartedAt now q c b).xreg r).valid = false) := by
  refine ⟨fun r => ?_, fun r => ?_⟩
  · unfold Core.kreg
    by_cases zero : r = 0
    · rw [zero]; rfl
    · have pos : ¬0 = r.toNat := fun h => zero (BitVec.eq_of_toNat_eq h.symm)
      rw [if_neg zero, if_neg (by simpa using zero)]
      simp [restartedAt, withBus, Core.rewind, pos]
  · simp [Core.xreg, restartedAt, withBus, Core.rewind]

/-- Batches stay at a restart, and TLCNT counts on (R416). -/
theorem restartedAt_ctx (now : Nat) (q : Checkpoint) (c : Core) (b : Bus) (i : Fin 8) :
    let y := (restartedAt now q c b).ctx[i]
    y.cur = c.ctx[i].cur ∧ y.batches = c.ctx[i].batches ∧ Settled y c.ctx[i].closed c.ctx[i].cnt := by
  have read : (restartedAt now q c b).ctx[i] = c.ctx[i].settle := by simp [restartedAt, withBus, Core.rewind]
  obtain ⟨⟨n, settles⟩, settled⟩ := settle_spec c.ctx[i]
  rw [read]
  exact ⟨by rw [settles]; rfl, by rw [settles]; rfl, settled⟩

/-- Settles O36: `coreReturned_stopDomain` at the stop, `core_foldl_restartCore` at the restart. -/
theorem restartReturns : Obligations.RestartReturns := by
  unfold Obligations.RestartReturns
  refine ⟨fun b s x n q member ckpt gate run i => ?_, fun b s hb due => ?_⟩
  · obtain ⟨cur, batches, settled⟩ := (coreReturned_stopDomain x member ckpt gate run).ctx i
    refine ⟨cur, settled, fun m low w => ?_, fun m high => ?_⟩
    · unfold Ctx.batch
      rw [batches]
      exact get_filter_le w low
    · unfold Ctx.batch
      rw [batches]
      exact get_filter_above high
  · have frame := (oneCore_restartCore (resumed s b)).keeps_foldl (s := resumed s b) (s.launch b).cores rfl
    have launch : (((s.launch b).cores.foldl State.restartCore (resumed s b)).decideSoon).launch b = (resumed s b).launch b := by
      unfold State.decideSoon
      rw [launch_scheduleOnce, frame]
      rfl
    rw [show (resumed s b).launch b = _ from launch_setLaunch_same (ne_free_of_st (show (3 : Nat) ≠ 0 by decide))] at launch
    have cores (n : Nat) := core_foldl_restartCore (resumed s b) (s.launch b).cores n
    refine ⟨_, exec_restart hb due, by rw [launch], by rw [launch], fun n still => ?_, fun n member run => ?_, fun n member run q ckpt => ?_⟩
    · obtain ⟨others, -, -⟩ := cores n
      exact (State.scheduleOnce_core _ _ _ _ n).trans (others still)
    · obtain ⟨-, ended, -⟩ := cores n
      exact (State.scheduleOnce_core _ _ _ _ n).trans (ended member run)
    · obtain ⟨-, -, frozen⟩ := cores n
      obtain ⟨bus, own⟩ := frozen member run q ckpt
      rw [State.decideSoon, State.scheduleOnce_core, own]
      obtain ⟨masks, results⟩ := restartedAt_masks s.clock q (s.core n) bus
      exact ⟨rfl, rfl, rfl, rfl, rfl, rfl, rfl, rfl, rfl, rfl, rfl, rfl, rfl, rfl, masks, results, rfl, rfl, rfl, rfl, rfl, rfl, rfl, rfl,
        restartedAt_ctx s.clock q (s.core n) bus⟩

end Sys2Proof.Claim
end

section
namespace Sys2Proof.Claim
open Sys2Proof Sys2Proof.Machine

/-! Updates that leave the cores, memory and the clock: phases that commit, tensors that move, samples (R286, R312, R352). -/

/-- From s to t the cores, memory, the clock and the fabric stand. -/
structure CoresStand (s t : State) : Prop where
  cores : t.cores = s.cores
  mem : t.mem = s.mem
  clock : t.clock = s.clock
  fab : t.fab = s.fab

theorem CoresStand.refl (s : State) : CoresStand s s := ⟨rfl, rfl, rfl, rfl⟩

theorem CoresStand.trans {s t u : State} (h : CoresStand s t) (g : CoresStand t u) : CoresStand s u :=
  ⟨g.cores.trans h.cores, g.mem.trans h.mem, g.clock.trans h.clock, g.fab.trans h.fab⟩

theorem CoresStand.core {s t : State} (h : CoresStand s t) (n : Nat) : t.core n = s.core n := by
  unfold State.core
  rw [h.cores]

theorem coresStand_foldl {α : Type} {f : State → α → State} (step : ∀ s x, CoresStand s (f s x)) (s : State) (l : List α) : CoresStand s (l.foldl f s) :=
  List.foldlRecOn (motive := CoresStand s) l f (.refl s) fun t h x _ => h.trans (step t x)

theorem coresStand_scheduleOnce (s : State) (at_ prio : Nat) (ev : Instr) : CoresStand s (s.scheduleOnce at_ prio ev) := by
  rw [State.scheduleOnce_eq]
  exact ⟨rfl, rfl, rfl, rfl⟩

theorem coresStand_requestMove (s : State) (m : Move) : CoresStand s (s.requestMove m) := by
  unfold State.requestMove
  dsimp only
  split
  · exact .refl s
  · exact ⟨rfl, rfl, rfl, rfl⟩

theorem coresStand_moveTensor (s : State) (t : Tensor) (tier : Nat) : CoresStand s (s.moveTensor t tier) := by
  unfold State.moveTensor
  dsimp only
  split
  · refine CoresStand.trans ?_ (coresStand_foldl (fun u va => coresStand_requestMove u _) _ _)
    exact ⟨rfl, rfl, rfl, rfl⟩
  · exact ⟨rfl, rfl, rfl, rfl⟩

theorem coresStand_tensorsIn (s : State) (b n : Nat) : CoresStand s (s.tensorsIn b n) :=
  coresStand_foldl (fun s t => coresStand_moveTensor s t 1) s _

theorem coresStand_tensorsOut (s : State) (b n : Nat) : CoresStand s (s.tensorsOut b n) :=
  coresStand_foldl (fun s t => coresStand_moveTensor s t 0) s _

theorem coresStand_commit (s : State) (b : Nat) : CoresStand s (s.commit b) := by
  unfold State.commit
  dsimp only
  split
  · exact .refl s
  · refine CoresStand.trans ?_ (coresStand_scheduleOnce _ _ _ _)
    refine CoresStand.trans ?_ (coresStand_foldl (fun u i => coresStand_tensorsOut u b _) _ _)
    exact ⟨rfl, rfl, rfl, rfl⟩

theorem coresStand_sample (s : State) (q x : Nat) (core : Option Nat) : CoresStand s (s.sample q x core) := by
  unfold State.sample
  split
  · exact .refl s
  · dsimp only
    cases core with
    | none => exact ⟨rfl, rfl, rfl, rfl⟩
    | some n =>
      dsimp only
      split <;> exact ⟨rfl, rfl, rfl, rfl⟩

end Sys2Proof.Claim
end

section
namespace Sys2Proof.Claim
open Sys2Proof Sys2Proof.Machine

/-! Sealed regions and rendezvous (R64, R69, R72). -/

theorem sealedLong_iff (s : State) (c : Core) : s.sealedLong c = true ↔
    (c.run = .running ∨ c.run = .held) ∧ c.region.kind = .sealed ∧ c.region.since + 4096 ≤ s.clock := by
  unfold State.sealedLong
  simp only [Bool.and_eq_true, Bool.or_eq_true, beq_iff_eq, decide_eq_true_iff, and_assoc]

theorem localTr_eq (held : List (Nat × Hold)) : localTr held = releaseTcyc held := by
  unfold localTr releaseTcyc
  rw [List.foldl_map]

theorem hold_of_mem_heldIn {s : State} {g n : Nat} {h : Hold} (listed : (n, h) ∈ s.heldIn g) : (s.core n).hold = some h := by
  unfold State.heldIn at listed
  obtain ⟨k, -, held⟩ := List.mem_filterMap.mp listed
  split at held
  next h' own =>
    split at held
    · obtain ⟨rfl, rfl⟩ := Prod.mk.inj (Option.some.inj held)
      exact own
    · exact absurd held nofun
  · exact absurd held nofun

/-- A member as its rendezvous releases it. -/
def releasedAt (now tr : Nat) (h : Hold) (c : Core) : Core :=
  let c := { c with run := .running, hold := none, tcyc := tr, nextIssue := now }
  if h.resync then c else { c with phaseno := h.n, mapPhase := h.n.toNat }

theorem run_releasedAt (now tr : Nat) (h : Hold) (c : Core) : (releasedAt now tr h c).run = .running := by
  unfold releasedAt
  dsimp only
  split <;> rfl

theorem releasedAt_again (now tr : Nat) (h : Hold) (c : Core) : releasedAt now tr h (releasedAt now tr h c) = releasedAt now tr h c := by
  unfold releasedAt
  dsimp only
  split <;> rfl

/-- Memory, the clock and the fabric stand from s to t. -/
structure SameTime (s t : State) : Prop where
  mem : t.mem = s.mem
  clock : t.clock = s.clock
  fab : t.fab = s.fab

/-- Releasing a member samples its wait, and touches that core alone. -/
theorem releaseCore_spec (s : State) (n tr : Nat) (h : Hold) : SameTime s (s.releaseCore n tr h) ∧
    (s.releaseCore n tr h).core n = releasedAt s.clock tr h (s.core n) ∧ ∀ k, k ≠ n → (s.releaseCore n tr h).core k = s.core k := by
  let u : State := if h.resync then s else s.sample 2 (s.clock - h.since) (some n)
  have stand : CoresStand s u := by
    unfold u
    split
    · exact .refl s
    · exact coresStand_sample s _ _ _
  have released : s.releaseCore n tr h = u.modCore n (releasedAt u.clock tr h) := rfl
  have ne : releasedAt u.clock tr h (u.core n) ≠ Core.init := Core.ne_init_of_run _ (by rw [run_releasedAt]; exact Run.noConfusion)
  rw [released]
  exact ⟨⟨stand.mem, stand.clock, stand.fab⟩, by rw [core_modCore_same ne, stand.core, stand.clock],
    fun k hk => (core_modCore_other ne hk).trans (stand.core k)⟩

theorem oneCore_releaseCore (s : State) (tr : Nat) : OneCore Prod.fst (SameTime s) (fun (t : State) (x : Nat × Hold) => t.releaseCore x.1 tr x.2) where
  keeps t x before := by
    obtain ⟨step, -⟩ := releaseCore_spec t x.1 tr x.2
    exact ⟨step.mem.trans before.mem, step.clock.trans before.clock, step.fab.trans before.fab⟩
  others t x k _ other := by
    obtain ⟨-, -, others⟩ := releaseCore_spec t x.1 tr x.2
    exact others k other

/-- The members of group g of s, released from u. -/
def releaseAll (s : State) (g tr : Nat) (u : State) : State :=
  (s.heldIn g).foldl (fun (t : State) (x : Nat × Hold) => t.releaseCore x.1 tr x.2) u

theorem sameTime_releaseAll {s u : State} (stand : CoresStand s u) (g tr : Nat) : SameTime s (releaseAll s g tr u) :=
  (oneCore_releaseCore s tr).keeps_foldl (s.heldIn g) ⟨stand.mem, stand.clock, stand.fab⟩

theorem core_releaseAll_of_other {s u : State} (stand : CoresStand s u) {g n : Nat} (tr : Nat) (other : n ∉ (s.heldIn g).map (·.1)) :
    (releaseAll s g tr u).core n = s.core n :=
  ((oneCore_releaseCore s tr).core_foldl_of_not_mem ⟨stand.mem, stand.clock, stand.fab⟩ other).trans (stand.core n)

theorem core_releaseAll_of_held {s u : State} (stand : CoresStand s u) {g n : Nat} {h : Hold} (tr : Nat) (listed : (n, h) ∈ s.heldIn g) :
    (releaseAll s g tr u).core n = releasedAt s.clock tr h (s.core n) := by
  have same (x : Nat × Hold) (hx : x ∈ s.heldIn g) (key : x.1 = n) : x = (n, h) := by
    obtain ⟨m, h'⟩ := x
    obtain rfl : m = n := key
    rw [Option.some.inj ((hold_of_mem_heldIn hx).symm.trans (hold_of_mem_heldIn listed))]
  have own (t : State) : (t.releaseCore n tr h).core n = releasedAt t.clock tr h (t.core n) := by
    obtain ⟨-, own, -⟩ := releaseCore_spec t n tr h
    exact own
  refine (oneCore_releaseCore s tr).foldl_of_mem (P := fun c => c = releasedAt s.clock tr h (s.core n)) ⟨stand.mem, stand.clock, stand.fab⟩
    (List.mem_map_of_mem (f := Prod.fst) listed) (fun t x hx key before first => ?_) fun t x hx key before done => ?_
  · obtain rfl := same x hx key
    rw [own, first, stand.core, before.clock]
  · obtain rfl := same x hx key
    rw [own, done, before.clock, releasedAt_again]

/-- A package rendezvous whose members are ready, whose phases have committed and whose frame position has come, is released at its T_R. -/
theorem releaseAt_of_ready {s : State} {g b n0 : Nat} {h0 : Hold} {rest : List (Nat × Hold)} (held : s.heldIn g = (n0, h0) :: rest)
    (bound : s.groupBind g = some b) (package : s.podMembers g = []) (ready : s.localReady g = true)
    (done : h0.resync = true ∨ ∀ t ∈ (s.launch b).tasks, h0.n.toNat ≤ t.phase ∨ s.taskDone (s.launch b) t = true)
    (frame : (s.launch b).hbm = 0 ∨ s.clock % 2176 = releaseTcyc (s.heldIn g) % 2176) : s.releaseAt g = some (releaseTcyc (s.heldIn g)) := by
  have committed : (h0.resync || (s.launch b).tasks.all fun t => decide (h0.n.toNat ≤ t.phase) || s.taskDone (s.launch b) t) = true := by
    simpa using done
  have onFrame : s.onFrame (s.launch b) (releaseTcyc (s.heldIn g)) = true := by
    unfold State.onFrame
    simpa using frame
  rw [← localTr_eq] at onFrame ⊢
  unfold State.releaseAt
  rw [held] at onFrame ⊢
  rw [bound, package]
  dsimp only
  rw [ready, committed]
  exact (if_pos rfl).trans (if_pos onFrame)

/-- The release: phases commit, the members run, and tensors of the next phase start to move. -/
theorem exec_rendezvousRelease {s : State} {g b tr : Nat} (hg : g < 256) (bound : s.groupBind g = some b) (package : s.podMembers g = [])
    (release : s.releaseAt g = some tr) : ∃ t, exec (.rendezvousRelease g) s = .next t ∧ CoresStand (releaseAll s g tr (s.commit b)) t := by
  have time : SameTime s (releaseAll s g tr (s.commit b)) := sameTime_releaseAll (coresStand_commit s b) g tr
  have alone : (releaseAll s g tr (s.commit b)).podMembers g = [] := by
    unfold State.podMembers at package ⊢
    rw [time.fab, package]
  change ∃ t, execRendezvousRelease g s = .next t ∧ _
  unfold execRendezvousRelease
  rw [if_neg (by omega), release]
  dsimp only
  rw [bound]
  dsimp only
  unfold releaseAll at alone ⊢
  rw [alone]
  dsimp only [List.isEmpty_nil, if_true]
  split
  · refine ⟨_, rfl, ?_⟩
    split
    · exact .refl _
    · exact coresStand_tensorsIn _ _ _
  · exact ⟨_, rfl, .refl _⟩

end Sys2Proof.Claim
end

section
namespace Sys2Proof.Claim
open Sys2Proof Sys2Proof.Machine

/-! A core stops for its domain's freeze, and the domain's stop takes effect (R74). -/

/-- Core c has stopped from a for a freeze. -/
structure FrozenFrom (a c : Core) : Prop where
  run : c.run = .frozen
  hold : c.hold = none
  ckpt : c.ckpt = a.ckpt
  gate : c.gate = a.gate
  slim : c.slim = a.slim
  reserveUsed : c.reserveUsed = a.reserveUsed

/-- From s to t core n changes, and no other, nor anything else. -/
structure CoreOnly (n : Nat) (s t : State) : Prop where
  frame : t = { s with cores := t.cores }
  others : ∀ k, k ≠ n → t.core k = s.core k

theorem CoreOnly.refl (n : Nat) (s : State) : CoreOnly n s s := ⟨rfl, fun _ _ => rfl⟩

theorem coreOnly_modCore {s u : State} {n : Nat} (h : CoreOnly n s u) {f : Core → Core} (ne : f (u.core n) ≠ Core.init) : CoreOnly n s (u.modCore n f) :=
  ⟨by rw [h.frame]; rfl, fun k hk => (core_modCore_other ne hk).trans (h.others k hk)⟩

def frozenAt (c : Core) : Core := { c with run := .frozen, hold := none }

theorem frozenAt_ne_init (c : Core) : frozenAt c ≠ Core.init := Core.ne_init_of_run _ Run.noConfusion

/-- A core that stops may first record its domain's cause (R76). -/
theorem freezeCore_eq (s : State) (n : Nat) :
    s.freezeCore n = s.modCore n frozenAt ∨ ∃ cause detail, s.freezeCore n = (s.modCore n (recorded cause detail)).modCore n frozenAt := by
  unfold State.freezeCore
  split
  next x _ =>
    split
    · exact .inr ⟨x.cause, x.detail, rfl⟩
    · exact .inl rfl
  next => exact .inl rfl

theorem frozenFrom_frozenAt (c : Core) (w : Word) : FrozenFrom c (frozenAt (withFrec c w)) := ⟨rfl, rfl, rfl, rfl, rfl, rfl⟩

theorem freezeCore_spec (s : State) (n : Nat) : CoreOnly n s (s.freezeCore n) ∧ FrozenFrom (s.core n) ((s.freezeCore n).core n) := by
  obtain plain | ⟨cause, detail, after⟩ := freezeCore_eq s n
  · rw [plain, core_modCore_same (frozenAt_ne_init _)]
    exact ⟨coreOnly_modCore (.refl n s) (frozenAt_ne_init _), frozenFrom_frozenAt (s.core n) (s.core n).frec⟩
  · have ne := recorded_ne_init cause detail (s.core n)
    rw [after, core_modCore_same (frozenAt_ne_init _), core_modCore_same ne]
    exact ⟨coreOnly_modCore (coreOnly_modCore (.refl n s) ne) (frozenAt_ne_init _), frozenFrom_frozenAt _ _⟩

/-- Core n stops if it meets p. -/
def freezeWhere (p : Core → Bool) (s : State) (n : Nat) : State := if p (s.core n) then s.freezeCore n else s

theorem oneCore_freezeWhere (p : Core → Bool) (s : State) : OneCore id (fun t => t = { s with cores := t.cores }) (freezeWhere p) where
  keeps t n frame := by
    unfold freezeWhere
    split
    · rw [(freezeCore_spec t n).1.frame, frame]
    · exact frame
  others t n k _ other := by
    unfold freezeWhere
    split
    · exact (freezeCore_spec t n).1.others k other
    · rfl

/-- What stopping for a freeze keeps of a core holds of it after its domain's cores have stopped. -/
theorem holds_foldl_freezeWhere {P : Core → Prop} (frozen : ∀ a c, FrozenFrom a c → P a → P c) {s : State} {n : Nat} (h : P (s.core n)) (p : Core → Bool)
    (l : List Nat) : P ((l.foldl (freezeWhere p) s).core n) := by
  refine (oneCore_freezeWhere p s).foldl_of_holds rfl h ?_
  rintro t _ - rfl - holds
  unfold freezeWhere
  split
  · exact frozen _ _ (freezeCore_spec t _).2 holds
  · exact holds

theorem launch_foldl_freezeWhere (p : Core → Bool) (s : State) (l : List Nat) (b : Nat) : (l.foldl (freezeWhere p) s).launch b = s.launch b := by
  have frame := (oneCore_freezeWhere p s).keeps_foldl (s := s) l rfl
  rw [frame]
  rfl

theorem core_foldl_freezeHeld (s : State) (l : List Nat) {n : Nat} (member : n ∈ l) :
    let c := (l.foldl (freezeWhere (·.run == .held)) s).core n
    ((s.core n).run = .held → FrozenFrom (s.core n) c) ∧ ((s.core n).run ≠ .held → c = s.core n) := by
  have one := oneCore_freezeWhere (·.run == .held) s
  refine ⟨fun run => ?_, fun run => ?_⟩
  · refine one.foldl_of_mem (P := FrozenFrom (s.core n)) rfl (by rwa [List.map_id]) ?_ ?_
    · rintro t _ - rfl - same
      dsimp only [id] at *
      unfold freezeWhere
      rw [if_pos (by simp [same, run]), ← same]
      exact (freezeCore_spec t _).2
    · rintro t _ - rfl - frozen
      dsimp only [id] at *
      unfold freezeWhere
      rwa [if_neg (by simp [frozen.run])]
  · refine one.foldl_of_holds (P := fun c => c = s.core n) rfl rfl ?_
    rintro t _ - rfl - same
    dsimp only [id] at *
    unfold freezeWhere
    rw [if_neg (by rw [same]; simpa using run), same]

/-- What a recorded cause and the return to a cut line keep of a core holds of it after the stop of a domain. -/
theorem holds_stopDomain {P : Core → Prop} (records : ∀ c w, P c → P (withFrec c w)) (stops : ∀ q c, P c → P (stoppedAt q c))
    {s : State} {n : Nat} (h : P (s.core n)) (b : Nat) (x : Stop) : P ((s.stopDomain b x).core n) := by
  rw [core_stopDomain]
  refine oneCore_stopCore.foldl_of_holds trivial ?_ ?_
  · rw [core_beforeReturn]
    unfold State.recordEnded
    split
    · refine (oneCore_recordCause x.cause x.detail).foldl_of_holds trivial h ?_
      rintro t _ - rfl - holds
      dsimp only [id] at *
      rw [recordCause_eq, core_modCore_same (recorded_ne_init _ _ _)]
      exact records _ _ holds
    · exact h
  · rintro t _ - rfl - holds
    unfold stopCore
    split
    · split
      · dsimp only [id] at *
        rw [State.core_setCore_same_of_ne t _ _ (Core.ne_init_of_run _ Run.noConfusion)]
        exact stops _ _ holds
      · exact holds
    · exact holds

theorem launch_stopDomain (s : State) (b : Nat) (x : Stop) :
    ∃ y st, y.stopped = true ∧ (s.stopDomain b x).launch b = { s.launch b with stop := some y, st := st } := by
  unfold State.stopDomain
  dsimp only
  split
  · rw [launch_scheduleOnce]
    exact ⟨_, _, rfl, launch_setLaunch_same (ne_free_of_stop rfl)⟩
  · exact ⟨_, _, rfl, launch_setLaunch_same (ne_free_of_stop rfl)⟩

/-- A launch's stop settles in one of three ways (R74). -/
theorem settleStop_cases (s : State) (b : Nat) :
    s.settleStop b = s ∨ s.settleStop b = s.setLaunch b { s.launch b with stop := none } ∨ ∃ x, s.settleStop b = s.stopDomain b x := by
  unfold State.settleStop
  dsimp only
  cases (s.launch b).stop with
  | none => exact .inl rfl
  | some x =>
    dsimp only
    split
    · exact .inl rfl
    · split
      · exact .inr (.inl rfl)
      · exact .inr (.inr ⟨x, rfl⟩)

theorem holds_settleStop {P : Core → Prop} (records : ∀ c w, P c → P (withFrec c w)) (stops : ∀ q c, P c → P (stoppedAt q c))
    {s : State} {n : Nat} (h : P (s.core n)) (b : Nat) : P ((s.settleStop b).core n) := by
  obtain same | same | ⟨x, same⟩ := settleStop_cases s b <;> rw [same]
  · exact h
  · exact h
  · exact holds_stopDomain records stops h b x

theorem settleStop_of_active {s : State} {b n : Nat} (member : n ∈ (s.launch b).cores) (active : (s.core n).active = true) : s.settleStop b = s := by
  have any : ((s.launch b).cores.any fun n => (s.core n).active) = true := List.any_eq_true.mpr ⟨n, member, active⟩
  unfold State.settleStop
  dsimp only
  cases (s.launch b).stop with
  | none => rfl
  | some x => exact if_pos (by rw [any, Bool.or_true])

theorem settleStop_of_stopped {s : State} {b : Nat} {x : Stop} (stop : (s.launch b).stop = some x) (stopped : x.stopped = true) : s.settleStop b = s := by
  unfold State.settleStop
  dsimp only
  rw [stop]
  exact if_pos (by rw [stopped]; rfl)

/-- Once every core of the domain has stopped, and not all have ended, the stop takes effect. -/
theorem settleStop_stops {s : State} {b n : Nat} {x : Stop} (stop : (s.launch b).stop = some x) (waits : x.stopped = false)
    (goesOn : (s.launch b).ending = none) (still : ∀ m ∈ (s.launch b).cores, (s.core m).active = false) (member : n ∈ (s.launch b).cores)
    (run : (s.core n).run ≠ .ended) : s.settleStop b = s.stopDomain b x := by
  have none : ((s.launch b).cores.any fun n => (s.core n).active) = false := List.any_eq_false.mpr fun m hm => by rw [still m hm]; exact Bool.false_ne_true
  unfold State.settleStop
  dsimp only
  rw [stop]
  refine (if_neg (by rw [waits, goesOn, none]; exact Bool.false_ne_true)).trans (if_neg fun all => run ?_)
  exact eq_of_beq (List.all_eq_true.mp all n member)

theorem active_iff (c : Core) : c.active = true ↔ c.run = .running ∨ c.run = .held := by
  unfold Core.active
  simp

end Sys2Proof.Claim
end

section
namespace Sys2Proof.Claim
open Sys2Proof Sys2Proof.Machine

/-! FREEZE (R74). -/

/-- The stop that a request asks for, of a launch that no stop waits for. -/
def stopAsked (s : State) (q : FreezeReq) : Stop :=
  ⟨q.cause, q.detail, stopKindOf q.cause, q.atCut || s.regionOpen (s.launch q.bind), false,
    if q.cause = 0x21 || q.cause = 0x22 then s.fab.pslot + 2 else 0, (s.raiser (s.launch q.bind) q.cause).1, (s.raiser (s.launch q.bind) q.cause).2, s.clock⟩

/-- The launch with that stop. -/
def asked (s : State) (q : FreezeReq) : State := s.setLaunch q.bind { s.launch q.bind with stop := some (stopAsked s q) }

theorem exec_freeze {s : State} {q : FreezeReq} (hq : q.bind < 64) (runs : (s.launch q.bind).st = 3 ∨ (s.launch q.bind).st = 4)
    (goesOn : (s.launch q.bind).ending = none) (fresh : (s.launch q.bind).stop = none)
    (unsealed : q.cause ≠ 0x10 ∨ ∀ n ∈ (s.launch q.bind).cores, (s.core n).run = .running ∨ (s.core n).run = .held → (s.core n).region.kind ≠ .sealed) :
    exec (.freeze q) s = .next (((if (stopAsked s q).atCut = true then asked s q
      else (s.launch q.bind).cores.foldl (freezeWhere (·.run == .held)) (asked s q)).settleStop q.bind).settleStop q.bind) := by
  have live : (!(decide ((s.launch q.bind).st = 3) || decide ((s.launch q.bind).st = 4)) || (s.launch q.bind).ending.isSome) = false := by
    rw [goesOn]
    obtain runs | runs := runs <;> rw [runs] <;> rfl
  have open_ : (decide (q.cause = 0x10) && !((s.launch q.bind).cores.filter fun n => (s.core n).active && (s.core n).region.kind == .sealed).isEmpty) = false := by
    obtain other | unsealed := unsealed
    · rw [decide_eq_false other]; rfl
    · rw [List.filter_eq_nil_iff.mpr, List.isEmpty_nil, Bool.not_true, Bool.and_false]
      intro n member
      rw [Bool.and_eq_true, active_iff, beq_iff_eq]
      exact fun ⟨active, sealed⟩ => unsealed n member active sealed
  change execFreeze q s = _
  unfold execFreeze
  rw [if_neg (by omega)]
  dsimp only
  rw [live, open_]
  refine congrArg (fun u : State => Host.Outcome.next (u.settleStop q.bind)) ?_
  unfold State.requestStop
  dsimp only
  rw [live, fresh]
  rfl

end Sys2Proof.Claim
end

section
namespace Sys2Proof.Claim
open Sys2Proof Sys2Proof.Machine

/-! The three outcomes of a freeze that no stop waits for (R74): at a cut line, at bundle boundaries, or at once. -/

theorem launch_asked (s : State) (q : FreezeReq) : (asked s q).launch q.bind = { s.launch q.bind with stop := some (stopAsked s q) } :=
  launch_setLaunch_same (ne_free_of_stop rfl)

/-- The held cores of the domain have stopped. -/
def heldStopped (s : State) (q : FreezeReq) : State := (s.launch q.bind).cores.foldl (freezeWhere (·.run == .held)) (asked s q)

theorem launch_heldStopped (s : State) (q : FreezeReq) :
    (heldStopped s q).launch q.bind = { s.launch q.bind with stop := some (stopAsked s q) } :=
  (launch_foldl_freezeWhere _ _ _ _).trans (launch_asked s q)

theorem core_heldStopped (s : State) (q : FreezeReq) {n : Nat} (member : n ∈ (s.launch q.bind).cores) :
    ((s.core n).run = .held → FrozenFrom (s.core n) ((heldStopped s q).core n)) ∧ ((s.core n).run ≠ .held → (heldStopped s q).core n = s.core n) :=
  core_foldl_freezeHeld (asked s q) (s.launch q.bind).cores member

/-- While a core of the domain is active the stop waits for it. -/
theorem settle_asked {s : State} {q : FreezeReq} {n : Nat} (member : n ∈ (s.launch q.bind).cores) (active : (s.core n).run = .running ∨ (s.core n).run = .held) :
    ((asked s q).settleStop q.bind).settleStop q.bind = asked s q := by
  have waits : (asked s q).settleStop q.bind = asked s q :=
    settleStop_of_active (n := n) (by rw [launch_asked]; exact member) ((active_iff (s.core n)).mpr active)
  rw [waits, waits]

theorem settle_heldStopped {s : State} {q : FreezeReq} {n : Nat} (member : n ∈ (s.launch q.bind).cores) (run : (s.core n).run = .running) :
    ((heldStopped s q).settleStop q.bind).settleStop q.bind = heldStopped s q := by
  have same : (heldStopped s q).core n = s.core n := (core_heldStopped s q member).2 (by rw [run]; exact Run.noConfusion)
  have waits : (heldStopped s q).settleStop q.bind = heldStopped s q :=
    settleStop_of_active (n := n) (by rw [launch_heldStopped]; exact member) ((active_iff _).mpr (.inl (by rw [same, run])))
  rw [waits, waits]

/-- With no core issuing, and one held, the domain stops in this cycle. -/
theorem settle_stops {s : State} {q : FreezeReq} {n : Nat} (goesOn : (s.launch q.bind).ending = none) (still : ∀ m ∈ (s.launch q.bind).cores, (s.core m).run ≠ .running)
    (member : n ∈ (s.launch q.bind).cores) (held : (s.core n).run = .held) :
    ((heldStopped s q).settleStop q.bind).settleStop q.bind = (heldStopped s q).stopDomain q.bind (stopAsked s q) := by
  have launch := launch_heldStopped s q
  have frozen : ((heldStopped s q).core n).run = .frozen := ((core_heldStopped s q member).1 held).run
  have inactive (m : Nat) (hm : m ∈ (s.launch q.bind).cores) : ((heldStopped s q).core m).active = false := by
    obtain ⟨stops, stays⟩ := core_heldStopped s q hm
    refine Bool.eq_false_iff.mpr fun active => ?_
    rw [active_iff] at active
    by_cases run : (s.core m).run = .held
    · rw [(stops run).run] at active
      exact active.elim Run.noConfusion Run.noConfusion
    · rw [stays run] at active
      exact active.elim (still m hm) run
  have stops : (heldStopped s q).settleStop q.bind = (heldStopped s q).stopDomain q.bind (stopAsked s q) :=
    settleStop_stops (n := n) (by rw [launch]) rfl (by rw [launch]; exact goesOn) (by rw [launch]; exact inactive) (by rw [launch]; exact member)
      (by rw [frozen]; exact Run.noConfusion)
  obtain ⟨y, st, stopped, after⟩ := launch_stopDomain (heldStopped s q) q.bind (stopAsked s q)
  rw [stops, settleStop_of_stopped (by rw [after]) stopped]

/-! An issuing core at its bundle boundary (R74). -/

theorem exec_bundleIssue_stops {s : State} {n : Nat} {l : Launch} {x : Stop} (hn : n < 768) (run : (s.core n).run = .running) (gate : (s.core n).gate = .on)
    (next : (s.core n).nextIssue ≤ s.clock) (late : (s.core n).late = none) (bound : s.launchOf n = some l) (stop : l.stop = some x) (boundary : x.atCut = false)
    (waits : x.stopped = false) (goesOn : l.ending = none) : exec (.bundleIssue n) s = .next ((s.freezeCore n).settleStop l.bind) := by
  have asked : ((s.launchOf n).bind fun l => l.stop.bind fun x => if !x.atCut && !x.stopped && l.ending.isNone then some l.bind else none) = some l.bind := by
    rw [bound, Option.bind_some, stop, Option.bind_some, boundary, waits, goesOn]
    rfl
  change execBundleIssue n s = _
  unfold execBundleIssue
  dsimp only
  rw [if_neg (by omega), run, gate, if_neg (by decide), if_neg (by simpa using next), late, asked]

/-- A core that has stopped for a freeze stays stopped when the stop takes effect. -/
theorem frozen_settleStop {s : State} {n : Nat} (frozen : (s.core n).run = .frozen ∧ (s.core n).hold = none) (b : Nat) :
    ((s.settleStop b).core n).run = .frozen ∧ ((s.settleStop b).core n).hold = none :=
  holds_settleStop (P := fun c => c.run = .frozen ∧ c.hold = none) (fun _ _ h => h) (fun _ _ _ => ⟨rfl, rfl⟩) frozen b

end Sys2Proof.Claim
end

section
namespace Sys2Proof.Claim
open Sys2Proof Sys2Proof.Machine

/-! DOMAIN_STOP (R76, R88, R318). -/

/-- The rest of the domain stops. -/
def haltCore (s : State) (n : Nat) : State :=
  if (s.core n).active || (s.core n).run == .frozen then s.setCore n { s.core n with run := .stopped, hold := none } else s

def haltedAt (c : Core) : Core := { c with run := .stopped, hold := none }

theorem haltedAt_ne_init (c : Core) : haltedAt c ≠ Core.init := Core.ne_init_of_run _ Run.noConfusion

theorem haltCore_of_live {s : State} {n : Nat} (live : (s.core n).run = .running ∨ (s.core n).run = .held ∨ (s.core n).run = .frozen) :
    haltCore s n = s.setCore n (haltedAt (s.core n)) := by
  refine if_pos ?_
  unfold Core.active
  obtain run | run | run := live <;> rw [run] <;> rfl

theorem haltCore_of_other {s : State} {n : Nat} (other : (s.core n).run ≠ .running ∧ (s.core n).run ≠ .held ∧ (s.core n).run ≠ .frozen) : haltCore s n = s := by
  obtain ⟨running, held, frozen⟩ := other
  refine if_neg ?_
  rw [Bool.or_eq_true, active_iff, beq_iff_eq]
  tauto

theorem oneCore_haltCore : OneCore id (fun _ => True) haltCore where
  keeps _ _ _ := trivial
  others s n k _ other := by
    unfold haltCore
    split
    · exact State.core_setCore_other_of_ne s n k _ (haltedAt_ne_init _) other
    · rfl

theorem core_foldl_haltCore (s : State) (l : List Nat) (n : Nat) :
    let t := l.foldl haltCore s
    (n ∈ l → (s.core n).run = .running ∨ (s.core n).run = .held ∨ (s.core n).run = .frozen → t.core n = haltedAt (s.core n)) ∧
    (n ∉ l ∨ ((s.core n).run ≠ .running ∧ (s.core n).run ≠ .held ∧ (s.core n).run ≠ .frozen) → t.core n = s.core n) := by
  refine ⟨fun member live => ?_, fun still => ?_⟩
  · refine oneCore_haltCore.foldl_of_mem (P := fun c => c = haltedAt (s.core n)) trivial (by rwa [List.map_id]) ?_ ?_
    · rintro t _ - rfl - same
      dsimp only [id] at *
      rw [haltCore_of_live (by rwa [same]), State.core_setCore_same_of_ne _ _ _ (haltedAt_ne_init _), same]
    · rintro t _ - rfl - done
      dsimp only [id] at *
      have stopped : (t.core _).run = .stopped := congrArg Core.run done
      rw [haltCore_of_other (by rw [stopped]; exact ⟨Run.noConfusion, Run.noConfusion, Run.noConfusion⟩), done]
  · by_cases member : n ∈ l
    · have other := still.resolve_left (not_not.mpr member)
      refine oneCore_haltCore.foldl_of_holds (P := fun c => c = s.core n) trivial rfl ?_
      rintro t _ - rfl - same
      dsimp only [id] at *
      rw [haltCore_of_other (by rwa [same]), same]
    · exact oneCore_haltCore.core_foldl_of_not_mem trivial (by rwa [List.map_id])

/-- The cores that have a slip to record where they stop (R318). -/
def slippers (s : State) (l : Launch) : List Nat := l.cores.filter fun n => (s.core n).active && (s.core n).late.any fun f => f.cause = 0x10

/-- Those cores record it. -/
def slipsRecorded (s : State) (l : Launch) (detail : BitVec 8) : State := (slippers s l).foldl (fun (s : State) n => s.recordCause n 0x10 detail) s

theorem mem_slippers {s : State} {l : Launch} {n : Nat} (member : n ∈ l.cores) (active : (s.core n).run = .running ∨ (s.core n).run = .held)
    (slip : ∃ f, (s.core n).late = some f ∧ f.cause = 0x10) : n ∈ slippers s l := by
  obtain ⟨f, late, cause⟩ := slip
  refine List.mem_filter.mpr ⟨member, ?_⟩
  rw [(active_iff _).mpr active, late, Option.any_some, decide_eq_true cause]
  rfl

/-- The first of an ascending list that lies below a bound is the lowest of all. -/
theorem find_lt_le {l : List Nat} (sorted : l.Pairwise (· < ·)) {bound m : Nat} (found : l.find? (fun n => decide (n < bound)) = some m) :
    m < bound ∧ ∀ n ∈ l, m ≤ n := by
  have below : m < bound := by simpa using List.find?_some found
  refine ⟨below, ?_⟩
  cases l with
  | nil => exact fun n listed => absurd listed List.not_mem_nil
  | cons k l =>
    obtain ⟨first, -⟩ := List.pairwise_cons.mp sorted
    obtain rfl : m = k := by
      obtain head | later := List.mem_cons.mp (List.mem_of_find?_eq_some found)
      · exact head
      · rw [List.find?_cons_of_pos (p := fun n => decide (n < bound)) (decide_eq_true ((first m later).trans below))] at found
        exact (Option.some.inj found).symm
    exact List.forall_mem_cons.mpr ⟨Nat.le_refl m, fun n later => Nat.le_of_lt (first n later)⟩

/-- The core named is not above the one named before, nor above any that records a slip. -/
theorem slipStops_of_slip {s : State} {l : Launch} {e : Ending} (slip : bitsOf e.frec.toNat 0 8 = 0x10) (open_ : e.fseq = 0) (sorted : l.cores.Pairwise (· < ·)) :
    ∃ x, s.slipStops l e = (x, slipsRecorded s l (e.frec.extractLsb' 8 8)) ∧ x.core ≤ e.core ∧ ∀ n ∈ slippers s l, x.core ≤ n := by
  have slips : (if (decide (bitsOf e.frec.toNat 0 8 = 0x10) && decide (e.fseq = 0)) = true then slippers s l else []) = slippers s l :=
    if_pos (by rw [decide_eq_true slip, decide_eq_true open_]; rfl)
  have unfolded : s.slipStops l e = match (slippers s l).find? fun n => decide (n < e.core) with
      | some n => ({ e with core := n, frec := ((slipsRecorded s l (e.frec.extractLsb' 8 8)).core n).frec, tcyc := ((slipsRecorded s l (e.frec.extractLsb' 8 8)).core n).tcyc },
          slipsRecorded s l (e.frec.extractLsb' 8 8))
      | none => (e, slipsRecorded s l (e.frec.extractLsb' 8 8)) := by
    unfold slipsRecorded
    rw [← slips]
    rfl
  rw [unfolded]
  cases found : (slippers s l).find? fun n => decide (n < e.core) with
  | none => exact ⟨e, rfl, Nat.le_refl _, fun n listed => by simpa using List.find?_eq_none.mp found n listed⟩
  | some m =>
    obtain ⟨below, lowest⟩ := find_lt_le (sorted.filter _) found
    exact ⟨_, rfl, Nat.le_of_lt below, lowest⟩

theorem slipStops_of_other {s : State} {l : Launch} {e : Ending} (other : ¬(bitsOf e.frec.toNat 0 8 = 0x10 ∧ e.fseq = 0)) : s.slipStops l e = (e, s) := by
  have slips : (decide (bitsOf e.frec.toNat 0 8 = 0x10) && decide (e.fseq = 0)) = false := by
    rw [← Bool.not_eq_true, Bool.and_eq_true, decide_eq_true_iff, decide_eq_true_iff]
    exact other
  unfold State.slipStops
  dsimp only
  rw [slips]
  rfl

/-- A core that records a slip has it as its cause, and runs as it did. -/
theorem core_slipsRecorded {s : State} {l : Launch} {n : Nat} (listed : n ∈ slippers s l) (detail : BitVec 8) :
    ((slipsRecorded s l detail).core n).run = (s.core n).run ∧ ((slipsRecorded s l detail).core n).frec.extractLsb' 0 8 = 0x10 := by
  have records (c : Core) : (recorded 0x10 detail c).run = c.run ∧ (recorded 0x10 detail c).frec.extractLsb' 0 8 = 0x10 :=
    ⟨run_recorded 0x10 detail c, (frec_recorded 0x10 detail c).1⟩
  refine (oneCore_recordCause 0x10 detail).foldl_of_mem (P := fun c => c.run = (s.core n).run ∧ c.frec.extractLsb' 0 8 = 0x10) trivial
    (by rwa [List.map_id]) ?_ ?_
  · rintro t _ - rfl - same
    dsimp only [id] at *
    rw [recordCause_eq, core_modCore_same (recorded_ne_init _ _ _), ← same]
    exact records _
  · rintro t _ - rfl - ⟨run, -⟩
    dsimp only [id] at *
    rw [recordCause_eq, core_modCore_same (recorded_ne_init _ _ _), ← run]
    exact records _

theorem cause_of_bits (w : Word) (cause : BitVec 8) : bitsOf w.toNat 0 8 = cause.toNat ↔ w.extractLsb' 0 8 = cause := by
  rw [← BitVec.toNat_inj, BitVec.extractLsb'_toNat]
  simp [bitsOf]

/-- Where nothing is granted, the cores stop and the launch goes to its end. -/
theorem exec_domainStop_ends {s : State} {b : Nat} {e x : Ending} {u : State} (hb : b < 64) (ends : (s.launch b).ending = some e)
    (runs : (s.launch b).st = 3 ∨ (s.launch b).st = 4) (refused : s.grantReserve (s.launch b) e = none) (slips : s.slipStops (s.launch b) e = (x, u)) :
    exec (.domainStop b) s = .next (((s.launch b).cores.foldl haltCore u).setLaunch b { s.launch b with stop := none, st := 6, ending := some x }) := by
  have live : (!(decide ((s.launch b).st = 3) || decide ((s.launch b).st = 4) || decide ((s.launch b).st = 6))) = false := by
    obtain runs | runs := runs <;> rw [runs] <;> rfl
  have before : (s.launch b).st ≠ 6 := by omega
  change execDomainStop b s = _
  unfold execDomainStop
  rw [if_neg (by omega)]
  dsimp only
  rw [ends]
  dsimp only
  rw [live, if_neg Bool.false_ne_true, if_neg before, refused]
  dsimp only
  rw [slips]
  rfl

/-- The core that has taken its stack reserve (R88). -/
def granted (limit : Nat) (c : Core) : Core := { c with slim := BitVec.ofNat 64 (limit + c.slim.toNat / 2 ^ 22 * 2 ^ 22), reserveUsed := true }

/-- The launch goes on, with a stop that rewinds it. -/
def grantedLaunch (s : State) (b : Nat) : Launch :=
  { s.launch b with ending := none, stop := some ⟨0, 0, .rewind, false, false, 0, 0xFFFF, 0, s.clock⟩ }

/-- The domain rewinds once the reserve is granted. -/
def grantStop (s : State) (b : Nat) (e : Ending) (limit : Nat) : State :=
  (s.launch b).cores.foldl (freezeWhere Core.active) ((s.modCore e.core (granted limit)).setLaunch b (grantedLaunch s b))

theorem exec_domainStop_grants {s : State} {b limit : Nat} {e : Ending} (hb : b < 64) (ends : (s.launch b).ending = some e)
    (runs : (s.launch b).st = 3 ∨ (s.launch b).st = 4) (grants : s.grantReserve (s.launch b) e = some limit) :
    exec (.domainStop b) s = .next ((grantStop s b e limit).settleStop b) := by
  have live : (!(decide ((s.launch b).st = 3) || decide ((s.launch b).st = 4) || decide ((s.launch b).st = 6))) = false := by
    obtain runs | runs := runs <;> rw [runs] <;> rfl
  have before : (s.launch b).st ≠ 6 := by omega
  change execDomainStop b s = _
  unfold execDomainStop
  rw [if_neg (by omega)]
  dsimp only
  rw [ends]
  dsimp only
  rw [live, if_neg Bool.false_ne_true, if_neg before, grants]
  rfl

/-- A reserve is granted below the limit that stands. -/
theorem limit_lt_of_grantReserve {s : State} {l : Launch} {e : Ending} {limit : Nat} (grants : s.grantReserve l e = some limit) : limit < 2 ^ 22 := by
  unfold State.grantReserve at grants
  dsimp only at grants
  split at grants
  · have below : bitsOf (s.core e.core).slim.toNat 0 22 < 2 ^ 22 := Nat.mod_lt _ (by decide)
    have given := Option.some.inj grants
    omega
  · exact absurd grants nofun

theorem slim_granted {limit : Nat} (h : limit < 2 ^ 22) (c : Core) : (granted limit c).slim.toNat % 2 ^ 22 = limit := by
  change (BitVec.ofNat 64 (limit + c.slim.toNat / 2 ^ 22 * 2 ^ 22)).toNat % 2 ^ 22 = limit
  rw [BitVec.toNat_ofNat]
  omega

/-- SLIM with the granted limit, and the mark that it was granted. -/
def HasReserve (limit : Nat) (c : Core) : Prop := c.reserveUsed = true ∧ c.slim.toNat % 2 ^ 22 = limit

theorem hasReserve_grantStop {s : State} {b limit : Nat} {e : Ending} (grants : s.grantReserve (s.launch b) e = some limit) :
    HasReserve limit (((grantStop s b e limit).settleStop b).core e.core) := by
  have ne : granted limit (s.core e.core) ≠ Core.init := fun reset => Bool.false_ne_true (congrArg Core.reserveUsed reset).symm
  have first : HasReserve limit ((s.modCore e.core (granted limit)).core e.core) := by
    rw [core_modCore_same ne]
    exact ⟨rfl, slim_granted (limit_lt_of_grantReserve grants) _⟩
  refine holds_settleStop (fun _ _ h => h) (fun _ _ h => h) ?_ b
  exact holds_foldl_freezeWhere (s := (s.modCore e.core (granted limit)).setLaunch b (grantedLaunch s b))
    (fun a c frozen ⟨used, slim⟩ => ⟨frozen.reserveUsed.trans used, by rw [frozen.slim, slim]⟩) first _ _

theorem ending_grantStop {s : State} {b limit : Nat} {e : Ending} (runs : (s.launch b).st = 3 ∨ (s.launch b).st = 4) :
    (((grantStop s b e limit).settleStop b).launch b).ending = none := by
  have launch : (grantStop s b e limit).launch b = grantedLaunch s b :=
    (launch_foldl_freezeWhere _ _ _ _).trans (launch_setLaunch_same (ne_free_of_stop rfl))
  obtain same | same | ⟨x, same⟩ := settleStop_cases (grantStop s b e limit) b <;> rw [same]
  · rw [launch]
    rfl
  · rw [launch_setLaunch_same (ne_free_of_st (by rw [launch]; change (s.launch b).st ≠ 0; omega)), launch]
    rfl
  · obtain ⟨y, st, -, after⟩ := launch_stopDomain (grantStop s b e limit) b x
    rw [after, launch]
    rfl

end Sys2Proof.Claim
end

section
namespace Sys2Proof.Claim
open Sys2Proof Sys2Proof.Machine

/-! The sequencer's steps, one by one. -/

theorem exec_sealedRegionTimeout {n : Nat} (hn : n < 768) (s : State) : exec (.sealedRegionTimeout n) s =
    .next (if s.sealedLong (s.core n) then (s.leaveRendezvous n).takeException n 0x02 0x04 0 (s.core n).region.addr else s) :=
  if_neg (by omega)

/-- DOMAIN_STOP of a slip: every core that still has it to record does so, and the lowest is named (R318). -/
theorem domainStop_of_slip {s : State} {b : Nat} {e : Ending} (hb : b < 64) (ends : (s.launch b).ending = some e)
    (runs : (s.launch b).st = 3 ∨ (s.launch b).st = 4) (slip : e.frec.extractLsb' 0 8 = 0x10) (open_ : e.fseq = 0)
    (sorted : (s.launch b).cores.Pairwise (· < ·)) : ∃ t x, exec (.domainStop b) s = .next t ∧ (t.launch b).st = 6 ∧ (t.launch b).ending = some x ∧
      x.core ≤ e.core ∧ ∀ n ∈ (s.launch b).cores, ((s.core n).run = .running ∨ (s.core n).run = .held) → (∃ f, (s.core n).late = some f ∧ f.cause = 0x10) →
        x.core ≤ n ∧ (t.core n).run = .stopped ∧ (t.core n).frec.extractLsb' 0 8 = 0x10 := by
  have code : bitsOf e.frec.toNat 0 8 = 0x10 := (cause_of_bits e.frec 0x10).mpr slip
  have refused : s.grantReserve (s.launch b) e = none := if_neg (by rw [code]; exact Bool.false_ne_true)
  obtain ⟨x, stops, named, lowest⟩ := slipStops_of_slip code open_ sorted
  have launch (u : State) : (u.setLaunch b { s.launch b with stop := none, st := 6, ending := some x }).launch b = _ :=
    launch_setLaunch_same (ne_free_of_st (show (6 : Nat) ≠ 0 by decide))
  refine ⟨_, x, exec_domainStop_ends hb ends runs refused stops, by rw [launch], by rw [launch], named, fun n member active late => ?_⟩
  have listed := mem_slippers member active late
  obtain ⟨run, cause⟩ := core_slipsRecorded listed (e.frec.extractLsb' 8 8)
  have halted := (core_foldl_haltCore (slipsRecorded s (s.launch b) (e.frec.extractLsb' 8 8)) (s.launch b).cores n).1 member
    (by rw [run]; exact active.imp_right .inl)
  exact ⟨lowest n listed, congrArg Core.run halted, (congrArg (fun c : Core => c.frec.extractLsb' 0 8) halted).trans cause⟩

/-- DOMAIN_STOP of another error: the rest of the domain stops (R76). -/
theorem domainStop_of_error {s : State} {b : Nat} {e : Ending} (hb : b < 64) (ends : (s.launch b).ending = some e)
    (runs : (s.launch b).st = 3 ∨ (s.launch b).st = 4) (other : ¬(e.frec.extractLsb' 0 8 = 0x10 ∧ e.fseq = 0)) (refused : s.grantReserve (s.launch b) e = none) :
    ∃ t, exec (.domainStop b) s = .next t ∧ (t.launch b).st = 6 ∧ (t.launch b).stop = none ∧ ∀ n, t.core n = ((s.launch b).cores.foldl haltCore s).core n := by
  have code : ¬(bitsOf e.frec.toNat 0 8 = 0x10 ∧ e.fseq = 0) := fun ⟨slip, open_⟩ => other ⟨(cause_of_bits e.frec 0x10).mp slip, open_⟩
  have launch (u : State) : (u.setLaunch b { s.launch b with stop := none, st := 6, ending := some e }).launch b = _ :=
    launch_setLaunch_same (ne_free_of_st (show (6 : Nat) ≠ 0 by decide))
  exact ⟨_, exec_domainStop_ends hb ends runs refused (slipStops_of_other code), by rw [launch], by rw [launch], fun _ => rfl⟩

/-- Settles O48, event by event. -/
theorem sequencerEvents : Obligations.SequencerEvents := by
  unfold Obligations.SequencerEvents
  refine ⟨fun n s hn => ⟨fun long => ?_, fun short => ?_⟩, fun g b n0 h0 s hg first bound package ready done frame => ?_,
    fun q s hq runs goesOn fresh unsealed => ⟨fun cut ⟨n, member, active⟩ => ?_, fun cut shut ⟨n, member, run⟩ => ?_,
      fun cut shut still n member k held gate ckpt => ?_⟩,
    fun n s l x hn run gate next late bound stop boundary waits goesOn => ?_,
    fun b s e hb ends runs => ⟨fun ⟨slip, open_⟩ sorted => domainStop_of_slip hb ends runs slip open_ sorted, fun other refused => ?_, fun limit grants => ?_⟩⟩
  case refine_1 => rw [exec_sealedRegionTimeout hn, if_pos ((sealedLong_iff s _).mpr long)]
  case refine_2 => rw [exec_sealedRegionTimeout hn, if_neg (mt (sealedLong_iff s _).mp short)]
  case refine_3 =>
    obtain ⟨rest, held⟩ := List.head?_eq_some_iff.mp first
    obtain ⟨t, released, stand⟩ := exec_rendezvousRelease hg bound package (releaseAt_of_ready held bound package ready done frame)
    have commits := coresStand_commit s b
    refine ⟨t, released, fun a => ?_, fun n other => ?_, fun n h listed => ?_⟩
    · rw [stand.mem, (sameTime_releaseAll commits g _).mem]
    · rw [stand.core, core_releaseAll_of_other commits _ other]
    · rw [stand.core, core_releaseAll_of_held commits _ listed]
      rfl
  case refine_4 =>
    have atCut : (stopAsked s q).atCut = true := (Bool.or_eq_true _ _).mpr cut
    refine ⟨asked s q, stopAsked s q, ?_, by rw [launch_asked], rfl, rfl, atCut, rfl, fun _ => rfl⟩
    rw [exec_freeze hq runs goesOn fresh unsealed, if_pos atCut, settle_asked member active]
  case refine_5 =>
    have boundary : (stopAsked s q).atCut = false := (Bool.or_eq_false_iff).mpr ⟨cut, shut⟩
    refine ⟨heldStopped s q, stopAsked s q, ?_, by rw [launch_heldStopped], rfl, boundary, rfl, fun m hm => ?_⟩
    · rw [exec_freeze hq runs goesOn fresh unsealed, if_neg (by rw [boundary]; exact Bool.false_ne_true)]
      exact congrArg Host.Outcome.next (settle_heldStopped member run)
    · obtain ⟨stops, stays⟩ := core_heldStopped s q hm
      exact ⟨fun held => ⟨(stops held).run, (stops held).hold⟩, stays⟩
  case refine_6 =>
    have boundary : (stopAsked s q).atCut = false := (Bool.or_eq_false_iff).mpr ⟨cut, shut⟩
    have frozen := (core_heldStopped s q member).1 held
    have returned := coreReturned_stopDomain (stopAsked s q) (by rw [launch_heldStopped]; exact member) (frozen.ckpt.trans ckpt) (frozen.gate.trans gate)
      (.inr (.inr (.inl frozen.run)))
    refine ⟨(heldStopped s q).stopDomain q.bind (stopAsked s q), ?_, returned.run, returned.tcyc, returned.pc, returned.pend⟩
    rw [exec_freeze hq runs goesOn fresh unsealed, if_neg (by rw [boundary]; exact Bool.false_ne_true)]
    exact congrArg Host.Outcome.next (settle_stops goesOn still member held)
  case refine_7 =>
    obtain ⟨-, frozen⟩ := freezeCore_spec s n
    exact ⟨_, exec_bundleIssue_stops hn run gate next late bound stop boundary waits goesOn, frozen_settleStop ⟨frozen.run, frozen.hold⟩ l.bind⟩
  case refine_8 =>
    obtain ⟨t, stopped, st, stop, cores⟩ := domainStop_of_error hb ends runs other refused
    refine ⟨t, stopped, st, stop, fun n member live => ?_, fun n still => ?_⟩
    · exact (cores n).trans ((core_foldl_haltCore s (s.launch b).cores n).1 member live)
    · exact (cores n).trans ((core_foldl_haltCore s (s.launch b).cores n).2 still)
  case refine_9 => exact ⟨_, exec_domainStop_grants hb ends runs grants, ending_grantStop runs, hasReserve_grantStop grants⟩

end Sys2Proof.Claim
end

section
namespace Sys2Proof.Claim
open Sys2Proof Sys2Proof.Machine

/-! What R154's operations make of the old value. -/

theorem signed_eq_toInt {v : Nat} (h : v < 2 ^ 32) : signed 32 v = (BitVec.ofNat 32 v).toInt := by
  unfold signed
  rw [BitVec.toInt_eq_toNat_cond, BitVec.toNat_ofNat, Nat.mod_eq_of_lt h]
  split <;> split <;> omega

/-- Signed minimum and maximum: the operand where it is the smaller, or the larger. -/
theorem atomApply_minmax {m x : Nat} (hm : m < 2 ^ 32) (hx : x < 2 ^ 32) (y : Nat) :
    let p := (BitVec.ofNat 32 x).toInt
    let q := (BitVec.ofNat 32 m).toInt
    atomApply 4 false m x y = (if p < q then x else m, false, 0) ∧ atomApply 5 false m x y = (if q < p then x else m, false, 0) := by
  intro p q
  have hp : signed 32 x = p := signed_eq_toInt hx
  have hq : signed 32 m = q := signed_eq_toInt hm
  rw [← hp, ← hq]
  exact ⟨rfl, rfl⟩

theorem atomApply_wrap (m x y : Nat) :
    atomApply 13 false m x y = if m < y then (m + 1, false, 0) else (0, false, 0) := by
  change (if y ≤ m then 0 else m + 1, false, 0) = _
  by_cases h : m < y
  · rw [if_pos h, if_neg (by omega)]
  · rw [if_neg h, if_pos (by omega)]

/-! Bytes of a value. -/

theorem leBytes_eq_map (n v : Nat) : leBytes n v = (List.range n).map fun k => BitVec.ofNat 8 (v / 2 ^ (8 * k)) := by
  induction n generalizing v with
  | zero => rfl
  | succ n ih =>
    rw [List.range_succ_eq_map, List.map_cons, List.map_map, leBytes, ih]
    refine congrArg₂ List.cons (by simp) (List.map_congr_left fun k _ => ?_)
    rw [Function.comp_apply, Nat.div_div_eq_div_mul, show 8 * k.succ = 8 + 8 * k by omega, pow_add]
    rfl

/-- The bytes of a value at consecutive addresses. -/
theorem zipIdx_leBytes (n v a : Nat) :
    ((leBytes n v).zipIdx.map fun b => (a + b.2, b.1)) = (List.range n).map fun k => (a + k, BitVec.ofNat 8 (v / 2 ^ (8 * k))) := by
  rw [leBytes_eq_map]
  refine List.ext_getElem (by simp) fun k _ _ => ?_
  simp

end Sys2Proof.Claim
end

section
namespace Sys2Proof.Claim
open Sys2Proof Sys2Proof.Machine

/-! OORREC, and what an access leaves but for it (R143). -/

theorem oorWord_valid (a : Nat) (write : Bool) (slot tcyc : Nat) : (oorWord a write slot tcyc).getLsbD 41 = true := by
  unfold oorWord
  rw [BitVec.getLsbD_ofNat, Nat.testBit_eq_decide_div_mod_eq]
  have low : a % 2 ^ 40 < 2 ^ 40 := Nat.mod_lt _ (by decide)
  cases write <;> simp <;> omega

def withOor (c : Core) (w : Word) : Core := { c with oorrec := w }

/-- From s to u the issuing core differs in OORREC alone, the other cores, memory and the clock stand, and the same slot issues. -/
structure OorNoted (s u : State) : Prop where
  clock : u.clock = s.clock
  mem : u.mem = s.mem
  core : u.ix.core = s.ix.core
  slot : u.ix.slot = s.ix.slot
  addr : u.ix.addr = s.ix.addr
  own : ∃ w, u.core s.ix.core = withOor s.cur w
  others : ∀ k, k ≠ s.ix.core → u.core k = s.core k

/-- The issuing core's first out-of-range record stands; a later one is dropped. -/
def noteOor (w : Word) (c : Core) : Core := if c.oorrec.getLsbD 41 then c else withOor c w

theorem noteOor_spec {w : Word} (valid : w.getLsbD 41 = true) (c : Core) : (∃ v, noteOor w c = withOor c v) ∧ noteOor w c ≠ Core.init := by
  have ne {d : Core} (set : d.oorrec.getLsbD 41 = true) : d ≠ Core.init := fun reset =>
    Bool.false_ne_true ((congrArg (fun c : Core => c.oorrec.getLsbD 41) reset).symm.trans set)
  unfold noteOor
  split
  next set => exact ⟨⟨c.oorrec, rfl⟩, ne set⟩
  next => exact ⟨⟨w, rfl⟩, ne valid⟩

/-- An access takes a number, and records its first byte that is out of range. -/
def openAccess (s : State) (oor : Option (Nat × Bool)) : State :=
  match oor with
  | some (b, write) => s.fresh.2.recordOor write (some b)
  | none => s.fresh.2

theorem openAccess_spec (s : State) (oor : Option (Nat × Bool)) :
    OorNoted s (openAccess s oor) ∧ (openAccess s oor).accs = s.accs ∧ (openAccess s oor).memPend = s.memPend := by
  cases oor with
  | none => exact ⟨⟨rfl, rfl, rfl, rfl, rfl, ⟨s.cur.oorrec, rfl⟩, fun _ _ => rfl⟩, rfl, rfl⟩
  | some x =>
    obtain ⟨b, write⟩ := x
    obtain ⟨⟨v, noted⟩, ne⟩ := noteOor_spec (oorWord_valid b write s.ix.slot s.cur.tcyc) s.cur
    have own : (s.fresh.2.modCore s.ix.core (noteOor (oorWord b write s.ix.slot s.cur.tcyc))).core s.ix.core = withOor s.cur v :=
      (core_modCore_same (s := s.fresh.2) ne).trans noted
    exact ⟨⟨rfl, rfl, rfl, rfl, rfl, ⟨v, own⟩, fun k hk => core_modCore_other (s := s.fresh.2) ne hk⟩, rfl, rfl⟩

theorem OorNoted.addMem {s u : State} (h : OorNoted s u) (vis bank op : Nat) (data : List (Nat × Byte)) (store : Nat) :
    OorNoted s (u.addMem vis bank op data store) := by
  rw [State.addMem_eq]
  exact ⟨h.clock, h.mem, h.core, h.slot, h.addr, h.own, h.others⟩

theorem addAcc_eq (s : State) (a : Acc) : s.addAcc a = { s with accs := s.accs ++ [a], agenda := (s.addAcc a).agenda } := by
  unfold State.addAcc
  refine List.foldlRecOn (motive := fun t : State => t = { s with accs := s.accs ++ [a], agenda := t.agenda }) _ _ ?_ fun t frame x _ => ?_
  · rw [State.scheduleOnce_eq]
  · rw [State.scheduleOnce_eq, frame]

theorem addAcc_frame (s : State) (a : Acc) : s.addAcc a = { s with accs := (s.addAcc a).accs, agenda := (s.addAcc a).agenda } := by
  rw [addAcc_eq]

/-- The region of an effect: closing, unless it is sealed (R62). -/
def Closes (s : State) (c : Core) : Prop :=
  if s.cur.region.kind = .sealed then c.region = s.cur.region else c.region = { s.cur.region with closing := true }

/-- Core c with one more write in flight. -/
def withPend (c : Core) (p : PendWrite) : Core := { c with pend := c.pend ++ [p] }

theorem markClosing_withPend (c : Core) (p : PendWrite) : markClosing (withPend c p) = withPend (markClosing c) p := by
  unfold markClosing
  change (if c.region.kind == .sealed then _ else _) = _
  split <;> rfl

theorem withPend_ne_init (c : Core) (p : PendWrite) : withPend c p ≠ Core.init := Core.ne_init_of_pend _ (by simp [withPend])

theorem closes_markClosing (s : State) (x : Word) (p : PendWrite) : Closes s (withPend (markClosing (withOor s.cur x)) p) := by
  unfold Closes
  split
  next sealed =>
    have stays : markClosing (withOor s.cur x) = withOor s.cur x := if_pos (by simpa [withOor] using sealed)
    rw [stays]
    rfl
  next open_ =>
    have closing : markClosing (withOor s.cur x) = { withOor s.cur x with region := { s.cur.region with closing := true } } :=
      if_neg (by simpa [withOor] using open_)
    rw [closing]
    rfl

/-- An access whose one register write is in flight, as an effect. -/
theorem effect_of_addWrite {s u v : State} (noted : OorNoted s u) (w : RegWrite) (lat : Nat) (flags : BitVec 6) (acc : Nat)
    (frame : v = { u.addWrite w lat flags acc with accs := v.accs, agenda := v.agenda }) :
    let t := v.effect
    Closes s t.cur ∧ (∀ b, memByte t.mem b = memByte s.mem b) ∧ (∀ k, k ≠ s.ix.core → t.core k = s.core k) ∧ t.cur.s = s.cur.s ∧ t.cur.rows = s.cur.rows ∧
    t.cur.pend = s.cur.pend ++ [inFlight s w lat flags acc] ∧ t.accs = v.accs ∧ t.memPend = u.memPend := by
  intro t
  obtain ⟨clock, mem, core, slot, addr, ⟨x, own⟩, others⟩ := noted
  obtain ⟨added, kept, mem', -⟩ := State.addWrite_spec u w lat flags acc
  have cores (k : Nat) : v.core k = (u.addWrite w lat flags acc).core k := by rw [frame]; rfl
  have ix : v.ix = u.ix := by rw [frame, State.addWrite_eq]
  have flight : (⟨u.clock + lat, u.clock, u.ix.slot, u.ix.addr, u.cur.tcyc, w, flags, acc⟩ : PendWrite) = inFlight s w lat flags acc := by
    unfold State.cur
    rw [clock, slot, addr, core, own]
    rfl
  have issuing : v.cur = withPend (withOor s.cur x) (inFlight s w lat flags acc) := by
    unfold State.cur at added ⊢
    rw [cores, ix, added, ← flight]
    unfold State.cur
    rw [core, own]
    rfl
  have closed : t.cur = withPend (markClosing (withOor s.cur x)) (inFlight s w lat flags acc) := by
    change (v.modCur markClosing).cur = _
    rw [cur_modCur_of_ne, issuing, markClosing_withPend]
    rw [issuing, markClosing_withPend]
    exact withPend_ne_init _ _
  have ne : markClosing v.cur ≠ Core.init := by
    rw [issuing, markClosing_withPend]
    exact withPend_ne_init _ _
  have read : markClosing (withOor s.cur x) = { withOor s.cur x with region := (markClosing (withOor s.cur x)).region } := markClosing_eq _
  refine ⟨?_, fun b => ?_, fun k hk => ?_, ?_, ?_, ?_, rfl, ?_⟩
  · rw [closed]; exact closes_markClosing s x _
  · change memByte v.mem b = _
    rw [frame, ← mem, ← mem']
  · exact (core_modCore_other ne (by rw [ix, core]; exact hk)).trans ((cores k).trans ((kept k (by rw [core]; exact hk)).trans (others k hk)))
  · rw [closed, read]; rfl
  · rw [closed, read]; rfl
  · rw [closed, read]; rfl
  · change v.memPend = _
    rw [frame, State.addWrite_eq]

end Sys2Proof.Claim
end

section
namespace Sys2Proof.Claim
open Sys2Proof Sys2Proof.Machine

/-! ATOM (R154, R155). -/

section
variable (o : LOps) (s : State) (ea : Nat) (win : Option (Nat × Nat))

/-- The bytes of an atomic, its address, and the part that it accesses. -/
def atomWidth : Nat := atomBytes (o.mod.extractLsb' 0 4).toNat (o.mod.getLsbD 4)
def atomAt : Nat := ea / atomWidth o * atomWidth o
def atomPart : Part := ⟨atomAt o ea, (List.range (atomWidth o)).map fun i => (atomAt o ea + i, true), true, 1⟩

/-- The bytes in range. -/
def atomLive : List Nat := (List.range (atomWidth o)).filter fun i => partIn s win (atomPart o ea) (atomAt o ea + i)

/-- The old value, and what the operation makes of it. -/
def atomOld : Nat := leNat ((List.range (atomWidth o)).map fun i => s.nearByte (atomAt o ea + i))
def atomResult : Nat × Bool × Flags :=
  atomApply (o.mod.extractLsb' 0 4).toNat (o.mod.getLsbD 4) (atomOld o s ea) (((s.cur.row o.row.toNat).extractLsb' 0 64).toNat % 2 ^ (8 * atomWidth o))
    (((s.cur.row o.row.toNat).extractLsb' 64 64).toNat % 2 ^ (8 * atomWidth o))

/-- The atomic is of an own-slice buffer. -/
def atomRefused : Prop := partTarget s.ix.core (atomPart o ea) = s.ix.core ∧ s.inBuffer ((atomLive o s ea win).map (atomAt o ea + ·)) = true

/-- The atomic's access of its bank. -/
def atomAcc : Acc :=
  { op := s.nextId, kind := .core, core := s.ix.core, slot := s.ix.slot, addr := s.ix.addr, issued := s.clock, stamp := s.cur.tcyc,
    cycle := partBank s (atomPart o ea), target := partTarget s.ix.core (atomPart o ea), banks := [atomAt o ea / 2 ^ 18 % 16], units := 1, write := true,
    hops := if s.ix.core = partTarget s.ix.core (atomPart o ea) then [] else routeLinks s.ix.core (partTarget s.ix.core (atomPart o ea)) s.clock,
    remote := s.ix.core != partTarget s.ix.core (atomPart o ea), bytes := (atomPart o ea).bytes.map (·.1), atom := true }

variable {o s ea win}

theorem liveBytes_eq : ((atomPart o ea).bytes.filter fun b => partIn s win (atomPart o ea) b.1) = (atomLive o s ea win).map fun i => (atomAt o ea + i, true) :=
  List.filter_map

/-- ATOM once its address is known, in the cases of its checks. -/
theorem opAtom_eq (base : lBase s o o.off.toInt = .ok (ea, win)) : opAtom o s s =
    if (decide (partTarget s.ix.core (atomPart o ea) = s.ix.core) && s.inBuffer ((atomLive o s ea win).map (atomAt o ea + ·))) = true then .error (trapAt s 0x05 0)
    else match checkParts s win [atomPart o ea] with
      | .error e => .error e
      | .ok oor =>
        if (atomLive o s ea win).length < atomWidth o then
          .ok ((openAccess s oor).addWrite (laneWrite o.row 0 [(0, 0), (1, 0)]) (partLat s (atomPart o ea))).effect
        else .ok (((((openAccess s oor).addMem (s.clock + partLat s (atomPart o ea)) (partBank s (atomPart o ea)) s.nextId
            ((leBytes (atomWidth o) (atomResult o s ea).1).zipIdx.map fun b => (nearBase + atomAt o ea + b.2, b.1)) s.ix.core).addWrite
          (laneWrite o.row 0 [(0, atomOld o s ea), (1, if (atomResult o s ea).2.1 then 1 else 0)]) (partLat s (atomPart o ea)) (atomResult o s ea).2.2 s.nextId).addAcc
          (atomAcc o s ea)).effect) := by
  have addrs : ((atomPart o ea).bytes.filter fun b => partIn s win (atomPart o ea) b.1).map (·.1) = (atomLive o s ea win).map (atomAt o ea + ·) := by
    rw [liveBytes_eq, List.map_map]
    rfl
  have count : ((atomPart o ea).bytes.filter fun b => partIn s win (atomPart o ea) b.1).length = (atomLive o s ea win).length := by
    rw [liveBytes_eq, List.length_map]
  unfold opAtom
  rw [base, ← addrs, ← count]
  rfl

theorem opAtom_of_refused (base : lBase s o o.off.toInt = .ok (ea, win)) (refused : atomRefused o s ea win) : opAtom o s s = .error (trapAt s 0x05 0) := by
  obtain ⟨own, buffer⟩ := refused
  rw [opAtom_eq base]
  exact if_pos (by rw [decide_eq_true own, buffer]; rfl)

theorem not_refused (allowed : ¬atomRefused o s ea win) :
    ¬(decide (partTarget s.ix.core (atomPart o ea) = s.ix.core) && s.inBuffer ((atomLive o s ea win).map (atomAt o ea + ·))) = true := by
  rwa [Bool.and_eq_true, decide_eq_true_iff]

theorem opAtom_of_error (base : lBase s o o.off.toInt = .ok (ea, win)) (allowed : ¬atomRefused o s ea win) {x : Trap}
    (checks : checkParts s win [atomPart o ea] = .error x) : opAtom o s s = .error x := by
  rw [opAtom_eq base, if_neg (not_refused allowed), checks]

/-- Out of range an atomic writes its row alone. -/
theorem opAtom_of_outside (base : lBase s o o.off.toInt = .ok (ea, win)) (allowed : ¬atomRefused o s ea win) {oor : Option (Nat × Bool)}
    (checks : checkParts s win [atomPart o ea] = .ok oor) (outside : (atomLive o s ea win).length < atomWidth o) :
    opAtom o s s = .ok ((openAccess s oor).addWrite (laneWrite o.row 0 [(0, 0), (1, 0)]) (partLat s (atomPart o ea))).effect := by
  rw [opAtom_eq base, if_neg (not_refused allowed), checks]
  exact if_pos outside

variable (o s ea) in
/-- The bytes that an atomic writes. -/
def atomData : List (Nat × Byte) :=
  (List.range (atomWidth o)).map fun k => (nearBase + (atomAt o ea + k), BitVec.ofNat 8 ((atomResult o s ea).1 / 2 ^ (8 * k)))

variable (o s ea) in
/-- An atomic in range: its memory, row and bank. -/
def atomInside (oor : Option (Nat × Bool)) : State :=
  (((openAccess s oor).addMem (s.clock + partLat s (atomPart o ea)) (partBank s (atomPart o ea)) s.nextId (atomData o s ea) s.ix.core).addWrite
    (laneWrite o.row 0 [(0, atomOld o s ea), (1, if (atomResult o s ea).2.1 then 1 else 0)]) (partLat s (atomPart o ea)) (atomResult o s ea).2.2 s.nextId).addAcc
    (atomAcc o s ea)

theorem opAtom_of_inside (base : lBase s o o.off.toInt = .ok (ea, win)) (allowed : ¬atomRefused o s ea win) {oor : Option (Nat × Bool)}
    (checks : checkParts s win [atomPart o ea] = .ok oor) (inside : ¬(atomLive o s ea win).length < atomWidth o) :
    opAtom o s s = .ok (atomInside o s ea oor).effect := by
  have data : ((leBytes (atomWidth o) (atomResult o s ea).1).zipIdx.map fun b => (nearBase + atomAt o ea + b.2, b.1)) = atomData o s ea := by
    rw [zipIdx_leBytes]
    exact List.map_congr_left fun k _ => by rw [Nat.add_assoc]
  rw [opAtom_eq base, if_neg (not_refused allowed), checks, data]
  exact if_neg inside

theorem atomWidth_pos : 0 < atomWidth o := by
  unfold atomWidth atomBytes
  split <;> decide

theorem memPend_addMem_atom (u : State) (vis bank op store : Nat) :
    (u.addMem vis bank op (atomData o s ea) store).memPend = u.memPend ++ [⟨vis, bank, op, store, atomData o s ea⟩] := by
  obtain ⟨memPend, -, -⟩ := State.addMem_spec u vis bank op (atomData o s ea) store
  refine memPend.trans (if_neg ?_)
  have pos : atomWidth o ≠ 0 := Nat.pos_iff_ne_zero.mp atomWidth_pos
  simpa [atomData] using pos

theorem bytes_atomAcc : (atomAcc o s ea).bytes = (List.range (atomWidth o)).map (atomAt o ea + ·) := by
  unfold atomAcc atomPart
  rw [List.map_map]
  rfl

/-- What ATOM leaves where its checks pass. -/
theorem atom_spec (base : lBase s o o.off.toInt = .ok (ea, win)) (allowed : ¬atomRefused o s ea win) {oor : Option (Nat × Bool)}
    (checks : checkParts s win [atomPart o ea] = .ok oor) : ∃ t, exec (.atom o) s = .next t ∧ Closes s t.cur ∧
      (∀ b, memByte t.mem b = memByte s.mem b) ∧ (∀ k, k ≠ s.ix.core → t.core k = s.core k) ∧ t.cur.s = s.cur.s ∧ t.cur.rows = s.cur.rows ∧
      ((atomLive o s ea win).length < atomWidth o →
        t.cur.pend = s.cur.pend ++ [inFlight s (laneWrite o.row 0 [(0, 0), (1, 0)]) (partLat s (atomPart o ea)) 0 0] ∧ t.accs = s.accs ∧ t.memPend = s.memPend) ∧
      (atomWidth o ≤ (atomLive o s ea win).length →
        t.cur.pend = s.cur.pend ++ [inFlight s (laneWrite o.row 0 [(0, atomOld o s ea), (1, if (atomResult o s ea).2.1 then 1 else 0)])
          (partLat s (atomPart o ea)) (atomResult o s ea).2.2 s.nextId] ∧
        t.memPend = s.memPend ++ [⟨s.clock + partLat s (atomPart o ea), partBank s (atomPart o ea), s.nextId, s.ix.core, atomData o s ea⟩] ∧
        t.accs = s.accs ++ [atomAcc o s ea]) := by
  obtain ⟨noted, accs, memPend⟩ := openAccess_spec s oor
  by_cases outside : (atomLive o s ea win).length < atomWidth o
  · obtain ⟨closes, mem, others, sregs, rows, pend, accs', memPend'⟩ := effect_of_addWrite noted (laneWrite o.row 0 [(0, 0), (1, 0)])
      (partLat s (atomPart o ea)) 0 0 (v := (openAccess s oor).addWrite (laneWrite o.row 0 [(0, 0), (1, 0)]) (partLat s (atomPart o ea))) rfl
    refine ⟨_, runOp_ok (f := opAtom o) (opAtom_of_outside base allowed checks outside), closes, mem, others, sregs, rows, fun _ => ⟨pend, ?_, memPend'.trans memPend⟩,
      fun inside => absurd outside (Nat.not_lt.mpr inside)⟩
    rw [accs', State.addWrite_eq]
    exact accs
  · have listed : (atomInside o s ea oor).accs = s.accs ++ [atomAcc o s ea] := by
      unfold atomInside
      rw [addAcc_eq, State.addWrite_eq, State.addMem_eq, accs]
    obtain ⟨closes, mem, others, sregs, rows, pend, accs', memPend'⟩ := effect_of_addWrite (noted.addMem _ _ _ _ _)
      (laneWrite o.row 0 [(0, atomOld o s ea), (1, if (atomResult o s ea).2.1 then 1 else 0)]) (partLat s (atomPart o ea)) (atomResult o s ea).2.2 s.nextId
      (v := atomInside o s ea oor) (addAcc_frame _ _)
    exact ⟨_, runOp_ok (f := opAtom o) (opAtom_of_inside base allowed checks outside), closes, mem, others, sregs, rows, fun inside => absurd inside outside,
      fun _ => ⟨pend, by rw [memPend', memPend_addMem_atom, memPend], accs'.trans listed⟩⟩

end

/-- Settles O23: `opAtom_eq` for the checks, `atom_spec` for the effects, and the operations one by one. -/
theorem atomicInstruction : Obligations.AtomicInstruction := by
  unfold Obligations.AtomicInstruction
  refine ⟨fun o s ea win base => ?_, fun m x y hm hx hy => ?_, fun m x y hm hx hy => ?_⟩
  · have width : (if o.mod.getLsbD 4 = true ∨ (o.mod.extractLsb' 0 4).toNat = 1 then 8 else 4) = atomWidth o := by
      unfold atomWidth atomBytes
      simp
    dsimp only
    rw [width]
    refine ⟨fun own buffer => runOp_traps (f := opAtom o) (opAtom_of_refused base ⟨own, buffer⟩), fun allowed =>
      ⟨fun x checks => runOp_error (f := opAtom o) (opAtom_of_error base allowed checks), fun oor checks => ?_⟩⟩
    obtain ⟨t, done, closes, mem, others, sregs, rows, outside, inside⟩ := atom_spec base allowed checks
    refine ⟨t, done, closes, mem, others, sregs, rows, outside, fun all => ?_⟩
    obtain ⟨pend, memPend, accs⟩ := inside all
    exact ⟨pend, memPend, atomAcc o s ea, accs, rfl, rfl, rfl, rfl, rfl, bytes_atomAcc⟩
  · obtain ⟨min, max⟩ := atomApply_minmax hm hx y
    intro half less
    refine ⟨rfl, rfl, ?_, fun below => ⟨?_, ?_⟩, fun above => ⟨?_, ?_⟩, fun same => ⟨?_, ?_⟩, rfl, rfl, rfl, rfl, rfl, rfl, rfl, atomApply_wrap m x y, rfl⟩
    · have low : half 0 = bf16.add .ne (m % 2 ^ 16) (x % 2 ^ 16) := by simp only [half, Nat.mul_zero, Nat.pow_zero, Nat.div_one]
      have high : half 1 = bf16.add .ne (m / 2 ^ 16 % 2 ^ 16) (x / 2 ^ 16 % 2 ^ 16) := by simp only [half, Nat.mul_one]
      rw [low, high]
      rfl
    · rw [min, if_pos below]
    · rw [max, if_neg (lt_asymm below)]
    · rw [min, if_neg (lt_asymm above)]
    · rw [max, if_pos above]
    · rw [min, if_neg (by rw [same]; exact lt_irrefl _)]
    · rw [max, if_neg (by rw [same]; exact lt_irrefl _)]
  · exact ⟨rfl, rfl, rfl, rfl, rfl, rfl⟩

end Sys2Proof.Claim
end

section
namespace Sys2Proof.Claim
open Sys2Proof Sys2Proof.Machine

/-! Scalar results: the shape of an integer instruction, and its arithmetic (R91, R92, R94). -/

/-- An integer instruction under a true predicate is one write of its result (R91). -/
theorem runOp_aluOp {o : SOps} {s : State} (on : s.cur.holds o.p = true) {lat : Nat} {f : Word → Word → Word} {v : Word}
    (value : f (s.cur.sreg o.sa) (s.srcInt o.src) = v) : runOp (aluOp o lat f) s = .next (s.writeS o.sd v lat) := by
  subst value
  exact runOp_ok (if_pos on)

theorem mulh_eq (a b : Word) : BitVec.ofInt 64 (a.toInt * b.toInt / 2 ^ 64) = (a.signExtend 128 * b.signExtend 128).extractLsb' 64 64 := by
  have product : a.signExtend 128 * b.signExtend 128 = BitVec.ofInt 128 (a.toInt * b.toInt) := (BitVec.ofInt_mul a.toInt b.toInt).symm
  refine BitVec.eq_of_toNat_eq ?_
  rw [product, BitVec.extractLsb'_toNat, Nat.shiftRight_eq_div_pow, BitVec.toNat_ofInt, BitVec.toNat_ofInt]
  generalize a.toInt * b.toInt = z
  omega

theorem mulhu_eq (a b : Word) : BitVec.ofNat 64 (a.toNat * b.toNat / 2 ^ 64) = (a.zeroExtend 128 * b.zeroExtend 128).extractLsb' 64 64 := by
  have product : (a.zeroExtend 128 * b.zeroExtend 128).toNat = a.toNat * b.toNat := by
    have small : a.toNat * b.toNat < 2 ^ 64 * 2 ^ 64 := Nat.mul_lt_mul'' a.isLt b.isLt
    rw [BitVec.toNat_mul, BitVec.toNat_setWidth_of_le (by decide), BitVec.toNat_setWidth_of_le (by decide), Nat.mod_eq_of_lt (by omega)]
  refine BitVec.eq_of_toNat_eq ?_
  rw [BitVec.extractLsb'_toNat, Nat.shiftRight_eq_div_pow, product, BitVec.toNat_ofNat]

/-- A shift count is the low six bits of sb (R91). -/
theorem shiftCount_eq (b : Word) : (b &&& 63#64).toNat = b.toNat % 64 := Nat.and_two_pow_sub_one_eq_mod b.toNat 6

theorem rot_eq (a b : Word) : a.rotateLeft (b.toNat % 64) = (a <<< (b &&& 63#64)) ||| (a >>> (64 - (b &&& 63#64).toNat)) := by
  rw [BitVec.rotateLeft_def, BitVec.shiftLeft_eq', shiftCount_eq, Nat.mod_mod]

/-- Minimum and maximum by the comparison of the model, which prefers the other operand where both are equal. -/
theorem slt_min_eq (a b : Word) : (if b.slt a then b else a) = if a.toInt ≤ b.toInt then a else b := by
  simp only [BitVec.slt_iff_toInt_lt, ← not_le, ite_not]

theorem slt_max_eq (a b : Word) : (if a.slt b then b else a) = if a.toInt ≤ b.toInt then b else a := by
  simp only [BitVec.slt_iff_toInt_lt]
  split
  next less => rw [if_pos less.le]
  next more =>
    split
    next le => exact BitVec.eq_of_toInt_eq (le_antisymm le (not_lt.mp more))
    next => rfl

theorem ult_min_eq (a b : Word) : (if b.ult a then b else a) = if a.toNat ≤ b.toNat then a else b := by
  simp only [BitVec.ult_iff_toNat_lt, ← not_le, ite_not]

theorem ult_max_eq (a b : Word) : (if a.ult b then b else a) = if a.toNat ≤ b.toNat then b else a := by
  simp only [BitVec.ult_iff_toNat_lt]
  split
  next less => rw [if_pos less.le]
  next more =>
    split
    next le => exact BitVec.eq_of_toNat_eq (le_antisymm le (not_lt.mp more))
    next => rfl

/-- Settles O2: each instruction is one write of its result. -/
theorem scalarIntegerResults : Obligations.ScalarIntegerResults := by
  unfold Obligations.ScalarIntegerResults intTable
  intro o s on
  simp only [List.forall_mem_cons]
  refine ⟨runOp_aluOp on rfl, runOp_aluOp on rfl, runOp_aluOp on rfl, runOp_aluOp on (mulh_eq _ _), runOp_aluOp on (mulhu_eq _ _), runOp_aluOp on rfl,
    runOp_aluOp on rfl, runOp_aluOp on rfl, runOp_aluOp on rfl, runOp_aluOp on ?_, runOp_aluOp on ?_, runOp_aluOp on ?_, runOp_aluOp on (rot_eq _ _),
    runOp_aluOp on (slt_min_eq _ _), runOp_aluOp on (slt_max_eq _ _), runOp_aluOp on (ult_min_eq _ _), runOp_aluOp on (ult_max_eq _ _), List.forall_mem_nil _⟩
  · rw [BitVec.shiftLeft_eq', shiftCount_eq]
  · rw [BitVec.ushiftRight_eq', shiftCount_eq]
  · rw [BitVec.sshiftRight_eq', shiftCount_eq]

/-! Division: the overflow is the one quotient of R92 that does not fit, and the formula gives R92's result for it. -/

theorem divSigned_eq (a b : Word) : divSigned a b =
    if b = 0 then 0xFFFFFFFFFFFFFFFF#64 else if a = 0x8000000000000000#64 ∧ b = 0xFFFFFFFFFFFFFFFF#64 then 0x8000000000000000#64
    else BitVec.ofInt 64 (a.toInt.tdiv b.toInt) := by
  refine if_congr Iff.rfl rfl ?_
  split
  next overflow => obtain ⟨rfl, rfl⟩ := overflow; rfl
  next => rfl

theorem remSigned_eq (a b : Word) : remSigned a b =
    if b = 0 then a else if a = 0x8000000000000000#64 ∧ b = 0xFFFFFFFFFFFFFFFF#64 then 0
    else BitVec.ofInt 64 (a.toInt - b.toInt * a.toInt.tdiv b.toInt) := by
  refine if_congr Iff.rfl rfl ?_
  split
  next overflow => obtain ⟨rfl, rfl⟩ := overflow; rfl
  next => rw [Int.tmod_def]

/-- Settles O3: the division instructions have the shape of the integer ones, and raise nothing. -/
theorem divisionResults : Obligations.DivisionResults := by
  unfold Obligations.DivisionResults divTable
  intro o s on
  simp only [List.forall_mem_cons]
  exact ⟨runOp_aluOp on (divSigned_eq _ _), runOp_aluOp on rfl, runOp_aluOp on (remSigned_eq _ _), runOp_aluOp on rfl, List.forall_mem_nil _⟩

/-! LIT's four forms (R23, R94). -/

/-- The word that LIT gives, by its modifier. -/
def litWord (s : State) (o : SOps) : Word :=
  match o.mod.toNat with
  | 0 => (lit32 s o.src.field.toNat).signExtend 64
  | 1 => BitVec.ofNat 64 (s.lit o.src.field.toNat)
  | 2 => BitVec.ofNat 64 (s.lit64 o.src.field.toNat)
  | _ => BitVec.ofNat 64 (s.lit o.src.field.toNat * 2 ^ 32 + loHalf (s.cur.sreg o.sd))

theorem exec_lit {o : SOps} {s : State} (on : s.cur.holds o.p = true) {v : Word} (value : litWord s o = v) :
    exec (.lit o) s = .next (s.writeS o.sd v 1) := by
  subst value
  exact runOp_ok (f := opLit o) (if_pos on)

theorem toNat_field_lit (i : BitVec 3) : (Src.lit i).field.toNat = i.toNat := by
  unfold Src.field
  rw [BitVec.toNat_append]
  simp

theorem toNat_lit32 {s : State} {i : Nat} (small : s.lit i < 2 ^ 32) : (lit32 s i).toNat = s.lit i := by
  unfold lit32
  rw [BitVec.toNat_ofNat, Nat.mod_eq_of_lt small]

/-- Two words side by side. -/
theorem toNat_append_words (x y : BitVec 32) : (x ++ y : Word).toNat = x.toNat * 2 ^ 32 + y.toNat := by
  rw [BitVec.toNat_append, ← Nat.shiftLeft_add_eq_or_of_lt y.isLt, Nat.shiftLeft_eq]

theorem litWord_signed {s : State} {o : SOps} {i : BitVec 3} (src : o.src = .lit i) (mode : o.mod = 0) :
    litWord s o = (lit32 s i.toNat).signExtend 64 := by
  unfold litWord
  rw [src, toNat_field_lit, mode]
  rfl

theorem litWord_unsigned {s : State} {o : SOps} {i : BitVec 3} (src : o.src = .lit i) (mode : o.mod = 1) (small : s.lit i.toNat < 2 ^ 32) :
    litWord s o = (lit32 s i.toNat).zeroExtend 64 := by
  unfold litWord
  rw [src, toNat_field_lit, mode]
  refine BitVec.eq_of_toNat_eq ?_
  rw [BitVec.toNat_setWidth, toNat_lit32 small]
  exact BitVec.toNat_ofNat _ _

theorem litWord_pair {s : State} {o : SOps} {i : BitVec 3} (src : o.src = .lit i) (mode : o.mod = 2) (low : s.lit i.toNat < 2 ^ 32)
    (high : s.lit (i.toNat + 1) < 2 ^ 32) : litWord s o = lit32 s (i.toNat + 1) ++ lit32 s i.toNat := by
  unfold litWord
  rw [src, toNat_field_lit, mode]
  refine BitVec.eq_of_toNat_eq ?_
  rw [toNat_append_words, toNat_lit32 low, toNat_lit32 high]
  refine (BitVec.toNat_ofNat _ _).trans ?_
  unfold State.lit64
  omega

theorem litWord_high {s : State} {o : SOps} {i : BitVec 3} (src : o.src = .lit i) (mode : o.mod = 3) (small : s.lit i.toNat < 2 ^ 32) :
    litWord s o = lit32 s i.toNat ++ (s.cur.sreg o.sd).extractLsb' 0 32 := by
  have half : loHalf (s.cur.sreg o.sd) = ((s.cur.sreg o.sd).extractLsb' 0 32).toNat := (toNat_field _ 0 32).symm
  have fits := ((s.cur.sreg o.sd).extractLsb' 0 32).isLt
  unfold litWord
  rw [src, toNat_field_lit, mode, half]
  refine BitVec.eq_of_toNat_eq ?_
  rw [toNat_append_words, toNat_lit32 small]
  refine (BitVec.toNat_ofNat _ _).trans (Nat.mod_eq_of_lt ?_)
  omega

/-- SEL's predicate is the one that the modifier names, p0 to p7. -/
theorem ofNat_modifier (m : BitVec 3) : BitVec.ofNat 4 m.toNat = 0#1 ++ m := by
  refine BitVec.eq_of_toNat_eq ?_
  rw [BitVec.toNat_append]
  have := m.isLt
  simp
  omega

/-- Settles O4: MOV and SEL, and LIT's four forms. -/
theorem scalarSelectAndLiteral : Obligations.ScalarSelectAndLiteral := by
  unfold Obligations.ScalarSelectAndLiteral
  intro o s on
  refine ⟨runOp_aluOp on rfl, ?_, fun i src => ⟨fun mode => ?_, fun mode small => ?_, fun mode low high => ?_, fun mode small => ?_⟩⟩
  · rw [ofNat_modifier]
    exact runOp_ok (f := opSel o) (if_pos on)
  · exact exec_lit on (litWord_signed src mode)
  · exact exec_lit on (litWord_unsigned src mode small)
  · exact exec_lit on (litWord_pair src mode low high)
  · exact exec_lit on (litWord_high src mode small)

end Sys2Proof.Claim
end

section
namespace Sys2Proof.Claim
open Sys2Proof Sys2Proof.Machine

/-! The bit instructions, bit by bit (R95). -/

/-- Leading zeros: nothing from the length of a number on, and its first bit below. -/
theorem testBit_of_bitLen_le {n i : Nat} (h : bitLen n ≤ i) : n.testBit i = false := by
  unfold bitLen at h
  split at h
  next zero => rw [zero, Nat.zero_testBit]
  next => exact Nat.testBit_lt_two_pow (Nat.lt_log2_self.trans_le (Nat.pow_le_pow_right (by decide) h))

theorem testBit_bitLen {n : Nat} (h : n ≠ 0) : n.testBit (bitLen n - 1) = true := by
  unfold bitLen
  rw [if_neg h]
  exact Nat.testBit_log2 h

theorem bitLen_le (a : Word) : bitLen a.toNat ≤ 64 := by
  unfold bitLen
  split
  · omega
  next some => exact (Nat.log2_lt some).mpr a.isLt

theorem clzWord_spec (a : Word) : ∃ n : Nat, n ≤ 64 ∧ (∀ i, i < n → a.getMsbD i = false) ∧ (n < 64 → a.getMsbD n = true) ∧
    clzWord a = BitVec.ofNat 64 n := by
  have len := bitLen_le a
  refine ⟨64 - bitLen a.toNat, Nat.sub_le _ _, fun i hi => ?_, fun hn => ?_, rfl⟩
  · rw [BitVec.getMsbD_eq_getLsbD, BitVec.getLsbD, testBit_of_bitLen_le (by omega), Bool.and_false]
  · have some : a.toNat ≠ 0 := fun zero => by rw [zero] at hn; exact absurd hn (by decide)
    have place : 64 - 1 - (64 - bitLen a.toNat) = bitLen a.toNat - 1 := by omega
    rw [BitVec.getMsbD_eq_getLsbD, BitVec.getLsbD, place, testBit_bitLen some, decide_eq_true hn]
    rfl

theorem popWord_eq (a : Word) : popWord a = BitVec.ofNat 64 ((List.range 64).filter (a.getLsbD ·)).length :=
  congrArg (BitVec.ofNat 64) List.countP_eq_length_filter

/-- A field read as a signed number repeats its top bit. -/
theorem getLsbD_ofInt_signed {w i : Nat} (v : Nat) (hw : 0 < w) (hi : i < 64) :
    (BitVec.ofInt 64 (signed w v)).getLsbD i = v.testBit (min i (w - 1)) := by
  have read : signed w v = (BitVec.ofNat w v).toInt := by
    have double : 2 ^ w = 2 * 2 ^ (w - 1) := by rw [← Nat.pow_succ', Nat.succ_eq_add_one, Nat.sub_add_cancel hw]
    unfold signed
    rw [BitVec.toInt_eq_toNat_cond, BitVec.toNat_ofNat]
    exact if_congr (by omega) rfl rfl
  have extended : BitVec.ofInt 64 (signed w v) = (BitVec.ofNat w v).signExtend 64 := congrArg (BitVec.ofInt 64) read
  rw [extended, BitVec.getLsbD_signExtend, decide_eq_true hi, Bool.true_and, BitVec.msb_eq_getLsbD_last, BitVec.getLsbD_ofNat, BitVec.getLsbD_ofNat]
  split
  next low => rw [Nat.min_eq_left (by omega), decide_eq_true low, Bool.true_and]
  next high => rw [Nat.min_eq_right (by omega), decide_eq_true (by omega), Bool.true_and]

theorem testBit_bitsFrom (n pos w i : Nat) : (n / 2 ^ pos % 2 ^ w).testBit i = (decide (i < w) && n.testBit (pos + i)) := by
  rw [Nat.testBit_mod_two_pow, Nat.testBit_div_two_pow, Nat.add_comm]

theorem getLsbD_bfxWord (sgn : Bool) (a b : Word) {i : Nat} (hi : i < 64) :
    let top := min (bfWidth b) (64 - bfPos b)
    (bfxWord sgn a b).getLsbD i = if i < top then a.getLsbD (bfPos b + i) else sgn && a.getLsbD (bfPos b + top - 1) := by
  intro top
  have place : bfPos b < 64 := Nat.mod_lt _ (by decide)
  have width : 0 < bfWidth b := Nat.succ_pos _
  have pos : 0 < top := Nat.lt_min.mpr ⟨width, by omega⟩
  cases sgn with
  | true =>
    have bits : (bfxWord true a b).getLsbD i = (a.toNat / 2 ^ bfPos b % 2 ^ bfWidth b).testBit (min i (top - 1)) := getLsbD_ofInt_signed _ pos hi
    rw [bits, testBit_bitsFrom, decide_eq_true (by omega), Bool.true_and, Bool.true_and]
    split
    next inside => rw [Nat.min_eq_left (by omega)]; rfl
    next beyond => rw [Nat.min_eq_right (by omega), Nat.add_sub_assoc pos]; rfl
  | false =>
    have bits : (bfxWord false a b).getLsbD i = (decide (i < bfWidth b) && a.getLsbD (bfPos b + i)) := by
      refine (BitVec.getLsbD_ofNat _ _ _).trans ?_
      rw [decide_eq_true hi, Bool.true_and, testBit_bitsFrom]
      rfl
    rw [bits, Bool.false_and]
    split
    next inside => rw [decide_eq_true (by omega), Bool.true_and]
    next beyond =>
      by_cases wide : i < bfWidth b
      · rw [BitVec.getLsbD_of_ge _ _ (by omega), Bool.and_false]
      · rw [decide_eq_false wide, Bool.false_and]

theorem getLsbD_bfiWord (old a b : Word) {i : Nat} (hi : i < 64) :
    (bfiWord old a b).getLsbD i = if bfPos b ≤ i ∧ i < bfPos b + bfWidth b then a.getLsbD (i - bfPos b) else old.getLsbD i := by
  have mask : (BitVec.ofNat 64 ((2 ^ bfWidth b - 1) * 2 ^ bfPos b)).getLsbD i = decide (bfPos b ≤ i ∧ i < bfPos b + bfWidth b) := by
    rw [BitVec.getLsbD_ofNat, decide_eq_true hi, Bool.true_and, Nat.testBit_mul_two_pow, Nat.testBit_two_pow_sub_one, ← Bool.decide_and]
    exact decide_eq_decide.mpr (by omega)
  unfold bfiWord
  rw [BitVec.getLsbD_or, BitVec.getLsbD_and, BitVec.getLsbD_and, BitVec.getLsbD_not, mask, BitVec.getLsbD_shiftLeft, decide_eq_true hi]
  split
  next inside => simp [inside]
  next outside => simp [outside]

theorem extWidth_eq {m : BitVec 3} (legal : m.toNat ≤ 2) : extWidth m = 8 * 2 ^ m.toNat := by
  revert m
  decide

theorem getLsbD_sextWord {m : BitVec 3} (legal : m.toNat ≤ 2) (a : Word) {i : Nat} (hi : i < 64) :
    (BitVec.ofInt 64 (signed (extWidth m) a.toNat)).getLsbD i = a.getLsbD (min i (8 * 2 ^ m.toNat - 1)) := by
  rw [extWidth_eq legal]
  exact getLsbD_ofInt_signed _ (by positivity) hi

theorem getLsbD_zextWord {m : BitVec 3} (legal : m.toNat ≤ 2) (a : Word) {i : Nat} (hi : i < 64) :
    (BitVec.ofNat 64 (a.toNat % 2 ^ extWidth m)).getLsbD i = (decide (i < 8 * 2 ^ m.toNat) && a.getLsbD i) := by
  rw [extWidth_eq legal, BitVec.getLsbD_ofNat, decide_eq_true hi, Bool.true_and, Nat.testBit_mod_two_pow]
  rfl

/-! CMP and CMPU (R93). -/

/-- A comparison under a true predicate is one write of a predicate. -/
theorem runOp_cmpOp {o : SOps} {s : State} (on : s.cur.holds o.p = true) (f : Word → Word → Bool) :
    runOp (cmpOp o f) s = .next (s.writeP (o.sd.extractLsb' 0 4) (f (s.cur.sreg o.sa) (s.srcInt o.src)) 1) :=
  runOp_ok (if_pos on)

/-- The six conditions of a trichotomous order. -/
theorem cmpCond_iff {code : BitVec 3} (legal : code.toNat ≤ 5) {e l : Bool} {eq lt gt : Prop} (he : e = true ↔ eq) (hl : l = true ↔ lt)
    (hg : gt ↔ ¬lt ∧ ¬eq) : cmpCond code e l = true ↔
      (code = 0 ∧ eq) ∨ (code = 1 ∧ ¬eq) ∨ (code = 2 ∧ lt) ∨ (code = 3 ∧ ¬lt) ∨ (code = 4 ∧ ¬gt) ∨ (code = 5 ∧ gt) := by
  rw [hg, ← he, ← hl]
  clear he hl hg
  revert code e l
  decide

/-- Settles O5: the words bit by bit, and the conditions of the two orders. -/
theorem scalarBitAndCompareResults : Obligations.ScalarBitAndCompareResults := by
  unfold Obligations.ScalarBitAndCompareResults
  refine ⟨fun o s on => ?_, fun o s on legal => ?_⟩
  · intro a b pos width top
    have hpos : bfPos b = pos := (toNat_field b 0 6).symm
    have hwidth : bfWidth b = width := congrArg (· + 1) (toNat_field b 8 6).symm
    have bfx (i : Nat) := @getLsbD_bfxWord (o.mod.getLsbD 0) a b i
    have bfi (i : Nat) := @getLsbD_bfiWord (s.cur.sreg o.sd) a b i
    rw [hpos, hwidth] at bfx bfi
    obtain ⟨n, le, zeros, one, clz⟩ := clzWord_spec a
    exact ⟨⟨n, le, zeros, one, runOp_aluOp on clz⟩, runOp_aluOp on (popWord_eq _), ⟨_, bfx, runOp_aluOp on rfl⟩,
      ⟨_, bfi, runOp_ok (f := opBfi o) (if_pos on)⟩, fun legal =>
      ⟨⟨_, fun _ => getLsbD_sextWord legal a, runOp_aluOp on rfl⟩, ⟨_, fun _ => getLsbD_zextWord legal a, runOp_aluOp on rfl⟩⟩⟩
  · intro a b cond
    have same : (a == b) = true ↔ a = b := beq_iff_eq
    exact ⟨⟨_, cmpCond_iff legal same BitVec.slt_iff_toInt_lt (by rw [← BitVec.toInt_inj]; omega), runOp_cmpOp on _⟩,
      ⟨_, cmpCond_iff legal same BitVec.ult_iff_toNat_lt (by rw [← BitVec.toNat_inj]; omega), runOp_cmpOp on _⟩⟩

end Sys2Proof.Claim
end

section
namespace Sys2Proof.Claim
open Sys2Proof Sys2Proof.Machine

/-! Scalar floating point (R96 to R100). -/

/-- An FP instruction under a true predicate is one write of both halves' results, with the flags of both (R96). -/
theorem runOp_fpOp {o : SOps} {s : State} (on : s.cur.holds o.p = true) (lat : Nat) (f : Nat → Nat → Nat → Nat × Flags) :
    runOp (fpOp o lat f) s = .next (s.writeS o.sd (fpPair s o f).1 lat (fpPair s o f).2) := by
  refine runOp_ok ((if_pos on).trans ?_)
  unfold fpPair loHalf hiHalf
  dsimp only
  rw [Nat.add_comm]

/-- The four conditions of FCMP, and which of them signal on quiet NaNs (R98). -/
theorem fcmpHalf_eq (m : BitVec 2) (a b : Nat) : fcmpHalf m.toNat a b = fcmpOne m.toNat a b := by
  obtain h | h | h | h : m.toNat = 0 ∨ m.toNat = 1 ∨ m.toNat = 2 ∨ m.toNat = 3 := by omega
  all_goals
    rw [h]
    rfl

/-- FCMP with the results of both halves named (R98). -/
theorem opFcmp_eq {o : SOps} {s : State} (on : s.cur.holds o.p = true) :
    let lo := fcmpHalf (o.mod.extractLsb' 1 2).toNat (loHalf (s.cur.sreg o.sa)) (loHalf (s.srcFp o.src))
    let hi := if o.mod.getLsbD 0 then fcmpHalf (o.mod.extractLsb' 1 2).toNat (hiHalf (s.cur.sreg o.sa)) (hiHalf (s.srcFp o.src)) else (true, 0)
    opFcmp o s s = .ok (s.writeP (o.sd.extractLsb' 0 4)
      (if o.mod.getLsbD 0 then (lo.1 != o.sd.getLsbD 4) && (hi.1 != o.sd.getLsbD 4) else lo.1 != o.sd.getLsbD 4) 4 (lo.2 ||| hi.2)) :=
  if_pos on

/-- Settles O6: the FP instructions of one shape, and FCMP in its two forms. -/
theorem scalarFloatResults : Obligations.ScalarFloatResults := by
  unfold Obligations.ScalarFloatResults fpTable
  refine ⟨fun o s on => ?_, fun o s on => ?_⟩
  · simp only [List.forall_mem_cons]
    refine ⟨runOp_fpOp on _ _, runOp_fpOp on _ _, runOp_fpOp on _ _, runOp_fpOp on _ _, runOp_fpOp on _ _, runOp_fpOp on _ _, runOp_fpOp on _ _,
      runOp_fpOp on _ _, runOp_fpOp on _ _, runOp_fpOp on _ _, runOp_fpOp on _ _, List.forall_mem_nil _⟩
  · intro a b cc lo hi inv
    have compared := opFcmp_eq on
    simp only [fcmpHalf_eq] at compared
    refine ⟨fun single => ?_, fun pair => ?_, runOp_ok (f := opFcvt o) (if_pos on)⟩
    · rw [single] at compared
      exact runOp_ok (f := opFcmp o) (compared.trans (congrArg (fun flags => Except.ok (s.writeP _ _ 4 flags)) BitVec.or_zero))
    · rw [pair] at compared
      exact runOp_ok (f := opFcmp o) compared

end Sys2Proof.Claim
end

section
namespace Sys2Proof.Claim
open Sys2Proof Sys2Proof.Machine

/-! Effective addresses of scalar accesses (R101, R103, R143): the own window, windows of other packages, the coherent window, and nothing. -/

theorem windowOf_near {ea : Nat} (near : ea < 2 ^ 32) : ¬2 ^ 40 ≤ ea ∧ windowOf ea = 0 := by
  unfold windowOf
  omega

theorem windowOf_far {ea : Nat} (far : 0 < ea / 2 ^ 32) (last : ea / 2 ^ 32 < 255) : ¬2 ^ 40 ≤ ea ∧ windowOf ea ≠ 255 ∧ windowOf ea ≠ 0 := by
  unfold windowOf
  omega

theorem windowOf_coherent {ea : Nat} (window : ea / 2 ^ 32 = 255) : ¬2 ^ 40 ≤ ea ∧ windowOf ea = 255 := by
  unfold windowOf
  omega

/-- An access that is out of range as a whole: the exception of strict mode, or the record (R143). -/
theorem allOor_strict {s : State} (strict : s.strict s.ix.core = true) (ea : Nat) (write : Bool) :
    allOor s s ea write = .error ⟨0x07, 0, s.ix.slot, some (oorWord ea write s.ix.slot s.cur.tcyc), none⟩ :=
  if_pos strict

theorem allOor_lax {s : State} (lax : s.strict s.ix.core = false) (ea : Nat) (write : Bool) :
    allOor s s ea write = .ok (s.recordOor write (some ea)) := by
  unfold allOor
  rw [lax]
  rfl

/-! The value that a load gives (R101). -/

theorem leNat_lt (l : List Byte) : leNat l < 2 ^ (8 * l.length) := by
  induction l with
  | nil => exact Nat.one_pos
  | cons b l ih =>
    have byte := b.isLt
    rw [List.length_cons, Nat.mul_succ, Nat.pow_add, leNat]
    omega

/-- A negative value of a width that p measures, extended to 64 bits. -/
theorem ofInt_sub_eq {v p : Nat} (small : v < p) (span : p ≤ 2 ^ 64) : BitVec.ofInt 64 ((v : Int) - (p : Int)) = BitVec.ofNat 64 (v + 2 ^ 64 - p) := by
  refine BitVec.eq_of_toNat_eq ?_
  rw [BitVec.toNat_ofInt, BitVec.toNat_ofNat]
  omega

theorem loadWord_eq (sgn : Bool) {l : List Byte} (short : l.length ≤ 8) : loadWord sgn l = extended sgn l.length (leNat l) := by
  have small := leNat_lt l
  have span : 2 ^ (8 * l.length) ≤ 2 ^ 64 := Nat.pow_le_pow_right (by decide) (by omega)
  unfold loadWord extended signed
  rw [Nat.mod_eq_of_lt small]
  cases sgn with
  | false => simp only [Bool.false_and, Bool.false_eq_true, if_false]
  | true =>
    simp only [Bool.true_and, if_true]
    split
    next low => simp only [decide_eq_false (not_le.mpr low), Bool.false_eq_true, if_false, BitVec.ofInt_natCast]
    next high => simp only [decide_eq_true (not_lt.mp high), if_true, ofInt_sub_eq small span]

theorem length_readReq (s : State) (r : Req) : (s.readReq r).length = r.len := by
  unfold State.readReq State.reqBytes
  rw [List.length_map, List.length_map, List.length_range]

theorem sopSize_le (o : SOps) : sopSize o ≤ 8 := Nat.pow_le_pow_right (by decide) (Nat.le_of_lt_succ (o.mod.extractLsb' 0 2).isLt)

/-- The request of a scalar access. -/
def scalarReq (s : State) (o : SOps) (write : Bool) : Req := ⟨scalarEa s o, sopSize o, write, none⟩

/-! SLD and SLDS by the reach of their address (R101 to R103). -/

section
variable {o : SOps} {s : State} (on : s.cur.holds o.p = true) (sgn : Bool)
include on

/-- A load of window 0 is decided by its checks. -/
theorem loadOp_near (near : scalarEa s o < 2 ^ 32) : loadOp o sgn s s = (s.checkReq (scalarReq s o false) (List.range (sopSize o))).map fun oor =>
    (s.beginAccess (scalarReq s o false) oor 0 ((s.liveBytes (scalarReq s o false) (List.range (sopSize o))).map (·.2))).2.writeS o.sd
      (extended sgn (sopSize o) (leNat (s.readReq (scalarReq s o false)))) (s.rowLat s.ix.core (reqTarget s.ix.core (scalarReq s o false))) 0 s.nextId := by
  obtain ⟨inside, window⟩ := windowOf_near near
  have len : (s.readReq (scalarReq s o false)).length = sopSize o := length_readReq s _
  have value := loadWord_eq sgn (l := s.readReq (scalarReq s o false)) (len ▸ sopSize_le o)
  rw [len] at value
  have own : ¬windowOf (scalarEa s o) = 255 := by rw [window]; decide
  rw [← value]
  unfold loadOp
  rw [if_neg (not_off on)]
  dsimp only
  rw [if_neg inside, if_neg own, if_neg (not_not_intro window), scalarReq]
  cases s.checkReq _ _ <;> rfl

theorem loadOp_coherent (window : scalarEa s o / 2 ^ 32 = 255) (inside : scalarEa s o % 2 ^ 32 < 2 ^ 16) :
    loadOp o sgn s s = .ok (s.windowAccess (scalarEa s o % 2 ^ 16) (sopSize o) false 0 o.sd sgn) := by
  obtain ⟨below, is⟩ := windowOf_coherent window
  exact (if_neg (not_off on)).trans ((if_neg below).trans ((if_pos is).trans (if_pos inside)))

/-- A load that reaches nothing writes 0 where strict mode does not stop it. -/
theorem loadOp_nothing (nothing : reachesNothing (scalarEa s o) true) : loadOp o sgn s s =
    (allOor s s (scalarEa s o) false).map fun t => t.writeS o.sd 0 (if scalarEa s o / 2 ^ 32 = 255 then 48 else s.rowLat s.ix.core s.ix.core) := by
  refine (if_neg (not_off on)).trans ?_
  obtain beyond | ⟨window, outside⟩ | ⟨-, far, last⟩ := nothing
  · rw [if_neg (show ¬scalarEa s o / 2 ^ 32 = 255 by omega)]
    exact if_pos beyond
  · obtain ⟨below, is⟩ := windowOf_coherent window
    rw [if_pos window]
    exact (if_neg below).trans ((if_pos is).trans (if_neg (Nat.not_lt.mpr outside)))
  · obtain ⟨below, no, some⟩ := windowOf_far far last
    rw [if_neg (show ¬scalarEa s o / 2 ^ 32 = 255 by omega)]
    exact (if_neg below).trans ((if_neg no).trans (if_pos some))

theorem loadRule_of_loadOp : ∃ t, runOp (loadOp o sgn) s = .next t ∧ LoadRule s o sgn t := by
  obtain ⟨t, answered, -⟩ := runOp_next (loadOp o sgn) s
  have answer {u : State} (h : runOp (loadOp o sgn) s = .next u) : t = u := Host.Outcome.next.inj (answered.symm.trans h)
  refine ⟨t, answered, fun near x refused => ?_, fun near oor passed => ?_, fun window inside => ?_, fun nothing strict => ?_, fun nothing lax => ?_⟩
  · exact answer (runOp_error ((loadOp_near on sgn near).trans (congrArg (Except.map _) refused)))
  · exact answer (runOp_ok ((loadOp_near on sgn near).trans (congrArg (Except.map _) passed)))
  · exact answer (runOp_ok (loadOp_coherent on sgn window inside))
  · refine answer (runOp_error ((loadOp_nothing on sgn nothing).trans ?_))
    rw [allOor_strict strict]
    rfl
  · refine answer (runOp_ok ((loadOp_nothing on sgn nothing).trans ?_))
    rw [allOor_lax lax]
    rfl

end

/-- Settles O15: both loads are `loadOp`, which follows the reach of the address. -/
theorem scalarLoads : Obligations.ScalarLoads := by
  unfold Obligations.ScalarLoads
  exact fun o s on => ⟨loadRule_of_loadOp on false, loadRule_of_loadOp on true⟩

end Sys2Proof.Claim
end

section
namespace Sys2Proof.Claim
open Sys2Proof Sys2Proof.Machine

/-! SST by the reach of its address (R87, R101 to R103, R303, R369). -/

/-- The stack check: an address of the own slice below the limit, where there is one (R87). -/
theorem stackFault_iff {s : State} {ea : Nat} (near : ea < 2 ^ 32) : stackFault s ea = true ↔
    s.cur.slim.toNat % 2 ^ 22 ≠ 0 ∧ coreOfAddr ea = some s.ix.core ∧ ea % 2 ^ 22 < s.cur.slim.toNat % 2 ^ 22 := by
  unfold stackFault bitsOf
  rw [Nat.pow_zero, Nat.div_one]
  simp only [Bool.and_eq_true, decide_eq_true_eq, beq_iff_eq, near, and_true, and_assoc, ne_eq]

/-- What the coherent window refuses of a core (R303, R341). -/
theorem windowRefuses_iff (off n : Nat) : windowRefuses off n = true ↔ off < 0x4000 ∧ (0x200 ≤ off ∨ n ≠ 8) := by
  unfold windowRefuses
  simp only [Bool.and_eq_true, Bool.or_eq_true, decide_eq_true_eq]

/-- LASTCODE of the queue whose LAUNCH register the offset names, and the exception that follows it in strict mode (R303). -/
theorem badLaunch_register {s : State} {off : Nat} (register : off < 0x200) :
    s.badLaunch off = s.setQueue (off / 8) { s.queue (off / 8) with lastCode := 1 } :=
  if_neg (Nat.not_le.mpr register)

theorem badLaunch_modCur (s : State) (f : Core → Core) (off : Nat) : (s.modCur f).badLaunch off = (s.badLaunch off).modCur f := by
  unfold State.badLaunch
  split <;> rfl

theorem takeTrap_badLaunch (s : State) (ea off : Nat) :
    s.takeTrap ⟨0x07, 0, s.ix.slot, some (oorWord ea true s.ix.slot s.cur.tcyc), some off⟩ = strictTrap (s.badLaunch off) ea true := by
  have slot : (s.badLaunch off).ix.slot = s.ix.slot := by rw [badLaunch_eq]
  have tcyc : (s.badLaunch off).cur.tcyc = s.cur.tcyc := by rw [badLaunch_eq]; rfl
  unfold strictTrap
  rw [slot, tcyc]
  exact congrArg (fun u : State => u.takeException u.ix.core 0x07 0 s.ix.slot u.ix.addr) (badLaunch_modCur s _ off)

section
variable {o : SOps} {s : State} (on : s.cur.holds o.p = true)
include on

/-- A store of window 0 is decided by the stack check, and then by the checks of its bytes. -/
theorem storeOp_near (near : scalarEa s o < 2 ^ 32) : storeOp o s s =
    if stackFault s (scalarEa s o) then .error (trapAt s 0x04 0)
    else (s.checkReq (scalarReq s o true) (List.range (sopSize o))).map fun oor =>
      (s.storeReq s (scalarReq s o true) (List.range (sopSize o)) oor 0 (leBytes (sopSize o) (s.cur.sreg o.sd).toNat)).2 := by
  obtain ⟨inside, window⟩ := windowOf_near near
  have own : ¬windowOf (scalarEa s o) = 255 := by rw [window]; decide
  unfold storeOp
  rw [if_neg (not_off on)]
  dsimp only
  rw [if_neg inside, if_neg own, if_neg (not_not_intro window), scalarReq]
  cases s.checkReq _ _ <;> rfl

/-- A posted write to the window of another package. -/
theorem storeOp_far (far : 0 < scalarEa s o / 2 ^ 32) (last : scalarEa s o / 2 ^ 32 < 255) :
    storeOp o s s = s.postWrite s (scalarEa s o) (sopSize o) [(0, leBytes (sopSize o) (s.cur.sreg o.sd).toNat)] := by
  obtain ⟨inside, no, some⟩ := windowOf_far far last
  exact (if_neg (not_off on)).trans ((if_neg inside).trans ((if_neg no).trans (if_pos some)))

theorem storeOp_coherent (window : scalarEa s o / 2 ^ 32 = 255) (inside : scalarEa s o % 2 ^ 32 < 2 ^ 16) : storeOp o s s =
    if windowRefuses (scalarEa s o % 2 ^ 16) (sopSize o) then badLaunchOp s s (scalarEa s o)
    else .ok (s.windowAccess (scalarEa s o % 2 ^ 16) (sopSize o) true ((s.cur.sreg o.sd).toNat % 2 ^ (8 * sopSize o)) 0 false) := by
  obtain ⟨below, is⟩ := windowOf_coherent window
  exact (if_neg (not_off on)).trans ((if_neg below).trans ((if_pos is).trans (if_neg (Nat.not_le.mpr inside))))

theorem storeOp_nothing (nothing : reachesNothing (scalarEa s o) false) : storeOp o s s = allOor s s (scalarEa s o) true := by
  refine (if_neg (not_off on)).trans ?_
  obtain beyond | ⟨window, outside⟩ | ⟨load, -, -⟩ := nothing
  · exact if_pos beyond
  · obtain ⟨below, is⟩ := windowOf_coherent window
    exact (if_neg below).trans ((if_pos is).trans (if_pos outside))
  · exact absurd load Bool.false_ne_true

theorem storeRule_of_storeOp : ∃ t, runOp (storeOp o) s = .next t ∧ StoreRule s o t := by
  obtain ⟨t, answered, -⟩ := runOp_next (storeOp o) s
  have answer {u : State} (h : runOp (storeOp o) s = .next u) : t = u := Host.Outcome.next.inj (answered.symm.trans h)
  refine ⟨t, answered, fun near below => ?_, fun near above x refused => ?_, fun near above oor passed => ?_, fun far last x sent => ?_,
    fun far last x refused => ?_, fun window inside taken => ?_, fun window inside refused lax => ?_, fun window inside refused strict => ?_,
    badLaunch_register, fun nothing strict => ?_, fun nothing lax => ?_⟩
  · exact answer (runOp_traps ((storeOp_near on near).trans (if_pos ((stackFault_iff near).mpr below))))
  · have checked := (storeOp_near on near).trans (if_neg (mt (stackFault_iff near).mp above))
    exact answer (runOp_error (checked.trans (congrArg (Except.map _) refused)))
  · have checked := (storeOp_near on near).trans (if_neg (mt (stackFault_iff near).mp above))
    exact answer (runOp_ok (checked.trans (congrArg (Except.map _) passed)))
  · exact answer (runOp_ok ((storeOp_far on far last).trans sent))
  · exact answer (runOp_error ((storeOp_far on far last).trans refused))
  · exact answer (runOp_ok ((storeOp_coherent on window inside).trans (if_neg (mt (windowRefuses_iff _ _).mp taken))))
  · refine answer (runOp_ok ((storeOp_coherent on window inside).trans ((if_pos ((windowRefuses_iff _ _).mpr refused)).trans ?_)))
    unfold badLaunchOp
    rw [allOor_lax lax]
    rfl
  · refine (answer (runOp_error ((storeOp_coherent on window inside).trans ((if_pos ((windowRefuses_iff _ _).mpr refused)).trans ?_)))).trans
      (takeTrap_badLaunch _ _ _)
    unfold badLaunchOp
    rw [allOor_strict strict]
    rfl
  · exact answer (runOp_error ((storeOp_nothing on nothing).trans (allOor_strict strict _ _)))
  · exact answer (runOp_ok ((storeOp_nothing on nothing).trans (allOor_lax lax _ _)))

end

/-! What a store that passes its checks leaves (R149, R326, R327). -/

theorem mem_liveBytes {s : State} {r : Req} {sel : List Nat} {x : Nat × Nat} (h : x ∈ s.liveBytes r sel) : x.1 < r.len ∧ x.2 = r.ea + x.1 := by
  unfold State.liveBytes State.reqBytes at h
  simp only [List.mem_map, List.mem_filter, List.mem_range] at h
  obtain ⟨-, ⟨⟨i, hi, rfl⟩, -⟩, rfl⟩ := h
  exact ⟨hi, rfl⟩

/-- A claim joins the accesses in flight, and changes the agenda besides. -/
theorem claim_eq (s : State) (op : Nat) (r : Req) (extra : Nat) (bytes : List Nat) (atom : Bool) :
    s.claim op r extra bytes atom = { s with accs := (s.claim op r extra bytes atom).accs, agenda := (s.claim op r extra bytes atom).agenda } := by
  unfold State.claim
  cases coreOfAddr r.ea with
  | none => rfl
  | some t =>
    dsimp only
    split
    · rfl
    · exact addAcc_frame _ _

/-- Buffers that a store takes to filling change in the next cycle. -/
theorem fillBufs_eq (s : State) (n : Nat) (bytes : List Nat) :
    s.fillBufs n bytes = { s with bufPend := (s.fillBufs n bytes).bufPend, agenda := (s.fillBufs n bytes).agenda } := by
  unfold State.fillBufs
  refine List.foldlRecOn (motive := fun t : State => t = { s with bufPend := t.bufPend, agenda := t.agenda }) _ _ rfl fun t frame x _ => ?_
  obtain ⟨k, i⟩ := x
  dsimp only
  rw [State.addBuf_eq, frame]

/-- Only the issuing core's OORREC records an access (R143). -/
theorem recordOor_spec (s : State) (write : Bool) (oor : Option Nat) :
    (s.recordOor write oor).mem = s.mem ∧ (s.recordOor write oor).memPend = s.memPend ∧ (s.recordOor write oor).clock = s.clock ∧
    ∀ k, k ≠ s.ix.core → (s.recordOor write oor).core k = s.core k := by
  cases oor with
  | none => exact ⟨rfl, rfl, rfl, fun _ _ => rfl⟩
  | some a =>
    obtain ⟨-, ne⟩ := noteOor_spec (oorWord_valid a write s.ix.slot s.cur.tcyc) s.cur
    exact ⟨rfl, rfl, rfl, fun k hk => core_modCore_other (s := s) ne hk⟩

/-- An access that begins leaves memory and what is due to it, and the cores but for the record. -/
theorem beginAccess_spec (s : State) (r : Req) (oor : Option Nat) (extra : Nat) (bytes : List Nat) :
    let u := (s.beginAccess r oor extra bytes).2
    u.mem = s.mem ∧ u.memPend = s.memPend ∧ u.clock = s.clock ∧ ∀ k, u.core k = (s.recordOor r.write oor).core k := by
  intro u
  have frame : u = { s.fresh.2.recordOor r.write oor with accs := u.accs, agenda := u.agenda } := claim_eq _ _ _ _ _ _
  obtain ⟨mem, pend, clock, -⟩ := recordOor_spec s.fresh.2 r.write oor
  refine ⟨?_, ?_, ?_, fun k => ?_⟩
  · rw [frame]; exact mem
  · rw [frame]; exact pend
  · rw [frame]; exact clock
  · have core : u.core k = (s.fresh.2.recordOor r.write oor).core k := by rw [frame]; rfl
    rw [core]
    cases oor <;> rfl

/-- A store's entry among the writes of memory in flight: its bytes at their addresses, with their two cycles. -/
def storeEntry (s : State) (r : Req) (sel : List Nat) (extra : Nat) (data : List Byte) : MemPend :=
  { vis := s.clock + s.rowLat s.ix.core (reqTarget s.ix.core r) + extra, bank := s.clock + s.bankLat s.ix.core (reqTarget s.ix.core r) + extra,
    op := s.nextId, store := s.ix.core, data := (s.liveBytes r sel).map fun x => (nearBase + x.2, data.getD x.1 0) }

theorem storeReq_spec (s : State) (r : Req) (sel : List Nat) (oor : Option Nat) (extra : Nat) (data : List Byte) :
    let t := (s.storeReq s r sel oor extra data).2
    t.mem = s.mem ∧ (∀ k, t.core k = (s.recordOor r.write oor).core k) ∧
    t.memPend = if (storeEntry s r sel extra data).data.isEmpty then s.memPend else s.memPend ++ [storeEntry s r sel extra data] := by
  intro t
  obtain ⟨mem, pend, clock, core⟩ := beginAccess_spec s r oor extra ((s.liveBytes r sel).map (·.2))
  let u := (s.beginAccess r oor extra ((s.liveBytes r sel).map (·.2))).2
  let e := storeEntry s r sel extra data
  let v := u.addMem e.vis e.bank e.op e.data e.store
  have shape : t = if s.ix.core = reqTarget s.ix.core r then v.fillBufs s.ix.core ((s.liveBytes r sel).map (·.2)) else v := by
    have vis : u.clock + s.rowLat s.ix.core (reqTarget s.ix.core r) + extra = e.vis := by rw [clock]; rfl
    have bank : u.clock + s.bankLat s.ix.core (reqTarget s.ix.core r) + extra = e.bank := by rw [clock]; rfl
    dsimp only [v]
    rw [← vis, ← bank]
    rfl
  have frame : t = { v with bufPend := t.bufPend, agenda := t.agenda } := by
    rw [shape]
    split
    · exact fillBufs_eq _ _ _
    · rfl
  obtain ⟨added, mem', cores⟩ := State.addMem_spec u e.vis e.bank e.op e.data e.store
  refine ⟨?_, fun k => ?_, ?_⟩
  · rw [frame]; exact mem'.trans mem
  · rw [← core k]
    unfold State.core
    rw [frame]
    exact congrArg (SMap.get Core.init · k) cores
  · rw [frame]
    exact added.trans (by rw [pend])

/-- Settles O17: the first part by the reach of the address, the second by what `storeReq` leaves. -/
theorem scalarStores : Obligations.ScalarStores := by
  unfold Obligations.ScalarStores
  refine ⟨fun o s on => storeRule_of_storeOp on, fun s r sel oor extra data => ?_⟩
  intro t live
  obtain ⟨mem, core, pend⟩ := storeReq_spec s r sel oor extra data
  refine ⟨fun a => by rw [mem], fun k => ?_, fun x hx => ?_, fun none => ?_, fun some => ?_⟩
  · rw [core k]
    split
    next => rfl
    next other => obtain ⟨-, -, -, others⟩ := recordOor_spec s r.write oor; exact others k other
  · obtain ⟨index, address⟩ := mem_liveBytes hx
    omega
  · exact pend.trans (if_pos (List.isEmpty_iff.mpr (List.map_eq_nil_iff.mpr none)))
  · exact pend.trans (if_neg fun empty => some (List.map_eq_nil_iff.mp (List.isEmpty_iff.mp empty)))

end Sys2Proof.Claim
end

section
namespace Sys2Proof.Claim
open Sys2Proof Sys2Proof.Machine

/-! CSRs: what CSRW, CSRS and CSRC may write, and what CSRR reads (R80, R82). -/

theorem csrRw_iff (num : Nat) : csrRw num = true ↔ num ∈ [3, 4, 5, 7, 8] := by
  unfold csrRw
  simp only [Bool.or_eq_true, beq_iff_eq, List.mem_cons, List.not_mem_nil, or_false, or_assoc]

/-- A write of a RW CSR: the record bit of OORREC is not a reserved one, so it is the same before and after the mask. -/
theorem setCsr_eq (c : Core) (oor : Option Word) {num : Nat} (writable : num ∈ [3, 4, 5, 7, 8]) (v : Word) : c.setCsr oor num v = csrWritten c oor num v := by
  have record : (v &&& oorrecMask).getLsbD 41 = v.getLsbD 41 := by
    have kept : oorrecMask.getLsbD 41 = true := rfl
    rw [BitVec.getLsbD_and, kept, Bool.and_true]
  simp only [List.mem_cons, List.not_mem_nil, or_false] at writable
  obtain rfl | rfl | rfl | rfl | rfl := writable
  case inr.inr.inr.inl =>
    change { c with oorrec := if (v &&& oorrecMask).getLsbD 41 then v &&& oorrecMask else oor.getD (v &&& oorrecMask) } = csrWritten c oor 7 v
    rw [record]
    rfl
  all_goals rfl

/-- The three writes, by whether a program may write the CSR. -/
theorem runOp_csrWrite {o : XOps} (s : State) (f : Word → Word → Word) (writable : o.csr ∈ [3, 4, 5, 7, 8]) :
    runOp (csrWrite o f) s = .next (s.modCur fun c => csrWritten c s.ix.oor o.csr (f (s.csr s.ix.core o.csr) (s.cur.sreg o.sa))) := by
  have allowed : csrWrite o f s s = .ok (s.modCur fun c => c.setCsr s.ix.oor o.csr (f (s.csr s.ix.core o.csr) (s.cur.sreg o.sa))) := by
    unfold csrWrite
    rw [(csrRw_iff _).mpr writable]
    rfl
  simp only [setCsr_eq _ _ writable] at allowed
  exact runOp_ok allowed

theorem runOp_csrWrite_trapped {o : XOps} (s : State) (f : Word → Word → Word) (ro : o.csr ∉ [3, 4, 5, 7, 8]) :
    runOp (csrWrite o f) s = .next (trapped s 0x03 0) := by
  refine runOp_traps (if_pos ?_)
  rw [Bool.eq_false_of_not_eq_true (mt (csrRw_iff _).mp ro)]
  rfl

/-- The CSRs past JPARTNER: the timelines' counts and the windows' registers. -/
theorem csr_of_ge (s : State) (n : Nat) {num : Nat} (h : 0x00D ≤ num) : s.csr n num =
    if num < 0x048 then BitVec.ofNat 64 ((s.core n).ctxAt (ctxNo (num - 0x040))).cnt
    else if num < 0x200 then ((s.core n).window (num % 0x100)).base
    else if num < 0x300 then ((s.core n).window (num % 0x100)).peer
    else ((s.core n).window (num % 0x100)).allow ||| BitVec.ofNat 64 (((s.core n).window (num % 0x100)).outst * 2 ^ 16) := by
  obtain ⟨k, rfl⟩ := Nat.exists_eq_add_of_le' h
  rfl

theorem csr_timeline (s : State) (n : Nat) (r : BitVec 3) : s.csr n (0x040 + r.toNat) = BitVec.ofNat 64 ((s.core n).ctxAt r).cnt := by
  have small := r.isLt
  rw [csr_of_ge s n (by omega), if_pos (by omega), Nat.add_sub_cancel_left, ctxNo, BitVec.ofNat_toNat, BitVec.setWidth_eq]

theorem csr_window (s : State) (n : Nat) {w : Nat} (h : w < 256) :
    s.csr n (0x100 + w) = ((s.core n).window w).base ∧ s.csr n (0x200 + w) = ((s.core n).window w).peer ∧
    s.csr n (0x300 + w) = ((s.core n).window w).allow ||| BitVec.ofNat 64 (((s.core n).window w).outst * 2 ^ 16) := by
  refine ⟨?_, ?_, ?_⟩
  · rw [csr_of_ge s n (by omega), if_neg (by omega), if_pos (by omega), show (0x100 + w) % 0x100 = w by omega]
  · rw [csr_of_ge s n (by omega), if_neg (by omega), if_neg (by omega), if_pos (by omega), show (0x200 + w) % 0x100 = w by omega]
  · rw [csr_of_ge s n (by omega), if_neg (by omega), if_neg (by omega), if_neg (by omega), show (0x300 + w) % 0x100 = w by omega]

/-- CSRR is a write of the value, and for VWIDTH the acknowledgement too. -/
theorem opCsrr_eq (o : XOps) (s : State) : opCsrr o s s = .ok (if o.csr = 9
    then (s.writeS o.sd (s.csr s.ix.core o.csr) 2).modCur fun c => { c with bus := { c.bus with ack := true } }
    else s.writeS o.sd (s.csr s.ix.core o.csr) 2) := rfl

/-- Settles O32: the three writes are `csrWrite`, and each CSR reads as its own field. -/
theorem csrInstructions : Obligations.CsrInstructions := by
  unfold Obligations.CsrInstructions
  refine ⟨fun o s => ⟨fun other => ?_, fun vwidth => ?_, fun writable => ⟨?_, ?_, ?_⟩, fun ro => ⟨?_, ?_, ?_⟩⟩,
    fun n s => ⟨rfl, rfl, rfl, rfl, rfl, rfl, rfl, rfl, rfl, rfl, csr_timeline s n, fun w => csr_window s n⟩⟩
  · exact runOp_ok (f := opCsrr o) ((opCsrr_eq o s).trans (congrArg Except.ok (if_neg other)))
  · exact runOp_ok (f := opCsrr o) ((opCsrr_eq o s).trans (congrArg Except.ok (if_pos vwidth)))
  · exact runOp_csrWrite s _ writable
  · exact runOp_csrWrite s _ writable
  · exact runOp_csrWrite s _ writable
  · exact runOp_csrWrite_trapped s _ ro
  · exact runOp_csrWrite_trapped s _ ro
  · exact runOp_csrWrite_trapped s _ ro

end Sys2Proof.Claim
end

section
namespace Sys2Proof.Claim
open Sys2Proof Sys2Proof.Machine

/-! Events that X-slot instructions plan (R209, R219, R234, R235). -/

theorem onlyWrites_schedule {s t : State} {ws : List PendWrite} (h : OnlyWrites s t ws) (at_ prio : Nat) (ev : Instr) :
    OnlyWrites s (t.schedule at_ prio ev) ws := by
  obtain ⟨⟨only, others⟩, cur, mem⟩ := h
  exact ⟨⟨congrArg (fun u : State => { u with agenda := (t.schedule at_ prio ev).agenda }) only, others⟩, cur, mem⟩

theorem onlyWrites_scheduleOnce {s t : State} {ws : List PendWrite} (h : OnlyWrites s t ws) (at_ prio : Nat) (ev : Instr) :
    OnlyWrites s (t.scheduleOnce at_ prio ev) ws := by
  unfold State.scheduleOnce
  split
  · exact h
  · exact onlyWrites_schedule h at_ prio ev

/-- A list of events planned for one cycle changes the agenda alone, and all of them stand there. -/
theorem foldl_schedule_eq {α : Type} (ev : α → Instr) (at_ prio : Nat) (l : List α) (s : State) :
    l.foldl (fun (s : State) x => s.schedule at_ prio (ev x)) s =
      { s with agenda := (l.foldl (fun (s : State) x => s.schedule at_ prio (ev x)) s).agenda } := by
  refine List.foldlRecOn (motive := fun t : State => t = { s with agenda := t.agenda }) l _ rfl fun t frame x _ => ?_
  exact congrArg (fun u : State => { u with agenda := (t.schedule at_ prio (ev x)).agenda }) frame

theorem mem_foldl_schedule {α : Type} (ev : α → Instr) (at_ prio : Nat) (l : List α) (s : State) (a : Agenda) :
    a ∈ (l.foldl (fun (s : State) x => s.schedule at_ prio (ev x)) s).agenda ↔ a ∈ s.agenda ∨ ∃ x ∈ l, a = ⟨at_, prio, ev x⟩ := by
  induction l generalizing s with
  | nil => simp
  | cons x l ih => rw [List.foldl_cons, ih, State.mem_schedule]; simp; tauto

theorem planned_foldl_schedule {α : Type} (ev : α → Instr) (at_ prio : Nat) {l : List α} (s : State) {x : α} (h : x ∈ l) :
    planned (l.foldl (fun (s : State) x => s.schedule at_ prio (ev x)) s) at_ (ev x) :=
  ⟨⟨at_, prio, ev x⟩, (mem_foldl_schedule ev at_ prio l s _).mpr (Or.inr ⟨x, h, rfl⟩), rfl, rfl⟩

/-- MONCAP's monitors: the cluster's four, or the package's seven (R219). -/
def capturedMonitors (n sel : Nat) : List MonId :=
  if sel = 0 then (List.range 4).map fun i => .cluster (coreCluster n) (2 + i) else (List.range 7).map fun i => .pkg i

theorem mem_capturedMonitors (n : Nat) {sel i : Nat} (h : i < if sel = 0 then 4 else 7) :
    (if sel = 0 then MonId.cluster (coreCluster n) (2 + i) else .pkg i) ∈ capturedMonitors n sel := by
  unfold capturedMonitors
  split
  next zero => rw [if_pos zero] at h; exact List.mem_map.mpr ⟨i, List.mem_range.mpr h, rfl⟩
  next other => rw [if_neg other] at h; exact List.mem_map.mpr ⟨i, List.mem_range.mpr h, rfl⟩

theorem opMoncap_eq (o : XOps) (s : State) : opMoncap o s s = .ok ((capturedMonitors s.ix.core (o.low.extractLsb' 12 2).toNat).foldl
    (fun (u : State) m => u.schedule (s.clock + 1) prioComplete (.monitorCapture m)) s) := by
  have cluster : (o.low.extractLsb' 12 2).toNat = 0 ↔ o.low.extractLsb' 12 2 = 0 := BitVec.toNat_inj (y := 0)
  unfold opMoncap capturedMonitors
  simp only [cluster]

/-! TCR (R83) and XLAT (R209). -/

/-- The counter that the selector names. -/
theorem opTcr_eq (o : XOps) (s : State) : opTcr o s s = .ok (s.writeS o.sd (BitVec.ofNat 64 (if (o.low.extractLsb' 12 2).toNat = 0 then s.cur.tcyc
    else if (o.low.extractLsb' 12 2).toNat = 1 then s.cur.clk else s.cur.cutTcyc)) 1) := by
  unfold opTcr
  dsimp only
  match (o.low.extractLsb' 12 2).toNat with
  | 0 => rfl
  | 1 => rfl
  | _ + 2 => rfl

/-- A translate result that waits for its handle. -/
def pendingXlat (s : State) (o : XOps) (c : Core) : Core :=
  c.setXreg (o.sd.extractLsb' 0 3)
    { c.xreg (o.sd.extractLsb' 0 3) with val := 0, valid := false, pend := some (s.clock + 96, o.low.extractLsb' 12 2, s.cur.sreg o.sa) }

@[simp] theorem xreg_setXreg (c : Core) (r : BitVec 3) (x : XReg) : (c.setXreg r x).xreg r = x := by
  simp [Core.setXreg, Core.xreg]

theorem pendingXlat_ne_init (s : State) (o : XOps) (c : Core) : pendingXlat s o c ≠ Core.init := by
  intro reset
  have waits : ((pendingXlat s o c).xreg (o.sd.extractLsb' 0 3)).pend = some (s.clock + 96, o.low.extractLsb' 12 2, s.cur.sreg o.sa) := by
    unfold pendingXlat
    rw [xreg_setXreg]
  have none : (Core.init.xreg (o.sd.extractLsb' 0 3)).pend = none := by simp [Core.init, Core.xreg]
  rw [reset, none] at waits
  exact Option.some_ne_none _ waits.symm

/-- XLAT: the register waits, and its result is planned for the 96th cycle. -/
theorem xlat_spec (o : XOps) (s : State) : ∃ t, opXlat o s s = .ok t ∧ t.cur = pendingXlat s o s.cur ∧ t.mem = s.mem ∧
    (∀ k, k ≠ s.ix.core → t.core k = s.core k) ∧ planned t (s.clock + 96) (.xlatResult s.ix.core (o.sd.extractLsb' 0 3).toNat) := by
  have ne := pendingXlat_ne_init s o s.cur
  let walk := (s.modCur (pendingXlat s o)).freeNat.2.schedule (s.clock + 1 + (s.modCur (pendingXlat s o)).freeNat.1 % 96) prioXlat
    (.xlatResult s.ix.core (o.sd.extractLsb' 0 3).toNat)
  exact ⟨walk.schedule (s.clock + 96) prioXlat (.xlatResult s.ix.core (o.sd.extractLsb' 0 3).toNat), rfl, cur_modCur_of_ne ne, rfl,
    fun k hk => core_modCore_other (s := s) ne hk, ⟨_, (State.mem_schedule walk _ _ _ _).mpr (Or.inl rfl), rfl, rfl⟩⟩

/-! The word of PGQ (R235, R248). -/

/-- The core is of the launch that core n runs. -/
def sharesLaunch (s : State) (n core : Nat) : Bool := (s.core core).bind.isSome && (s.core core).bind == (s.core n).bind

theorem sharesLaunch_iff (s : State) (n core : Nat) : sharesLaunch s n core = true ↔ (s.core core).bind ≠ none ∧ (s.core core).bind = (s.core n).bind := by
  unfold sharesLaunch
  rw [Bool.and_eq_true, beq_iff_eq, Option.isSome_iff_ne_none]

theorem endedOrFree_iff (c : Core) (clock : Nat) : c.endedOrFree clock = true ↔ (c.run = .ended ∧ c.region.since ≠ clock) ∨ c.bind = none := by
  unfold Core.endedOrFree
  rw [Bool.or_eq_true, Bool.and_eq_true, beq_iff_eq, bne_iff_ne, Option.isNone_iff_eq_none]

section
variable {s : State} {n core : Nat} (small : (s.pair (corePair core)).discard < 2 ^ 16)
include small

theorem gateWord_toNat : (s.gateWord n core).toNat = gateCode (s.core core).gate + ((s.core core).endedOrFree s.clock).toNat * 4 +
    (sharesLaunch s n core).toNat * 8 + (s.pair (corePair core)).discard * 2 ^ 16 := by
  have gate : gateCode (s.core core).gate ≤ 3 := by cases (s.core core).gate <;> decide
  have ended := Bool.toNat_le ((s.core core).endedOrFree s.clock)
  have shared := Bool.toNat_le (sharesLaunch s n core)
  have bit (b : Bool) (m : Nat) : (if b = true then m else 0) = b.toNat * m := by cases b <;> simp
  unfold State.gateWord
  dsimp only
  rw [bit, bit, BitVec.toNat_ofNat]
  exact Nat.mod_eq_of_lt (by change _ + (sharesLaunch s n core).toNat * 8 + _ < _; omega)

theorem gateWord_fields :
    let w := s.gateWord n core
    w.extractLsb' 0 2 = BitVec.ofNat 2 (gateCode (s.core core).gate) ∧ w.getLsbD 2 = (s.core core).endedOrFree s.clock ∧
      w.getLsbD 3 = sharesLaunch s n core ∧ w.extractLsb' 4 12 = 0 ∧ (w.extractLsb' 16 16).toNat = (s.pair (corePair core)).discard ∧
      w.extractLsb' 32 32 = 0 := by
  intro w
  have word : w.toNat = _ := gateWord_toNat small
  have gate : gateCode (s.core core).gate ≤ 3 := by cases (s.core core).gate <;> decide
  have ended := Bool.toNat_le ((s.core core).endedOrFree s.clock)
  have shared := Bool.toNat_le (sharesLaunch s n core)
  have bit {i : Nat} {b : Bool} (h : w.toNat / 2 ^ i % 2 = b.toNat) : w.getLsbD i = b := by
    rw [BitVec.getLsbD, Nat.testBit_eq_decide_div_mod_eq, h]
    cases b <;> rfl
  refine ⟨BitVec.eq_of_toNat_eq ?_, bit (by omega), bit (by omega), BitVec.eq_of_toNat_eq ?_, ?_, BitVec.eq_of_toNat_eq ?_⟩
  all_goals rw [toNat_field]
  · rw [BitVec.toNat_ofNat]; omega
  · change _ = 0; omega
  · omega
  · change _ = 0; omega

end

/-- The counts of both FIFOs, put into a word that leaves their bits free. -/
theorem counts_fields {w : Word} (free : w.extractLsb' 4 12 = 0) {up down : Nat} (hup : up < 32) (hdown : down < 32) :
    let v := w ||| BitVec.ofNat 64 (up * 2 ^ 4 + down * 2 ^ 9)
    (v.extractLsb' 4 5).toNat = up ∧ (v.extractLsb' 9 5).toNat = down ∧ v.extractLsb' 0 4 = w.extractLsb' 0 4 ∧
      v.extractLsb' 14 50 = w.extractLsb' 14 50 := by
  intro v
  have clear : w.toNat / 2 ^ 4 % 2 ^ 12 = 0 := (toNat_field w 4 12).symm.trans (congrArg BitVec.toNat free)
  have counts : (BitVec.ofNat 64 (up * 2 ^ 4 + down * 2 ^ 9)).toNat = up * 2 ^ 4 + down * 2 ^ 9 := by
    rw [BitVec.toNat_ofNat]; omega
  have field (lo len : Nat) : v.extractLsb' lo len = w.extractLsb' lo len ||| (BitVec.ofNat 64 (up * 2 ^ 4 + down * 2 ^ 9)).extractLsb' lo len :=
    BitVec.extractLsb'_or
  have outside {lo len : Nat} (h : (up * 2 ^ 4 + down * 2 ^ 9) / 2 ^ lo % 2 ^ len = 0) : v.extractLsb' lo len = w.extractLsb' lo len := by
    have none : (BitVec.ofNat 64 (up * 2 ^ 4 + down * 2 ^ 9)).extractLsb' lo len = 0 := BitVec.eq_of_toNat_eq (by rw [toNat_field, counts, h]; rfl)
    rw [field, none]
    exact BitVec.or_zero
  have inside {lo len x : Nat} (h : w.toNat / 2 ^ lo % 2 ^ len = 0) (hx : (up * 2 ^ 4 + down * 2 ^ 9) / 2 ^ lo % 2 ^ len = x) :
      (v.extractLsb' lo len).toNat = x := by
    rw [field, BitVec.toNat_or, toNat_field, toNat_field, h, counts, hx, Nat.zero_or]
  exact ⟨inside (by omega) (by omega), inside (by omega) (by omega), outside (by omega), outside (by omega)⟩

theorem countGate_of_counts {s : State} {x : PendWrite} {r : BitVec 5} {k : Nat} {w : Word} (h : x.w = .gateCounts r k w) :
    s.countGate x = { x with w := .s r (w ||| BitVec.ofNat 64 ((s.pair k).up.rows.length * 2 ^ 4 + (s.pair k).down.rows.length * 2 ^ 9)) } := by
  unfold State.countGate
  rw [h]

/-- PGQ's core, and what it asks: a core of another cluster, or of none, answers bit 63 (R235). -/
def askedCore (s : State) (o : XOps) : Nat := ((s.cur.sreg o.sa).extractLsb' 0 10).toNat

theorem opPgq_eq (o : XOps) (s : State) : opPgq o s s =
    if coreCount ≤ askedCore s o ∨ coreCluster (askedCore s o) ≠ coreCluster s.ix.core then .ok (s.writeS o.sd 0x8000000000000000#64 2)
    else .ok ((s.addWrite (.gateCounts o.sd (corePair (askedCore s o)) (s.gateWord s.ix.core (askedCore s o))) 2).scheduleOnce s.clock prioCount .writeVisible) :=
  if_congr (by rw [Bool.or_eq_true, decide_eq_true_iff, decide_eq_true_iff]; rfl) rfl rfl

/-- Settles O33: each instruction by the state that its meaning answers, and PGQ's word by its fields. -/
theorem xSlotResults : Obligations.XSlotResults := by
  unfold Obligations.XSlotResults
  intro o s n sel x y sets core
  refine ⟨?_, runOp_ok (f := opXvalid o) rfl, runOp_ok (f := opFlgr o) rfl, runOp_ok (f := opFlgc o) rfl,
    fun _ => runOp_ok (f := opTcr o) (opTcr_eq o s), runOp_ok (f := opTlrd o) rfl,
    ⟨_, runOp_ok (f := opMoncap o) (opMoncap_eq o s), foldl_schedule_eq _ _ _ _ s, fun i hi => ?_⟩, ⟨_, runOp_ok (f := opPgate o) rfl, ?_, ?_⟩,
    fun other => ?_, fun inPart same => ?_, ?_⟩
  · obtain ⟨t, ok, cur, mem, others, due⟩ := xlat_spec o s
    refine ⟨t, runOp_ok (f := opXlat o) ok, ?_, mem, ?_, others, due⟩
    · rw [cur]; exact xreg_setXreg _ _ _
    · rw [cur]; rfl
  · exact planned_foldl_schedule _ _ _ s (mem_capturedMonitors n hi)
  · exact onlyWrites_schedule (onlyWrites_addWrite s _ 4 0 0) _ _ _
  · exact ⟨_, (State.mem_schedule _ _ _ _ _).mpr (Or.inl rfl), rfl, rfl⟩
  · exact runOp_ok (f := opPgq o) ((opPgq_eq o s).trans (if_pos other))
  · refine ⟨_, runOp_ok (f := opPgq o) ((opPgq_eq o s).trans (if_neg ?_)), onlyWrites_scheduleOnce (onlyWrites_addWrite s _ 2 0 0) _ _ _⟩
    rintro (beyond | elsewhere)
    · exact absurd inPart (Nat.not_lt.mpr beyond)
    · exact elsewhere same
  · intro w c p small
    obtain ⟨gate, ended, shared, free, discard, high⟩ := gateWord_fields (n := n) small
    refine ⟨?_, ?_, ?_, free, discard, high, fun x r hx hup hdown => ⟨_, countGate_of_counts hx, counts_fields free hup hdown⟩⟩
    · refine gate.trans ?_
      change BitVec.ofNat 2 (gateCode c.gate) = _
      cases c.gate <;> rfl
    · exact ended ▸ endedOrFree_iff _ _
    · exact shared ▸ sharesLaunch_iff s n core

end Sys2Proof.Claim
end

section
namespace Sys2Proof.Claim
open Sys2Proof Sys2Proof.Machine

/-! The shape of a lane-wise vector instruction (R156, R157): one write of the selected lanes, with the flags of all of them. -/

theorem viewBits_pos (view : Nat) : 0 < viewBits view := by unfold viewBits; split <;> decide

theorem laneOf_lt (r : Row) (view i : Nat) : laneOf r view i < 2 ^ viewBits view := BitVec.isLt _

/-- The model's second operand is lane i of vb, or the literal (R30). -/
theorem bLane_eq (s : State) (o : VOps) (i : Nat) : bLane s o i = lb s o i := by
  unfold bLane lb litLane vView
  have pairView : o.view.toNat = 0 ↔ o.view = 0 := ⟨fun h => BitVec.eq_of_toNat_eq h, fun h => congrArg BitVec.toNat h⟩
  cases o.lit
  · rfl
  · simp only [pairView]
    rfl

/-- A literal that is no pair fits its lane, as a lane of a row does. -/
theorem lb_lt {o : VOps} (single : o.view.toNat ≠ 0) (s : State) (i : Nat) : lb s o i < 2 ^ viewBits o.view.toNat := by
  have notPair : o.view ≠ 0 := fun h => single (congrArg BitVec.toNat h)
  unfold lb
  dsimp only
  rw [if_neg notPair]
  split
  · exact laneOf_lt _ _ _
  · exact Nat.mod_lt _ (Nat.two_pow_pos _)

/-- Lane results, each with its flags, are one row write. -/
theorem vWrite_map {α : Type} (s : State) (o : VOps) (lat : Nat) (l : List α) (f : α → Nat × Nat × Flags) :
    vWrite s o lat (l.map f) = .ok (s.addWrite (laneWrite o.vd o.view.toNat (l.map fun i => ((f i).1, (f i).2.1))) lat
      (l.foldl (fun a i => a ||| (f i).2.2) 0)) := by
  unfold vWrite
  rw [List.map_map, List.foldl_map]
  rfl

theorem runOp_laneOp {s : State} {o : VOps} (lat : Nat) {f : State → Nat → Nat × Flags} {g : Nat → Nat × Flags} (value : ∀ i, f s i = g i) :
    runOp (laneOp o lat f) s = .next (lanesTo s o lat g) := by
  obtain rfl : f s = g := funext value
  exact runOp_ok (vWrite_map s o lat (picked s o) fun i => (i, f s i))

theorem runOp_bitOp (s : State) (o : VOps) (f : Nat → Nat → Nat) :
    runOp (bitOp o f) s = .next (lanesTo s o 2 fun i => (f (la s o i) (lb s o i), 0)) :=
  runOp_laneOp 2 fun i => congrArg (fun b => (f (la s o i) b, (0 : Flags))) (bLane_eq s o i)

end Sys2Proof.Claim
end

section
namespace Sys2Proof.Claim
open Sys2Proof Sys2Proof.Machine

/-! Vector arithmetic (R159). -/

theorem view_mem_of_common {o : VOps} {views rnd sat : List Nat} {lit : Bool} (h : o.common views rnd sat lit = true) : o.view.toNat ∈ views := by
  simp only [VOps.common, Bool.and_eq_true, List.contains_iff_mem] at h
  obtain ⟨⟨⟨legal, _⟩, _⟩, _⟩ := h
  exact legal

/-- The least and the greatest signed value as codes, of a width that 2 p measures. -/
theorem unsignedOf_bounds {w p : Nat} (span : 2 ^ w = 2 * p) (pos : 0 < p) :
    unsignedOf w (-(p : Int)) = p ∧ unsignedOf w ((p : Int) - 1) = p - 1 := by
  unfold unsignedOf
  rw [span]
  have least : (-(p : Int)) % (2 * p : Nat) = p := by
    rw [← Int.add_emod_right, Int.emod_eq_of_lt (by omega) (by omega)]
    omega
  have greatest : ((p : Int) - 1) % (2 * p : Nat) = p - 1 := Int.emod_eq_of_lt (by omega) (by omega)
  omega

/-- Saturation and wrapping, with the bounds as codes of the width (R159). -/
theorem fitInt_eq {w : Nat} (pos : 0 < w) (sat : Bool) (v : Int) : fitInt w sat v = fitted w sat v := by
  have span : 2 ^ w = 2 * 2 ^ (w - 1) := by rw [← Nat.pow_succ', Nat.succ_eq_add_one, Nat.sub_add_cancel pos]
  obtain ⟨least, greatest⟩ := unsignedOf_bounds span (Nat.two_pow_pos _)
  rw [Nat.cast_pow, Nat.cast_ofNat] at least greatest
  cases sat
  · rfl
  · simp only [fitInt, fitted, least, greatest, if_true, true_and]
    rfl

theorem signed_inj {w a b : Nat} (ha : a < 2 ^ w) (hb : b < 2 ^ w) (h : signed w a = signed w b) : a = b := by
  unfold signed at h
  rw [Nat.mod_eq_of_lt ha, Nat.mod_eq_of_lt hb] at h
  split at h <;> split at h <;> omega

/-- Arithmetic by the class of the view, with R159's fit. -/
theorem byClass_eq (o : VOps) (int : Int → Int → Int → Int) (flt : FloatFmt → Rnd → Nat → Nat → Nat → Nat × Flags)
    (pair : Nat → Nat → Nat × Flags) (a b c : Nat) :
    let V := o.view.toNat
    let S := signed (viewBits V)
    byClass o int flt pair a b c = if V = 0 then pair a b else if viewInt V then fitted (viewBits V) o.sat (int (S a) (S b) (S c))
      else flt (viewFloat V) (rndOf o.rnd.toNat) a b c := by
  intro V S
  rw [← fitInt_eq (viewBits_pos V)]
  rfl

theorem runOp_arith2 (s : State) (o : VOps) (int : Int → Int → Int → Int) (flt : FloatFmt → Rnd → Nat → Nat → Nat → Nat × Flags)
    (pair : Nat → Nat → Nat × Flags) :
    let V := o.view.toNat
    let S := signed (viewBits V)
    runOp (arith2 o int flt pair) s = .next (lanesTo s o 4 fun i =>
      if V = 0 then pair (la s o i) (lb s o i) else if viewInt V then fitted (viewBits V) o.sat (int (S (la s o i)) (S (lb s o i)) (S 0))
      else flt (viewFloat V) (rndOf o.rnd.toNat) (la s o i) (lb s o i) 0) :=
  runOp_laneOp 4 fun i => by rw [bLane_eq, byClass_eq]; rfl

theorem runOp_arith3 {o : VOps} (single : o.view.toNat ≠ 0) (s : State) (int : Int → Int → Int → Int)
    (flt : FloatFmt → Rnd → Nat → Nat → Nat → Nat × Flags) :
    let V := o.view.toNat
    let S := signed (viewBits V)
    runOp (arith3 o int flt) s = .next (lanesTo s o 4 fun i =>
      if viewInt V then fitted (viewBits V) o.sat (int (S (la s o i)) (S (lb s o i)) (S (lc s o i)))
      else flt (viewFloat V) (rndOf o.rnd.toNat) (la s o i) (lb s o i) (lc s o i)) :=
  runOp_laneOp 4 fun i => by rw [bLane_eq, byClass_eq, if_neg single]; rfl

theorem runOp_minmaxOp {s : State} {o : VOps} (max prop : Bool) {g : Nat → Nat × Flags}
    (value : ∀ i, laneMinMax o.view.toNat (o.vc.getLsbD 0) max prop (la s o i) (lb s o i) = g i) :
    runOp (minmaxOp o max prop) s = .next (lanesTo s o 4 g) :=
  runOp_laneOp 4 fun i => by rw [bLane_eq]; exact value i

/-- The unsigned form is one of the integer views. -/
theorem laneMinMax_of_not_int {view : Nat} (float : viewInt view = false) (uns max prop : Bool) (a b : Nat) :
    laneMinMax view uns max prop a b = if view = 0 then laneMinMax 0 false max prop a b else (viewFloat view).minmax max prop a b := by
  unfold laneMinMax
  simp only [float]
  split <;> rfl

/-- The minimum by the class of the view. -/
theorem laneMinMax_min (view : Nat) (uns : Bool) (a b : Nat) :
    let S := signed (viewBits view)
    laneMinMax view uns false false a b = if view = 0 then laneMinMax 0 false false false a b
      else if viewInt view then (if (if uns then a ≤ b else S a ≤ S b) then a else b, 0) else (viewFloat view).minmax false false a b := by
  intro S
  cases int : viewInt view
  · exact laneMinMax_of_not_int int _ _ _ _ _
  · have single : view ≠ 0 := by rintro rfl; exact absurd int (by decide)
    unfold laneMinMax
    rw [if_neg single, if_neg single, if_pos int, if_pos rfl]
    refine Prod.ext ?_ rfl
    cases uns
    all_goals simp only [Bool.false_eq_true, if_false, if_true, decide_eq_true_eq, ← not_le, ite_not, S]

/-- A choice by strict order is the choice by order, where equal keys stand for equal values. -/
theorem ite_lt_eq_ite_le {α β : Type} [LinearOrder α] {x y : α} {a b : β} (same : x = y → a = b) :
    (if x < y then b else a) = if x ≤ y then b else a := by
  obtain below | equal | above := lt_trichotomy x y
  · rw [if_pos below, if_pos below.le]
  · rw [same equal, ite_self, ite_self]
  · rw [if_neg above.not_gt, if_neg above.not_ge]

/-- The maximum by the class of the view: equal integer lanes are one value, since they fit the view. -/
theorem laneMinMax_max {view : Nat} (uns : Bool) {a b : Nat} (ha : a < 2 ^ viewBits view) (hb : view ≠ 0 → b < 2 ^ viewBits view) :
    let S := signed (viewBits view)
    laneMinMax view uns true false a b = if view = 0 then laneMinMax 0 false true false a b
      else if viewInt view then (if (if uns then a ≤ b else S a ≤ S b) then b else a, 0) else (viewFloat view).minmax true false a b := by
  intro S
  cases int : viewInt view
  · exact laneMinMax_of_not_int int _ _ _ _ _
  · have single : view ≠ 0 := by rintro rfl; exact absurd int (by decide)
    have same : S a = S b → a = b := signed_inj ha (hb single)
    unfold laneMinMax
    rw [if_neg single, if_neg single, if_pos int, if_pos rfl]
    refine Prod.ext ?_ rfl
    cases uns
    · simpa only [Bool.false_eq_true, if_false, if_true, decide_eq_true_eq] using ite_lt_eq_ite_le same
    · simpa only [if_true, decide_eq_true_eq] using ite_lt_eq_ite_le id

/-- Settles O25: the arithmetic by the class of the view, minimum and maximum by order, and VABS and VNEG, each lane by lane. -/
theorem vectorArithmetic : Obligations.VectorArithmetic := by
  unfold Obligations.VectorArithmetic vecArith
  intro o s
  have single (rnd sat : List Nat) (wf : o.common [1, 3, 4, 2, 5, 6] rnd sat true = true) : o.view.toNat ≠ 0 :=
    (by decide : ∀ v ∈ [1, 3, 4, 2, 5, 6], v ≠ 0) _ (view_mem_of_common wf)
  have float (rnd sat : List Nat) (wf : o.common [0, 1, 3, 4] rnd sat true = true) : viewInt o.view.toNat = false :=
    (by decide : ∀ v ∈ [0, 1, 3, 4], viewInt v = false) _ (view_mem_of_common wf)
  simp only [List.forall_mem_cons, List.not_mem_nil]
  refine ⟨fun _ => ?vadd, fun _ => ?vsub, fun wf => ?vmul, fun wf => ?vfma, fun wf => ?vfms, fun wf => ?vfnma, fun _ => ?vmin, fun _ => ?vmax,
    fun wf => ?vminp, fun wf => ?vmaxp, fun _ => ?vabs, fun _ => ?vneg, fun _ h => h.elim⟩
  all_goals
    refine (exec_eq_runOp (by exact List.cons_ne_nil _ _) s).trans ?_
    delta slotOp
    dsimp only
  case vadd | vsub => exact runOp_arith2 s o _ _ _
  case vmul =>
    have noPairs := single _ _ (Bool.and_eq_true_iff.mp wf).1
    exact (runOp_arith2 s o _ _ _).trans (by simp only [if_neg noPairs])
  case vfma | vfms | vfnma => exact runOp_arith3 (single _ _ wf) s _ _
  case vmin => exact runOp_minmaxOp _ _ fun i => laneMinMax_min _ _ _ _
  case vmax => exact runOp_minmaxOp _ _ fun i => laneMinMax_max _ (laneOf_lt _ _ _) fun notPair => lb_lt notPair s i
  case vminp | vmaxp => exact runOp_minmaxOp _ _ fun i => laneMinMax_of_not_int (float _ _ (Bool.and_eq_true_iff.mp wf).1) _ _ _ _ _
  case vabs | vneg =>
    refine runOp_laneOp 4 fun i => ?_
    rw [← fitInt_eq (viewBits_pos _)]
    rfl

end Sys2Proof.Claim
end

section
namespace Sys2Proof.Claim
open Sys2Proof Sys2Proof.Machine

/-! The other lane-wise vector instructions (R161 to R163, R168, R169, R172, R173). -/

/-- A count at or above the width shifts every bit out (R162). -/
theorem shifted_eq (w n v : Nat) : (if w ≤ n then 0 else v) = if n < w then v else 0 := by
  simp only [← not_lt, ite_not]

/-- Settles O26: each instruction is `laneOp` or `bitOp` of the function that R161 to R173 give for its lanes. -/
theorem vectorLaneResults : Obligations.VectorLaneResults := by
  unfold Obligations.VectorLaneResults vecLanes
  intro o s
  simp only [List.forall_mem_cons, List.not_mem_nil]
  refine ⟨fun _ => ?vsel, fun _ => ?vand, fun _ => ?vor, fun _ => ?vxor, fun _ => ?vnot, fun _ => ?vshl, fun _ => ?vshr, fun _ => ?vsar,
    fun _ => ?vmov, fun _ => ?vfill, fun _ => ?viota, fun _ => ?vexp2, fun _ => ?vlog2, fun _ => ?vrcp, fun _ => ?vrsq, fun _ => ?vsqrt,
    fun _ => ?vtanh, fun _ => ?vsigm, fun _ => ?vgelu, fun _ => ?vperm, fun _ => ?vrot, fun _ => ?vbcl, fun _ => ?vzip, fun _ => ?vunzp,
    fun _ => ?vrng, fun _ h => h.elim⟩
  all_goals
    refine (exec_eq_runOp (by exact List.cons_ne_nil _ _) s).trans ?_
    delta slotOp
    dsimp only
  case vsel => exact runOp_laneOp 2 fun i => by rw [bLane_eq]; rfl
  case vand | vor | vxor | vsar => exact runOp_bitOp s o _
  case vshl | vshr => exact (runOp_bitOp s o _).trans (by simp only [shifted_eq]; rfl)
  case vfill =>
    refine runOp_laneOp 2 fun i => ?_
    rw [← bLane_eq]
    unfold bLane
    split <;> rfl
  case viota =>
    refine runOp_laneOp 2 fun i => ?_
    rw [← fitInt_eq (viewBits_pos _)]
    rfl
  case vnot | vmov | vexp2 | vlog2 | vrcp | vrsq | vsqrt | vtanh | vsigm | vgelu | vperm | vrot | vbcl | vzip | vunzp | vrng =>
    exact runOp_laneOp _ fun i => rfl

end Sys2Proof.Claim
end

section
namespace Sys2Proof.Claim
open Sys2Proof Sys2Proof.Machine

/-! Moves to and from lanes, and conversions (R163 to R167). -/

/-- The row write of lane results, given as the lanes with their values and flags. -/
theorem runOp_vWrite {f : Op} {s : State} {o : VOps} {lat : Nat} {l : List (Nat × Nat × Flags)} (h : f s s = vWrite s o lat l) :
    runOp f s = .next (s.addWrite (laneWrite o.vd o.view.toNat (l.map fun x => (x.1, x.2.1))) lat (l.foldl (fun a x => a ||| x.2.2) 0)) :=
  runOp_ok h

/-- A single lane that raises no flag. -/
theorem vWrite_singleton (s : State) (o : VOps) (lat i v : Nat) :
    vWrite s o lat [(i, v, 0)] = .ok (s.addWrite (laneWrite o.vd o.view.toNat [(i, v)]) lat) :=
  congrArg (fun flags => Except.ok (s.addWrite (laneWrite o.vd o.view.toNat [(i, v)]) lat flags)) BitVec.or_zero

theorem filterMap_ite {α β : Type} (p : α → Bool) (f : α → β) (l : List α) :
    (l.filterMap fun x => if p x then some (f x) else none) = (l.filter p).map f := by
  rw [← List.filterMap_eq_map, List.filterMap_filter]
  rfl

/-- Settles O27: VEXT, VINS and VQNT are one write each, and the others one row write of the lanes that the part and the mask leave. -/
theorem vectorMovesAndConversions : Obligations.VectorMovesAndConversions := by
  unfold Obligations.VectorMovesAndConversions
  intro o s V src part m row rows cvt q
  refine ⟨?vext, ?vins, ?vcvt, ?vcvts, ?vqnt, ?vfold, ?vsplit⟩
  all_goals
    refine (exec_eq_runOp (by exact List.cons_ne_nil _ _) s).trans ?_
    delta slotOp
    dsimp only
  case vext => exact runOp_ok (by unfold opVext; rfl)
  case vins => exact runOp_ok (vWrite_singleton s o 2 _ _)
  case vcvt => exact runOp_vWrite (by unfold opVcvt cvtOp; rfl)
  case vcvts => exact runOp_vWrite (by unfold opVcvts cvtOp; rfl)
  case vqnt =>
    refine runOp_ok ?_
    unfold opVqnt lanesOf
    dsimp only
    rw [List.map_map]
    rfl
  case vfold =>
    refine (runOp_vWrite (by unfold opVfold; rfl)).trans ?_
    rw [filterMap_ite]
    rfl
  case vsplit => exact runOp_ok (by unfold opVsplit; rfl)

end Sys2Proof.Claim
end

section
namespace Sys2Proof.Claim
open Sys2Proof Sys2Proof.Machine

/-! Reductions and scans (R170, R171). -/

theorem headWrite_eq (s : State) (o : VOps) (lat w : Nat) (r : Option (Nat × Flags)) : headWrite s o lat w r = .ok (headTo s o lat w r) := by
  cases r with
  | none => rfl
  | some r =>
    have built : buildRow [(0, w, r.1)] = (BitVec.ofNat 4096 (r.1 % 2 ^ w), BitVec.ofNat 512 (2 ^ (w / 8) - 1)) := by
      simp [buildRow]
    unfold headWrite headTo
    dsimp only
    rw [built]

theorem runOp_headWrite {f : Op} {s : State} {o : VOps} {lat w : Nat} {r : Option (Nat × Flags)} (h : f s s = headWrite s o lat w r) :
    runOp f s = .next (headTo s o lat w r) :=
  runOp_ok (h.trans (headWrite_eq s o lat w r))

theorem runOp_reduceOp (s : State) (o : VOps) (g : Nat → Nat) (op : Nat → Nat → Nat × Flags) :
    runOp (reduceOp o g op) s = .next (headTo s o 9 (viewBits o.view.toNat)
      (joinTree (fun p q => ((op p.1 q.1).1, p.2 ||| q.2 ||| (op p.1 q.1).2)) 9 (treeNodes s o fun x => (g x, 0)))) :=
  runOp_headWrite (f := reduceOp o g op) rfl

/-- The running total of a scan over lanes, in their order (R171). -/
def scanTotal (s : State) (o : VOps) (l : List Nat) : Nat := l.foldl (fun a i => (scanStep o a (la s o i)).1) 0

theorem scanTotal_concat (s : State) (o : VOps) (l : List Nat) (i : Nat) :
    scanTotal s o (l ++ [i]) = (scanStep o (scanTotal s o l) (la s o i)).1 :=
  List.foldl_concat _ _ _ _

/-- What a scan of lanes l makes of the j-th of them: the lane, its value before or after its own step, and its flags. -/
def scanLane (s : State) (o : VOps) (l : List Nat) (j : Nat) : Nat × Nat × Flags :=
  let before := scanTotal s o (l.take j)
  let step := scanStep o before (la s o (l.getD j 0))
  (l.getD j 0, if o.vc.getLsbD 0 then before else step.1, step.2)

/-- One lane of the model's scan: the new total, and the results with this lane's. -/
def scanAdd (s : State) (o : VOps) (a : Nat × List (Nat × Nat × Flags)) (i : Nat) : Nat × List (Nat × Nat × Flags) :=
  let step := scanStep o a.1 (la s o i)
  (step.1, a.2 ++ [(i, if o.vc.getLsbD 0 then a.1 else step.1, step.2)])

/-- A lane's result depends on the lanes up to it alone. -/
theorem scanLane_concat (s : State) (o : VOps) (l : List Nat) (i : Nat) {j : Nat} (h : j < l.length) : scanLane s o (l ++ [i]) j = scanLane s o l j := by
  unfold scanLane
  rw [List.take_append_of_le_length h.le, List.getD_append _ _ _ _ h]

theorem scanLane_last (s : State) (o : VOps) (l : List Nat) (i : Nat) :
    scanLane s o (l ++ [i]) l.length = (i, if o.vc.getLsbD 0 then scanTotal s o l else (scanStep o (scanTotal s o l) (la s o i)).1,
      (scanStep o (scanTotal s o l) (la s o i)).2) := by
  unfold scanLane
  rw [List.take_left, List.getD_append_right _ _ _ _ le_rfl, Nat.sub_self]
  rfl

theorem foldl_scanAdd (s : State) (o : VOps) (l : List Nat) :
    l.foldl (scanAdd s o) (0, []) = (scanTotal s o l, (List.range l.length).map (scanLane s o l)) := by
  induction l using List.reverseRecOn with
  | nil => rfl
  | append_singleton l i ih =>
    have before : (List.range l.length).map (scanLane s o (l ++ [i])) = (List.range l.length).map (scanLane s o l) :=
      List.map_congr_left fun j hj => scanLane_concat s o l i (List.mem_range.mp hj)
    rw [List.foldl_concat, ih, List.length_append, List.length_singleton, List.range_succ, List.map_append, before, List.map_singleton, scanLane_last]
    exact Prod.ext (scanTotal_concat s o l i).symm rfl

theorem map_fst_scanLane (s : State) (o : VOps) (l : List Nat) : ((List.range l.length).map (scanLane s o l)).map (·.1) = l := by
  rw [List.map_map]
  refine List.ext_getElem (by rw [List.length_map, List.length_range]) fun j _ hj => ?_
  rw [List.getElem_map, List.getElem_range]
  exact List.getD_eq_getElem l 0 hj

theorem opVscan_eq (s : State) (o : VOps) :
    opVscan o s s = vWrite s o 9 ((List.range (picked s o).length).map (scanLane s o (picked s o))) := by
  have scanned : opVscan o s s = vWrite s o 9 ((picked s o).foldl (scanAdd s o) (0, [])).2 := rfl
  rw [scanned, foldl_scanAdd]

/-- A sum with no selected lane, and its three forms by the class of the view (R170). -/
theorem opVrsum_of_none {s : State} {o : VOps} (none : picked s o = []) : opVrsum o s s = headWrite s o 9 32 .none := by
  have lanes : vLanes s o = [] := none
  unfold opVrsum
  dsimp only
  rw [lanes]
  rfl

theorem opVrsum_of_some {s : State} {o : VOps} (some : picked s o ≠ []) :
    let V := o.view.toNat
    let m := rndOf o.rnd.toNat
    opVrsum o s s =
      if V = 0 then headWrite s o 9 64 (.some (((picked s o).map (la s o)).foldl (fun a x => ((pairAdd a.1 x).1, a.2 ||| (pairAdd a.1 x).2)) (0, 0)))
      else if viewInt V then headWrite s o 9 32 (.some (fitInt 32 (o.sat && V == 2)
        ((((picked s o).map (la s o)).map (signed (viewBits V))).foldl (· + ·) 0)))
      else headWrite s o 9 32 (joinTree (fun p q => ((fp32.add m p.1 q.1).1, p.2 ||| q.2 ||| (fp32.add m p.1 q.1).2)) 9
        (treeNodes s o fun x => fp32.ofVal m (laneVal m V x))) := by
  intro V m
  have occupied : ¬((picked s o).map (la s o)).isEmpty = true := by
    rwa [List.isEmpty_map, List.isEmpty_iff]
  exact if_neg occupied

/-- Settles O28: the sum by the class of the view, the other reductions as the model's tree, and the scan by `foldl_scanAdd`. -/
theorem vectorReductions : Obligations.VectorReductions := by
  unfold Obligations.VectorReductions
  intro o s V w m nodes join uns
  refine ⟨fun none => ?none, fun some int => ?int, fun some pair => ?pair, fun some notPair notInt => ?float, ?vrmax, ?vrmin, ?vramax, ?vscan⟩
  case none => exact runOp_headWrite (f := opVrsum o) (opVrsum_of_none none)
  case int =>
    have notPair : V ≠ 0 := fun h => absurd int (by rw [h]; decide)
    refine runOp_headWrite (f := opVrsum o) ((opVrsum_of_some some).trans ?_)
    rw [if_neg notPair, if_pos int, fitInt_eq (by decide), List.foldl_map, List.foldl_map]
  case pair =>
    refine runOp_headWrite (f := opVrsum o) ((opVrsum_of_some some).trans ?_)
    rw [if_pos pair, List.foldl_map]
  case float =>
    refine runOp_headWrite (f := opVrsum o) ((opVrsum_of_some some).trans ?_)
    rw [if_neg notPair, if_neg (Bool.eq_false_iff.mp notInt)]
    rfl
  case vrmax => exact runOp_reduceOp s o id (laneMinMax V uns true false)
  case vrmin => exact runOp_reduceOp s o id (laneMinMax V uns false false)
  case vramax =>
    change runOp (opVramax o) s = _
    unfold opVramax
    exact runOp_reduceOp s o _ _
  case vscan =>
    refine ⟨_, map_fst_scanLane s o (picked s o), fun j hj => ?_, _, runOp_vWrite (f := opVscan o) (opVscan_eq s o)⟩
    intro before
    have total : before = scanTotal s o ((picked s o).take j) := by cases j <;> rfl
    rw [total, List.getD_eq_getElem _ _ hj, List.getElem_map, List.getElem_range]
    rfl

end Sys2Proof.Claim
end

section
namespace Sys2Proof.Claim
open Sys2Proof Sys2Proof.Machine

/-! VCMP and the mask instructions (R160, R174). -/

theorem maskBits_filter (p : Nat → Bool) (n : Nat) : maskBits ((List.range n).filter p) = BitVec.ofNat 512 (pgetSum p n) :=
  congrArg (BitVec.ofNat 512) List.foldl_filter

/-- A mask made from a set of lanes holds their bits, and no others. -/
theorem getLsbD_maskBits (p : Nat → Bool) (n : Nat) {i : Nat} (hi : i < 512) :
    (maskBits ((List.range n).filter p)).getLsbD i = (decide (i < n) && p i) := by
  rw [maskBits_filter, BitVec.getLsbD_ofNat, decide_eq_true hi, Bool.true_and]
  by_cases below : i < n
  · rw [testBit_pgetSum p below, decide_eq_true below, Bool.true_and]
  · have above : pgetSum p n < 2 ^ i := (pgetSum_lt p n).trans_le (Nat.pow_le_pow_right (by decide) (not_lt.mp below))
    rw [Nat.testBit_lt_two_pow above, decide_eq_false below, Bool.false_and]

theorem getLsbD_bitsMask (p : Nat → Bool) {i : Nat} (hi : i < 512) : (bitsMask p).getLsbD i = p i :=
  (getLsbD_maskBits p 512 hi).trans (by rw [decide_eq_true hi, Bool.true_and])

/-- Of lanes below n, a set is the mask of those that belong to it. -/
theorem maskBits_eq_bitsMask (p : Nat → Bool) (n : Nat) : maskBits ((List.range n).filter p) = bitsMask fun i => decide (i < n) && p i :=
  BitVec.eq_of_getLsbD_eq fun _ hi => (getLsbD_maskBits p n hi).trans (getLsbD_bitsMask (fun i => decide (i < n) && p i) hi).symm

theorem maskBits_range (n : Nat) : maskBits (List.range (Nat.min n 512)) = bitsMask fun i => decide (i < n) := by
  refine BitVec.eq_of_getLsbD_eq fun i hi => ?_
  have bit := getLsbD_maskBits (fun _ => true) (Nat.min n 512) hi
  have inside : i < Nat.min n 512 ↔ i < n := lt_min_iff.trans (and_iff_left hi)
  rw [List.filter_true, Bool.and_true, decide_eq_decide.mpr inside] at bit
  exact bit.trans (getLsbD_bitsMask (fun i => decide (i < n)) hi).symm

/-- The condition of VCMP with code cc on lanes a and b of a view (R160). -/
def vcmpHolds (view cc a b : Nat) : Bool :=
  let w := viewBits view
  let lt := if 8 ≤ cc then decide (a < b) else decide (signed w a < signed w b)
  let r := (laneVal .ne view a).rel (laneVal .ne view b)
  if viewInt view then
    (if cc = 0 then a == b else if cc = 1 then a != b else if cc = 2 ∨ cc = 8 then lt else if cc = 3 ∨ cc = 9 then lt || a == b
     else if cc = 4 ∨ cc = 10 then !(lt || a == b) else !lt)
  else if cc = 0 then r.eq else if cc = 1 then !r.eq else if cc = 2 then r.lt else if cc = 3 then r.lt || r.eq
  else if cc = 4 then r.gt else if cc = 5 then r.gt || r.eq else if cc = 6 then r.un else !r.un

/-- The NV of that comparison: the orderings raise it on every NaN, the others on a signalling one. -/
def vcmpFlags (view cc a b : Nat) : Flags :=
  let r := (laneVal .ne view a).rel (laneVal .ne view b)
  if viewInt view then 0 else if 2 ≤ cc ∧ cc ≤ 5 then (if r.un then flNV else 0) else if r.sig then flNV else 0

/-- The integer conditions, from what the order and the equality of the lanes say. -/
theorem intCondition_eq (cc : Nat) (lt eq : Bool) :
    (match cc with
      | 0 => eq
      | 1 => !eq
      | 2 | 8 => lt
      | 3 | 9 => !(!eq && !lt)
      | 4 | 10 => !eq && !lt
      | _ => !lt) =
    if cc = 0 then eq else if cc = 1 then !eq else if cc = 2 ∨ cc = 8 then lt else if cc = 3 ∨ cc = 9 then lt || eq
    else if cc = 4 ∨ cc = 10 then !(lt || eq) else !lt := by
  match cc with
  | 0 | 1 | 2 | 3 | 4 | 5 | 6 | 7 | 8 | 9 | 10 => cases lt <;> cases eq <;> rfl
  | n + 11 => simp

theorem vcmpLane_eq (view cc a b : Nat) : vcmpLane view cc a b = (vcmpHolds view cc a b, vcmpFlags view cc a b) := by
  unfold vcmpLane vcmpHolds vcmpFlags
  cases viewInt view
  · refine Prod.ext ?_ ?_
    · match cc with
      | 0 | 1 | 2 | 3 | 4 | 5 | 6 => rfl
      | n + 7 => simp
    · simp
  · refine Prod.ext ?_ rfl
    exact intCondition_eq cc _ _

/-- The keys of the entries that pass a test. -/
theorem map_fst_filter {α β : Type} (l : List α) (f : α → β) (q : α × β → Bool) :
    ((l.map fun i => (i, f i)).filter q).map (·.1) = l.filter fun i => q (i, f i) := by
  rw [List.filter_map, List.map_map]
  exact List.map_id _

/-- The lanes that VCMP selects and finds to hold. -/
def vcmpOn (s : State) (o : VOps) (i : Nat) : Bool := vcmpHolds o.view.toNat o.vc.toNat (la s o i) (lb s o i) && (s.cur.kreg o.mask).getLsbD i

theorem decide_mem_picked (s : State) (o : VOps) (i : Nat) :
    decide (i ∈ picked s o) = (decide (i < viewLanes o.view.toNat) && (s.cur.kreg o.mask).getLsbD i) := by
  unfold picked
  rw [Bool.decide_congr List.mem_filter, Bool.decide_and, Bool.decide_congr List.mem_range, Bool.decide_eq_true]

/-- VCMP is one write of its mask, over all bits but those that it keeps (R160). -/
theorem opVcmp_eq (s : State) (o : VOps) :
    opVcmp o s s = .ok (s.addWrite (.k (o.vd.extractLsb' 0 4) (maskBits ((List.range (viewLanes o.view.toNat)).filter (vcmpOn s o)))
      (~~~maskBits ((List.range (viewLanes o.view.toNat)).filter fun i => !(s.cur.kreg o.mask).getLsbD i))) 4
      ((picked s o).foldl (fun a i => a ||| vcmpFlags o.view.toNat o.vc.toNat (la s o i) (lb s o i)) 0)) := by
  unfold opVcmp
  simp only [bLane_eq, vcmpLane_eq, map_fst_filter, List.foldl_map]
  have on : (picked s o).filter (fun i => vcmpHolds o.view.toNat o.vc.toNat (la s o i) (lb s o i)) =
      (List.range (viewLanes o.view.toNat)).filter (vcmpOn s o) := List.filter_filter
  rw [← on]
  rfl

theorem runOp_maskOp (s : State) (o : VOps) (f : Mask → Mask → Mask) : runOp (maskOp o f) s =
    .next (s.addWrite (.k (o.vd.extractLsb' 0 4) (f (s.cur.kreg (o.va.extractLsb' 0 4)) (s.cur.kreg (o.vb.extractLsb' 0 4))) (BitVec.allOnes 512)) 1) :=
  runOp_ok (f := maskOp o f) rfl

/-- Settles O29: VCMP's mask bit by bit from `opVcmp_eq`, and each mask instruction as one write. -/
theorem vectorCompareAndMasks : Obligations.VectorCompareAndMasks := by
  unfold Obligations.VectorCompareAndMasks
  refine ⟨fun o s _ => ?vcmp, fun o s => ?masks⟩
  case vcmp =>
    intro V w cc lt r cond nv
    refine ⟨_, _, runOp_ok (f := opVcmp o) (opVcmp_eq s o), fun i hi => ⟨?kept, ?held⟩⟩
    · rw [BitVec.getLsbD_not, getLsbD_maskBits _ _ hi, decide_eq_true hi, Bool.true_and]
    · rw [getLsbD_maskBits _ _ hi, decide_mem_picked, Bool.and_assoc, Bool.and_comm (BitVec.getLsbD _ _)]
      rfl
  case masks =>
    intro A B V into nonzero
    refine ⟨?kand, ?kor, ?kxor, ?knot, ?kpop, ?kset, ?ksetImm⟩
    all_goals
      refine (exec_eq_runOp (by exact List.cons_ne_nil _ _) s).trans ?_
      delta slotOp
      dsimp only
    case kand | kor | kxor | knot => exact runOp_maskOp s o _
    case kpop =>
      refine runOp_headWrite ?_
      rw [← List.countP_eq_length_filter]
      rfl
    case kset =>
      refine runOp_ok ?_
      unfold opKset
      dsimp only
      rw [maskBits_eq_bitsMask]
      rfl
    case ksetImm =>
      refine runOp_ok ?_
      unfold opKsetImm
      dsimp only
      rw [maskBits_range]
      rfl

end Sys2Proof.Claim
end

section
namespace Sys2Proof.Claim
open Sys2Proof Sys2Proof.Machine

/-! Events that a list of steps puts on the agenda. -/

/-- From s to t only the agenda differs, and nothing has left it. -/
structure AgendaGrows (s t : State) : Prop where
  frame : t = { s with agenda := t.agenda }
  kept : ∀ a ∈ s.agenda, a ∈ t.agenda

theorem AgendaGrows.refl (s : State) : AgendaGrows s s := ⟨rfl, fun _ h => h⟩

theorem AgendaGrows.trans {s t u : State} (h : AgendaGrows s t) (g : AgendaGrows t u) : AgendaGrows s u :=
  ⟨by rw [g.frame, h.frame], fun a ha => g.kept a (h.kept a ha)⟩

theorem AgendaGrows.planned {s t : State} (h : AgendaGrows s t) {at_ : Nat} {ev : Instr} (p : planned s at_ ev) : planned t at_ ev := by
  obtain ⟨a, ha, there⟩ := p
  exact ⟨a, h.kept a ha, there⟩

theorem agendaGrows_schedule (s : State) (at_ prio : Nat) (ev : Instr) : AgendaGrows s (s.schedule at_ prio ev) :=
  ⟨rfl, fun a ha => (State.mem_schedule s at_ prio ev a).mpr (.inr ha)⟩

theorem planned_schedule (s : State) (at_ prio : Nat) (ev : Instr) : planned (s.schedule at_ prio ev) at_ ev :=
  ⟨⟨at_, prio, ev⟩, (State.mem_schedule s at_ prio ev _).mpr (.inl rfl), rfl, rfl⟩

/-- One event for each member of a list. -/
theorem foldl_schedule_spec (at_ : Nat → Nat) (prio : Nat) (ev : Nat → Instr) (l : List Nat) (s : State) :
    let t := l.foldl (fun s j => s.schedule (at_ j) prio (ev j)) s
    AgendaGrows s t ∧ ∀ j ∈ l, planned t (at_ j) (ev j) := by
  induction l generalizing s with
  | nil => exact ⟨.refl s, nofun⟩
  | cons i l ih =>
    obtain ⟨grows, all⟩ := ih (s.schedule (at_ i) prio (ev i))
    refine ⟨(agendaGrows_schedule s _ _ _).trans grows, fun j hj => ?_⟩
    obtain rfl | hj := List.mem_cons.mp hj
    · exact grows.planned (planned_schedule s _ _ _)
    · exact all j hj

/-- The claims of an operand stand for their cycles. -/
theorem scheduleClaims_spec (s : State) (n op first gap steps : Nat) (isB : Bool) :
    let t := scheduleClaims s n op first gap steps isB
    AgendaGrows s t ∧ ∀ j, j < steps → planned t (first + gap * j) (.mmaOperandClaim n op j isB) := by
  obtain ⟨grows, all⟩ := foldl_schedule_spec (fun j => first + gap * j) prioClaim (.mmaOperandClaim n op · isB) (List.range steps) s
  exact ⟨grows, fun j hj => all j (List.mem_range.mpr hj)⟩

/-! Entry into the matrix engine (R177, R178). -/

theorem oorNoted_refl (s : State) : OorNoted s s := ⟨rfl, rfl, rfl, rfl, rfl, ⟨s.cur.oorrec, rfl⟩, fun _ _ => rfl⟩

theorem oorNoted_recordOor (s : State) (write : Bool) (oor : Option Nat) : OorNoted s (s.recordOor write oor) := by
  cases oor with
  | none => exact oorNoted_refl s
  | some a =>
    obtain ⟨⟨v, noted⟩, ne⟩ := noteOor_spec (oorWord_valid a write s.ix.slot s.cur.tcyc) s.cur
    exact ⟨rfl, rfl, rfl, rfl, rfl, ⟨v, (core_modCore_same (s := s) ne).trans noted⟩, fun k hk => core_modCore_other (s := s) ne hk⟩

@[simp] theorem recordOor_nextId (s : State) (write : Bool) (oor : Option Nat) : (s.recordOor write oor).nextId = s.nextId := by cases oor <;> rfl

theorem ne_init_of_mem_mops {c : Core} {m : MOp} (h : m ∈ c.mops) : c ≠ Core.init := fun reset => List.not_mem_nil (a := m) (by rw [reset] at h; exact h)

/-- A completion waits for its own cycle, and for two cycles after each write in flight to its tiles (R178). -/
theorem tileDone_spec (c : Core) (own : Nat) (tiles : List Nat) : own ≤ tileDone c own tiles ∧
    (∀ k ∈ tiles, ∀ w, tileWriter c.mops k = some w → w.done + 2 ≤ tileDone c own tiles) ∧
    ((∀ k ∈ tiles, tileWriter c.mops k = none) → tileDone c own tiles = own) := by
  induction tiles generalizing own with
  | nil => exact ⟨le_rfl, nofun, fun _ => rfl⟩
  | cons t l ih =>
    have step : tileDone c own (t :: l) = tileDone c (tileDone c own [t]) l := rfl
    rw [step]
    obtain ⟨least, after, free⟩ := ih (tileDone c own [t])
    have head : own ≤ tileDone c own [t] ∧ (∀ w, tileWriter c.mops t = some w → w.done + 2 ≤ tileDone c own [t]) ∧
        (tileWriter c.mops t = none → tileDone c own [t] = own) := by
      unfold tileDone
      simp only [List.foldl_cons, List.foldl_nil]
      cases tileWriter c.mops t with
      | none => exact ⟨Nat.le_refl own, fun _ h => (Option.some_ne_none _ h.symm).elim, fun _ => rfl⟩
      | some w => exact ⟨Nat.le_max_left _ _, fun _ h => by cases h; exact Nat.le_max_right _ _, fun h => (Option.some_ne_none _ h).elim⟩
    obtain ⟨own_le, writer, none⟩ := head
    refine ⟨own_le.trans least, fun k hk w hw => ?_, fun all => ?_⟩
    · obtain rfl | hk := List.mem_cons.mp hk
      · exact (writer w hw).trans least
      · exact after k hk w hw
    · rw [free fun k hk => all k (List.mem_cons_of_mem t hk)]
      exact none (all t List.mem_cons_self)

/-- Core c with one more instruction in the matrix engine, which is busy until a cycle. -/
def withMop (c : Core) (m : MOp) (busy : Nat) : Core := { c with mops := c.mops ++ [m], mBusyUntil := busy }

theorem withMop_ne_init (c : Core) (m : MOp) (busy : Nat) : withMop c m busy ≠ Core.init :=
  ne_init_of_mem_mops (m := m) (List.mem_append_right _ List.mem_cons_self)

/-- What `enterEngine` leaves: the instruction as it stands in the engine, and the core beside it as the slots before have left it. -/
theorem entered_enterEngine {s u : State} (noted : OorNoted s u) (id : u.nextId = s.nextId) (i : Instr) (occ own : Nat) (reads writes : List Nat)
    (a b : Desc) (panel : Option Panel) :
    let e := enterEngine s u i occ own reads writes a b panel
    Entered s e.2 i occ own reads writes e.1 ∧ e.2.ix.core = s.ix.core ∧ e.1.descA = a ∧ e.1.descB = b := by
  intro e
  obtain ⟨-, mem, core, -, -, ⟨x, issuing⟩, others⟩ := noted
  have read : u.cur = withOor s.cur x := by unfold State.cur; rw [core]; exact issuing
  have stands : e.2.cur = withMop u.cur e.1 (s.clock + occ) := cur_modCur_of_ne (s := u.fresh.2) (f := (withMop · e.1 (s.clock + occ))) (withMop_ne_init _ _ _)
  obtain ⟨least, after, free⟩ := tileDone_spec s.cur own (reads ++ writes)
  refine ⟨⟨?_, ?_, ?_, ?_, ?_, fun k hk => ?_, fun k => ?_, id, rfl, rfl, rfl, rfl, rfl, least, after, free, ?_⟩, core, rfl, rfl⟩
  · rw [stands, read]; rfl
  · rw [stands]; rfl
  · rw [stands, read]; rfl
  · rw [stands, read]; rfl
  · rw [stands, read]; rfl
  · have kept : e.2.core k = u.core k := core_modCore_other (s := u.fresh.2) (f := (withMop · e.1 (s.clock + occ))) (withMop_ne_init _ _ _) (by
      change k ≠ u.ix.core
      rw [core]
      exact hk)
    rw [kept, others k hk]
  · change memByte u.mem k = memByte s.mem k
    rw [mem]
  · have due : planned e.2 e.1.done (.matrixWriteComplete s.ix.core u.nextId) := planned_schedule _ _ _ _
    rw [id] at due
    exact due

/-- Core c with another panel. -/
def withPanel (c : Core) (p : Option Panel) : Core := { c with panel := p }

/-- What has entered the engine stands where besides only the panel and the agenda change. -/
theorem entered_of_panel {s t u : State} {i : Instr} {occ own : Nat} {reads writes : List Nat} {m : MOp} (h : Entered s t i occ own reads writes m)
    {p : Option Panel} (cur : u.cur = withPanel t.cur p) (others : ∀ k, k ≠ s.ix.core → u.core k = t.core k) (mem : u.mem = t.mem)
    (agenda : ∀ a ∈ t.agenda, a ∈ u.agenda) : Entered s u i occ own reads writes m := by
  obtain ⟨mops, busy, rows, regs, pend, beside, bytes, id, instr, issued, tiles, dead, input, least, after, free, e, he, due⟩ := h
  refine ⟨?_, ?_, ?_, ?_, ?_, fun k hk => (others k hk).trans (beside k hk), fun k => ?_, id, instr, issued, tiles, dead, input, least, after, free,
    e, agenda e he, due⟩
  · rw [cur]; exact mops
  · rw [cur]; exact busy
  · rw [cur]; exact rows
  · rw [cur]; exact regs
  · rw [cur]; exact pend
  · rw [mem]; exact bytes k

theorem mem_mops_of_entered {s t : State} {i : Instr} {occ own : Nat} {reads writes : List Nat} {m : MOp} (h : Entered s t i occ own reads writes m) :
    m ∈ t.cur.mops := by
  obtain ⟨mops, -⟩ := h
  rw [mops]
  exact List.mem_append_right _ List.mem_cons_self

theorem AgendaGrows.entered {s t u : State} {i : Instr} {occ own : Nat} {reads writes : List Nat} {m : MOp} (h : Entered s t i occ own reads writes m)
    (grows : AgendaGrows t u) : Entered s u i occ own reads writes m := by
  obtain ⟨frame, kept⟩ := grows
  have cores (k : Nat) : u.core k = t.core k := by rw [frame]; rfl
  have ix : u.ix = t.ix := by rw [frame]
  have mem : u.mem = t.mem := by rw [frame]
  refine entered_of_panel h (p := t.cur.panel) ?_ (fun k _ => cores k) mem kept
  unfold State.cur
  rw [ix, cores]
  rfl

/-! The checks at issue (R143, R177, R186). -/

theorem engineBusy_iff (s : State) : engineBusy s = true ↔ s.clock < s.cur.mBusyUntil := decide_eq_true_iff

theorem engineBusy_eq_false {s : State} (free : s.cur.mBusyUntil ≤ s.clock) : engineBusy s = false :=
  Bool.eq_false_iff.mpr fun busy => absurd ((engineBusy_iff s).mp busy) (Nat.not_lt.mpr free)

theorem runsPass_nil (s : State) (win : Option (Nat × Nat)) (write : Bool) : runsPass s win [] write :=
  ⟨by simp [State.runsRefused, clipRuns], .inr rfl⟩

/-- Operands that pass their checks enter an engine that is free. -/
theorem checkRuns_of_pass {s : State} {operands : List (Option (Nat × Nat) × List (Nat × Nat))} {write : Bool}
    (pass : ∀ w ∈ operands, runsPass s w.1 w.2 write) (free : s.cur.mBusyUntil ≤ s.clock) (cont : Option Nat → Except Trap State) :
    ∃ oor, checkRuns s operands write cont = cont oor := by
  have buffers : ¬(operands.any fun w => s.runsRefused s.ix.core write (clipRuns (s.ownLimits s.ix.core w.1) w.2)) = true := fun any => by
    obtain ⟨w, hw, refused⟩ := List.any_eq_true.mp any
    obtain ⟨allowed, -⟩ := pass w hw
    exact Bool.false_ne_true (allowed.symm.trans refused)
  have idle : ¬engineBusy s = true := Bool.eq_false_iff.mp (engineBusy_eq_false free)
  unfold checkRuns
  dsimp only
  rw [if_neg buffers]
  cases strict : s.strict s.ix.core with
  | false =>
    cases operands.findSome? fun w => firstOor (s.ownLimits s.ix.core w.1) w.2 with
    | none => exact ⟨none, if_neg idle⟩
    | some a => exact ⟨some a, if_neg idle⟩
  | true =>
    have inside : (operands.findSome? fun w => firstOor (s.ownLimits s.ix.core w.1) w.2) = none := by
      refine List.findSome?_eq_none_iff.mpr fun w hw => ?_
      obtain ⟨-, lax | none⟩ := pass w hw
      · exact absurd (strict.symm.trans lax) (by decide)
      · exact none
    rw [inside]
    exact ⟨none, if_neg idle⟩

theorem checkRuns_of_pass_one {s : State} {win : Option (Nat × Nat)} {runs : List (Nat × Nat)} {write : Bool} (pass : runsPass s win runs write)
    (free : s.cur.mBusyUntil ≤ s.clock) (cont : Option Nat → Except Trap State) : ∃ oor, checkRuns s [(win, runs)] write cont = cont oor :=
  checkRuns_of_pass (fun w hw => by rw [List.mem_singleton.mp hw]; exact pass) free cont

/-! MZERO, MFOLD and MTRN (R189). -/

theorem runOp_tileOp_busy {s : State} (busy : s.clock < s.cur.mBusyUntil) (i : Instr) (occ lat : Nat) (reads writes : List Nat) :
    runOp (tileOp i occ lat reads writes) s = .next (trapped s 0x12 0) :=
  runOp_traps (if_pos ((engineBusy_iff s).mpr busy))

theorem runOp_tileOp_free {s : State} (free : s.cur.mBusyUntil ≤ s.clock) (i : Instr) (occ lat : Nat) (reads writes : List Nat) :
    ∃ t m, runOp (tileOp i occ lat reads writes) s = .next t ∧ Entered s t i occ (s.clock + lat) reads writes m := by
  obtain ⟨entered, -⟩ := entered_enterEngine (oorNoted_refl s) rfl i occ (s.clock + lat) reads writes 0 0 none
  exact ⟨_, _, runOp_ok (if_neg (Bool.eq_false_iff.mp (engineBusy_eq_false free))), entered⟩

/-! MMA and MPRE (R179 to R187). -/

/-- The descriptor of operand B: the panel's, or the stream's. -/
def mmaB (o : MOps) (s : State) : Desc := if o.rb then ((s.cur.panel).map (·.desc)).getD (s.cur.greg o.sb) else s.cur.greg o.sb

/-- The runs of an MMA's operands. -/
def mmaRunsA (o : MOps) (s : State) : List (Nat × Nat) := (s.operand s.ix.core (s.cur.greg o.sa) true false).runs 0 o.k.toNat
def mmaRunsB (o : MOps) (s : State) : List (Nat × Nat) := if o.rb then [] else (s.operand s.ix.core (mmaB o s) false o.tb).runs 0 o.k.toNat

/-- An MMA in the engine. -/
def mmaEnter (o : MOps) (s : State) (oor : Option Nat) : MOp × State :=
  let steps := mopSteps (.mma o) (s.cur.greg o.sa) (mmaB o s)
  enterEngine s (s.recordOor false oor) (.mma o) ((if s.half s.ix.core then 16 else 8) * steps) (s.clock + (if s.half s.ix.core then 16 else 8) * steps + 22)
    (if o.zi then [] else tiles o.cp (if o.it then o.ti else o.tile)) (tiles o.cp o.tile) (s.cur.greg o.sa) (mmaB o s)
    (if o.rb then s.cur.panel else none)

/-- The claims of an MMA's operands join it. -/
def mmaEntered (o : MOps) (s : State) (oor : Option Nat) : State :=
  let steps := mopSteps (.mma o) (s.cur.greg o.sa) (mmaB o s)
  let gap := if s.half s.ix.core then 16 else 8
  let m := (mmaEnter o s oor).1
  let t := scheduleClaims (mmaEnter o s oor).2 s.ix.core m.id (s.clock + 2) gap steps false
  if o.rb then t else scheduleClaims t s.ix.core m.id (s.clock + (if s.half s.ix.core then 10 else 6)) gap steps true

theorem opMma_eq {o : MOps} {s : State} (ok : mmaStreamsOk s o (mmaB o s)) :
    opMma o s s = checkRuns s [((s.operand s.ix.core (s.cur.greg o.sa) true false).win, mmaRunsA o s), ((s.operand s.ix.core (mmaB o s) false o.tb).win, mmaRunsB o s)]
      false fun oor => .ok (mmaEntered o s oor) := by
  obtain ⟨useA, streamB, panel, int, declA⟩ := ok
  have source : (if o.it then o.ti else o.tile).toNat = if o.it then o.ti.toNat else o.tile.toNat := apply_ite _ _ _ _
  unfold opMma mmaEntered mmaEnter mmaRunsB tiles
  rw [source]
  cases rb : o.rb with
  | false =>
    have b : mmaB o s = s.cur.greg o.sb := by unfold mmaB; rw [rb]; rfl
    obtain ⟨okB, declB⟩ := streamB rb
    rw [b] at okB declB int ⊢
    dsimp only
    rw [if_neg (by simpa [useA, okB] using int), if_neg (by simp [declA, declB])]
    rfl
  | true =>
    obtain ⟨p, held, deep⟩ := panel rb
    have b : mmaB o s = p.desc := by unfold mmaB; rw [rb, held]; rfl
    rw [b] at int ⊢
    dsimp only
    rw [held]
    dsimp only
    rw [if_neg (by simpa [useA, deep] using int), if_neg (by simp [declA])]
    rfl

theorem exec_mma {o : MOps} {s : State} (ok : mmaStreamsOk s o (mmaB o s))
    (passA : runsPass s (s.operand s.ix.core (s.cur.greg o.sa) true false).win (mmaRunsA o s) false)
    (passB : runsPass s (s.operand s.ix.core (mmaB o s) false o.tb).win (mmaRunsB o s) false) (free : s.cur.mBusyUntil ≤ s.clock) :
    ∃ oor, exec (.mma o) s = .next (mmaEntered o s oor) := by
  obtain ⟨oor, checked⟩ := checkRuns_of_pass (operands := [(_, mmaRunsA o s), (_, mmaRunsB o s)])
    (fun w hw => by obtain rfl | hw := List.mem_cons.mp hw; exacts [passA, List.mem_singleton.mp hw ▸ passB]) free fun oor => .ok (mmaEntered o s oor)
  refine ⟨oor, ?_⟩
  change runOp (opMma o) s = _
  exact runOp_ok ((opMma_eq ok).trans checked)

/-- What an MMA leaves, with its claims of A and, where no panel stands for it, of B. -/
theorem mmaEntered_spec (o : MOps) (s : State) (oor : Option Nat) :
    let gap := if s.half s.ix.core then 16 else 8
    let steps := mopSteps (.mma o) (s.cur.greg o.sa) (mmaB o s)
    let t := mmaEntered o s oor
    let m := (mmaEnter o s oor).1
    Entered s t (.mma o) (gap * steps) (s.clock + gap * steps + 22) (if o.zi then [] else tiles o.cp (if o.it then o.ti else o.tile)) (tiles o.cp o.tile) m ∧
      m.descA = s.cur.greg o.sa ∧ m.descB = mmaB o s ∧
      (∀ j, j < steps → planned t (s.clock + 2 + gap * j) (.mmaOperandClaim s.ix.core m.id j false)) ∧
      (o.rb = false → ∀ j, j < steps → planned t (s.clock + (if s.half s.ix.core then 10 else 6) + gap * j) (.mmaOperandClaim s.ix.core m.id j true)) := by
  intro gap steps t m
  obtain ⟨entered, -, descA, descB⟩ := entered_enterEngine (oorNoted_recordOor s false oor) (recordOor_nextId s false oor) (.mma o) (gap * steps)
    (s.clock + gap * steps + 22) (if o.zi then [] else tiles o.cp (if o.it then o.ti else o.tile)) (tiles o.cp o.tile) (s.cur.greg o.sa) (mmaB o s)
    (if o.rb then s.cur.panel else none)
  obtain ⟨growsA, claimsA⟩ := scheduleClaims_spec (mmaEnter o s oor).2 s.ix.core m.id (s.clock + 2) gap steps false
  obtain ⟨growsB, claimsB⟩ := scheduleClaims_spec (scheduleClaims (mmaEnter o s oor).2 s.ix.core m.id (s.clock + 2) gap steps false) s.ix.core m.id
    (s.clock + (if s.half s.ix.core then 10 else 6)) gap steps true
  cases rb : o.rb with
  | true =>
    have alone : t = scheduleClaims (mmaEnter o s oor).2 s.ix.core m.id (s.clock + 2) gap steps false := if_pos rb
    rw [alone]
    exact ⟨growsA.entered entered, descA, descB, claimsA, nofun⟩
  | false =>
    have both : t = scheduleClaims (scheduleClaims (mmaEnter o s oor).2 s.ix.core m.id (s.clock + 2) gap steps false) s.ix.core m.id
        (s.clock + (if s.half s.ix.core then 10 else 6)) gap steps true := if_neg (by rw [rb]; exact Bool.false_ne_true)
    rw [both]
    exact ⟨(growsA.trans growsB).entered entered, descA, descB, fun j hj => growsB.planned (claimsA j hj), fun _ => claimsB⟩

/-- An MPRE in the engine. -/
def mpreEnter (o : MOps) (s : State) (oor : Option Nat) : MOp × State :=
  let steps := mopSteps (.mpre o) (s.cur.greg o.sb) (s.cur.greg o.sb)
  let gap := if s.half s.ix.core then 8 else 4
  enterEngine s (s.recordOor false oor) (.mpre o) (gap * steps) (s.clock + gap * steps) [] [] (s.cur.greg o.sb) (s.cur.greg o.sb) none

/-- The panel of an MPRE, whose bytes its claims bring (R187). -/
def mprePanel (o : MOps) (s : State) (oor : Option Nat) : Panel := ⟨(mpreEnter o s oor).1.id, o.k.toNat, o.tb, s.cur.greg o.sb, []⟩

def mpreEntered (o : MOps) (s : State) (oor : Option Nat) : State :=
  scheduleClaims ((mpreEnter o s oor).2.modCur (withPanel · (some (mprePanel o s oor)))) s.ix.core (mpreEnter o s oor).1.id (s.clock + 2)
    (if s.half s.ix.core then 8 else 4) (mopSteps (.mpre o) (s.cur.greg o.sb) (s.cur.greg o.sb)) true

theorem exec_mpre {o : MOps} {s : State} (ok : bOk (s.cur.greg o.sb) o.tb = true) (fits : o.k.toNat ≤ panelDepth (Desc.fmt (s.cur.greg o.sb)))
    (decl : undeclared s (s.cur.greg o.sb) = false)
    (pass : runsPass s (s.operand s.ix.core (s.cur.greg o.sb) false o.tb).win ((s.operand s.ix.core (s.cur.greg o.sb) false o.tb).runs 0 o.k.toNat) false)
    (free : s.cur.mBusyUntil ≤ s.clock) : ∃ oor, exec (.mpre o) s = .next (mpreEntered o s oor) := by
  obtain ⟨oor, checked⟩ := checkRuns_of_pass_one pass free fun oor => .ok (mpreEntered o s oor)
  refine ⟨oor, ?_⟩
  change runOp (opMpre o) s = _
  refine runOp_ok (Eq.trans ?_ checked)
  unfold opMpre
  dsimp only
  rw [if_neg (by simp [ok, fits]), if_neg (by simp [decl])]
  rfl

theorem mpreEntered_spec (o : MOps) (s : State) (oor : Option Nat) :
    let gap := if s.half s.ix.core then 8 else 4
    let steps := mopSteps (.mpre o) (s.cur.greg o.sb) (s.cur.greg o.sb)
    let t := mpreEntered o s oor
    let m := (mpreEnter o s oor).1
    Entered s t (.mpre o) (gap * steps) (s.clock + gap * steps) [] [] m ∧ t.cur.panel = some ⟨m.id, o.k.toNat, o.tb, s.cur.greg o.sb, []⟩ ∧
      ∀ j, j < steps → planned t (s.clock + 2 + gap * j) (.mmaOperandClaim s.ix.core m.id j true) := by
  intro gap steps t m
  let e := mpreEnter o s oor
  let u := e.2.modCur (withPanel · (some (mprePanel o s oor)))
  obtain ⟨entered, core, -⟩ : Entered s e.2 (.mpre o) (gap * steps) (s.clock + gap * steps) [] [] m ∧ e.2.ix.core = s.ix.core ∧ _ :=
    entered_enterEngine (oorNoted_recordOor s false oor) (recordOor_nextId s false oor) _ _ _ _ _ _ _ _
  obtain ⟨grows, claims⟩ := scheduleClaims_spec u s.ix.core m.id (s.clock + 2) gap steps true
  have ne : withPanel e.2.cur (some (mprePanel o s oor)) ≠ Core.init := ne_init_of_mem_mops (m := m) (mem_mops_of_entered entered)
  have held : u.cur = withPanel e.2.cur (some (mprePanel o s oor)) := cur_modCur_of_ne ne
  have inside : Entered s u (.mpre o) (gap * steps) (s.clock + gap * steps) [] [] m :=
    entered_of_panel entered held (fun k hk => core_modCore_other ne (by rw [core]; exact hk)) rfl fun _ h => h
  refine ⟨grows.entered inside, ?_, claims⟩
  have panel : t.cur.panel = u.cur.panel := by
    have frame : t = { u with agenda := t.agenda } := grows.frame
    rw [frame]
    rfl
  rw [panel, held]
  rfl

/-! MSAVE and MLOAD (R190). -/

/-- The cycle from which an MSAVE or MLOAD counts its rows: its issue, or for an MSAVE four cycles before the write to its tile that is still in flight. -/
def rowBase (s : State) (write : Bool) (t : Nat) : Nat :=
  match write, tileWriter s.cur.mops t with
  | true, some m => Nat.max s.clock (m.done - 4)
  | _, _ => s.clock

theorem rowBase_spec (s : State) (write : Bool) (t : Nat) : s.clock ≤ rowBase s write t ∧ (write = false → rowBase s write t = s.clock) := by
  unfold rowBase
  cases write with
  | false => exact ⟨le_rfl, fun _ => rfl⟩
  | true =>
    cases tileWriter s.cur.mops t with
    | none => exact ⟨le_rfl, fun _ => rfl⟩
    | some m => exact ⟨Nat.le_max_left _ _, nofun⟩

/-- The stream of an MSAVE or MLOAD passes its checks. -/
def rowsPass (o : MOps) (s : State) (write : Bool) : Prop :=
  rowStreamOk (s.cur.greg o.sa) = true ∧ undeclared s (s.cur.greg o.sa) = false ∧
    runsPass s (s.streamWindow s.ix.core (s.cur.greg o.sa)) (rowRuns s s.ix.core (s.cur.greg o.sa) o.low) write

/-- An MSAVE or MLOAD in the engine, before its rows' cycles are noted. -/
def rowsEnter (i : Instr) (o : MOps) (write : Bool) (s : State) (oor : Option Nat) : MOp × State :=
  let base := rowBase s write o.tile.toNat
  let occ := if s.half s.ix.core then 128 else 64
  enterEngine s (s.recordOor write oor) i (base - s.clock + occ) (base + occ + 8) (if write then [o.tile.toNat] else []) (if write then [] else [o.tile.toNat])
    (s.cur.greg o.sa) (s.cur.greg o.sa) none

/-- The issuing core with the instruction's base and completion. -/
def rowsTimed (i : Instr) (o : MOps) (write : Bool) (s : State) (oor : Option Nat) (c : Core) : Core :=
  let base := rowBase s write o.tile.toNat
  let m := (rowsEnter i o write s oor).1
  let done := if write then base + (if s.half s.ix.core then 128 else 64) + 8 else m.done
  { c with mops := c.mops.map fun x => if x.id == m.id then { x with base := base, done := done } else x }

/-- An MSAVE takes the empty buffers under its rows to filling. -/
def rowsFilled (i : Instr) (o : MOps) (write : Bool) (s : State) (oor : Option Nat) : State :=
  let t := (rowsEnter i o write s oor).2.modCur (rowsTimed i o write s oor)
  let live := clipRuns (s.ownLimits s.ix.core (s.streamWindow s.ix.core (s.cur.greg o.sa))) (rowRuns s s.ix.core (s.cur.greg o.sa) o.low)
  if write then (t.cur.bufs.filter fun kb => kb.2.st == .empty && live.any (underRun s.ix.core kb.2)).foldl
    (fun t kb => t.addBuf false s.ix.core kb.1 .filling 1 s.ix.core false) t
  else t

/-- The claims of the rows join it. -/
def rowsEntered (i : Instr) (o : MOps) (write : Bool) (s : State) (oor : Option Nat) : State :=
  let half := s.half s.ix.core
  (List.range (if half then 128 else 64)).foldl (fun t j => t.schedule (rowBase s write o.tile.toNat + (if half then 6 else 4) + j) prioRowClaim
    (.msaveRowClaim s.ix.core (rowsEnter i o write s oor).1.id (if half then j else 2 * j))) (rowsFilled i o write s oor)

theorem runOp_rowsOp {o : MOps} {s : State} {write : Bool} (ok : rowsPass o s write) (free : s.cur.mBusyUntil ≤ s.clock) (i : Instr) :
    ∃ oor, runOp (rowsOp i o write) s = .next (rowsEntered i o write s oor) := by
  obtain ⟨legal, decl, pass⟩ := ok
  obtain ⟨oor, checked⟩ := checkRuns_of_pass_one pass free fun oor => .ok (rowsEntered i o write s oor)
  refine ⟨oor, runOp_ok (Eq.trans ?_ checked)⟩
  unfold rowsOp
  dsimp only
  rw [if_neg (by simp [legal]), if_neg (by simp [decl])]
  rfl

theorem foldl_addBuf_frame (s : State) (l : List (Nat × Buf)) (n : Nat) :
    let t := l.foldl (fun t kb => t.addBuf false n kb.1 .filling 1 n false) s
    t = { s with bufPend := t.bufPend, agenda := t.agenda } := by
  refine List.foldlRecOn (motive := fun t : State => t = { s with bufPend := t.bufPend, agenda := t.agenda }) _ _ rfl fun t frame x _ => ?_
  rw [State.addBuf_eq, frame]

/-- MSAVE and MLOAD leave memory and the rows; their claims stand for the cycles from their base on. -/
theorem rowsEntered_spec (i : Instr) (o : MOps) (write : Bool) (s : State) (oor : Option Nat) :
    let t := rowsEntered i o write s oor
    (∀ b, memByte t.mem b = memByte s.mem b) ∧ t.cur.rows = s.cur.rows ∧ ∀ j, j < (if s.half s.ix.core then 128 else 64) →
      planned t (rowBase s write o.tile.toNat + (if s.half s.ix.core then 6 else 4) + j)
        (.msaveRowClaim s.ix.core s.nextId (if s.half s.ix.core then j else 2 * j)) := by
  intro t
  let e := rowsEnter i o write s oor
  let u := e.2.modCur (rowsTimed i o write s oor)
  let v := rowsFilled i o write s oor
  obtain ⟨entered, -⟩ : Entered s e.2 i _ _ _ _ e.1 ∧ _ :=
    entered_enterEngine (oorNoted_recordOor s write oor) (recordOor_nextId s write oor) i _ _ _ _ _ _ _
  have inside := mem_mops_of_entered entered
  obtain ⟨-, -, rows, -, -, -, mem, id, -⟩ := entered
  have based : u.cur = rowsTimed i o write s oor e.2.cur :=
    cur_modCur_of_ne (s := e.2) (f := rowsTimed i o write s oor) (ne_init_of_mem_mops (List.mem_map_of_mem inside))
  have filled : v = { u with bufPend := v.bufPend, agenda := v.agenda } := by
    cases write with
    | false => rfl
    | true => exact foldl_addBuf_frame u _ s.ix.core
  obtain ⟨⟨frame, -⟩, claims⟩ := foldl_schedule_spec (fun j => rowBase s write o.tile.toNat + (if s.half s.ix.core then 6 else 4) + j) prioRowClaim
    (fun j => .msaveRowClaim s.ix.core e.1.id (if s.half s.ix.core then j else 2 * j)) (List.range (if s.half s.ix.core then 128 else 64)) v
  have shape : t = { u with bufPend := t.bufPend, agenda := t.agenda } := by
    have grown : t = { v with agenda := t.agenda } := frame
    rw [grown, filled]
  refine ⟨fun b => ?_, ?_, fun j hj => ?_⟩
  · rw [shape]
    exact mem b
  · have cur : t.cur = u.cur := by rw [shape]; rfl
    rw [cur, based, ← rows]
    rfl
  · rw [← id]
    exact claims j (List.mem_range.mpr hj)

end Sys2Proof.Claim
end

section
namespace Sys2Proof.Claim
open Sys2Proof Sys2Proof.Machine

/-- Settles O30: every entry is `enterEngine`'s, an operand's claims are its `scheduleClaims`, and an MSAVE's or MLOAD's rows are planned from `rowBase` on. -/
theorem matrixInstructions : Obligations.MatrixInstructions := by
  unfold Obligations.MatrixInstructions
  refine ⟨fun o s => ⟨fun busy => ?busy, fun free => ?free⟩, fun o s free => ⟨fun ok passA passB => ?mma, fun ok fits decl pass => ?mpre, fun write ok => ?rows⟩⟩
  case busy =>
    exact ⟨runOp_tileOp_busy busy _ _ _ _ _, runOp_tileOp_busy busy _ _ _ _ _, runOp_tileOp_busy busy _ _ _ _ _⟩
  case free =>
    exact ⟨runOp_tileOp_free free _ _ _ _ _, runOp_tileOp_free free _ _ _ _ _, runOp_tileOp_free free _ _ _ _ _⟩
  case mma =>
    have runsB : runsPass s (s.operand s.ix.core (mmaB o s) false o.tb).win (mmaRunsB o s) false := by
      unfold mmaRunsB
      split
      · exact runsPass_nil s _ false
      · next off => exact passB (Bool.eq_false_iff.mpr off)
    obtain ⟨oor, answered⟩ := exec_mma ok passA runsB free
    exact ⟨_, _, answered, mmaEntered_spec o s oor⟩
  case mpre =>
    obtain ⟨oor, answered⟩ := exec_mpre ok fits decl pass free
    exact ⟨_, _, answered, mpreEntered_spec o s oor⟩
  case rows =>
    obtain ⟨later, now⟩ := rowBase_spec s write o.tile.toNat
    have answered : ∃ oor, exec (if write then .msave o else .mload o) s = .next (rowsEntered (if write then .msave o else .mload o) o write s oor) := by
      cases write with
      | false => exact runOp_rowsOp ok free (.mload o)
      | true => exact runOp_rowsOp ok free (.msave o)
    obtain ⟨oor, answered⟩ := answered
    obtain ⟨mem, rows, claims⟩ := rowsEntered_spec (if write then .msave o else .mload o) o write s oor
    exact ⟨_, answered, mem, rows, rowBase s write o.tile.toNat, later, now, claims⟩

end Sys2Proof.Claim
end

section
namespace Sys2Proof.Claim
open Sys2Proof Sys2Proof.Machine

/-! An instruction in the matrix engine, by its number. -/

theorem mop_eq_some {c : Core} {op : Nat} {m : MOp} (h : c.mop op = some m) : m.id = op ∧ m ∈ c.mops :=
  ⟨beq_iff_eq.mp (List.find?_some (p := fun x : MOp => x.id == op) h), List.mem_of_find?_eq_some h⟩

theorem ne_init_of_mop {c : Core} {op : Nat} {m : MOp} (h : c.mop op = some m) : c ≠ Core.init := by
  obtain ⟨-, member⟩ := mop_eq_some h
  exact ne_init_of_mem_mops member

/-- The instruction of a number is the one that was put in its place. -/
theorem mop_setMop {c : Core} {op : Nat} {m m' : MOp} (h : c.mop op = some m) (id : m'.id = op) : (c.setMop m').mop op = some m' := by
  have kept (x : MOp) : ((if x.id == m'.id then m' else x).id == op) = (x.id == op) := by
    split
    next here => rw [beq_iff_eq.mp here]
    next => rfl
  change (c.mops.map _).find? _ = _
  rw [List.find?_map]
  have same : (c.mops.find? ((fun x => x.id == op) ∘ fun x => if x.id == m'.id then m' else x)) = some m :=
    (congrArg (c.mops.find? ·) (funext kept)).trans h
  obtain ⟨found, -⟩ := mop_eq_some h
  rw [same, Option.map_some, if_pos (by rw [found, id]; exact beq_self_eq_true op)]

/-! A fault found after issue, in any map of cores. -/

theorem withLate_ne_init (c : Core) (f : LateFault) : withLate c (some f) ≠ Core.init := fun reset =>
  Option.some_ne_none f (congrArg Core.late reset)

/-- The fault's core holds it where it issues, and changes in nothing else; the other cores, memory and what is due to it stand. -/
theorem lateFault_frame (s : State) (n : Nat) (cause detail : BitVec 8) (slot addr issued : Nat) :
    let t := s.lateFault n cause detail slot addr issued
    t = { s with cores := t.cores, agenda := t.agenda } ∧ (∀ k, k ≠ n → t.core k = s.core k) ∧
      ∃ f, t.core n = withLate (s.core n) f ∧ ((s.core n).run = .running → f ≠ none) := by
  intro t
  let f := keptFault (faultNow s cause detail slot addr issued) (s.core n).late
  let kept := s.setCore n (withLate (s.core n) (some f))
  have ne : withLate (s.core n) (some f) ≠ Core.init := withLate_ne_init _ f
  have own : kept.core n = withLate (s.core n) (some f) := State.core_setCore_same_of_ne s n _ ne
  have others (k : Nat) (hk : k ≠ n) : kept.core k = s.core k := State.core_setCore_other_of_ne s n k _ ne hk
  have found : t = _ := lateFault_eq s n cause detail slot addr issued
  cases run : (s.core n).run <;> rw [run] at found
  case running =>
    have taken : t = kept := found
    rw [taken]
    exact ⟨rfl, others, some f, own, fun _ => Option.some_ne_none f⟩
  case held | ended | waiting =>
    have taken : t = kept.scheduleOnce s.clock (if s.stage = .events then prioLate else prioAfter) (.bundleIssue n) := found
    have cores (k : Nat) : t.core k = kept.core k := by rw [taken, State.scheduleOnce_core]
    refine ⟨by rw [taken, State.scheduleOnce_eq]; rfl, fun k hk => (cores k).trans (others k hk), some f, (cores n).trans own, fun _ => Option.some_ne_none f⟩
  all_goals
    have same : t = s := found
    rw [same]
    exact ⟨rfl, fun _ _ => rfl, (s.core n).late, rfl, nofun⟩

/-! Claims (R185 to R187, R190). -/

theorem foldl_addAcc_frame {α : Type} (s : State) (l : List α) (acc : State → α → Acc) :
    let t := l.foldl (fun s x => s.addAcc (acc s x)) s
    t = { s with accs := t.accs, agenda := t.agenda } := by
  refine List.foldlRecOn (motive := fun t : State => t = { s with accs := t.accs, agenda := t.agenda }) _ _ rfl fun t frame x _ => ?_
  rw [addAcc_eq, frame]

theorem operandAccs_frame (s : State) (n : Nat) (m : MOp) (runs : List (Nat × Nat)) :
    let t := operandAccs s n m runs
    t = { s with accs := t.accs, agenda := t.agenda } := by
  unfold operandAccs
  dsimp only
  split
  · rfl
  · exact foldl_addAcc_frame s _ _

/-- A missed operand stops its instruction, and its core holds the fault where it issues (R186, R190). -/
theorem missOperand_spec {s : State} {n op : Nat} {m : MOp} (h : (s.core n).mop op = some m) :
    let t := missOperand s n m
    (t.core n).mop op = some { m with dead := true } ∧ ((s.core n).run = .running → (t.core n).late ≠ none) := by
  intro t
  let u : State := { s with memPend := s.memPend.filter fun x => x.op != m.id }
  let v := u.setCore n ((s.core n).setMop { m with dead := true })
  obtain ⟨id, -⟩ := mop_eq_some h
  have stopped : ((s.core n).setMop { m with dead := true }).mop op = some { m with dead := true } := mop_setMop h id
  have held : v.core n = (s.core n).setMop { m with dead := true } := State.core_setCore_same_of_ne u n _ (ne_init_of_mop stopped)
  obtain ⟨-, -, f, own, late⟩ := lateFault_frame v n 0x15 0 8 m.addr m.issued
  have core : t.core n = withLate ((s.core n).setMop { m with dead := true }) f := own.trans (congrArg (withLate · f) held)
  rw [held] at late
  rw [core]
  exact ⟨stopped, late⟩

/-- The runs that one step of an operand claims. -/
def claimRuns (s : State) (n : Nat) (m : MOp) (step : Nat) (isB : Bool) : List (Nat × Nat) :=
  let kc := mopKc m.instr m.descA m.descB
  let x := s.operand n (if isB then m.descB else m.descA) (!isB) (isB && mopTb m.instr m.panel)
  clipRuns (s.ownLimits n x.win) (x.runs (step * kc) (min ((step + 1) * kc) (mopK m.instr)))

/-- An MMA with the bytes of one step of an operand. -/
def claimed (s : State) (n : Nat) (m : MOp) (step : Nat) (isB : Bool) : MOp :=
  let cap := s.capture (claimRuns s n m step isB)
  if isB then { m with capB := SMap.put [] m.capB step cap } else { m with capA := SMap.put [] m.capA step cap }

theorem exec_mmaOperandClaim {s : State} {n op : Nat} {m : MOp} {o : MOps} (hn : n < 768) (h : (s.core n).mop op = some m) (alive : m.dead = false)
    (instr : m.instr = .mma o) (step : Nat) (isB : Bool) :
    exec (.mmaOperandClaim n op step isB) s = .next (if s.runsRefused n false (claimRuns s n m step isB) then missOperand s n m
      else operandAccs (s.setCore n ((s.core n).setMop (claimed s n m step isB))) n m (claimRuns s n m step isB)) := by
  change execMmaOperandClaim n op step isB s = _
  unfold execMmaOperandClaim
  rw [if_neg (by omega), h]
  dsimp only
  rw [if_neg (by rw [alive]; exact Bool.false_ne_true)]
  cases refused : s.runsRefused n false (claimRuns s n m step isB) with
  | true => exact if_pos refused
  | false =>
    refine (if_neg (Bool.eq_false_iff.mp refused)).trans ?_
    unfold claimed claimRuns
    rw [instr]
    rfl

/-! Maps written key by key. -/

theorem get_foldr_put {α β : Type} [DecidableEq α] [DecidableEq β] (d : β) {key : α → Nat} (inj : Function.Injective key) (v : α → β) {m : SMap β}
    (w : SMap.wf d m = true) (l : List α) :
    let t := l.foldr (fun x a => SMap.put d a (key x) (v x)) m
    SMap.wf d t = true ∧ ∀ x ∈ l, SMap.get d t (key x) = v x := by
  induction l with
  | nil => exact ⟨w, nofun⟩
  | cons y l ih =>
    obtain ⟨wf, written⟩ := ih
    refine ⟨SMap.put_wf d _ _ _ wf, fun x hx => ?_⟩
    by_cases same : x = y
    · subst same
      exact SMap.get_put_same d _ _ _ wf
    · exact (SMap.get_put_other d _ _ _ _ (fun h => same (inj h)) wf).trans (written x ((List.mem_cons.mp hx).resolve_left same))

theorem get_foldl_put {α β : Type} [DecidableEq α] [DecidableEq β] (d : β) {key : α → Nat} (inj : Function.Injective key) (v : α → β) {m : SMap β}
    (w : SMap.wf d m = true) (l : List α) {x : α} (hx : x ∈ l) :
    SMap.get d (l.foldl (fun a x => SMap.put d a (key x) (v x)) m) (key x) = v x := by
  obtain ⟨-, written⟩ := get_foldr_put d inj v w l.reverse
  rw [List.foldl_eq_foldr_reverse]
  exact written x (List.mem_reverse.mpr hx)

/-! Writes of memory in flight, one for each member of a list. -/

theorem foldl_addMem_spec {α : Type} (vis op store : Nat) (data : α → List (Nat × Byte)) (l : List α) (filled : ∀ x ∈ l, data x ≠ []) (s : State) :
    let t := l.foldl (fun t x => t.addMem vis t.clock op (data x) store) s
    t = { s with memPend := t.memPend, agenda := t.agenda } ∧ t.memPend = s.memPend ++ l.map fun x => ⟨vis, s.clock, op, store, data x⟩ := by
  induction l generalizing s with
  | nil => exact ⟨rfl, (List.append_nil _).symm⟩
  | cons x l ih =>
    intro t
    let u := s.addMem vis s.clock op (data x) store
    have frame : u = { s with memPend := u.memPend, agenda := u.agenda } := State.addMem_eq s _ _ _ _ _
    have clock : u.clock = s.clock := by rw [frame]
    have joined : u.memPend = s.memPend ++ [⟨vis, s.clock, op, store, data x⟩] := by
      obtain ⟨memPend, -⟩ := State.addMem_spec s vis s.clock op (data x) store
      exact memPend.trans (if_neg (by simpa using filled x List.mem_cons_self))
    obtain ⟨rest, added⟩ := ih (fun y hy => filled y (List.mem_cons_of_mem x hy)) u
    refine ⟨?_, ?_⟩
    · have grown : t = { u with memPend := t.memPend, agenda := t.agenda } := rest
      rw [grown, frame]
    · refine added.trans ?_
      rw [joined, clock, List.append_assoc]
      rfl

/-! Rows of MSAVE and MLOAD (R190). -/

/-- The rows of one claim, and each row's part in range. -/
def claimRows (s : State) (n row : Nat) : List Nat := if s.half n then [row] else [row, row + 1]
def rowPlace (s : State) (n : Nat) (m : MOp) (off : BitVec 24) (r : Nat) : Nat × Nat := (rowRuns s n m.descA off).getD r (0, 0)
def rowPart (s : State) (n : Nat) (m : MOp) (off : BitVec 24) (r : Nat) : Nat × Nat := clipRun (s.ownLimits n (s.streamWindow n m.descA)) (rowPlace s n m off r)
def usedRows (s : State) (n row : Nat) (m : MOp) (off : BitVec 24) : List Nat := (claimRows s n row).filter fun r => (rowPart s n m off r).2 ≠ 0

/-- A place in a row's run, as a place in the row. -/
def rowCol (s : State) (n : Nat) (m : MOp) (off : BitVec 24) (r a : Nat) : Nat := (a + 2 ^ 64 - (rowPlace s n m off r).1) % 2 ^ 64

/-- The bytes of part p of row r as an MSAVE writes them. -/
def savedBytes (s : State) (n : Nat) (m : MOp) (off : BitVec 24) (r : Nat) (p : Nat × Nat) : List (Nat × Byte) :=
  (List.range p.2).map fun k => (nearBase + p.1 + k, (rowBytes ((m.input.flatMap fun x => x.2.list).getD r 0)).getD (rowCol s n m off r p.1 + k) 0)

/-- The bytes of row r as an MLOAD reads them. -/
def loadedBytes (s : State) (n : Nat) (m : MOp) (off : BitVec 24) (r : Nat) : SMap Byte :=
  (List.range (rowPart s n m off r).2).foldr (fun k a => SMap.put 0 a (rowCol s n m off r (rowPart s n m off r).1 + k) (s.nearByte ((rowPart s n m off r).1 + k))) []

theorem rowAccs_frame (s : State) (n : Nat) (m : MOp) (write : Bool) (rows : List (Nat × Nat)) :
    let t := rowAccs s n m write rows
    t = { s with accs := t.accs, agenda := t.agenda } := by
  unfold rowAccs
  refine List.foldlRecOn (motive := fun t : State => t = { s with accs := t.accs, agenda := t.agenda }) _ _ rfl fun t frame x _ => ?_
  exact (foldl_addAcc_frame t _ _).trans (by rw [frame])

/-- A row with its part in range and the first byte of its run, and those rows of a claim that have a part in range. -/
def rowRecord (s : State) (n : Nat) (m : MOp) (off : BitVec 24) (r : Nat) : Nat × (Nat × Nat) × Nat := (r, rowPart s n m off r, (rowPlace s n m off r).1)
def liveRecords (s : State) (n row : Nat) (m : MOp) (off : BitVec 24) : List (Nat × (Nat × Nat) × Nat) :=
  ((claimRows s n row).map (rowRecord s n m off)).filter fun x => x.2.1.2 ≠ 0

theorem liveRecords_eq (s : State) (n row : Nat) (m : MOp) (off : BitVec 24) :
    liveRecords s n row m off = (usedRows s n row m off).map (rowRecord s n m off) := List.filter_map

theorem liveRecords_map (s : State) (n row : Nat) (m : MOp) (off : BitVec 24) :
    (liveRecords s n row m off).map (·.2.1) = (usedRows s n row m off).map (rowPart s n m off) := by
  rw [liveRecords_eq, List.map_map]
  rfl

section
variable {s : State} {n op row : Nat} {m : MOp} {o : MOps} (hn : n < 768) (hr : row < 128) (h : (s.core n).mop op = some m) (alive : m.dead = false)
include hn hr h alive

/-- A row claim of an MSAVE writes the rows' bytes. -/
theorem exec_rowClaim_msave (instr : m.instr = .msave o) (unchanged : s.runsChanged n true ((usedRows s n row m o.low).map (rowPart s n m o.low)) = false) :
    exec (.msaveRowClaim n op row) s = .next ((usedRows s n row m o.low).foldl (fun t r => (runParts (rowPart s n m o.low r)).foldl
      (fun t p => t.addMem (m.base + (if s.half n then 136 else 72)) t.clock m.id (savedBytes s n m o.low r p) n) t)
      (rowAccs s n m true ((usedRows s n row m o.low).map (rowPart s n m o.low)))) := by
  have written := List.foldl_map (f := rowRecord s n m o.low) (l := usedRows s n row m o.low)
    (g := fun (t : State) x => (runParts x.2.1).foldl (fun (t : State) p => t.addMem (m.base + (if s.half n then 136 else 72)) t.clock m.id
      ((List.range p.2).map fun k => (nearBase + p.1 + k, (rowBytes ((m.input.flatMap fun x => x.2.list).getD x.1 0)).getD
        ((p.1 + 2 ^ 64 - x.2.2) % 2 ^ 64 + k) 0)) n) t) (init := rowAccs s n m true ((usedRows s n row m o.low).map (rowPart s n m o.low)))
  rw [← liveRecords_map] at unchanged written ⊢
  rw [← liveRecords_eq] at written
  refine Eq.trans ?_ (congrArg Host.Outcome.next written)
  change execMsaveRowClaim n op row s = _
  unfold execMsaveRowClaim
  rw [if_neg (by simp; omega), h]
  dsimp only
  rw [if_neg (by rw [alive]; exact Bool.false_ne_true), instr]
  exact if_neg (Bool.eq_false_iff.mp unchanged)

/-- A row claim of an MLOAD reads the rows' bytes. -/
theorem exec_rowClaim_mload (instr : m.instr = .mload o) (unchanged : s.runsChanged n false ((usedRows s n row m o.low).map (rowPart s n m o.low)) = false) :
    ∃ u : State, u = { s with accs := u.accs, agenda := u.agenda } ∧ exec (.msaveRowClaim n op row) s = .next (u.setCore n ((u.core n).setMop
      ((usedRows s n row m o.low).foldl (fun (m' : MOp) r => { m' with capA := SMap.put [] m'.capA r (loadedBytes s n m o.low r) }) m))) := by
  let u := rowAccs s n m false ((usedRows s n row m o.low).map (rowPart s n m o.low))
  have frame : u = { s with accs := u.accs, agenda := u.agenda } := rowAccs_frame s n m false _
  have near : u.nearByte = s.nearByte := by rw [frame]; rfl
  have read := List.foldl_map (f := rowRecord s n m o.low) (l := usedRows s n row m o.low)
    (g := fun (m' : MOp) x => { m' with capA := SMap.put [] m'.capA x.1 ((List.range x.2.1.2).foldr
      (fun k a => SMap.put 0 a ((x.2.1.1 + 2 ^ 64 - x.2.2) % 2 ^ 64 + k) (u.nearByte (x.2.1.1 + k))) []) }) (init := m)
  refine ⟨u, frame, Eq.trans ?_ (congrArg (fun m' => Host.Outcome.next (u.setCore n ((u.core n).setMop m'))) (read.trans (by rw [near]; rfl)))⟩
  rw [← liveRecords_eq]
  rw [← liveRecords_map] at unchanged
  have rows : u = rowAccs s n m false ((liveRecords s n row m o.low).map (·.2.1)) := by rw [liveRecords_map]
  rw [rows]
  change execMsaveRowClaim n op row s = _
  unfold execMsaveRowClaim
  rw [if_neg (by simp; omega), h]
  dsimp only
  rw [if_neg (by rw [alive]; exact Bool.false_ne_true), instr]
  exact if_neg (Bool.eq_false_iff.mp unchanged)

end

end Sys2Proof.Claim
end

section
namespace Sys2Proof.Claim
open Sys2Proof Sys2Proof.Machine

/-! What row claims leave (R190). -/

theorem runParts_ne_zero {r p : Nat × Nat} (nonempty : r.2 ≠ 0) (h : p ∈ runParts r) : p.2 ≠ 0 := by
  unfold runParts alignDown at h
  dsimp only at h
  have inside : r.1 < r.1 / 2 ^ 18 * 2 ^ 18 + 2 ^ 18 := Nat.lt_div_mul_add (by decide)
  split at h
  · rw [List.mem_singleton.mp h]
    exact nonempty
  · obtain rfl | h := List.mem_cons.mp h
    · dsimp only
      omega
    · rw [List.mem_singleton.mp h]
      dsimp only
      omega

theorem savedRows_spec (s : State) (n row : Nat) (m : MOp) (off : BitVec 24) (u : State) (frame : u = { s with accs := u.accs, agenda := u.agenda }) (vis : Nat) :
    let t := (usedRows s n row m off).foldl (fun t r => (runParts (rowPart s n m off r)).foldl
      (fun t p => t.addMem vis t.clock m.id (savedBytes s n m off r p) n) t) u
    t.mem = s.mem ∧ t.memPend = s.memPend ++ (usedRows s n row m off).flatMap fun r => (runParts (rowPart s n m off r)).map fun p =>
      ⟨vis, s.clock, m.id, n, savedBytes s n m off r p⟩ := by
  intro t
  let parts := (usedRows s n row m off).flatMap fun r => (runParts (rowPart s n m off r)).map (r, ·)
  have flat : t = parts.foldl (fun t x => t.addMem vis t.clock m.id (savedBytes s n m off x.1 x.2) n) u := by
    rw [List.foldl_flatMap]
    simp only [List.foldl_map]
    rfl
  have filled : ∀ x ∈ parts, savedBytes s n m off x.1 x.2 ≠ [] := fun x hx => by
    obtain ⟨r, hr, hx⟩ := List.mem_flatMap.mp hx
    obtain ⟨p, hp, rfl⟩ := List.mem_map.mp hx
    have used : (rowPart s n m off r).2 ≠ 0 := of_decide_eq_true (List.mem_filter.mp hr).2
    simpa [savedBytes] using runParts_ne_zero used hp
  obtain ⟨rest, pend⟩ := foldl_addMem_spec vis m.id n (fun x => savedBytes s n m off x.1 x.2) parts filled u
  rw [← flat] at rest pend
  refine ⟨by rw [rest, frame], ?_⟩
  rw [pend, frame, List.map_flatMap]
  simp only [List.map_map]
  rfl

/-- An MLOAD with the bytes of some of its rows. -/
theorem foldl_capA (m : MOp) (bytes : Nat → SMap Byte) (l : List Nat) :
    l.foldl (fun (m' : MOp) r => { m' with capA := SMap.put [] m'.capA r (bytes r) }) m =
      { m with capA := l.foldl (fun a r => SMap.put [] a r (bytes r)) m.capA } := by
  induction l generalizing m with
  | nil => rfl
  | cons r l ih => exact ih _

theorem get_loadedBytes (s : State) (n : Nat) (m : MOp) (off : BitVec 24) (r : Nat) {k : Nat} (hk : k < (rowPart s n m off r).2) :
    SMap.get 0 (loadedBytes s n m off r) (rowCol s n m off r (rowPart s n m off r).1 + k) = s.nearByte ((rowPart s n m off r).1 + k) := by
  obtain ⟨-, read⟩ := get_foldr_put (0 : Byte) (key := (rowCol s n m off r (rowPart s n m off r).1 + ·)) (add_right_injective _)
    (fun k => s.nearByte ((rowPart s n m off r).1 + k)) (m := []) rfl (List.range (rowPart s n m off r).2)
  exact read k (List.mem_range.mpr hk)

theorem loadedRows_spec {s u : State} {n op : Nat} {m : MOp} (h : (s.core n).mop op = some m) (frame : u = { s with accs := u.accs, agenda := u.agenda })
    (bytes : Nat → SMap Byte) (l : List Nat) :
    let m' := l.foldl (fun (m' : MOp) r => { m' with capA := SMap.put [] m'.capA r (bytes r) }) m
    let t := u.setCore n ((u.core n).setMop m')
    t.mem = s.mem ∧ t.memPend = s.memPend ∧ (t.core n).mop op = some m' ∧ m' = { m with capA := m'.capA } ∧
      (SMap.wf [] m.capA = true → ∀ r ∈ l, SMap.get [] m'.capA r = bytes r) := by
  intro m' t
  have shape : m' = { m with capA := l.foldl (fun a r => SMap.put [] a r (bytes r)) m.capA } := foldl_capA m bytes l
  obtain ⟨id, -⟩ := mop_eq_some h
  have core : u.core n = s.core n := by rw [frame]; rfl
  have placed : ((u.core n).setMop m').mop op = some m' := mop_setMop (core ▸ h) (by rw [shape]; exact id)
  have held : t.core n = (u.core n).setMop m' := State.core_setCore_same_of_ne u n _ (ne_init_of_mop placed)
  refine ⟨?_, ?_, by rw [held]; exact placed, by rw [shape], fun w r hr => ?_⟩
  · change u.mem = s.mem
    rw [frame]
  · change u.memPend = s.memPend
    rw [frame]
  · rw [shape]
    exact get_foldl_put [] Function.injective_id bytes w l hr

/-! A tile's rows, packed and read back (R175, R190). -/

/-- A row of lanes of w bits. -/
def packRow (w : Nat) (l : List Nat) : Row := BitVec.ofNat 4096 (l.foldr (fun x a => x + a * 2 ^ w) 0)

theorem laneOf_packRow {view w : Nat} (width : viewBits view = w) {l : List Nat} (fits : w * l.length ≤ 4096) (small : ∀ x ∈ l, x < 2 ^ w) {i : Nat}
    (hi : i < l.length) : laneOf (packRow w l) view i = l.getD i 0 := by
  have digits : l.foldr (fun x a => x + a * 2 ^ w) 0 = Nat.ofDigits (2 ^ w) l := by
    rw [Nat.ofDigits_eq_foldr]
    simp only [Nat.mul_comm, Nat.cast_id]
  have pos : 0 < w := width ▸ viewBits_pos view
  have bounded : Nat.ofDigits (2 ^ w) l < 2 ^ (w * l.length) :=
    (Nat.ofDigits_lt_base_pow_length (Nat.one_lt_two_pow pos.ne') small).trans_eq (Nat.pow_mul 2 w l.length).symm
  unfold laneOf packRow
  rw [width, digits, BitVec.extractLsb'_toNat, BitVec.toNat_ofNat, Nat.mod_eq_of_lt (bounded.trans_le (Nat.pow_le_pow_right Nat.zero_lt_two fits)), Nat.shiftRight_eq_div_pow, Nat.mul_comm i w, Nat.pow_mul,
    Nat.ofDigits_div_pow_eq_ofDigits_drop i (Nat.two_pow_pos w) l small, List.drop_eq_getElem_cons hi, Nat.ofDigits_cons, Nat.add_mul_mod_self_left]
  rw [List.getD_eq_getElem _ _ hi]
  exact Nat.mod_eq_of_lt (small _ (List.getElem_mem hi))

theorem laneOf_packRow_map {view w : Nat} (width : viewBits view = w) {g : Nat → Nat} {c : Nat} (fits : w * c ≤ 4096) (small : ∀ j, g j < 2 ^ w) {j : Nat}
    (hj : j < c) : laneOf (packRow w ((List.range c).map g)) view j = g j := by
  have length : ((List.range c).map g).length = c := by rw [List.length_map, List.length_range]
  rw [laneOf_packRow width (by rw [length]; exact fits) (List.forall_mem_map.mpr fun j _ => small j) (by rw [length]; exact hj)]
  simp [hj]

/-- Of pairs laid one after another, pair i's first or second member. -/
theorem getD_flatMap_pair {α β : Type} (f g : α → β) (d : β) {l : List α} {i : Nat} (hi : i < l.length) :
    (l.flatMap fun x => [f x, g x]).getD (2 * i) d = f l[i] ∧ (l.flatMap fun x => [f x, g x]).getD (2 * i + 1) d = g l[i] := by
  induction l generalizing i with
  | nil => exact absurd hi (Nat.not_lt_zero i)
  | cons x l ih =>
    cases i with
    | zero => exact ⟨rfl, rfl⟩
    | succ i => exact ih (Nat.lt_of_succ_lt_succ hi)

/-- A tile of 128 x 128 elements, in either layout, gives each back. -/
theorem tileElem_tileOfElems (cp : Bool) {f : Nat → Nat → Nat} (small : ∀ i j, f i j < if cp then 2 ^ 64 else 2 ^ 32) {i j : Nat} (hi : i < 128) (hj : j < 128) :
    tileElem (tileOfElems cp ((List.range 128).map fun i => (List.range 128).map (f i))) cp i j = f i j := by
  let lines := (List.range 128).map fun i => (List.range 128).map (f i)
  have count : i < lines.length := by rw [List.length_map, List.length_range]; exact hi
  have line : lines[i] = (List.range 128).map (f i) := by rw [List.getElem_map, List.getElem_range]
  cases cp with
  | false =>
    change laneOf ((lines.map (packRow 32)).getD i 0) 1 j = f i j
    have row : (lines.map (packRow 32)).getD i 0 = packRow 32 ((List.range 128).map (f i)) := by
      rw [List.getD_eq_getElem _ _ (by rw [List.length_map]; exact count), List.getElem_map, line]
    rw [row]
    exact laneOf_packRow_map (view := 1) (w := 32) (c := 128) rfl (by decide) (small i) hj
  | true =>
    change laneOf ((lines.flatMap fun l => [packRow 64 (l.take 64), packRow 64 (l.drop 64)]).getD (2 * i + j / 64) 0) 0 (j % 64) = f i j
    obtain ⟨first, second⟩ := getD_flatMap_pair (fun l => packRow 64 (l.take 64)) (fun l => packRow 64 (l.drop 64)) 0 count
    have halves : (List.range 128).map (f i) = (List.range 64).map (f i) ++ (List.range 64).map fun j => f i (64 + j) := by
      rw [List.range_add (n := 64) (m := 64), List.map_append, List.map_map]
      rfl
    have length : ((List.range 64).map (f i)).length = 64 := by rw [List.length_map, List.length_range]
    rw [line, halves] at first second
    rw [List.take_left' length] at first
    rw [List.drop_left' length] at second
    by_cases low : j < 64
    · have place : 2 * i + j / 64 = 2 * i := by omega
      rw [place, first, Nat.mod_eq_of_lt low]
      exact laneOf_packRow_map (view := 0) (w := 64) (c := 64) rfl (by decide) (small i) low
    · have place : 2 * i + j / 64 = 2 * i + 1 := by omega
      have high : j % 64 = j - 64 := by omega
      rw [place, second, high, laneOf_packRow_map (view := 0) (w := 64) (c := 64) rfl (by decide) (fun j => small i (64 + j)) (by omega)]
      congr 1
      omega

/-! The end of a matrix instruction (R188, R190). -/

/-- Core c with other rows. -/
def withRows (c : Core) (rows : SMap Row) : Core := { c with rows := rows }

theorem writeTiles_eq (c : Core) (tiles : List Nat) (rows : List Row) : c.writeTiles tiles rows = withRows c (c.writeTiles tiles rows).rows := by
  unfold Core.writeTiles
  refine List.foldlRecOn (motive := fun d : Core => d = withRows c d.rows) _ _ rfl fun d kept x _ => ?_
  rw [kept]
  rfl

/-- One flag event leaves all but the flags and the event record; the sticky set of the M slot takes its flags (R124, R127). -/
theorem raise_matrix (c : Core) (flags : Flags) (addr stamp : Nat) :
    (c.raise flags 8 addr stamp).rows = c.rows ∧ (c.raise flags 8 addr stamp).s = c.s ∧
      (c.raise flags 8 addr stamp).flagsA = c.flagsA ||| BitVec.ofNat 64 (flags.toNat * 2 ^ 42) := by
  unfold Core.raise
  split
  next none =>
    rw [beq_iff_eq.mp none]
    exact ⟨rfl, rfl, by simp⟩
  next =>
    have set : flagSet 8 = some 7 := rfl
    rw [set]
    dsimp only
    split <;> exact ⟨rfl, rfl, rfl⟩

/-- The instructions that stay, with the rows of one that has completed where they waited for them. -/
def mopsAfter (c : Core) (op : Nat) : List MOp := (c.mops.filter fun x => x.id != op).map fun x =>
  { x with input := x.input.map fun (t, i) => if i == .pending op then (t, .rows (c.tileRows t)) else (t, i) }

theorem id_ne_of_mem_mopsAfter {c : Core} {op : Nat} {x : MOp} (h : x ∈ mopsAfter c op) : x.id ≠ op := by
  obtain ⟨y, hy, rfl⟩ := List.mem_map.mp h
  exact bne_iff_ne.mp (List.mem_filter.mp hy).2

/-- The core that a completed instruction leaves, before its flags. -/
def matrixWritten (s : State) (n : Nat) (m : MOp) : Core :=
  let c := (s.core n).writeTiles m.tiles (mopResult s n m).1
  if m.hit then c.collide else c

theorem matrixWritten_spec (s : State) (n : Nat) (m : MOp) : (matrixWritten s n m).rows = ((s.core n).writeTiles m.tiles (mopResult s n m).1).rows ∧
    (matrixWritten s n m).s = (s.core n).s ∧ (matrixWritten s n m).flagsA = (s.core n).flagsA := by
  have kept := writeTiles_eq (s.core n) m.tiles (mopResult s n m).1
  unfold matrixWritten
  dsimp only
  split
  all_goals
    refine ⟨rfl, ?_, ?_⟩
    · change ((s.core n).writeTiles m.tiles (mopResult s n m).1).s = _
      rw [kept]
      rfl
    · change ((s.core n).writeTiles m.tiles (mopResult s n m).1).flagsA = _
      rw [kept]
      rfl

/-- The core that it leaves. -/
def matrixDone (s : State) (n : Nat) (m : MOp) : Core :=
  let c := (matrixWritten s n m).raise (mopResult s n m).2 8 m.addr m.stamp
  { c with mops := mopsAfter c m.id }

theorem exec_matrixWriteComplete {s : State} {n op : Nat} {m : MOp} (hn : n < 768) (h : (s.core n).mop op = some m) (alive : m.dead = false) :
    exec (.matrixWriteComplete n op) s = .next (s.setCore n (matrixDone s n m)) := by
  obtain ⟨id, -⟩ := mop_eq_some h
  change execMatrixWriteComplete n op s = _
  unfold execMatrixWriteComplete matrixDone matrixWritten mopsAfter
  rw [if_neg (by omega)]
  dsimp only
  rw [h, id]
  dsimp only
  rw [alive]
  simp only [Bool.not_false, Bool.and_true, Bool.false_eq_true, if_false]

theorem mopResult_mzero {s : State} {n : Nat} {m : MOp} {o : MOps} (instr : m.instr = .mzero o) : (mopResult s n m).1 = List.replicate (128 * m.tiles.length) 0 := by
  unfold mopResult
  rw [instr]

theorem tileElem_lt (rows : List Row) (cp : Bool) (i j : Nat) : tileElem rows cp i j < if cp then 2 ^ 64 else 2 ^ 32 := by
  cases cp with
  | false => exact laneOf_lt _ 1 _
  | true => exact laneOf_lt _ 0 _

theorem tileElem_mtrnResult (o : MOps) (inp : List Row) {i j : Nat} (hi : i < 128) (hj : j < 128) :
    tileElem (mtrnResult o inp) o.cp i j = tileElem inp o.cp j i :=
  tileElem_tileOfElems o.cp (f := fun i j => tileElem inp o.cp j i) (fun i j => tileElem_lt inp o.cp j i) hi hj

theorem mopResult_mtrn {s : State} {n : Nat} {m : MOp} {o : MOps} (instr : m.instr = .mtrn o) :
    (mopResult s n m).1 = mtrnResult o (m.input.flatMap fun x => x.2.list) := by
  unfold mopResult
  rw [instr]

end Sys2Proof.Claim
end

section
namespace Sys2Proof.Claim
open Sys2Proof Sys2Proof.Machine

/-! The result of a translation (R209, R284). -/

theorem setXreg_ne_init (c : Core) {r : BitVec 3} {x : XReg} (h : x.valid = true ∨ x.pend ≠ none) : c.setXreg r x ≠ Core.init := by
  intro reset
  have same : Core.init.xreg r = x := by rw [← reset, xreg_setXreg]
  have start : Core.init.xreg r = ⟨0, false, 0, none⟩ := by simp [Core.init, Core.xreg]
  rw [← same, start] at h
  obtain h | h := h
  · exact Bool.false_ne_true h
  · exact h rfl

theorem xreg_modCore_setXreg (s : State) (n : Nat) {r : BitVec 3} {x : XReg} (h : x.valid = true ∨ x.pend ≠ none) :
    ((s.modCore n fun c => c.setXreg r x).core n).xreg r = x := by
  rw [core_modCore_same (setXreg_ne_init _ h), xreg_setXreg]

theorem moving_congr {s t : State} (h : t.moves = s.moves) (asid va : Nat) : t.moving asid va = s.moving asid va := by
  unfold State.moving
  rw [h]

section
variable (s : State) (n x : Nat) (acc : BitVec 2) (va : Word)

/-- The address space of the core's launch, and the walk of its tables. -/
def xlatAsid : Nat := ((s.launchOf n).map (·.asid)).getD 0
def xlatWalk : Walked := s.walk (xlatAsid s n) va.toNat acc.toNat

/-- A malformed or torn entry is reported, unless the handle has come already. -/
def xlatFault (t : State) (reason : Nat) : State :=
  if ((s.core n).xreg (BitVec.ofNat 3 x)).val = 0 then
    t.postFault ⟨none, 1, reason, xlatAsid s n, acc.toNat, va.toNat, n, 0xFF, ((t.core n).bind).getD 0, 0⟩ else t

def xlatPosted : State :=
  match xlatWalk s n acc va with
  | .absent _ true => xlatFault s n x acc va s 4
  | .torn p => xlatFault s n x acc va (if ((s.core n).xreg (BitVec.ofNat 3 x)).val = 0 then s.hbmLog p true else s) 5
  | .page _ _ _ | .absent _ false => s

/-- The handle that the walk finds: the earlier one, LATE while the block moves, or the walk's own. -/
def xlatHandle : Word :=
  if ((s.core n).xreg (BitVec.ofNat 3 x)).val ≠ 0 then ((s.core n).xreg (BitVec.ofNat 3 x)).val
  else if s.moving (xlatAsid s n) va.toNat then 0x9800000000000000#64 else (xlatWalk s n acc va).handle va.toNat

theorem xlatFault_frame (t : State) (reason : Nat) :
    let u := xlatFault s n x acc va t reason
    u = { t with devFaults := u.devFaults, agenda := u.agenda } := by
  unfold xlatFault
  dsimp only
  split <;> rfl

/-- Reports leave the cores, the clock and the moves. -/
theorem xlatPosted_stands : CoresStand s (xlatPosted s n x acc va) ∧ (xlatPosted s n x acc va).moves = s.moves := by
  unfold xlatPosted
  cases xlatWalk s n acc va with
  | page => exact ⟨.refl s, rfl⟩
  | absent reason malformed =>
    cases malformed with
    | false => exact ⟨.refl s, rfl⟩
    | true =>
      dsimp only
      rw [xlatFault_frame]
      exact ⟨⟨rfl, rfl, rfl, rfl⟩, rfl⟩
  | torn p =>
    dsimp only
    rw [xlatFault_frame]
    split <;> exact ⟨⟨rfl, rfl, rfl, rfl⟩, rfl⟩

end

/-- The state in which a translation's result is written: its report made, the free values of its lateness and its time taken, the time sampled. -/
def xlatTimed (s : State) (n : Nat) : State := s.freeNat.2.freeNat.2.sample 3 (s.freeNat.2.freeNat.1) (some n)

theorem exec_xlatResult {s : State} {n x at_ : Nat} {acc : BitVec 2} {va : Word} (hn : n < 768) (hx : x < 8)
    (waits : ((s.core n).xreg (BitVec.ofNat 3 x)).pend = some (at_, acc, va)) :
    exec (.xlatResult n x) s = .next (
      if at_ ≠ s.clock then (xlatPosted s n x acc va).modCore n fun c => c.setXreg (BitVec.ofNat 3 x)
        { (s.core n).xreg (BitVec.ofNat 3 x) with val := xlatHandle s n x acc va }
      else (xlatTimed (xlatPosted s n x acc va) n).modCore n fun c => c.setXreg (BitVec.ofNat 3 x)
        ⟨if (xlatPosted s n x acc va).freeNat.1 % 2 = 1 || s.moving (xlatAsid s n) va.toNat then 0x9800000000000000#64 else xlatHandle s n x acc va, true, va, none⟩) := by
  obtain ⟨stands, moves⟩ := xlatPosted_stands s n x acc va
  have late : (BitVec.ofNat 64 (2 ^ 63 + 3 * 2 ^ 59) : Word) = 0x9800000000000000#64 := by decide
  unfold xlatHandle
  rw [← late, ← stands.clock, ← moving_congr moves]
  change execXlatResult n x s = _
  unfold execXlatResult
  rw [if_neg (by simp; omega)]
  dsimp only
  rw [waits]
  dsimp only
  unfold xlatPosted xlatFault xlatWalk xlatAsid xlatTimed
  cases s.launchOf n <;> exact (apply_ite Host.Outcome.next _ _ _).symm

/-- A result on its own cycle: valid, and LATE, the earlier handle or the walk's. -/
theorem xlatResult_now {s : State} {n x : Nat} {acc : BitVec 2} {va : Word} (hn : n < 768) (hx : x < 8)
    (waits : ((s.core n).xreg (BitVec.ofNat 3 x)).pend = some (s.clock, acc, va)) :
    let v := ((s.core n).xreg (BitVec.ofNat 3 x)).val
    ∃ t h, exec (.xlatResult n x) s = .next t ∧ (t.core n).xreg (BitVec.ofNat 3 x) = ⟨h, true, va, none⟩ ∧
      (h = 0x9800000000000000#64 ∨ (v ≠ 0 ∧ h = v) ∨ (v = 0 ∧ h = (xlatWalk s n acc va).handle va.toNat)) ∧
      (s.moving (xlatAsid s n) va.toNat = true → h = 0x9800000000000000#64) := by
  intro v
  have answered := exec_xlatResult hn hx waits
  rw [if_neg (not_not.mpr rfl)] at answered
  refine ⟨_, _, answered, xreg_modCore_setXreg _ n (.inl rfl), ?_, fun moves => if_pos (by rw [moves, Bool.or_true])⟩
  unfold xlatHandle
  by_cases earlier : v = 0
  · rw [if_neg (not_not.mpr earlier)]
    split
    · exact .inl rfl
    · split
      · exact .inl rfl
      · exact .inr (.inr ⟨earlier, rfl⟩)
  · rw [if_pos earlier]
    split
    · exact .inl rfl
    · exact .inr (.inl ⟨earlier, rfl⟩)

/-- A walk on another cycle: the register waits on, with the handle. -/
theorem xlatResult_walk {s : State} {n x at_ : Nat} {acc : BitVec 2} {va : Word} (hn : n < 768) (hx : x < 8) (walks : at_ ≠ s.clock)
    (waits : ((s.core n).xreg (BitVec.ofNat 3 x)).pend = some (at_, acc, va)) :
    ∃ t, exec (.xlatResult n x) s = .next t ∧ ((t.core n).xreg (BitVec.ofNat 3 x)).pend = some (at_, acc, va) ∧
      ((t.core n).xreg (BitVec.ofNat 3 x)).val = xlatHandle s n x acc va := by
  refine ⟨_, exec_xlatResult hn hx waits, ?_⟩
  rw [if_pos walks, xreg_modCore_setXreg _ n (.inr (by dsimp only; rw [waits]; exact Option.some_ne_none _))]
  exact ⟨waits, rfl⟩

end Sys2Proof.Claim
end

section
namespace Sys2Proof.Claim
open Sys2Proof Sys2Proof.Machine

/-! Writes of a command outside the bank agenda, where nothing is in error (R143, R237 to R241). -/

/-- From s to t only cores and the agenda differ, and every core's bus and lent banks stand. -/
structure SlicesStand (s t : State) : Prop where
  frame : t = { s with cores := t.cores, agenda := t.agenda }
  bus : ∀ n, (t.core n).bus = (s.core n).bus
  lent : ∀ n, (t.core n).lent = (s.core n).lent

theorem SlicesStand.refl (s : State) : SlicesStand s s := ⟨rfl, fun _ => rfl, fun _ => rfl⟩

theorem SlicesStand.inSlice {s t : State} (h : SlicesStand s t) : t.inSlice = s.inSlice := by
  funext a
  unfold State.inSlice State.scratchPlace
  simp only [h.lent]

theorem SlicesStand.busRefuses {s t : State} (h : SlicesStand s t) (n k : Nat) : t.busRefuses n k = s.busRefuses n k := by
  unfold State.busRefuses
  rw [h.bus]

theorem slicesStand_lateFault (s : State) (n : Nat) (cause detail : BitVec 8) (slot addr issued : Nat) :
    SlicesStand s (s.lateFault n cause detail slot addr issued) := by
  obtain ⟨frame, others, f, own, -⟩ := lateFault_frame s n cause detail slot addr issued
  refine ⟨frame, fun k => ?_, fun k => ?_⟩
  all_goals
    by_cases hk : k = n
    · subst hk
      rw [own]
      rfl
    · rw [others k hk]

/-- An out-of-range byte leaves the slices: it is recorded, or faults as well. -/
theorem slicesStand_engineOor (s : State) (k : Cmd) (a : Nat) (write : Bool) : SlicesStand s (s.engineOor k a write) := by
  obtain ⟨⟨v, noted⟩, ne⟩ := noteOor_spec (oorWord_valid a write 9 (s.core k.core).tcyc) (s.core k.core)
  let note (c : Core) : Core := noteOor (oorWord a write 9 c.tcyc) c
  let u := s.modCore k.core note
  have own : u.core k.core = withOor (s.core k.core) v := (core_modCore_same (f := note) ne).trans noted
  have recorded : SlicesStand s u := by
    refine ⟨rfl, fun j => ?_, fun j => ?_⟩
    all_goals
      by_cases hj : j = k.core
      · rw [hj, own]
        rfl
      · rw [core_modCore_other (f := note) ne hj]
  change SlicesStand s (if u.strict k.core then u.lateFault k.core 0x07 0 9 k.addr k.issued else u)
  split
  · obtain ⟨frame, bus, lent⟩ := slicesStand_lateFault u k.core 0x07 0 9 k.addr k.issued
    exact ⟨frame, fun j => (bus j).trans (recorded.bus j), fun j => (lent j).trans (recorded.lent j)⟩
  · exact recorded

section
variable {s : State} (parity : s.parity = []) (flips : s.flips = [])
include parity flips

theorem beatServe_quiet (n op addr issued t : Nat) (write : Bool) (bytes : List Nat) : s.beatServe n op addr issued t write bytes = ([], s) := by
  unfold State.beatServe State.parityCheck State.eccBytes
  simp [parity, flips]

/-- Every byte is transferred, and nothing else happens. -/
theorem sliceServe_quiet {n : Nat} (buses : ∀ t, s.busRefuses n t = none) (op addr issued : Nat) (write : Bool) (bytes : List Nat) :
    s.sliceServe n op addr issued write bytes = ([], s) := by
  unfold State.sliceServe
  refine List.foldlRecOn (motive := (· = (([], s) : List Nat × State))) _ _ rfl fun acc served b _ => ?_
  subst served
  dsimp only
  cases coreOfAddr (512 * b) with
  | none => rfl
  | some t =>
    dsimp only
    rw [buses t]
    dsimp only
    rw [beatServe_quiet parity flips]
    rfl

/-- A command's bytes in the slices are written at once. -/
theorem engineWrite_quiet {k : Cmd} (buses : ∀ t, s.busRefuses k.core t = none) (data : List (Nat × Byte)) :
    ∃ u, SlicesStand s u ∧ s.engineWrite k data = u.addMemNow ((data.filter fun b => s.inSlice b.1).map fun b => (nearBase + b.1, b.2)) := by
  have stored {u : State} (h : SlicesStand s u) (bytes : List (Nat × Byte)) : u.engineServe k true (bytes.map (·.1)) = ([], u) :=
    sliceServe_quiet (by rw [h.frame]; exact parity) (by rw [h.frame]; exact flips) (fun t => (h.busRefuses k.core t).trans (buses t)) _ _ _ _ _
  unfold State.engineWrite
  cases data.find? fun b => !s.inSlice b.1 with
  | none =>
    refine ⟨s, .refl s, ?_⟩
    dsimp only
    rw [stored (.refl s)]
    simp
  | some b =>
    have h := slicesStand_engineOor s k b.1 true
    refine ⟨_, h, ?_⟩
    dsimp only
    rw [stored h, h.inSlice]
    simp

end

/-! The end of a timed command whose launch is not switched out (R208). -/

/-- A timeline record that is valid. -/
theorem recordWord_ne_zero (status detail : BitVec 8) (value : BitVec 32) : recordWord status detail true false value ≠ 0 := by
  intro zero
  have bits := congrArg BitVec.toNat zero
  unfold recordWord at bits
  rw [BitVec.toNat_ofNat] at bits
  have := status.isLt
  have := detail.isLt
  have := value.isLt
  simp at bits
  omega

theorem ne_init_of_timed {c : Core} {r : BitVec 3} (h : (c.ctxAt r).timed ≠ 0) : c ≠ Core.init := by
  rintro rfl
  exact h (by simp [Core.ctxAt, Core.init, Ctx.init])

theorem ctxAt_raise (c : Core) (flags : Flags) (slot addr stamp : Nat) (r : BitVec 3) : (c.raise flags slot addr stamp).ctxAt r = c.ctxAt r := by
  unfold Core.raise
  split
  · rfl
  · cases flagSet slot with
    | none => rfl
    | some i =>
      dsimp only
      split <;> rfl

theorem ctxAt_raiseFrozen (c : Core) (flags : Flags) (addr stamp : Nat) (r : BitVec 3) : (c.raiseFrozen flags addr stamp).ctxAt r = c.ctxAt r := by
  unfold Core.raiseFrozen
  split
  · rfl
  · exact ctxAt_raise c flags 9 addr stamp r

theorem modSaved_unsaved {s : State} {b : Option Nat} (unsaved : ∀ k, b = some k → (s.launch k).saved = []) (n : Nat) (f : Core → Core) :
    s.modSaved n b f = s.modCore n f := by
  cases b with
  | none => rfl
  | some k => exact if_pos (by rw [unsaved k rfl]; rfl)

/-- The core as it hears of an operation of no batch: its flags. -/
def heardFlags (k : Cmd) (c : Core) : Core :=
  ((c.finishOpen k).setCtx (ctxNo k.ctx) ((c.ctxAt (ctxNo k.ctx)).finish k.batch k.writing k.status k.detail k.value)).raiseFrozen k.flags k.addr k.stamp

theorem ctxAt_heardFlags {k : Cmd} (batch : k.batch = .none) (c : Core) : (heardFlags k c).ctxAt (ctxNo k.ctx) = c.ctxAt (ctxNo k.ctx) := by
  unfold heardFlags
  rw [ctxAt_raiseFrozen, ctxAt_setCtx, batch]
  rfl

theorem finishCmd_unsaved {s : State} {k : Cmd} (batch : k.batch = .none) (unsaved : ∀ b, k.bind = some b → (s.launch b).saved = []) :
    s.finishCmd k = (s.dropCmd k.id).modCore k.core (heardFlags k) := by
  unfold State.finishCmd
  dsimp only
  rw [batch, if_neg (by decide)]
  cases bind : k.bind with
  | none =>
    unfold heardFlags
    rw [batch]
  | some b =>
    have none : (s.dropCmd k.id).launch b = s.launch b := rfl
    dsimp only
    rw [none, unsaved b bind, if_neg (by decide)]
    unfold heardFlags
    rw [batch]

/-- It leaves, and its record stands. -/
theorem finishTimed_spec {s : State} {k : Cmd} (batch : k.batch = .none) (unsaved : ∀ b, k.bind = some b → (s.launch b).saved = []) :
    let t := s.finishTimed k
    gone t k.id ∧ t.memPend = s.memPend ∧ ((t.core k.core).ctxAt (ctxNo k.ctx)).timed = recordWord k.status k.detail true false k.value := by
  intro t
  let record (c : Core) : Core := c.setCtx (ctxNo k.ctx) { c.ctxAt (ctxNo k.ctx) with timed := recordWord k.status k.detail true false k.value }
  let u := s.modCore k.core record
  have ended : t = (u.dropCmd k.id).modCore k.core (heardFlags k) := by
    have first : s.modSaved k.core k.bind record = u := modSaved_unsaved unsaved k.core record
    change (s.modSaved k.core k.bind record).finishCmd k = _
    rw [first]
    exact finishCmd_unsaved batch unsaved
  have timed : ((record (s.core k.core)).ctxAt (ctxNo k.ctx)).timed = recordWord k.status k.detail true false k.value := by
    change ((Core.setCtx _ _ _).ctxAt _).timed = _
    rw [ctxAt_setCtx]
  have noted : u.core k.core = record (s.core k.core) :=
    core_modCore_same (ne_init_of_timed (r := ctxNo k.ctx) (by rw [timed]; exact recordWord_ne_zero _ _ _))
  have kept : ((heardFlags k (u.core k.core)).ctxAt (ctxNo k.ctx)).timed = recordWord k.status k.detail true false k.value := by
    rw [ctxAt_heardFlags batch, noted, timed]
  have last : t.core k.core = heardFlags k (u.core k.core) := by
    rw [ended]
    exact core_modCore_same (s := u.dropCmd k.id) (ne_init_of_timed (r := ctxNo k.ctx) (by
      change ((heardFlags k (u.core k.core)).ctxAt _).timed ≠ 0
      rw [kept]
      exact recordWord_ne_zero _ _ _))
  refine ⟨fun j hj => ?_, by rw [ended]; rfl, by rw [last]; exact kept⟩
  rw [ended] at hj
  exact bne_iff_ne.mp (List.mem_filter.mp hj).2

/-! The end of a routing command (R213, R214). -/

/-- What a routing command computes: its writes, its flags and the value of its record. -/
def routed (k : Cmd) : RtMem × Flags × Nat :=
  let seen : RtMem := ⟨SMap.get [] k.data 0, []⟩
  match k.instr with
  | .rtopk _ => ((rtTopk k.block k.force seen).1, (rtTopk k.block k.force seen).2, 0)
  | .rcap _ => ((rtCap k.block seen).1, 0, (rtCap k.block seen).2)
  | _ => (rtDisp k.block seen, 0, 0)

/-- A routing command as it ends. -/
def routedCmd (k : Cmd) : Cmd := { k with flags := (routed k).2.1, value := BitVec.ofNat 32 (routed k).2.2 }

theorem exec_routingComplete {s : State} {n cmd : Nat} {k : Cmd} (hn : n < 768) (h : s.cmd cmd = some k) (runs : k.stage = .running) (whole : k.lost = [])
    (alive : k.dead = false) : exec (.routingComplete n cmd) s = .next ((s.engineWrite k (routed k).1.out).finishTimed (routedCmd k)) := by
  change execRoutingComplete n cmd s = _
  unfold execRoutingComplete routedCmd routed
  rw [if_neg (by omega), h]
  dsimp only
  rw [if_neg (by rw [runs]; decide), alive, whole]
  cases k.instr <;> rfl

/-- Its outputs become visible at once, it leaves, and its record stands, where nothing is in error. -/
theorem routingComplete_quiet {s : State} {n cmd : Nat} {k : Cmd} (hn : n < 768) (h : s.cmd cmd = some k) (runs : k.stage = .running) (whole : k.lost = [])
    (batch : k.batch = .none) (alive : k.dead = false) (parity : s.parity = []) (flips : s.flips = []) (buses : ∀ t, s.busRefuses k.core t = none)
    (unsaved : ∀ b, k.bind = some b → (s.launch b).saved = []) :
    let kept := ((routed k).1.out.filter fun b => s.inSlice b.1).map fun b => (nearBase + b.1, b.2)
    kept ≠ [] → ∃ t, exec (.routingComplete n cmd) s = .next t ∧ gone t cmd ∧ t.memPend = s.memPend ++ [⟨s.clock, s.clock, 0, coreCount, kept⟩] ∧
      ((t.core k.core).ctxAt (BitVec.ofNat 3 k.ctx)).timed = recordWord k.status k.detail true false (BitVec.ofNat 32 (routed k).2.2) := by
  intro kept output
  obtain ⟨u, stands, written⟩ := engineWrite_quiet parity flips buses (routed k).1.out
  let v := u.addMemNow kept
  have frame : v = { u with memPend := v.memPend, agenda := v.agenda } := State.addMem_eq u u.clock u.clock 0 kept coreCount
  have pend : v.memPend = s.memPend ++ [⟨s.clock, s.clock, 0, coreCount, kept⟩] := by
    obtain ⟨added, -⟩ := State.addMem_spec u u.clock u.clock 0 kept coreCount
    refine added.trans ((if_neg (by simpa using output)).trans ?_)
    rw [stands.frame]
  have binds (b : Nat) : v.launch b = s.launch b := by rw [frame, stands.frame]; rfl
  have named : k.id = cmd := beq_iff_eq.mp (List.find?_some (p := fun x : Cmd => x.id == cmd) h)
  obtain ⟨left, due, record⟩ := finishTimed_spec (s := v) (k := routedCmd k) batch fun b hb => (congrArg Launch.saved (binds b)).trans (unsaved b hb)
  have answered := exec_routingComplete hn h runs whole alive
  rw [written] at answered
  exact ⟨_, answered, named ▸ left, due.trans pend, record⟩

end Sys2Proof.Claim
end

section
namespace Sys2Proof.Claim
open Sys2Proof Sys2Proof.Machine

/-- A claim that passes leaves its bytes with the instruction, and nothing due to memory. -/
theorem operandAccs_claimed {s : State} {n op : Nat} {m : MOp} (h : (s.core n).mop op = some m) (step : Nat) (isB : Bool) :
    let t := operandAccs (s.setCore n ((s.core n).setMop (claimed s n m step isB))) n m (claimRuns s n m step isB)
    (t.core n).mop op = some (claimed s n m step isB) ∧ t.memPend = s.memPend := by
  intro t
  let v := s.setCore n ((s.core n).setMop (claimed s n m step isB))
  have frame : t = { v with accs := t.accs, agenda := t.agenda } := operandAccs_frame v n m _
  obtain ⟨id, -⟩ := mop_eq_some h
  have placed : ((s.core n).setMop (claimed s n m step isB)).mop op = some (claimed s n m step isB) :=
    mop_setMop h (by unfold claimed; cases isB <;> exact id)
  have held : v.core n = (s.core n).setMop (claimed s n m step isB) := State.core_setCore_same_of_ne s n _ (ne_init_of_mop placed)
  have core : t.core n = v.core n := by rw [frame]; rfl
  exact ⟨by rw [core, held]; exact placed, by rw [frame]; rfl⟩

theorem matrixDone_spec (s : State) (n : Nat) (m : MOp) :
    let r := mopResult s n m
    let c := matrixDone s n m
    (∀ x ∈ c.mops, x.id ≠ m.id) ∧ c.rows = ((s.core n).writeTiles m.tiles r.1).rows ∧ c.s = (s.core n).s ∧
      (r.2 = 0 → c.flagsA = (s.core n).flagsA) ∧ c.flagsA = (s.core n).flagsA ||| BitVec.ofNat 64 (r.2.toNat * 2 ^ 42) := by
  intro r c
  obtain ⟨rows, regs, flags⟩ := matrixWritten_spec s n m
  obtain ⟨rows', regs', raised⟩ := raise_matrix (matrixWritten s n m) r.2 m.addr m.stamp
  have sticky : c.flagsA = (s.core n).flagsA ||| BitVec.ofNat 64 (r.2.toNat * 2 ^ 42) := raised.trans (by rw [flags])
  refine ⟨fun x hx => id_ne_of_mem_mopsAfter hx, rows'.trans rows, regs'.trans regs, fun none => ?_, sticky⟩
  rw [sticky, none]
  simp

/-- Settles O52: claims and rows by what `exec` leaves of them, the end of a matrix instruction by `matrixDone`, translations by their two cycles, and routing
commands by `routingComplete_quiet`. -/
theorem matrixTranslationRoutingEvents : Obligations.MatrixTranslationRoutingEvents := by
  unfold Obligations.MatrixTranslationRoutingEvents
  refine ⟨fun n op step isB s m o hn h alive instr => ?claim, fun n op row s m o hn hr h alive => ⟨fun instr unchanged => ?save, fun instr unchanged => ?load⟩,
    fun n op s m hn canon h alive => ?done, fun n x s acc va hn hx waits => ?result, fun n x at_ s acc va hn hx walks waits => ?walk,
    fun n cmd s k hn h runs whole batch alive parity flips buses unsaved => ?routing⟩
  case claim =>
    intro kc x runs
    have answered := exec_mmaOperandClaim hn h alive instr step isB
    have depth : mopK m.instr = o.k.toNat := by rw [instr]; rfl
    have same : claimRuns s n m step isB = runs := by
      change clipRuns _ (Operand.runs _ _ (min _ (mopK m.instr))) = _
      rw [depth]
    rw [← same]
    refine ⟨fun passes => ?_, fun refused => ?_⟩
    · rw [if_neg (Bool.eq_false_iff.mp passes)] at answered
      obtain ⟨held, pend⟩ := operandAccs_claimed h step isB
      exact ⟨_, _, answered, held, pend, rfl⟩
    · rw [if_pos refused] at answered
      obtain ⟨stopped, late⟩ := missOperand_spec h
      exact ⟨_, _, answered, stopped, rfl, late⟩
  case save =>
    obtain ⟨mem, pend⟩ := savedRows_spec s n row m o.low _ (rowAccs_frame s n m true _) (m.base + (if s.half n then 136 else 72))
    obtain ⟨id, -⟩ := mop_eq_some h
    refine ⟨_, exec_rowClaim_msave hn hr h alive instr unchanged, mem, pend.trans ?_⟩
    rw [id]
    unfold savedBytes
    simp only [Nat.add_assoc]
    rfl
  case load =>
    obtain ⟨u, frame, answered⟩ := exec_rowClaim_mload hn hr h alive instr unchanged
    obtain ⟨mem, pend, held, shape, read⟩ := loadedRows_spec h frame (loadedBytes s n m o.low) (usedRows s n row m o.low)
    refine ⟨_, _, answered, mem, pend, held, shape, fun w r hr k hk => ?_⟩
    rw [read w r hr]
    exact get_loadedBytes s n m o.low r hk
  case done =>
    obtain ⟨-, wf⟩ := canon
    obtain ⟨id, -⟩ := mop_eq_some h
    obtain ⟨left, rows, regs, quiet, sticky⟩ := matrixDone_spec s n m
    have own : (s.setCore n (matrixDone s n m)).core n = matrixDone s n m := State.core_setCore_same s n _ wf
    refine ⟨_, exec_matrixWriteComplete hn h alive, ?_, fun k hk => State.core_setCore_other s n k _ wf hk, rfl, ?_, ?_, ?_, ?_, fun o instr x hx => ?_,
      fun o instr i j hi hj => ?_⟩
    · rw [own, ← id]
      exact left
    · rw [own]
      exact rows
    · rw [own]
      exact regs
    · rw [own]
      exact quiet
    · rw [own]
      exact sticky
    · rw [mopResult_mzero instr] at hx
      exact List.eq_of_mem_replicate hx
    · rw [mopResult_mtrn instr]
      exact tileElem_mtrnResult o _ hi hj
  case result => exact xlatResult_now hn hx waits
  case walk => exact xlatResult_walk hn hx walks waits
  case routing =>
    have done := routingComplete_quiet hn h runs whole batch alive parity flips buses unsaved
    refine fun o => ⟨fun instr => ?_, fun instr => ?_, fun instr => ?_⟩
    all_goals
      unfold routed at done
      rw [instr] at done
      exact done

end Sys2Proof.Claim
end
